-- ==== Sys2Proof/Word.lean ====
section
/-! DEFINITION. The word types of the AV96: what the manual numbers as bits, and the 96 lanes of a vector register
(spec 01 R11, R14, R16). -/

namespace Sys2Proof

/-- A 32-bit register (01 R12, R14, R17). -/
abbrev Word := BitVec 32

/-- One byte of memory. -/
abbrev Byte := BitVec 8

/-- One bit per lane, lane 0 lowest (01 R21). -/
abbrev Mask := BitVec 96

/-- The 96 lane values of a vector register or of a 384-byte queue entry, lane 0 first (01 R16, R26). -/
abbrev Lanes := List Word

end Sys2Proof
end

