-- ==== Sys2Proof/Syntax.lean ====
section
/-! DEFINITION. The rows of spec/opcode_table.json: the instructions of the two streams, with the fields of their encodings
(spec 02), and the steps that agents of the device or an outside party take (spec 95). One constructor per row. -/

namespace Sys2Proof

/-- A C-stream source operand as its kind and number (02 R62): a vector register, a uniform register, a queue (pop 0-4,
peek 8-12) or a constant (0 the clause constant, 256-511 an inline integer). -/
inductive Src where
  | v (n : BitVec 9)
  | c (n : BitVec 9)
  | queue (n : BitVec 9)
  | konst (n : BitVec 9)
  deriving DecidableEq, Repr

/-- A C-stream destination as its kind and number (02 R64): a vector register or predicate, a uniform register, a queue
(0 XQ, 1 SDQ0, 2 SDQ1, 3 BQ), or discard (0). -/
inductive Dst where
  | v (n : BitVec 9)
  | c (n : BitVec 9)
  | queue (n : BitVec 9)
  | none (n : BitVec 9)
  deriving DecidableEq, Repr

/-- The guard, cache hint and scheduling hints of a C-stream word (02 R61, R65, R66). -/
structure Ctl where
  ga : BitVec 4
  gb : BitVec 4
  gc : BitVec 1
  ch : BitVec 3
  stall : BitVec 4
  yld : BitVec 1
  reuse : BitVec 2
  deriving DecidableEq, Repr

/-- An error that the check channel of an array meets in one row's sums (03 R100): the column, the residue channel 1-3 and
the amount added to it. It comes from outside: hardware that works raises none. -/
structure ResidueError where
  col : Nat
  chan : Nat
  delta : Int
  deriving DecidableEq, Repr

/-- Who reads what an error has hit (14 R373): an operation of a group in flight, by its number, or a stream at its instruction (a split
0-3, or 4 for the A-stream). -/
inductive Reader where
  | op (id : Nat)
  | stream (k : Nat)
  deriving DecidableEq, Repr

/-- Where a memory error was found (14 R373): an L1 line of a core, an L2 line of a slice, an SRAM or memory as a group's reader read it, a
late store of a group, control state of a block, or a Stereotype bitmap as a surface shows it. -/
inductive SramSite where
  | l1 (core set way : Nat)
  | l2 (slice set way : Nat)
  | reader (gid : Nat) (r : Reader)
  | lateStore (gid : Nat) (pc : Word)
  | control (block unit : Nat)
  | bitmap (profile entry surf : Nat)
  | memory (gid : Nat) (r : Reader)
  deriving DecidableEq, Repr

/-- One row of the opcode table each. A-stream fields are those of 02 R50-R58, C-stream fields those of 02 R61-R72 and of
each instruction's entry. An event of one group acts on the group and split whose turn it is; other parameters name the
operation, port, quad, queue, launch or surface concerned. -/
inductive Instr where
  -- A-stream integer (04 R117, R118)
  | add (d a b : BitVec 6)
  | sub (d a b : BitVec 6)
  | and (d a b : BitVec 6)
  | or (d a b : BitVec 6)
  | xor (d a b : BitVec 6)
  | andn (d a b : BitVec 6)
  | shlA (d a b : BitVec 6)
  | shrA (d a b : BitVec 6)
  | sra (d a b : BitVec 6)
  | rot (d a b : BitVec 6)
  | slt (d a b : BitVec 6)
  | sltu (d a b : BitVec 6)
  | min (d a b : BitVec 6)
  | max (d a b : BitVec 6)
  | minu (d a b : BitVec 6)
  | maxu (d a b : BitVec 6)
  | mul (d a b : BitVec 6)
  | mulh (d a b : BitVec 6)
  | mulhu (d a b : BitVec 6)
  | div (d a b : BitVec 6)
  | divu (d a b : BitVec 6)
  | rem (d a b : BitVec 6)
  | remu (d a b : BitVec 6)
  | clzA (d a : BitVec 6)
  | popcA (d a : BitVec 6)
  | brevA (d a : BitVec 6)
  | sextb (d a : BitVec 6)
  | sexth (d a : BitVec 6)
  | bfeA (d a b : BitVec 6)
  | bfiA (d a b : BitVec 6)
  | addi (d a : BitVec 6) (imm : BitVec 14)
  | andi (d a : BitVec 6) (imm : BitVec 14)
  | ori (d a : BitVec 6) (imm : BitVec 14)
  | xori (d a : BitVec 6) (imm : BitVec 14)
  | slti (d a : BitVec 6) (imm : BitVec 14)
  | sltiu (d a : BitVec 6) (imm : BitVec 14)
  | shli (d a : BitVec 6) (sh : BitVec 5)
  | shri (d a : BitVec 6) (sh : BitVec 5)
  | srai (d a : BitVec 6) (sh : BitVec 5)
  | roti (d a : BitVec 6) (sh : BitVec 5)
  | lui (d : BitVec 6) (imm : BitVec 20)
  | muli (d a : BitVec 6) (imm : BitVec 14)
  -- A-stream branches and calls (04 R119)
  | beq (a b : BitVec 6) (off : BitVec 14)
  | bne (a b : BitVec 6) (off : BitVec 14)
  | blt (a b : BitVec 6) (off : BitVec 14)
  | bge (a b : BitVec 6) (off : BitVec 14)
  | bltu (a b : BitVec 6) (off : BitVec 14)
  | bgeu (a b : BitVec 6) (off : BitVec 14)
  | jal (d : BitVec 6) (imm : BitVec 20)
  | jalr (d a : BitVec 6) (imm : BitVec 14)
  | dbnz (a : BitVec 6) (off : BitVec 14)
  -- feeding the C-stream (04 R121, R122)
  | cls (imm : BitVec 20)
  | clsr (a : BitVec 6)
  | spush (a : BitVec 6)
  | bpop (d : BitVec 6)
  -- A-stream memory (04 R129-R138)
  | ldv (byp : BitVec 1) (ord : BitVec 3) (q : BitVec 2) (k : BitVec 5) (ai : BitVec 6) (off : BitVec 9)
  | ldg (byp : BitVec 1) (ord : BitVec 3) (q : BitVec 2) (k : BitVec 5) (ai : BitVec 6) (off : BitVec 9)
  | stv (ord : BitVec 3) (q : BitVec 2) (k : BitVec 5) (ai : BitVec 6) (off : BitVec 9)
  | stx (ord : BitVec 3) (q : BitVec 2) (k : BitVec 5) (ai : BitVec 6) (off : BitVec 9)
  | lda (d : BitVec 6) (k : BitVec 5) (ai : BitVec 6) (ord : BitVec 3) (off : BitVec 6)
  | sta (v : BitVec 6) (k : BitVec 5) (ai : BitVec 6) (ord : BitVec 3) (off : BitVec 6)
  | prf (l2 : BitVec 1) (k : BitVec 5) (ai : BitVec 6) (off : BitVec 9)
  | atv (op : BitVec 4) (q : BitVec 2) (k : BitVec 5) (ret : BitVec 1) (sdq : BitVec 1) (ord : BitVec 2)
      (scope : BitVec 3)
  | ata (op : BitVec 4) (d : BitVec 6) (k : BitVec 5) (ai x y : BitVec 6) (ord : BitVec 2) (scope : BitVec 3)
  -- records and copies (04 R123-R125, R139-R141)
  | bld (r : BitVec 5) (a : BitVec 6) (imm : BitVec 14)
  | bset (r : BitVec 5) (a : BitVec 6) (fn : BitVec 8)
  | tld (r : BitVec 4) (a : BitVec 6) (imm : BitVec 14)
  | cpyBar (src dst : BitVec 4) (c : BitVec 6) (nb : BitVec 10) (scope opt : BitVec 3)
  | cpyCnt (src dst : BitVec 4) (c k : BitVec 6) (scope opt : BitVec 3)
  -- waiting, barriers, fences (04 R142-R147)
  | cwait (a b : BitVec 6)
  | yieldc (a b : BitVec 6)
  | binit (a : BitVec 6) (nb : BitVec 10)
  | barv (nb : BitVec 10)
  | bwaita (nb : BitVec 10)
  | barvw (nb : BitVec 10)
  | bexp (a : BitVec 6) (nb : BitVec 10)
  | btry (d : BitVec 6) (nb : BitVec 10)
  | fenceAcq (scope : BitVec 3) (eng : BitVec 1)
  | fenceRel (scope : BitVec 3) (eng : BitVec 1)
  | fenceAcqrel (scope : BitVec 3) (eng : BitVec 1)
  -- matrix engine, coverage (07 R218-R235)
  | mxbind (vb : BitVec 9) (fa fb : BitVec 5) (dist : BitVec 1) (fo : BitVec 5) (tiles : BitVec 2) (prio : BitVec 3)
      (q : BitVec 2) (nb : BitVec 10)
  | mxloop (ta : BitVec 4) (c : BitVec 6) (z : BitVec 2) (ks : BitVec 12) (mr : BitVec 5) (o : BitVec 4)
      (ob : BitVec 6) (acc : BitVec 1) (epi : BitVec 4)
  | mxconv (ti tc : BitVec 4) (c : BitVec 6) (z : BitVec 2) (ks : BitVec 12) (mr : BitVec 5) (o : BitVec 4)
      (ob : BitVec 6) (acc : BitVec 1) (epi : BitVec 4)
  | mxsel (z : BitVec 2) (k : BitVec 5) (big : BitVec 1) (o : BitVec 4) (ob : BitVec 6)
  | mxrel
  | mxstat (d : BitVec 6)
  | cover (eo : BitVec 1) (bs : BitVec 5) (f k : BitVec 6) (t : BitVec 4) (o : BitVec 6) (nb : BitVec 10)
  -- work-graph records (04 R148), tile store (07 R236)
  | ralloc (d a b : BitVec 6)
  | rcommit (a b : BitVec 6)
  | rdone (a : BitVec 6)
  | rinput (d a : BitVec 6)
  | rdepth (d : BitVec 6)
  | tstore (ts td : BitVec 4) (p : BitVec 6) (nb : BitVec 10) (sig : BitVec 14)
  -- WAITF and the SYS forms (04 R143, R149)
  | waitf (mask : BitVec 12)
  | nop
  | rdsr (d : BitVec 6) (idx : BitVec 10)
  | wrsr (a : BitVec 6) (idx : BitVec 10)
  | trap (code : BitVec 10)
  | tret
  | exit
  | yield
  | csync
  | haltd
  | rdtime (d : BitVec 6)
  -- C-stream binary32 (05 R156-R160)
  | fadd (rm : BitVec 2) (ftz : BitVec 1) (d : Dst) (a b : Src) (x : Ctl)
  | fsub (rm : BitVec 2) (ftz : BitVec 1) (d : Dst) (a b : Src) (x : Ctl)
  | fmul (rm : BitVec 2) (ftz : BitVec 1) (d : Dst) (a b : Src) (x : Ctl)
  | ffma (rm : BitVec 2) (ftz : BitVec 1) (d : Dst) (a b c : Src) (x : Ctl)
  | fmin (ftz : BitVec 1) (d : Dst) (a b : Src) (x : Ctl)
  | fmax (ftz : BitVec 1) (d : Dst) (a b : Src) (x : Ctl)
  | fminn (ftz : BitVec 1) (d : Dst) (a b : Src) (x : Ctl)
  | fmaxn (ftz : BitVec 1) (d : Dst) (a b : Src) (x : Ctl)
  | fset (cnd : BitVec 4) (ftz : BitVec 1) (d : Dst) (a b : Src) (x : Ctl)
  | fclamp (ftz : BitVec 1) (d : Dst) (a lo hi : Src) (x : Ctl)
  | frnd (rm : BitVec 2) (ftz : BitVec 1) (d : Dst) (a : Src) (x : Ctl)
  | fclass (d : Dst) (a : Src) (x : Ctl)
  | fldexp (rm : BitVec 2) (ftz : BitVec 1) (d : Dst) (a n : Src) (x : Ctl)
  | fexpo (ftz : BitVec 1) (d : Dst) (a : Src) (x : Ctl)
  | fdiv (rm : BitVec 2) (ftz : BitVec 1) (d : Dst) (a b : Src) (x : Ctl)
  | fsqrt (rm : BitVec 2) (ftz : BitVec 1) (d : Dst) (a : Src) (x : Ctl)
  | frcp (d : Dst) (a : Src) (x : Ctl)
  | frsq (d : Dst) (a : Src) (x : Ctl)
  | fexp2 (d : Dst) (a : Src) (x : Ctl)
  | flog2 (d : Dst) (a : Src) (x : Ctl)
  | fsin (d : Dst) (a : Src) (x : Ctl)
  | fcos (d : Dst) (a : Src) (x : Ctl)
  | flerp (rm : BitVec 2) (ftz : BitVec 1) (d : Dst) (a b t : Src) (x : Ctl)
  | fdot3 (rm : BitVec 2) (ftz : BitVec 1) (d : Dst) (a b : Src) (x : Ctl)
  -- packed F16 and BF16 (05 R161-R163)
  | hadd2 (bf : BitVec 1) (rm : BitVec 2) (ftz : BitVec 1) (d : Dst) (a b : Src) (x : Ctl)
  | hmul2 (bf : BitVec 1) (rm : BitVec 2) (ftz : BitVec 1) (d : Dst) (a b : Src) (x : Ctl)
  | hfma2 (bf : BitVec 1) (rm : BitVec 2) (ftz : BitVec 1) (d : Dst) (a b c : Src) (x : Ctl)
  | hmin2 (bf : BitVec 1) (ftz : BitVec 1) (d : Dst) (a b : Src) (x : Ctl)
  | hmax2 (bf : BitVec 1) (ftz : BitVec 1) (d : Dst) (a b : Src) (x : Ctl)
  | hset2 (cnd : BitVec 4) (bf : BitVec 1) (ftz : BitVec 1) (comb : BitVec 2) (d : Dst) (a b : Src) (x : Ctl)
  | hdot2 (bf : BitVec 1) (rm : BitVec 2) (ftz : BitVec 1) (d : Dst) (a b c : Src) (x : Ctl)
  -- integers (05 R164-R169)
  | iadd (u sat : BitVec 1) (d : Dst) (a b : Src) (x : Ctl)
  | isub (u sat : BitVec 1) (d : Dst) (a b : Src) (x : Ctl)
  | imul (u sat : BitVec 1) (d : Dst) (a b : Src) (x : Ctl)
  | imad (u sat : BitVec 1) (d : Dst) (a b c : Src) (x : Ctl)
  | imulh (u : BitVec 1) (d : Dst) (a b : Src) (x : Ctl)
  | imin (u : BitVec 1) (d : Dst) (a b : Src) (x : Ctl)
  | imax (u : BitVec 1) (d : Dst) (a b : Src) (x : Ctl)
  | iabs (sat : BitVec 1) (d : Dst) (a : Src) (x : Ctl)
  | iadd3 (u sat : BitVec 1) (d : Dst) (a b c : Src) (x : Ctl)
  | iset (cnd : BitVec 3) (u : BitVec 1) (d : Dst) (a b : Src) (x : Ctl)
  | ltab (tbl : BitVec 8) (d : Dst) (a b c : Src) (x : Ctl)
  | shl (d : Dst) (a b : Src) (x : Ctl)
  | shr (d : Dst) (a b : Src) (x : Ctl)
  | shra (d : Dst) (a b : Src) (x : Ctl)
  | shf (d : Dst) (a b c : Src) (x : Ctl)
  | bfe (d : Dst) (a b : Src) (x : Ctl)
  | bfes (d : Dst) (a b : Src) (x : Ctl)
  | bfi (d : Dst) (a b c : Src) (x : Ctl)
  | popc (d : Dst) (a : Src) (x : Ctl)
  | clz (d : Dst) (a : Src) (x : Ctl)
  | brev (d : Dst) (a : Src) (x : Ctl)
  | idp4 (u ub sat : BitVec 1) (d : Dst) (a b c : Src) (x : Ctl)
  | idp2 (u ub sat : BitVec 1) (d : Dst) (a b c : Src) (x : Ctl)
  | isad (u sat : BitVec 1) (d : Dst) (a b c : Src) (x : Ctl)
  | iclamp (u : BitVec 1) (d : Dst) (a lo hi : Src) (x : Ctl)
  -- conversions and residues (05 R170-R174)
  | cvt (dt : BitVec 5) (rm : BitVec 2) (sat : BitVec 1) (ftz : BitVec 1) (st : BitVec 5) (d : Dst) (a : Src) (x : Ctl)
  | pack (dt : BitVec 5) (rm : BitVec 2) (sat : BitVec 1) (ftz : BitVec 1) (st : BitVec 5) (d : Dst) (a b c e : Src)
      (x : Ctl)
  | unpk (st : BitVec 5) (j : BitVec 3) (d : Dst) (a : Src) (x : Ctl)
  | rnenc (u : BitVec 1) (d : Dst) (a : Src) (x : Ctl)
  | rndec (u : BitVec 1) (d : Dst) (a : Src) (x : Ctl)
  | rnmad (d : Dst) (a b c : Src) (x : Ctl)
  -- lanes (06 R179-R186)
  | mov (d : Dst) (a : Src) (x : Ctl)
  | sel (pr : BitVec 3) (neg : BitVec 1) (d : Dst) (a b : Src) (x : Ctl)
  | perm (act : BitVec 1) (d : Dst) (a i f : Src) (x : Ctl)
  | shflup (w : BitVec 3) (act : BitVec 1) (d : Dst) (a n f : Src) (x : Ctl)
  | shfldn (w : BitVec 3) (act : BitVec 1) (d : Dst) (a n f : Src) (x : Ctl)
  | shflx (w : BitVec 3) (act : BitVec 1) (d : Dst) (a n f : Src) (x : Ctl)
  | shflr (w : BitVec 3) (act : BitVec 1) (d : Dst) (a n f : Src) (x : Ctl)
  | bcast (d : Dst) (a i : Src) (x : Ctl)
  | bcastf (d : Dst) (a : Src) (x : Ctl)
  | voteall (pr : BitVec 3) (neg : BitVec 1) (d : Dst) (x : Ctl)
  | voteany (pr : BitVec 3) (neg : BitVec 1) (d : Dst) (x : Ctl)
  | votesame (pr : BitVec 3) (neg : BitVec 1) (d : Dst) (x : Ctl)
  | voteballot (pr : BitVec 3) (neg : BitVec 1) (w : BitVec 2) (d : Dst) (x : Ctl)
  | reduce (op : BitVec 4) (ftz : BitVec 1) (rm : BitVec 2) (d : Dst) (a : Src) (x : Ctl)
  | scan (op : BitVec 4) (ftz : BitVec 1) (rm : BitVec 2) (ex : BitVec 1) (d : Dst) (a : Src) (x : Ctl)
  | matchany (w : BitVec 2) (d : Dst) (a : Src) (x : Ctl)
  | matchlead (d : Dst) (a : Src) (x : Ctl)
  | matchall (d : Dst) (a : Src) (x : Ctl)
  | regroup (c : BitVec 5) (n : BitVec 2) (d : Dst) (key : Src) (x : Ctl)
  | sreg (sel : BitVec 3) (d : Dst) (x : Ctl)
  -- queues and predicates (06 R190-R195)
  | pop (n : BitVec 4) (q : Src) (x : Ctl)
  | drop (d : Dst) (q : Src) (x : Ctl)
  | push (n : BitVec 2) (d : Dst) (x : Ctl)
  | pltab (tbl : BitVec 8) (d : Dst) (a b c : Src) (x : Ctl)
  | pmov (toPred : BitVec 1) (pr : BitVec 3) (d : Dst) (a : Src) (x : Ctl)
  | pmovw (toPred : BitVec 1) (w : BitVec 2) (pr : BitVec 3) (d : Dst) (a : Src) (x : Ctl)
  -- control of the C-stream (06 R196-R208)
  | brd (join target : BitVec 22) (x : Ctl)
  | jmp (target : BitVec 22) (x : Ctl)
  | join (x : Ctl)
  | endc (x : Ctl)
  | callc (target : BitVec 22) (x : Ctl)
  | retc (x : Ctl)
  | kill (x : Ctl)
  | nopc (x : Ctl)
  | tfence (x : Ctl)
  | bwait (a : Src) (x : Ctl)
  | barvc (a : Src) (x : Ctl)
  | ctrap (code : BitVec 8) (x : Ctl)
  -- near memory (06 R209-R214)
  | ldl (size : BitVec 3) (acq : BitVec 1) (fl : BitVec 1) (d : Dst) (a b : Src) (x : Ctl)
  | stl (size : BitVec 3) (rel : BitVec 1) (a b c : Src) (x : Ctl)
  | lds (size : BitVec 3) (acq : BitVec 1) (fl : BitVec 1) (d : Dst) (a b : Src) (x : Ctl)
  | sts (size : BitVec 3) (rel : BitVec 1) (a b c : Src) (x : Ctl)
  | atoms (op : BitVec 4) (ret : BitVec 1) (ord : BitVec 2) (fl : BitVec 1) (d : Dst) (a b c e : Src) (x : Ctl)
  | ldc (size : BitVec 3) (acq : BitVec 1) (fl : BitVec 1) (d : Dst) (a b : Src) (x : Ctl)
  | stc (size : BitVec 3) (rel : BitVec 1) (a b c : Src) (x : Ctl)
  | atomc (op : BitVec 4) (ret : BitVec 1) (ord : BitVec 2) (fl : BitVec 1) (d : Dst) (a b c e : Src) (x : Ctl)
  -- sampler, traversal, feeds (07 R225, R238-R244)
  | sample (addr filt : BitVec 2) (t : BitVec 4) (fl : BitVec 1) (d : Dst) (a lod : Src) (x : Ctl)
  | gath4 (addr chan : BitVec 2) (t : BitVec 4) (fl : BitVec 1) (d : Dst) (a lod : Src) (x : Ctl)
  | trace (modf : BitVec 3) (b : BitVec 5) (fl : BitVec 1) (d : Dst) (ray s root mask : Src) (x : Ctl)
  | tresume (b : BitVec 5) (fl : BitVec 1) (d : Dst) (ray s : Src) (x : Ctl)
  | treport (d : Dst) (s t w : Src) (x : Ctl)
  | tcand (d : Dst) (s : Src) (x : Ctl)
  | tquery (d : Dst) (s : Src) (x : Ctl)
  | tabort (s : Src) (x : Ctl)
  | mxfeed (fl : BitVec 1) (x : Ctl)
  -- steps at issue
  | illegalInstruction (cside : Bool) (code bit : Nat) (word : BitVec 96)
  | fetchFault (cside : Bool) (va level : Nat) (perm : Bool)
  | hostBreak
  | hostDebugControl
  | writePerformed (op : Nat)
  -- steps of the C-stream control
  | clauseStart
  | regionEntry
  | parkedJoinTimeout
  -- steps of memory
  | loadComplete (op : Nat)
  | scalarAccessReturn (op : Nat)
  | recordLoadComplete (op : Nat)
  | xqOperationPerform (op : Nat)
  | storePerform (op : Nat)
  | nearMemoryComplete (op : Nat)
  | sampleComplete (op : Nat)
  | traversalComplete (op : Nat)
  | copyComplete (op : Nat)
  | coverComplete (op : Nat)
  | tstoreComplete (op : Nat)
  | engineFault (op : Nat)
  | translationWalk (vf va acc : Nat) (sup : Bool)
  -- steps of the matrix engine
  | sessionForm (quad : Nat)
  | passGrant (quad : Nat)
  | surgeGrant (quad : Nat)
  | stepStart (quad : Nat)
  | rowDecode (quad array : Nat) (err : Option ResidueError)
  | passComplete (quad : Nat)
  | topkSelect (quad entry : Nat)
  -- steps of traps and pre-emption
  | trapEntry
  | decouplingDeadlock
  | lateStoreError (pc : Word)
  | shadowReplay
  | yieldcWake
  | quadPreempt (quad : Nat)
  | groupSave
  | forcedFullSave
  | preemptComplete (quad : Nat)
  | groupRestore
  -- steps of the scheduler
  | notify (port : Nat) (fn : Option Nat) (w : Word)
  | queueMap (q : Nat)
  | starvationEvent (q : Nat)
  | launchPacket (q : Nat)
  | teamPlace (l : Nat)
  | launchComplete (l : Nat)
  | launchOverrun (l : Nat)
  | launchWatchdog (l : Nat)
  | launchKill (l : Nat)
  | windowEndPreempt (p : Nat)
  | windowOpen (p : Nat)
  | rallocGrant (vf : Nat)
  | galleyTimeout (vf : Nat)
  -- steps of translation and frames
  | frameReclaim (f : Nat)
  | tlbInvalidationComplete (vf : Nat)
  | splinterComplete (vf : Nat)
  | granuleZeroFill
  -- steps of the display
  | surfaceTableRead
  | frameStart (surf : Nat)
  | scanoutLine (surf : Nat)
  | warpLatch (surf : Nat)
  | proofPoint (surf layer : Nat)
  -- steps of reliability and housekeeping
  | fennelPassStart (quad : Nat)
  | fennelPassEnd (quad : Nat) (sound : Bool)
  | sramCorrectedError (site : SramSite)
  | sramUncorrectableError (site : SramSite)
  | memoryScrub
  | thermalTrip (degrees : Nat)
  | coolantHot (hot : Bool)
  | housekeepingWatchdog
  -- steps of the hosts and links
  | hostMemoryWrite (port pa : Nat) (bytes : List Byte)
  | linkFlitReceive (port : Nat) (sound : Bool) (pa : Nat) (bytes : List Byte)
  | linkReplayLimit (port trained : Nat)
  | lretrain (port : Nat) (w : Word)
  | portReset (port : Nat)
  | deviceReset
  | semAcquire (port : Nat)
  | semRelease (port : Nat) (w : Word)
  | vfmapWrite (port : Nat) (hi : Bool) (w : Word)
  | pwrcapWrite (port : Nat) (w : Word)
  | qtbaseWrite (port : Nat) (hi : Bool) (w : Word)
  | partitionWrite (port p word : Nat) (w : Word)
  | windowTableWrite (port idx : Nat) (w : Word)
  | grant (port : Nat) (w : Word)
  | tlbinv (port vf : Nat) (hi : Bool) (w : Word)
  | splinter (port vf : Nat) (hi : Bool) (w : Word)
  | framePoolWrite (port which : Nat) (w : Word)
  | prqheadWrite (port : Nat) (w : Word)
  | safesetWrite (port which : Nat) (w : Word)
  | retest (port : Nat) (w : Word)
  | colophonUnfreeze (port : Nat) (w : Word)
  | registerWrite (port off : Nat) (w : Word)
  deriving DecidableEq, Repr

end Sys2Proof
end

