-- ==== Sys2Proof/Machine/State.lean ====
section
/-! DEFINITION. The state of the AV96 as plain data: everything spec 01 R11, the launch, team, engine, memory, register,
display and reliability chapters give the machine, and the model's own agenda (INVENTORY.md, State). -/

namespace Sys2Proof.Machine

/-- A table by key: keys strictly rising. -/
abbrev Tbl (α : Type) := List (Nat × α)

/-- Memory as address and byte pairs, addresses strictly rising, no byte equal to 0 listed (an unlisted address reads 0:
15 R385 step 2, 09 R271; host and peer memory: notes/assumptions/4.md). -/
abbrev Memory := List Host.Cell

/-- Where bytes live once an address has been resolved (09 R269, 10 R291 TGT): device memory, host memory through a port,
peer memory, the chip scratchpad, a cluster's memory, a team's core scratchpad, a lane's slice. -/
inductive Space where
  | dev
  | host (port : Nat)
  | peer
  | chip
  | clu (cid : Nat)
  | core (tid : Nat)
  | lane (gid l : Nat)
  deriving DecidableEq, Repr

/-- One resolved byte address, with the L2 class of the page-table entry that mapped it (04 R128; general where none did); for an access
that writes through an entry whose D is still clear, the VF and the virtual address, since the write itself sets it (10 R291, R293). -/
structure Loc where
  space : Space
  addr : Nat
  cls : Nat := 3
  leaf : Option (Nat × Nat) := none
  deriving DecidableEq, Repr

/-- A trap cause: group, code, detail (08 R254), faulting VA and lanes (R252). -/
structure Cause where
  grp : Nat
  code : Nat
  detail : BitVec 96
  va : Nat
  lanes : Mask
  deriving DecidableEq, Repr

/-- What stands in a vector queue entry: reserved by a load in flight, filled, or a fault token (01 R26, 08 R249). -/
inductive Fill where
  | reserved
  | filled
  | token (c : Cause)
  deriving DecidableEq, Repr

/-- A vector queue entry (01 R26): 384 bytes, lane mask, fill, the operation that reserved it or that holds it, and the
operations that must be performed before it can be popped (09 R280). -/
structure VEntry where
  data : Lanes
  mask : Mask
  fill : Fill
  held : Bool
  op : Nat
  need : List Nat
  deriving DecidableEq, Repr

/-- A scalar queue entry (SVQ, CLQ, BQ) with the operations that must be performed before it can be popped. -/
structure SEntry where
  val : Word
  need : List Nat
  deriving DecidableEq, Repr

/-- The ten queues of a group (01 R26). -/
structure Queues where
  ldq : List (List VEntry)
  svq : List SEntry
  clq : List SEntry
  xq : List VEntry
  sdq0 : List VEntry
  sdq1 : List VEntry
  bq : List SEntry
  deriving DecidableEq, Repr

/-- Queues with nothing in them (08 R256 step 6). -/
def Queues.empty : Queues := { ldq := [[], [], [], []], svq := [], clq := [], xq := [], sdq0 := [], sdq1 := [], bq := [] }

/-- Why an agent waits (08 R245, R248): on a queue (its id of R254), a flag, a barrier or session, the compare of the
shadow (R267), or anything else. -/
inductive WaitKind where
  | queue (q : Nat)
  | flag
  | barrier
  | shadow
  | other
  deriving DecidableEq, Repr

/-- The state of a split (01 R31). -/
inductive SplitSt where
  | running
  | parkedJoin
  | parkedEnd
  deriving DecidableEq, Repr

/-- An entry of the split table (01 R31, R32; 06 R190, R198): position, header fields of the clause in progress, masks,
tag, stack (top first), POP count still owed, entries already popped by an instruction that waits, and since when it is
blocked or parked. -/
structure Split where
  idx : Nat
  slot : Nat
  hdr : Nat
  cnt : Nat
  kc : Word
  seta : Nat
  setb : Nat
  own : Mask
  act : Mask
  tag : Nat
  parent : Nat
  st : SplitSt
  stack : List (Nat × Mask)
  owed : Nat
  held : List (Nat × VEntry)
  blk : Option WaitKind
  since : Nat
  cmp : Bool
  noWait : Bool
  dropN : Option (Nat × Nat)
  deriving DecidableEq, Repr

/-- The record of a division tag (06 R198). -/
structure TagRec where
  join : Nat
  encl : Nat
  base : Nat
  alone : Bool
  deriving DecidableEq, Repr

/-- The C-side registers and splits of a group; the shadow holds a second copy (01 R11, 08 R266). `stuck` lists the stuck bits
of the physical rows that hold them, as register, lane, bit and value; hardware that works has none. -/
structure CSide where
  v : Tbl Lanes
  c : Tbl Word
  p : Tbl Mask
  splits : Tbl Split
  tags : Tbl TagRec
  present : Mask
  exited : Mask
  threadId : Lanes
  stuck : List (Nat × Nat × Nat × Bool)
  deriving DecidableEq, Repr

/-- A record register (01 R24, 04 R123, R139): its image, LOADED, and loads of it in flight. -/
structure Rec where
  img : BitVec 512
  loaded : Bool
  busy : Nat
  deriving DecidableEq, Repr

/-- What an in-flight memory operation of a group does when it is performed. Elements are (key, location) pairs: the key is
an element number or a lane. -/
inductive MemKind where
  /-- LDA (04 R134). -/
  | lda (d size : Nat) (sgn : Bool)
  /-- STA (04 R134). -/
  | sta (val : Word) (size : Nat)
  /-- ATA (04 R138), `win` the frame-window offset when the entry maps it (10 R299). -/
  | ata (d op : Nat) (x y : Word) (win : Option Nat)
  /-- LDV (04 R130). -/
  | ldv (q size : Nat) (l1 : Bool)
  /-- BLD and TLD (04 R125). -/
  | bld (r : Nat)
  | tld (r : Nat)
  /-- Near load (06 R212): first register, size, sign, flag. -/
  | near (d size : Nat) (sgn : Bool) (flag : Nat)
  /-- Near store: the words of each lane, lowest first. -/
  | nearStore (size : Nat) (data : List Lanes)
  /-- Near atomic. -/
  | nearAtom (d op : Nat) (ret : Bool) (flag : Nat) (x y : Lanes)
  deriving DecidableEq, Repr

/-- A memory operation issued and not yet performed (04 R113, R114): who issued it (split 0-3, or 4 for the A-stream), at
which PC, its resolved elements that have still to be accessed, what those already accessed returned (by key), and the scope codes
of its acquire and release (0 none). -/
structure MemOp where
  id : Nat
  who : Nat
  pc : Nat
  kind : MemKind
  els : List (Nat × Loc)
  got : List (Nat × Nat)
  acq : Nat
  rel : Nat
  deriving DecidableEq, Repr

/-- An operation of the memory unit's list (04 R132, 08 R260): the instruction as issued, its A-PC, record and first element
index at issue, whether it is held at a fault, the places of an operation whose checks have passed (R131) that it has still to access,
whether it has begun, what it has read (by key), and the bytes that later accesses of the A-stream have passed, as they were then
(09 R281). An operation that comes back from an image is checked again. -/
structure MuOp where
  id : Nat
  instr : Instr
  pc : Nat
  buf : BitVec 256
  first : Word
  held : Option Cause
  places : Option (List (Nat × Loc))
  begun : Bool
  got : List (Nat × Nat)
  passed : List (Loc × Byte)
  deriving DecidableEq, Repr

/-- A SAMPLE, GATH4, TRACE or TRESUME in flight (07 R238-R244), with its operands as read at issue, its lanes and those of them that
have still to be run, and the faulting lanes once it has stopped at a fault. -/
structure LaneOp where
  id : Nat
  split : Nat
  instr : Instr
  cpc : Nat
  flag : Nat
  lanes : Mask
  left : Mask
  vals : List Lanes
  img : BitVec 512
  resume : Bool
  faults : List (Nat × Cause)
  done : Bool
  deriving DecidableEq, Repr

/-- A step of the C-stream's control that the shadow follows: a region entered at an index, a split that meets a header
(parking or fusing there), a clause that starts with a header, and a parked split that resumes alone (08 R266). -/
inductive Ctl' where
  | region (idx : Nat)
  | arrive (w : BitVec 96)
  | start (w : BitVec 96)
  | alone
  deriving DecidableEq, Repr

/-- What the shadow has still to take from the leader (08 R266, R267): an issued instruction with its split, the popped entries, the
results that the leader's replay buffer holds (predicates as 1,000 on, C registers as 2,000 on), whether it waits for the compare, and the
word index and clause slot at which the leader's splits stood; or results that have come later; or a step of control. `op` is the
operation in flight that an instruction has issued, or whose results these are. -/
structure LogItem where
  split : Nat
  at_ : List (Nat × Nat × Nat)
  instr : Option Instr
  pops : List (Nat × VEntry)
  writes : List (Nat × Mask × Lanes)
  ctl : Option Ctl'
  cmp : Bool
  op : Nat := 0
  deriving DecidableEq, Repr

/-- The trailing shadow (08 R266): its side, what it has still to take, and the lanes in which it has executed the instructions whose
results are still to come, by operation. -/
structure Shadow where
  cs : CSide
  log : List LogItem
  late : Tbl Mask := []
  deriving DecidableEq, Repr

/-- A trap raised and not yet entered (08 R252, R256): cause, which streams stopped at a trap point, the split, the PCs of
the frame, the faulting instruction's PC and word, the POP count owed, the cause that a shadow mismatch displaced, and when it was
raised. -/
structure Pending where
  cause : Cause
  aside : Bool
  cside : Bool
  split : Nat
  apc : Nat
  cpc : Nat
  slot : Nat
  word : BitVec 96
  fpc : Nat
  pop : Nat
  displaced : Nat
  since : Nat := 0
  deriving DecidableEq, Repr

/-- Who a group is (01 R34, R43): its name in the machine, launch, cluster, team, index in the team, core position in the cluster, cluster
coordinates, core, slot, residence, first physical register, order of start, DIVERSE instance and Imposition tile. -/
structure Ident where
  gid : Nat
  lid : Nat
  cid : Nat
  tid : Nat
  groupIx : Nat
  teamPos : Nat
  clux : Nat
  cluy : Nat
  cluz : Nat
  lin : Nat
  core : Nat
  slot : Nat
  res : Nat
  vbase : Nat
  start : Nat
  inst : Nat
  tx : Nat
  ty : Nat
  deriving DecidableEq, Repr

/-- Special registers and trap state of a group (01 R34-R42, 08 R252-R259). A trap sets aside the memory unit's list, the operations in
flight that only this list lets be performed, the queues and the registers still to be waited for (05 R154, 17 R388) until TRET;
operations numbered below `asideId` were issued before it. -/
structure Sys where
  sticky : BitVec 5
  gten : BitVec 5
  timeHi : Word
  timeH : Word
  tframe : Word
  tveca : Word
  tvecc : Word
  save : Word
  tcg : Word
  tdx0 : Word
  tdx1 : Word
  tdx2 : Word
  priv : Bool
  wroteTvec : Bool
  frame : Bool
  muAside : List MuOp
  pendAside : List MemOp
  qAside : Queues
  uwAside : List (Nat × Nat × Nat)
  asideId : Nat
  deriving DecidableEq, Repr

/-- How the A-stream stands (08 R245, 04 R142, R149): running, stopped at a faulted load (the instruction), asleep in YIELDC until a write to
the counter's line (State.watch) or a time, at HALTD until the C-stream's next clause boundary and then until host debug control, waiting at
MXBIND, at RALLOC, or ended with writes still to be performed. -/
inductive AStop where
  | run
  | token (i : Instr)
  | sleep (until_ : Nat)
  | halting
  | halt
  | bind
  | ralloc
  | gone
  deriving DecidableEq, Repr

/-- A REGROUP at which a group waits (06 R188): the set's groups, base, count, keys of the lanes, and the instruction word. -/
structure Regroup where
  set : List Nat
  base : Nat
  cnt : Nat
  keys : Lanes
  word : BitVec 96
  deriving DecidableEq, Repr

/-- An arrival at a named barrier that waits until the operations before it are performed (04 R145, 06 R207; 09 R282): barrier, the
stream that made it (0-3 a split, 4 the A-stream) and those operations. -/
structure Arrival where
  nb : Nat
  stream : Nat
  need : List Nat
  deriving DecidableEq, Repr

/-- An RCOMMIT whose records are published once the operations before it are performed (04 R148; 09 R282): the VF, the records in order,
their node and depth, and those operations. -/
structure Commit where
  vf : Nat
  recs : List Nat
  node : Nat
  depth : Nat
  need : List Nat
  deriving DecidableEq, Repr

/-- A group (01 R11). `commits` are the RCOMMITs that wait for earlier operations, `arrivals` are those that BARV, BARVW or BARVC has made
and that wait for earlier operations; `arrived` is the A-PC of a BARVW that has made its arrival and waits (04 R145); `fenced` is the name
that the next operation had when the A-stream met the fence at which it waits (04 R147); `due` are the causes that its next wait on a
session barrier takes, with the A-PC of the pass (07 R222, 12 R343); `freed` are the flags of the feeds that completed when its session
dissolved while it was saved (16 R387); `outer` is what the traversal unit keeps of a walk inside an instance: lane, offset, IRET, and the
leaf children of the node that IRET names whose processing has ended (13 R350; notes/assumptions/78.md); `upTo` is the clk up to which its
issue cycles are counted (11 R314); `saveReq` is when a pre-emption was asked for, `saving` whether its streams have stopped for it (08
R263). -/
structure Group where
  who : Ident
  a : Tbl Word
  apc : Nat
  stop : AStop
  ablk : Option WaitKind
  asince : Nat
  cs : CSide
  cf : Tbl Nat
  b : Tbl Rec
  t : Tbl Rec
  q : Queues
  sys : Sys
  pend : List MemOp
  mu : List MuOp
  lane : List LaneOp
  unwaited : List (Nat × Nat × Nat)
  shadow : Option Shadow
  trap : Option Pending
  pushed : Nat
  ended : Nat
  cEnded : Bool
  slices : Memory
  lastQ : Nat
  saved : Bool
  saveReq : Option Nat
  saving : Bool
  commits : List Commit
  arrivals : List Arrival
  arrived : Option Nat
  fenced : Option Nat
  due : List (Nat × Cause × Nat)
  freed : List Nat
  outer : List (Nat × Nat × Nat × Nat)
  session : Option (Nat × Nat)
  regroup : Option Regroup
  upTo : Nat
  deriving DecidableEq, Repr

/-- A named barrier (04 R144, R145): expected, initial and arrival counts, phase, owed and released groups, waiters without
an owed bit as (group, stream) and those let go, and groups whose engine arrival met EXP = 0 (R146). -/
structure Bar where
  exp : Nat
  init : Nat
  cnt : Nat
  phase : Bool
  owed : List Nat
  rel : List Nat
  wait : List (Nat × Nat)
  go : List (Nat × Nat)
  engZero : List Nat
  deriving DecidableEq, Repr

/-- A team on its core (09 R270): core scratchpad and barriers. -/
structure Team where
  lid : Nat
  cid : Nat
  core : Nat
  pos : Nat
  mem : Memory
  bars : Tbl Bar
  deriving DecidableEq, Repr

/-- A cluster (11 R319): origin core, linear index, cluster memory. -/
structure Cluster where
  lid : Nat
  lin : Nat
  origin : Nat
  mem : Memory
  deriving DecidableEq, Repr

/-- A launch packet (11 R310). -/
structure Packet where
  abase : Nat
  cbase : Nat
  rtbase : Nat
  argptr : Nat
  crec : Nat
  aentry : Nat
  threads : Nat
  gx : Nat
  gy : Nat
  gz : Nat
  w : Nat
  h : Nat
  team : Nat
  aregs : Nat
  vregs : Nat
  cregs : Nat
  depths : List Nat
  bars : Nat
  laneB : Nat
  coreK : Nat
  cluK : Nat
  argn : Nat
  prio : Nat
  progress : Nat
  priv : Bool
  shadow : Bool
  diverse : Bool
  stack : Bool
  nonpreempt : Bool
  after : Bool
  deadline : Nat
  budget : Nat
  memd : Nat
  usertag : Word
  surface : Nat
  layer : Nat
  buf : Nat
  delay : Nat
  deriving DecidableEq, Repr

/-- A submission queue's descriptor (11 R305). -/
structure QDesc where
  ring : Nat
  k : Nat
  vf : Nat
  pf : Bool
  port : Nat
  part : Nat
  ceil : Nat
  demote : Bool
  npok : Bool
  supok : Bool
  savebase : Nat
  slot64 : Nat
  saven : Nat
  watchdog : Nat
  window : Nat
  tveca : Nat
  tvecc : Nat
  hen : Bool
  thresh : List Nat
  deriving DecidableEq, Repr

/-- A launch in the machine (11 R310-R323): packet, queue, hardware queue slot, serial, instance and twin of a DIVERSE
launch, status and error fields of the completion record, times in ticks (`issued` is that of its first instruction), the LPDDR bytes
transferred for it (11 R312), counters, placement progress; `batch` is the VF, the node, the
records and the depth of a Galley batch. -/
structure Launch where
  pk : Packet
  qd : QDesc
  qno : Nat
  qslot : Nat
  serial : Nat
  inst : Nat
  twin : Option Nat
  status : Nat
  cgrp : Nat
  reason : Nat
  late : Nat
  errPc : Nat
  errG : Nat
  hasErr : Bool
  arrival : Nat
  start : Option Nat
  issued : Option Nat
  endT : Nat
  cycles : Nat
  traffic : Nat
  counters : List Nat
  thrown : List Nat
  demoted : Bool
  nextC : Nat
  placedAll : Bool
  origin : Option Nat
  batch : Option (Nat × Nat × List Nat × Nat)
  killed : Bool
  watched : Bool
  l1Cores : List Nat
  deriving DecidableEq, Repr

/-- A submission queue as the device keeps it (11 R307-R309): tail and unread counts, the slot that maps it, arrival times
of its unread packets, launches accepted, whether its EN has been seen and not cleared, and since when its pending bit is
set, by which port, and whether that has been reported. -/
structure QueueSt where
  t : Nat
  u : Nat
  slot : Option Nat
  arrivals : List Nat
  serial : Nat
  live : Bool
  pendSince : Option Nat
  port : Nat
  starved : Bool
  deriving DecidableEq, Repr

/-- An operation of the copy unit, the rasteriser or the tile store (04 R141, 07 R215-R217, R233-R237). -/
inductive EngKind where
  | copy (src dst : BitVec 512) (sc dc : List Int) (opt : Nat) (scope : Nat) (counter : Option (Nat × Loc))
  | cover (seg : BitVec 256) (t : BitVec 512) (first count : Nat) (ox oy : Int) (eo : Bool)
  | tstore (src dst : BitVec 512) (tx ty : Int) (sig base sigb : Nat)
  deriving DecidableEq, Repr

/-- An engine operation in progress: issuer, A-PC, instruction, barrier, unit reached (chunk, segment or tile), the fault at
which it is suspended, whether that fault has been delivered, and the operations of its group that must be performed
before it reads (09 R287), the lines it owns (R286) with the last unit that writes each, the source elements of its unit that it has
read already, by number (R278, R287), and the rasteriser's partial accumulator (13 R357). -/
structure EngOp where
  id : Nat
  gid : Nat
  pc : Nat
  instr : Instr
  kind : EngKind
  bar : Option Nat
  at_ : Nat
  fault : Option Cause
  told : Bool
  need : List Nat
  lines : List (Loc × Nat)
  got : List (Nat × Nat)
  cells : List Int
  coarse : Bool
  deriving DecidableEq, Repr

/-- A pass of a session (07 R227-R232, 12 R331): the instruction, its A-PC, the values and records captured at issue, the
next step, whether it has started, whether granted, step in progress with rows taken per array and panel latched (lane
registers of the four quarters), its fault, the operations that must be performed before it reads (09 R287), the lines it owns with the
last of its rows that writes each (R286), and what of its rows it has read already (12 R334): step and array, row, 4-byte parts by number. -/
structure Pass where
  id : Nat
  instr : Instr
  pc : Nat
  vals : List Word
  recs : List (BitVec 512)
  step : Nat
  started : Bool
  granted : Bool
  surge : Option Nat
  inStep : Bool
  rows : List Nat
  panel : List (List Lanes)
  fault : Option Cause
  told : Bool
  empty : Bool
  need : List Nat
  lines : List (Loc × Nat)
  ahead : List (Nat × Nat × List (Nat × Nat))
  deriving DecidableEq, Repr

/-- A participant of a session (07 R220-R225): group, barrier, whether it has left, base register, feeds issued and feeds
latched, flags of the feeds not yet latched. -/
structure Part where
  gid : Nat
  tid : Nat
  nb : Nat
  left : Bool
  vb : Nat
  feeds : Nat
  latched : Nat
  flags : List Nat
  deriving DecidableEq, Repr

/-- A matrix session (07 R218-R232, 12 R329-R331): quad, entry, time and order of formation, formats, distance mode, tiles,
priority, the four participants by quarter, steps started, MROWS of each tile's last pass and the rows each array wrote in
it, whether tiles are resident or marked zero, tile rows by (4·tile + array)·32 + row, whether saved at a pre-emption, passes
in issue order, DONE, EMPTY, and the time of the last grant. The entry's state follows (12 R329). -/
structure Session where
  quad : Nat
  entry : Nat
  formed : Nat
  order : Nat
  lid : Nat
  words : Nat
  fa : Nat
  fb : Nat
  fo : Nat
  dist : Bool
  tiles : Nat
  prio : Nat
  parts : List Part
  steps : Nat
  lastRows : List Nat
  lastCnt : List Nat
  resident : Bool
  zero : List Nat
  z : Tbl Lanes
  saved : Bool
  passes : List Pass
  doneN : Nat
  empty : Bool
  lastGrant : Nat
  deriving DecidableEq, Repr

/-- An MXBIND that waits for its session (07 R221). -/
structure Bind where
  gid : Nat
  q : Nat
  word : Nat
  vb : Nat
  fa : Nat
  fb : Nat
  fo : Nat
  dist : Bool
  tiles : Nat
  prio : Nat
  nb : Nat
  deriving DecidableEq, Repr

/-- A quad (14 R368, R369, R400): state, cause of its last quarantine, passes, whether a pass runs and since when, passes
since quarantine, a pre-emption request and its time, when its pre-emption completed, the last use of its arrays (11 R326), and the clk in
which it returned to service (R400). -/
structure Quad where
  st : Nat
  why : Nat
  pass : Nat
  testing : Option Nat
  passes : Nat
  preempt : Option Nat
  ready : Option Nat
  lastUse : Option Nat
  back : Option Nat
  deriving DecidableEq, Repr

/-- A VF's translation block and frame counts (10 R298, R304), its invalidation or splinter in progress (the page and the frame), whether
that has dropped its translations and the operations it then waits for (R296), and its tickets (R301). -/
structure VfSt where
  troot : BitVec 64
  held : Nat
  b : Nat
  g : Nat
  prqdone : Nat
  sframe : Nat
  err : Bool
  inval : Option (Option Nat)
  splint : Option (Nat × Nat)
  purged : Bool
  busyOps : List Nat
  ticket : Nat
  deriving DecidableEq, Repr

/-- Where a translation is kept (10 R295): a slot's TLB, a core's shared one, or the walkers' caches of level-1 and level-2 entries. -/
inductive TlbSite where
  | slot (core slot : Nat)
  | core (n : Nat)
  | walker
  deriving DecidableEq, Repr

/-- A cached translation (10 R295): where it is kept, VF, what the entry maps in units of its level, the entry as read and its level. -/
structure TlbEnt where
  site : TlbSite
  vf : Nat
  page : Nat
  pte : BitVec 64
  level : Nat
  deriving DecidableEq, Repr

/-- A page request that the host has not read past (10 R301). -/
structure PrqEnt where
  vf : Nat
  page : Nat
  ticket : Nat
  count : Nat
  deriving DecidableEq, Repr

/-- A record handle (04 R148): first record, count reserved, published, owner, node, depth of the owner's batch. -/
structure Handle where
  idx : Nat
  n : Nat
  done : Nat
  gid : Nat
  node : Nat
  depth : Nat
  deriving DecidableEq, Repr

/-- A committed record waiting for a batch (11 R324, R325). -/
structure Committed where
  idx : Nat
  node : Nat
  depth : Nat
  time : Nat
  seq : Nat
  deriving DecidableEq, Repr

/-- A RALLOC that waits (20 R392), with its destination. -/
structure RWait where
  gid : Nat
  d : Nat
  node : Nat
  cnt : Nat
  deriving DecidableEq, Repr

/-- The Galley of a VF (11 R324, R325; 15 R378): pool, node table, records in use, handles, committed records, waiters, and whether
its rules are to be applied in the clk in progress (20 R393). -/
structure Galley where
  pool : Nat
  pooln : Nat
  nodetab : Nat
  used : List Nat
  handles : List Handle
  comm : List Committed
  waits : List RWait
  seq : Nat
  due : Bool
  deriving DecidableEq, Repr

/-- The decision for a layer and a frame (14 R365): not taken, proved for a buffer, failed. -/
inductive Proof where
  | none
  | proved (buf : Nat)
  | failed
  deriving DecidableEq, Repr

/-- A surface that the display engine has found enabled (14 R360, R371, R403): the descriptor in force, its order, whether
served, the number of the frame in progress, the next line, the decisions by 8 times the frame plus the layer, the times of the
layers' last proof points (in clk), the frame for which the mailbox was last read, the records latched by frame, when the
surface was found enabled (in ns), and the last frame whose start it has met. -/
structure Surf where
  desc : List Byte
  order : Nat
  served : Bool
  bad : Bool
  frame : Option Nat
  line : Nat
  proofs : Tbl Proof
  proofT : Tbl Nat
  warpFor : Option Nat
  records : Tbl (List Word)
  found : Nat
  met : Option Nat
  deriving DecidableEq, Repr

/-- A completed DIVERSE launch (14 R365, R396): what it rendered, its tag, and when its record was written. -/
structure Render where
  surface : Nat
  layer : Nat
  buf : Nat
  qslot : Nat
  serial : Nat
  time : Nat
  deriving DecidableEq, Repr

/-- A Stereotype bitmap (14 R366). -/
structure Bitmap where
  x : Int
  y : Int
  w : Nat
  h : Nat
  pix : List Word
  bad : Bool
  deriving DecidableEq, Repr

/-- A Colophon event (14 R374). -/
structure Event where
  time : Nat
  seq : Nat
  cls : Nat
  code : Nat
  quad : Nat
  vf : Nat
  detail : List Byte
  deriving DecidableEq, Repr

/-- A line held in a core's L1 (09 R275), with the cache hint of the access that filled it (02 R66). -/
structure L1Line where
  space : Space
  line : Nat
  data : List Byte
  hint : Nat
  deriving DecidableEq, Repr

/-- A line held in L2 (09 R273, R274): its number in device memory, its way, the partition and class of the fill that allocated it,
whether it is to be written back, and for which launch. -/
structure L2Line where
  line : Nat
  way : Nat
  part : Nat
  cls : Nat
  dirty : Bool
  lid : Nat
  deriving DecidableEq, Repr

/-- A spare row in use (14 R369). -/
structure Spare where
  core : Nat
  slot : Nat
  row : Nat
  spare : Nat
  deriving DecidableEq, Repr

/-- A physical register-file defect: a bit of a row stuck at a value. It comes from outside the machine; a machine that
works holds none. -/
structure Defect where
  core : Nat
  slot : Nat
  row : Nat
  lane : Nat
  bit : Nat
  val : Bool
  deriving DecidableEq, Repr

/-- A write that some agents have still to see (09 R277, R281): its place, the bytes that it replaced, and the agents that see it. -/
structure Late where
  loc : Loc
  old : List Byte
  seen : List Nat
  deriving DecidableEq, Repr

/-- A counter's line that a group asleep in YIELDC watches, and whether it has been written since (04 R142). -/
structure Watch where
  gid : Nat
  line : Loc
  hit : Bool
  deriving DecidableEq, Repr

/-- A flit that a link has still to deliver: where its bytes go, and whether it has come sound (15 R381). -/
structure Flit where
  pa : Nat
  bytes : List Byte
  sound : Bool
  deriving DecidableEq, Repr

/-- Registers of the port space (15 R376-R385). `semAt` is the clk in which SEM was last granted (R379); `rx` holds, for each link, the
flits that wait for their replay or for an owned line, oldest first (R381). -/
structure Regs where
  boot : Nat
  sem : Nat
  semAt : Nat
  vfmap : BitVec 64
  pwrcap : Nat
  capdeny : Bool
  hot : Bool
  watts : Nat
  lrate : List Nat
  lwidth : List Nat
  replays : List (List Nat)
  rx : List (List Flit)
  prqbase : BitVec 64
  prqhead : Nat
  prqtail : Nat
  fpbase : Nat
  fpcount : Nat
  qtbase : BitVec 64
  cfgerr : Bool
  zeroing : Option (Nat × Nat)
  wincnt : Nat
  win : List Word
  part : List (List Word)
  sched : List Word
  granule : Tbl Nat
  surfbase : BitVec 64
  safeset : List Word
  frozen : Bool
  wrap : Bool
  since : Nat
  clseq : Nat
  low : Tbl Word
  deriving DecidableEq, Repr

/-- Caches and reliability (09 R273-R275, 14 R373): L1 lines per core, L2 lines per set, corrected-error counts and disabled lines per L1
and L2 line, retired slices, cores without L1. `broken` lists quads with a defect that is no stuck register bit: it comes from outside the
machine. -/
structure Rely where
  l1 : Tbl (List L1Line)
  l2 : Tbl (List L2Line)
  l1cnt : Tbl Nat
  l1off : List Nat
  l2cnt : Tbl Nat
  l2off : List Nat
  retired : List Nat
  noL1 : List Nat
  spares : List Spare
  defects : List Defect
  broken : List Nat
  events : List Event
  stopped : Bool
  scrubs : Nat
  deriving DecidableEq, Repr

/-- The display (14). -/
structure Display where
  surfs : Tbl Surf
  order : Nat
  lastRead : Option Nat
  sigQuad : List (Loc × Nat)
  renders : List Render
  stereoBg : Tbl Word
  stereo : Tbl (List Bitmap)
  out : Tbl (List Word)
  deriving DecidableEq, Repr

/-- An interrupt raised: port, function (none the PF), vector (15 R375). -/
structure Irq where
  port : Nat
  fn : Option Nat
  vec : Nat
  deriving DecidableEq, Repr

/-- What a turn of the agenda is: an A-stream word, a C-stream word or clause start of a split, or a step of another agent. -/
inductive What where
  | a
  | c
  | ev (i : Instr)
  deriving DecidableEq, Repr

/-- One turn: time that passes first (ticks), the group and split concerned, and what happens. -/
structure Turn where
  adv : Nat
  gid : Nat
  split : Nat
  what : What
  deriving DecidableEq, Repr

/-- Whose turn it is, and how the C-stream runs: 0 the leader, 1 the shadow's re-execution, 2 the release of a compared
operation (08 R266, R267). -/
structure Cur where
  gid : Nat
  split : Nat
  mode : Nat
  deriving DecidableEq, Repr

/-- The machine. The five memories hold what is last in coherence order; `late` lists, oldest first, the writes that some agent has
still to see. The last five fields are the model's own (notes/assumptions/1.md): whose turn it is, the turns to come, a
counter of free values, a counter of names, and the time in sixths of a nanosecond (1 clk = 5 ticks). -/
structure State where
  dev : Memory
  host0 : Memory
  host1 : Memory
  peer : Memory
  chip : Memory
  late : List Late
  watch : List Watch
  groups : Tbl Group
  teams : Tbl Team
  clusters : Tbl Cluster
  launches : Tbl Launch
  queues : Tbl QueueSt
  lastMapped : Nat
  eng : List EngOp
  sessions : Tbl Session
  binds : List Bind
  surge : Option Nat
  quads : List Quad
  vfs : List VfSt
  tlb : List TlbEnt
  prq : List PrqEnt
  frames : Tbl Nat
  reclaim : List Nat
  galley : Tbl Galley
  regs : Regs
  rely : Rely
  disp : Display
  irqs : List Irq
  debug : List (Nat × Nat)
  cur : Cur
  agenda : List Turn
  fresh : Nat
  nextId : Nat
  tick : Nat
  deriving DecidableEq, Repr

/-- Why the machine stops with a fault. -/
inductive Fault where
  /-- Raised by a resolved access beyond the usable device memory (00 R4: 90 GiB), an address the spec gives no memory
  at. Safe. -/
  | noSuchAddress (a : Nat)
  /-- Raised by every step after a thermal trip (15 R384: it stops the device). Safe. -/
  | thermallyStopped
  /-- Raised by every step once boot has halted (15 R385 step 1). Safe. -/
  | bootHalted
  deriving DecidableEq, Repr

/-- Why the machine refuses. -/
inductive Refusal where
  /-- Raised by the dispatch for an instruction without a meaning. Safe. -/
  | notModelled (mnemonic : String)
  deriving DecidableEq, Repr

/-- A quad right after reset: in service, nothing pending (14 R369: boot). -/
def Quad.reset : Quad :=
  { st := 0, why := 0, pass := 0, testing := none, passes := 0, preempt := none, ready := none, lastUse := none,
    back := none }

/-- A VF right after reset (10 R304). -/
def VfSt.reset : VfSt :=
  { troot := 0, held := 0, b := 0, g := 0, prqdone := 0, sframe := 0, err := false, inval := none, splint := none,
    purged := false, busyOps := [], ticket := 0 }

/-- The registers right after reset (15 R378-R385, 14 R364; notes/assumptions/5.md to 8.md). -/
def Regs.reset : Regs :=
  { boot := 1, sem := 0, semAt := 0, vfmap := 0, pwrcap := 0, capdeny := false, hot := false, watts := 0, lrate := [3, 3],
    lwidth := [3, 3], replays := [[], []], rx := [[], []], prqbase := 0, prqhead := 0, prqtail := 0, fpbase := 0,
    fpcount := 0, qtbase := 0, cfgerr := false, zeroing := none, wincnt := 0, win := List.replicate 16 0,
    part := List.replicate 16 [0, 0, 0, 0], sched := List.replicate 64 0, granule := [], surfbase := 0,
    safeset := [0x333333, 0xCCCCCC], frozen := false, wrap := false, since := 0, clseq := 0, low := [] }

/-- Caches and reliability right after reset. -/
def Rely.reset : Rely :=
  { l1 := [], l2 := [], l1cnt := [], l1off := [], l2cnt := [], l2off := [], retired := [], noL1 := [], spares := [], defects := [],
    broken := [], events := [], stopped := false, scrubs := 0 }

/-- The display right after reset (notes/assumptions/10.md, 11.md). -/
def Display.reset : Display :=
  { surfs := [], order := 0, lastRead := none, sigQuad := [], renders := [], stereoBg := [], stereo := [], out := [] }

/-- The machine right after reset: nothing resident, every register at the value the spec or the log names (INVENTORY.md,
State), memory with nothing listed, TIME 0. -/
def State.reset : State :=
  { dev := [], host0 := [], host1 := [], peer := [], chip := [], late := [], watch := [],
    groups := [], teams := [], clusters := [],
    launches := [], queues := [], lastMapped := 0, eng := [], sessions := [], binds := [], surge := none,
    quads := List.replicate 24 Quad.reset, vfs := List.replicate 64 VfSt.reset, tlb := [], prq := [], frames := [],
    reclaim := [], galley := [], regs := Regs.reset, rely := Rely.reset, disp := Display.reset, irqs := [], debug := [],
    cur := { gid := 0, split := 0, mode := 0 }, agenda := [], fresh := 0, nextId := 1, tick := 0 }

end Sys2Proof.Machine
end

