-- ==== Sys2Proof/Machine/Table.lean ====
section
/-! DEFINITION. Tables by key, lanes and masks: the small operations over plain data that every layer uses. -/

namespace Sys2Proof.Machine

/-- The value of a key. -/
def Tbl.get? {α : Type} : Tbl α → Nat → Option α
  | [], _ => none
  | (k, v) :: r, n => if n = k then some v else if n < k then none else Tbl.get? r n

/-- Set a key, keeping the keys in order. -/
def Tbl.set {α : Type} : Tbl α → Nat → α → Tbl α
  | [], n, x => [(n, x)]
  | (k, v) :: r, n, x =>
    if n = k then (n, x) :: r else if n < k then (n, x) :: (k, v) :: r else (k, v) :: Tbl.set r n x

/-- Remove a key. -/
def Tbl.del {α : Type} (t : Tbl α) (n : Nat) : Tbl α := t.filter fun e => e.1 != n

/-- The value of a key, or a default. -/
def Tbl.getD {α : Type} (t : Tbl α) (n : Nat) (d : α) : α := (t.get? n).getD d

/-- The keys. -/
def Tbl.keys {α : Type} (t : Tbl α) : List Nat := t.map Prod.fst

/-- The values. -/
def Tbl.vals {α : Type} (t : Tbl α) : List α := t.map Prod.snd

/-- Apply a function to the value of a key, if it has one. -/
def Tbl.upd {α : Type} (t : Tbl α) (n : Nat) (f : α → α) : Tbl α :=
  match t.get? n with
  | some v => t.set n (f v)
  | none => t

/-- Apply a function to every value. -/
def Tbl.mapV {α : Type} (t : Tbl α) (f : Nat → α → α) : Tbl α := t.map fun e => (e.1, f e.1 e.2)

/-- Replace element `n` of a list. -/
def setAt {α : Type} : List α → Nat → α → List α
  | [], _, _ => []
  | _ :: r, 0, x => x :: r
  | a :: r, n + 1, x => a :: setAt r n x

/-- The 96 lanes of a function. -/
def mkLanes (f : Nat → Word) : Lanes := (List.range 96).map f

/-- Lane `l` of a vector. -/
def lane (v : Lanes) (l : Nat) : Word := v.getD l 0

/-- A vector of zeros. -/
def zeroLanes : Lanes := List.replicate 96 0

/-- The mask of the lanes of which a test holds. -/
def mkMask (f : Nat → Bool) : Mask :=
  BitVec.ofNat 96 ((List.range 96).foldl (fun m l => if f l then m + 2 ^ l else m) 0)

/-- All lanes. -/
def allLanes : Mask := BitVec.allOnes 96

/-- The lanes of a mask in ascending order. -/
def lanesOf (m : Mask) : List Nat := (List.range 96).filter fun l => m.getLsbD l

/-- The lowest lane of a mask. -/
def lowLane (m : Mask) : Option Nat := (List.range 96).find? fun l => m.getLsbD l

/-- The 32-lane part `w` of a mask (01 R17). -/
def maskWord (m : Mask) (w : Nat) : Word := m.extractLsb' (32 * w) 32

/-- A mask from its three words, lanes 0-31 first. -/
def maskOf (a b c : Word) : Mask := (c ++ b ++ a : BitVec 96)

/-- Signed value of a word as an integer: sign extension (02 R51). -/
def sext32 {n : Nat} (x : BitVec n) : Word := x.signExtend 32

/-- Zero extension to 32 bits (02 R51). -/
def zext32 {n : Nat} (x : BitVec n) : Word := x.setWidth 32

/-- One bit as a word. -/
def boolWord (b : Bool) : Word := if b then 1 else 0

/-- Insert into a strictly rising list of numbers. -/
def insertNat : List Nat → Nat → List Nat
  | [], n => [n]
  | k :: r, n => if n = k then k :: r else if n < k then n :: k :: r else k :: insertNat r n

/-- Remove a number from a list. -/
def delNat (l : List Nat) (n : Nat) : List Nat := l.filter fun k => k != n

/-- Insert into a list sorted by a key, after equal keys. -/
def insertBy {α : Type} (le : α → α → Bool) (x : α) : List α → List α
  | [] => [x]
  | y :: r => if le y x then y :: insertBy le x r else x :: y :: r

/-- Sort a list by a key, stably. -/
def sortBy {α : Type} (le : α → α → Bool) (l : List α) : List α :=
  l.foldl (fun acc x => insertBy le x acc) []

/-- The elements of a list without repeats, first occurrences kept. -/
def dedup {α : Type} [DecidableEq α] (l : List α) : List α :=
  l.foldl (fun acc x => if x ∈ acc then acc else acc ++ [x]) []

end Sys2Proof.Machine
end

