-- ==== Sys2Proof/Machine/Bits.lean ====
section
/-! DEFINITION. Bit operations on words that both streams share (04 R117, R118; 05 R165-R168). -/

namespace Sys2Proof.Machine

/-- Ones of a word. -/
def popc32 (x : Word) : Nat := ((List.range 32).filter fun i => x.getLsbD i).length

/-- Leading zeros of a word, 32 for 0. -/
def clz32 (x : Word) : Nat := ((List.range 32).find? fun i => x.getLsbD (31 - i)).getD 32

/-- Bit `i` moved to bit 31 - `i`. -/
def brev32 (x : Word) : Word :=
  BitVec.ofNat 32 ((List.range 32).foldl (fun m i => if x.getLsbD i then m + 2 ^ (31 - i) else m) 0)

/-- Position and length out of a control word: bits [4:0] and [9:5], length 0 meaning 32 (04 R118, 05 R168). -/
def fieldAt (y : Word) : Nat × Nat :=
  let n := y.toNat / 32 % 32
  (y.toNat % 32, if n = 0 then 32 else n)

/-- The low `n` bits. -/
def lowOnes (n : Nat) : Word := BitVec.ofNat 32 (2 ^ n - 1)

/-- The `n` bits of `x` from bit `p`, zero-extended (04 R118). -/
def bfe32 (x y : Word) : Word :=
  let f := fieldAt y
  (x >>> f.1) &&& lowOnes f.2

/-- `z` with `n` bits from bit `p` replaced by the low bits of `x` (04 R118). -/
def bfi32 (z x y : Word) : Word :=
  let f := fieldAt y
  let m := lowOnes f.2 <<< f.1
  (z &&& ~~~m) ||| ((x <<< f.1) &&& m)

/-- High word of the signed product (04 R117, 05 R165). -/
def mulhs (x y : Word) : Word := (x.signExtend 64 * y.signExtend 64).extractLsb' 32 32

/-- High word of the unsigned product. -/
def mulhu (x y : Word) : Word := (x.setWidth 64 * y.setWidth 64).extractLsb' 32 32

/-- The lower of two words as signed numbers. -/
def mins (x y : Word) : Word := if y.slt x then y else x

/-- The higher of two words as signed numbers. -/
def maxs (x y : Word) : Word := if x.slt y then y else x

/-- The lower of two words as unsigned numbers. -/
def minu (x y : Word) : Word := if y.ult x then y else x

/-- The higher of two words as unsigned numbers. -/
def maxu (x y : Word) : Word := if x.ult y then y else x

end Sys2Proof.Machine
end

