-- ==== Sys2Proof/Machine/Mem.lean ====
section
/-! DEFINITION. One memory in its canonical form: bytes by address, what an unlisted byte reads as, little-endian access
(00 R2; 02 R49, R60), and the flat address spaces of the state. -/

namespace Sys2Proof.Machine

/-- What an address that is not listed reads as (15 R385 step 2, 09 R271; notes/assumptions/4.md). -/
def Memory.unlisted : Byte := 0

/-- The canonical form: addresses strictly rising, no byte equal to the unlisted one. -/
def Memory.wf : Memory → Bool
  | [] => true
  | [(_, b)] => b != Memory.unlisted
  | (a, b) :: (a', b') :: r => b != Memory.unlisted && decide (a < a') && Memory.wf ((a', b') :: r)

/-- One byte. -/
def Memory.get : Memory → Nat → Byte
  | [], _ => Memory.unlisted
  | (k, b) :: r, n => if n = k then b else if n < k then Memory.unlisted else Memory.get r n

/-- The cells from an address on. -/
def Memory.from (m : Memory) (a : Nat) : Memory := m.dropWhile fun e => decide (e.1 < a)

/-- The cells below an address. -/
def Memory.below (m : Memory) (a : Nat) : Memory := m.takeWhile fun e => decide (e.1 < a)

/-- `n` bytes from an address, out of cells that lie at or above it. -/
def readBlk : Nat → Nat → Memory → List Byte
  | 0, _, _ => []
  | n + 1, a, [] => Memory.unlisted :: readBlk n (a + 1) []
  | n + 1, a, (k, b) :: t =>
    if k = a then b :: readBlk n (a + 1) t else Memory.unlisted :: readBlk n (a + 1) ((k, b) :: t)

/-- `n` bytes from an address. -/
def Memory.bytes (m : Memory) (a n : Nat) : List Byte := readBlk n a (m.from a)

/-- A cell in front of others, unless it holds the unlisted byte. -/
def consCell (a : Nat) (b : Byte) (m : Memory) : Memory := if b = Memory.unlisted then m else (a, b) :: m

/-- Cells without a first cell at an address. -/
def dropAt (a : Nat) : Memory → Memory
  | [] => []
  | (k, b) :: t => if k = a then t else (k, b) :: t

/-- Write bytes in front of cells that lie at or above the address. -/
def writeBlk : List Byte → Nat → Memory → Memory
  | [], _, m => m
  | b :: r, a, m => consCell a b (writeBlk r (a + 1) (dropAt a m))

/-- Write bytes from an address on, keeping the canonical form. -/
def Memory.setBytes (m : Memory) (a : Nat) (bs : List Byte) : Memory := m.below a ++ writeBlk bs a (m.from a)

/-- The number that bytes hold, the first the least significant. -/
def leNat : List Byte → Nat
  | [] => 0
  | b :: r => b.toNat + 256 * leNat r

/-- The `n` low bytes of a number, the least significant first. -/
def natLe : Nat → Nat → List Byte
  | 0, _ => []
  | n + 1, x => BitVec.ofNat 8 x :: natLe n (x / 256)

/-- Remove every byte of a range. -/
def Memory.clear (m : Memory) (a n : Nat) : Memory := m.filter fun e => decide (e.1 < a) || decide (a + n ≤ e.1)

/-- The memory of a space. -/
def State.memOf (s : State) : Space → Memory
  | .dev => s.dev
  | .host 0 => s.host0
  | .host _ => s.host1
  | .peer => s.peer
  | .chip => s.chip
  | .clu c => ((s.clusters.get? c).map (·.mem)).getD []
  | .core t => ((s.teams.get? t).map (·.mem)).getD []
  | .lane g _ => ((s.groups.get? g).map (·.slices)).getD []

/-- A lane's slice lies in its group's memory at 1,024 bytes a lane. -/
def Loc.key (x : Loc) : Nat :=
  match x.space with
  | .lane _ l => 1024 * l + x.addr
  | _ => x.addr

/-- Replace the memory of a space. -/
def State.setMem (s : State) (sp : Space) (m : Memory) : State :=
  match sp with
  | .dev => { s with dev := m }
  | .host 0 => { s with host0 := m }
  | .host _ => { s with host1 := m }
  | .peer => { s with peer := m }
  | .chip => { s with chip := m }
  | .clu c => { s with clusters := s.clusters.upd c fun x => { x with mem := m } }
  | .core t => { s with teams := s.teams.upd t fun x => { x with mem := m } }
  | .lane g _ => { s with groups := s.groups.upd g fun x => { x with slices := m } }

/-- Read `n` bytes at a place, little-endian. -/
def State.readLoc (s : State) (x : Loc) (n : Nat) : Nat := leNat ((s.memOf x.space).bytes x.key n)

/-- One byte at a place. -/
def State.byteAt (s : State) (x : Loc) : Byte := (s.memOf x.space).get x.key

/-- Whether a late write touches one of `n` bytes at a place. -/
def Late.meets (w : Late) (x : Loc) (n : Nat) : Bool :=
  w.loc.space == x.space && decide (w.loc.addr < x.addr + n) && decide (x.addr < w.loc.addr + w.old.length)

/-- A group that watches a line of `n` bytes at a place finds it written (04 R142). -/
def Watch.mark (x : Loc) (n : Nat) (w : Watch) : Watch :=
  if w.line.space = x.space ∧ w.line.addr < x.addr + n ∧ x.addr < w.line.addr + 64 then { w with hit := true } else w

/-- The byte of a queue's descriptor that holds EN, in bit 2 (11 R305; 15 R378). -/
def State.enAt (s : State) (q : Nat) : Nat := s.regs.qtbase.toNat / 2 ^ 12 % 2 ^ 40 * 2 ^ 12 + 128 * q + 0x0E

/-- What the device keeps of the queues once bytes have been written: EN that is cleared ends the counts, which start at 0 when it is set
again (11 R307). -/
def State.queuesSeen (s : State) (x : Loc) (n : Nat) : Tbl QueueSt :=
  if x.space = .dev ∧ s.regs.qtbase.getLsbD 0 then
    s.queues.mapV fun q st =>
      if x.addr ≤ s.enAt q ∧ s.enAt q < x.addr + n ∧ !(s.dev.get (s.enAt q)).getLsbD 2 then
        { st with live := false, t := 0, u := 0, arrivals := [], pendSince := none }
      else st
  else s.queues

/-- What follows a write of `n` bytes at a place: those who watch its line wake, and the device sees a queue disabled. -/
def State.written (s : State) (x : Loc) (n : Nat) : State :=
  { s with watch := s.watch.map (Watch.mark x n), queues := s.queuesSeen x n }

/-- Replace bytes at a place. -/
def State.putBytes (s : State) (x : Loc) (bs : List Byte) : State :=
  (s.setMem x.space ((s.memOf x.space).setBytes x.key bs)).written x bs.length

/-- Write bytes at a place, performed for every agent at once: no earlier write there is late any more (09 R281). -/
def State.writeBytes (s : State) (x : Loc) (bs : List Byte) : State :=
  { s.putBytes x bs with late := s.late.filter fun w => !w.meets x bs.length }

/-- Fill a range of a space with zeros, for every agent at once. -/
def State.zeroFill (s : State) (x : Loc) (n : Nat) : State :=
  { (s.setMem x.space ((s.memOf x.space).clear x.key n)).written x n with late := s.late.filter fun w => !w.meets x n }

/-- Write `n` bytes at a place, little-endian. -/
def State.writeLoc (s : State) (x : Loc) (n v : Nat) : State := s.writeBytes x (natLe n v)

/-- Whether two places are one. -/
def Loc.same (a b : Loc) : Bool := a.space == b.space && a.addr == b.addr

/-- The place `n` bytes on. -/
def Loc.add (x : Loc) (n : Nat) : Loc := { x with addr := x.addr + n }

/-- The 64-byte line of a place (09 R286): its first byte. -/
def Loc.line (x : Loc) : Loc := { x with addr := x.addr / 64 * 64, leaf := none }

end Sys2Proof.Machine
end

