-- ==== Sys2Proof/Machine/Flags.lean ====
section
/-! DEFINITION. The sticky flags IV DZ OF UF NX as bits 4 to 0 of GSTAT (01 R36), how results raise them (03 R89-R91), and
the four events that results count in (03 R111). -/

namespace Sys2Proof.Machine

/-- Sticky flags, laid out as GSTAT[4:0] (01 R36). -/
abbrev Fl := BitVec 5

/-- Invalid operation. -/
def flIV : Fl := 16

/-- Division by zero. -/
def flDZ : Fl := 8

/-- Overflow. -/
def flOF : Fl := 4

/-- Underflow. -/
def flUF : Fl := 2

/-- Inexact. -/
def flNX : Fl := 1

/-- A flag if a condition holds. -/
def flIf (b : Bool) (f : Fl) : Fl := if b then f else 0

/-- A result with the flags it raises, and whether it is a NaN, an infinity, and whether an operand was a NaN, all operands
finite: what R111 asks of it. -/
structure FRes where
  bits : Nat
  fl : Fl
  nan : Bool
  inf : Bool
  nanIn : Bool
  finIn : Bool
  deriving DecidableEq, Repr

/-- Which of the four events a result counts in (03 R111): 0 a NaN from no NaN, 1 an infinity from finite operands, 2 OF,
3 UF. -/
def FRes.events (r : FRes) : List Nat :=
  (if r.nan && !r.nanIn then [0] else []) ++ (if r.inf && r.finIn then [1] else []) ++
    (if r.fl &&& flOF != 0 then [2] else []) ++ (if r.fl &&& flUF != 0 then [3] else [])

/-- What a lane of an instruction computes: its word, the flags and the counters (4·class + event) it counts in. -/
structure LRes where
  w : Word
  fl : Fl := 0
  ev : List Nat := []
  deriving DecidableEq, Repr

/-- A lane result of one element in a class. -/
def FRes.lane (r : FRes) (cls : Nat) : LRes :=
  { w := BitVec.ofNat 32 r.bits, fl := r.fl, ev := r.events.map fun e => 4 * cls + e }

/-- A lane result that raises and counts nothing. -/
def LRes.pure (w : Word) : LRes := { w }

/-- The flags of all lanes, ORed (01 R37). -/
def flOr (l : List LRes) : Fl := l.foldl (fun a r => a ||| r.fl) 0

/-- The condition codes of R158 on a three-way comparison (none when unordered). -/
def fcond (cnd : Nat) (c : Option Ordering) : Bool :=
  match cnd with
  | 0 => c == some .eq
  | 1 => c != some .eq
  | 2 | 8 => c == some .lt
  | 3 | 9 => c == some .lt || c == some .eq
  | 4 | 10 => c == some .gt
  | 5 | 11 => c == some .gt || c == some .eq
  | 6 => c.isSome
  | _ => c.isNone

/-- The condition codes of ISET (05 R165). -/
def icond (cnd : Nat) (c : Ordering) : Bool :=
  match cnd with
  | 0 => c == .eq
  | 1 => c != .eq
  | 2 => c == .lt
  | 3 => c != .gt
  | 4 => c == .gt
  | _ => c != .lt

end Sys2Proof.Machine
end

