-- ==== Sys2Proof/Machine/Float.lean ====
section
/-! DEFINITION. Number formats and floating-point arithmetic (03 R82-R96): each operation is formed exactly on integers and
rounded once. -/

namespace Sys2Proof.Machine

/-- A floating-point format (03 R82, R86): exponent and fraction widths, bias, largest finite exponent field and fraction,
whether it has infinities, and its canonical NaN. -/
structure Fmt where
  eb : Nat
  fb : Nat
  bias : Nat
  top : Nat
  topF : Nat
  hasInf : Bool
  nan : Option Nat
  deriving DecidableEq, Repr

/-- binary32. -/
def f32 : Fmt := { eb := 8, fb := 23, bias := 127, top := 254, topF := 0x7FFFFF, hasInf := true, nan := some 0x7FC00000 }

/-- binary16. -/
def f16 : Fmt := { eb := 5, fb := 10, bias := 15, top := 30, topF := 0x3FF, hasInf := true, nan := some 0x7E00 }

/-- BF16. -/
def bf16 : Fmt := { eb := 8, fb := 7, bias := 127, top := 254, topF := 0x7F, hasInf := true, nan := some 0x7FC0 }

/-- F19, as its 19 bits; the container holds them in [31:13] (03 R85). -/
def f19 : Fmt := { eb := 8, fb := 10, bias := 127, top := 254, topF := 0x3FF, hasInf := true, nan := some 0x3FE00 }

/-- F12. -/
def f12 : Fmt := { eb := 5, fb := 6, bias := 15, top := 30, topF := 0x3F, hasInf := true, nan := some 0x7E0 }

/-- F8A: E4M3 without infinities. -/
def f8a : Fmt := { eb := 4, fb := 3, bias := 7, top := 15, topF := 6, hasInf := false, nan := some 0x7F }

/-- F8B: E5M2. -/
def f8b : Fmt := { eb := 5, fb := 2, bias := 15, top := 30, topF := 3, hasInf := true, nan := some 0x7E }

/-- F8C: E3M4, every pattern with E = 7 a NaN. -/
def f8c : Fmt := { eb := 3, fb := 4, bias := 3, top := 6, topF := 15, hasInf := false, nan := some 0x7F }

/-- F6A: E3M2. -/
def f6a : Fmt := { eb := 3, fb := 2, bias := 3, top := 7, topF := 3, hasInf := false, nan := none }

/-- F6B: E2M3. -/
def f6b : Fmt := { eb := 2, fb := 3, bias := 1, top := 3, topF := 7, hasInf := false, nan := none }

/-- F4: E2M1. -/
def f4 : Fmt := { eb := 2, fb := 1, bias := 1, top := 3, topF := 1, hasInf := false, nan := none }

/-- A value: NaN (signalling or not), infinity, or (-1)^neg · m · 2^e. -/
inductive FVal where
  | nan (sig : Bool)
  | inf (neg : Bool)
  | num (neg : Bool) (m : Nat) (e : Int)
  deriving DecidableEq, Repr

/-- Rounding modes RN, RZ, RU, RD (03 R88, 05 R156). -/
inductive RM where
  | rn
  | rz
  | ru
  | rd
  deriving DecidableEq, Repr

/-- The RM field (05 R156). -/
def RM.of (b : BitVec 2) : RM :=
  match b.toNat with
  | 0 => .rn
  | 1 => .rz
  | 2 => .ru
  | _ => .rd

/-- The value of a pattern (03 R82, R86). -/
def Fmt.val (f : Fmt) (x : Nat) : FVal :=
  let fr := x % 2 ^ f.fb
  let ex := x / 2 ^ f.fb % 2 ^ f.eb
  let neg := x / 2 ^ (f.fb + f.eb) % 2 == 1
  if f.hasInf && ex == 2 ^ f.eb - 1 then
    if fr = 0 then .inf neg else .nan (fr / 2 ^ (f.fb - 1) == 0)
  else if f.nan.isSome && !f.hasInf && (decide (f.top < ex) || (ex == f.top && decide (f.topF < fr))) then .nan false
  else if ex = 0 then .num neg fr (1 - (f.bias : Int) - f.fb)
  else .num neg (2 ^ f.fb + fr) ((ex : Int) - f.bias - f.fb)

/-- Whether a pattern is subnormal. -/
def Fmt.isSub (f : Fmt) (x : Nat) : Bool := x / 2 ^ f.fb % 2 ^ f.eb == 0 && x % 2 ^ f.fb != 0

/-- The sign bit of a pattern. -/
def Fmt.neg (f : Fmt) (x : Nat) : Bool := x / 2 ^ (f.fb + f.eb) % 2 == 1

/-- A pattern from its fields. -/
def Fmt.mk' (f : Fmt) (neg : Bool) (ex fr : Nat) : Nat := (if neg then 2 ^ (f.fb + f.eb) else 0) + ex * 2 ^ f.fb + fr

/-- Infinity. -/
def Fmt.infB (f : Fmt) (neg : Bool) : Nat := f.mk' neg (2 ^ f.eb - 1) 0

/-- The largest finite. -/
def Fmt.maxB (f : Fmt) (neg : Bool) : Nat := f.mk' neg f.top f.topF

/-- The canonical NaN, or +0 where the format has none (03 R96). -/
def Fmt.nanB (f : Fmt) : Nat := f.nan.getD 0

/-- A pattern read with FTZ: a subnormal counts as a zero of its sign (03 R89). -/
def Fmt.valZ (f : Fmt) (ftz : Bool) (x : Nat) : FVal := if ftz && f.isSub x then .num (f.neg x) 0 0 else f.val x

/-- Tests of a value. -/
def FVal.isNan : FVal → Bool
  | .nan _ => true
  | _ => false

/-- A signalling NaN. -/
def FVal.isSig : FVal → Bool
  | .nan s => s
  | _ => false

/-- Neither NaN nor infinity. -/
def FVal.isFin : FVal → Bool
  | .num .. => true
  | _ => false

/-- A zero. -/
def FVal.isZero : FVal → Bool
  | .num _ m _ => m == 0
  | _ => false

/-- An infinity. -/
def FVal.isInf : FVal → Bool
  | .inf _ => true
  | _ => false

/-- The sign. -/
def FVal.sgn : FVal → Bool
  | .nan _ => false
  | .inf n => n
  | .num n _ _ => n

/-- Whether the rounding of m + (a part) goes up: `half` compares the part with one half, `odd` the parity of m. -/
def roundUp (rm : RM) (neg odd : Bool) (half : Ordering) (inexact : Bool) : Bool :=
  match rm with
  | .rn => half == .gt || (half == .eq && odd)
  | .rz => false
  | .ru => inexact && !neg
  | .rd => inexact && neg

/-- m · 2^-sh rounded to an integer, with whether it was inexact; `sticky` says that a part below m is not zero. -/
def roundShift (rm : RM) (neg : Bool) (m : Nat) (sh : Int) (sticky : Bool) : Nat × Bool :=
  if sh ≤ 0 then (m * 2 ^ (-sh).toNat, sticky)
  else
    let k := sh.toNat
    let q := m / 2 ^ k
    let r := m % 2 ^ k
    let h := 2 ^ (k - 1)
    let half := if r < h then Ordering.lt else if r = h then (if sticky then .gt else .eq) else .gt
    let inexact := r != 0 || sticky
    (if roundUp rm neg (q % 2 == 1) half inexact then q + 1 else q, inexact)

/-- Round (-1)^neg · m · 2^e (and a non-zero part below, if sticky) to a format: overflow by R90 or by the saturating rule of
R96, tininess after rounding, FTZ by R89. -/
def Fmt.round (f : Fmt) (rm : RM) (ftz neg : Bool) (m : Nat) (e : Int) (sticky : Bool) : Nat × Fl :=
  if m = 0 then (f.mk' neg 0 0, 0)
  else
    let ex : Int := (Nat.log2 m : Int) + e
    let emin : Int := 1 - (f.bias : Int)
    let q : Int := (if ex < emin then emin else ex) - f.fb
    let (n, inexact) := roundShift rm neg m (q - e) sticky
    let (nu, _) := roundShift rm neg m (ex - f.fb - e) sticky
    let tiny := decide (ex < emin - 1) || (decide (ex = emin - 1) && decide (nu < 2 ^ (f.fb + 1)))
    let (n, q) := if n = 2 ^ (f.fb + 1) then (2 ^ f.fb, q + 1) else (n, q)
    if n < 2 ^ f.fb then
      if ftz && n != 0 then (f.mk' neg 0 0, flUF ||| flNX)
      else (f.mk' neg 0 n, flIf inexact flNX ||| flIf (tiny && inexact) flUF)
    else
      let be : Int := q + f.fb + f.bias
      if be > f.top || (be = f.top && n - 2 ^ f.fb > f.topF) then
        if f.hasInf then
          let toInf := match rm with
            | .rn => true
            | .rz => false
            | .ru => !neg
            | .rd => neg
          (if toInf then f.infB neg else f.maxB neg, flOF ||| flNX)
        else (f.maxB neg, flOF ||| flNX)
      else (f.mk' neg be.toNat (n - 2 ^ f.fb), flIf inexact flNX ||| flIf (tiny && inexact) flUF)

/-- A result from its pattern and flags, with what R111 asks. -/
def fres (f : Fmt) (ins : List FVal) (b : Nat) (fl : Fl) : FRes :=
  { bits := b, fl := fl ||| flIf (ins.any FVal.isSig) flIV, nan := (f.val b).isNan, inf := (f.val b).isInf,
    nanIn := ins.any FVal.isNan, finIn := ins.all FVal.isFin }

/-- The exact product of two values; a new NaN where it is 0·∞ (03 R91). -/
def FVal.mul (a b : FVal) : FVal × Bool :=
  match a, b with
  | .nan _, _ => (.nan false, false)
  | _, .nan _ => (.nan false, false)
  | .inf n, y => if y.isZero then (.nan false, true) else (.inf (n != y.sgn), false)
  | x, .inf n => if x.isZero then (.nan false, true) else (.inf (n != x.sgn), false)
  | .num n m e, .num n' m' e' => (.num (n != n') (m * m') (e + e'), false)

/-- A value as a signed multiple of 2^e. -/
def FVal.scaled (e : Int) : FVal → Int
  | .num n m e' => (if n then -1 else 1) * ((m * 2 ^ (e' - e).toNat : Nat) : Int)
  | _ => 0

/-- The least exponent of a list of values. -/
def minExp (l : List FVal) : Int :=
  l.foldl (fun a v => match v with | .num _ _ e => if e < a then e else a | _ => a) 0

/-- Round the exact sum of values once to a format: NaN and ∞ − ∞ by R91, an exact zero by R157. DESIGN CHOICE: of three terms, one of
them a NaN and two opposite infinities, the NaN answers and no IV rises (05 R163; notes/assumptions/73.md). -/
def sumRound (f : Fmt) (rm : RM) (ftz : Bool) (l : List FVal) : Nat × Fl :=
  if l.any FVal.isNan then (f.nanB, 0)
  else if l.any fun v => v == .inf false then
    if l.any fun v => v == .inf true then (f.nanB, flIV) else (f.infB false, 0)
  else if l.any fun v => v == .inf true then (f.infB true, 0)
  else
    let e := minExp l
    let s := l.foldl (fun a v => a + v.scaled e) (0 : Int)
    if s = 0 then
      let neg := if l.all fun v => v.isZero then
          (if l.all FVal.sgn then true else if l.any FVal.sgn then rm == .rd else false)
        else rm == .rd
      (f.mk' neg 0 0, 0)
    else f.round rm ftz (decide (s < 0)) s.natAbs e false

/-- Addition (03 R88-R91). -/
def fAdd (f : Fmt) (rm : RM) (ftz : Bool) (x y : Nat) : FRes :=
  let a := f.valZ ftz x
  let b := f.valZ ftz y
  let r := sumRound f rm ftz [a, b]
  fres f [a, b] r.1 r.2

/-- A pattern with its sign flipped. -/
def Fmt.flip (f : Fmt) (x : Nat) : Nat :=
  if f.neg x then x - 2 ^ (f.fb + f.eb) else x + 2 ^ (f.fb + f.eb)

/-- Subtraction. -/
def fSub (f : Fmt) (rm : RM) (ftz : Bool) (x y : Nat) : FRes := fAdd f rm ftz x (f.flip y)

/-- Round a value once. -/
def roundVal (f : Fmt) (rm : RM) (ftz : Bool) (v : FVal) : Nat × Fl :=
  match v with
  | .nan _ => (f.nanB, 0)
  | .inf n => if f.hasInf then (f.infB n, 0) else (f.maxB n, flOF ||| flNX)
  | .num n m e => f.round rm ftz n m e false

/-- Multiplication. -/
def fMul (f : Fmt) (rm : RM) (ftz : Bool) (x y : Nat) : FRes :=
  let a := f.valZ ftz x
  let b := f.valZ ftz y
  let p := a.mul b
  let r := roundVal f rm ftz p.1
  fres f [a, b] r.1 (r.2 ||| flIf p.2 flIV)

/-- Fused multiply-add: IV whenever the product is 0·∞ (03 R88, R91). -/
def fFma (f : Fmt) (rm : RM) (ftz : Bool) (x y z : Nat) : FRes :=
  let a := f.valZ ftz x
  let b := f.valZ ftz y
  let c := f.valZ ftz z
  let p := a.mul b
  let r := sumRound f rm ftz [p.1, c]
  fres f [a, b, c] r.1 (r.2 ||| flIf p.2 flIV)

/-- Round the quotient n/d · 2^e to a format. -/
def Fmt.roundQ (f : Fmt) (rm : RM) (ftz neg : Bool) (n d : Nat) (e : Int) : Nat × Fl :=
  let k := Nat.log2 d + f.fb + 4 - Nat.log2 n
  f.round rm ftz neg (n * 2 ^ k / d) (e - k) (n * 2 ^ k % d != 0)

/-- Division (03 R91, R94). -/
def fDiv (f : Fmt) (rm : RM) (ftz : Bool) (x y : Nat) : FRes :=
  let a := f.valZ ftz x
  let b := f.valZ ftz y
  let neg := a.sgn != b.sgn
  let r : Nat × Fl :=
    match a, b with
    | .nan _, _ => (f.nanB, 0)
    | _, .nan _ => (f.nanB, 0)
    | .inf _, .inf _ => (f.nanB, flIV)
    | .inf _, _ => (f.infB neg, 0)
    | _, .inf _ => (f.mk' neg 0 0, 0)
    | .num _ m e, .num _ m' e' =>
      if m' = 0 then (if m = 0 then (f.nanB, flIV) else (f.infB neg, flDZ))
      else if m = 0 then (f.mk' neg 0 0, 0)
      else f.roundQ rm ftz neg m m' (e - e')
  fres f [a, b] r.1 r.2

/-- The integer square root, bit by bit from the top. -/
def isqrtGo : Nat → Nat → Nat → Nat
  | 0, _, r => r
  | k + 1, n, r => if (r + 2 ^ k) * (r + 2 ^ k) ≤ n then isqrtGo k n (r + 2 ^ k) else isqrtGo k n r

/-- The integer square root. -/
def isqrt (n : Nat) : Nat := isqrtGo (Nat.log2 n / 2 + 1) n 0

/-- Square root of a value, rounded once (03 R94; −0 gives −0). -/
def fSqrt (f : Fmt) (rm : RM) (ftz : Bool) (x : Nat) : FRes :=
  let a := f.valZ ftz x
  let r : Nat × Fl :=
    match a with
    | .nan _ => (f.nanB, 0)
    | .inf n => if n then (f.nanB, flIV) else (f.infB false, 0)
    | .num n m e =>
      if m = 0 then (f.mk' n 0 0, 0)
      else if n then (f.nanB, flIV)
      else
        let k := 2 * (f.fb + 4) + (e % 2).toNat
        let q := isqrt (m * 2 ^ k)
        f.round rm ftz false q ((e - k) / 2) (q * q != m * 2 ^ k)
  fres f [a] r.1 r.2

/-- The order of two patterns of one format as integers, −0 below +0 (03 R92). -/
def Fmt.key (f : Fmt) (x : Nat) : Int :=
  let mag := x % 2 ^ (f.fb + f.eb)
  if f.neg x then -(mag : Int) - 1 else mag

/-- A subnormal pattern read with FTZ as a zero. -/
def Fmt.flush (f : Fmt) (ftz : Bool) (x : Nat) : Nat := if ftz && f.isSub x then f.mk' (f.neg x) 0 0 else x

/-- IEEE minimum and maximum, and minimumNumber and maximumNumber where `num` (03 R92). -/
def fMinMax (f : Fmt) (mx num ftz : Bool) (x y : Nat) : FRes :=
  let x := f.flush ftz x
  let y := f.flush ftz y
  let a := f.val x
  let b := f.val y
  let pick := if decide (f.key x < f.key y) != mx then x else y
  let r :=
    if a.isNan && b.isNan then f.nanB
    else if a.isNan then (if num then y else f.nanB)
    else if b.isNan then (if num then x else f.nanB)
    else if f.key x = f.key y then x
    else pick
  fres f [a, b] r 0

/-- Three-way comparison, −0 equal to +0; none when unordered. -/
def fCmp (f : Fmt) (ftz : Bool) (x y : Nat) : Option Ordering :=
  let a := f.valZ ftz x
  let b := f.valZ ftz y
  if a.isNan || b.isNan then none
  else if a.isZero && b.isZero then some .eq
  else some (compare (f.key (f.flush ftz x)) (f.key (f.flush ftz y)))

/-- A comparison of R158 with its IV. -/
def fSet (f : Fmt) (cnd : Nat) (ftz : Bool) (x y : Nat) : Bool × Fl :=
  let a := f.val x
  let b := f.val y
  (fcond cnd (fCmp f ftz x y),
   flIf (a.isSig || b.isSig || (decide (8 ≤ cnd) && (a.isNan || b.isNan))) flIV)

/-- m · 2^e rounded to an integer, with whether it was inexact. -/
def roundInt (rm : RM) (neg : Bool) (m : Nat) (e : Int) : Int × Bool :=
  let r := roundShift rm neg m (-e) false
  ((if neg then -1 else 1) * (r.1 : Int), r.2)

/-- FRND: rounded to an integral value, no NX (03 R94, 05 R157). -/
def fRnd (f : Fmt) (rm : RM) (ftz : Bool) (x : Nat) : FRes :=
  let a := f.valZ ftz x
  let r : Nat :=
    match a with
    | .nan _ => f.nanB
    | .inf n => f.infB n
    | .num n m e => (f.round rm false n (roundInt rm n m e).1.natAbs 0 false).1
  fres f [a] r 0

/-- FLDEXP: a · 2^n, one rounding (05 R157, R159). -/
def fLdexp (f : Fmt) (rm : RM) (ftz : Bool) (x : Nat) (n : Int) : FRes :=
  let a := f.valZ ftz x
  let r : Nat × Fl :=
    match a with
    | .nan _ => (f.nanB, 0)
    | .inf s => (f.infB s, 0)
    | .num s m e => f.round rm ftz s m (e + max (-1000) (min 1000 n)) false
  fres f [a] r.1 r.2

/-- FEXPO (05 R159). -/
def fExpo (ftz : Bool) (x : Nat) : Word × Fl :=
  match f32.valZ ftz x with
  | .nan s => (0x7FFFFFFF, flIf s flIV)
  | .inf _ => (0x7FFFFFFF, 0)
  | .num _ m e => if m = 0 then (0x80000000, 0) else (BitVec.ofInt 32 ((Nat.log2 m : Int) + e), 0)

/-- FCLASS (05 R159). -/
def fClass (x : Nat) : Word :=
  let bit := match f32.val x with
    | .nan s => if s then 8 else 9
    | .inf n => if n then 0 else 7
    | .num n m _ =>
      if m = 0 then (if n then 3 else 4)
      else if f32.isSub x then (if n then 2 else 5) else (if n then 1 else 6)
  BitVec.ofNat 32 (2 ^ bit)

/-- A signed integer to a format (03 R96). -/
def intToF (f : Fmt) (rm : RM) (ftz : Bool) (i : Int) : Nat × Fl := f.round rm ftz (decide (i < 0)) i.natAbs 0 false

/-- A format to an integer range, flags by R96. -/
def fToInt (rm : RM) (v : FVal) (lo hi : Int) : Int × Fl :=
  match v with
  | .nan _ => (0, flIV)
  | .inf n => (if n then lo else hi, flIV)
  | .num n m e =>
    let r := roundInt rm n m (if e > 100 then 100 else e)
    if r.1 < lo then (lo, flIV) else if r.1 > hi then (hi, flIV) else (r.1, flIf r.2 flNX)

/-- A floating-point value to a format (03 R96), with NaN and infinity by the destination's rules. -/
def fToF (f : Fmt) (rm : RM) (ftz : Bool) (v : FVal) : Nat × Fl :=
  match v with
  | .nan s => (f.nanB, flIf (s || f.nan.isNone) flIV)
  | v => roundVal f rm ftz v

/-- Binary32 operations in RN with subnormals kept, as patterns, flags dropped: what engines compute with. -/
def rnAdd (x y : Nat) : Nat := (fAdd f32 .rn false x y).bits

/-- Binary32 subtraction in RN. -/
def rnSub (x y : Nat) : Nat := (fSub f32 .rn false x y).bits

/-- Binary32 multiplication in RN. -/
def rnMul (x y : Nat) : Nat := (fMul f32 .rn false x y).bits

/-- Binary32 fused multiply-add in RN. -/
def rnFma (x y z : Nat) : Nat := (fFma f32 .rn false x y z).bits

/-- Binary32 division in RN. -/
def rnDiv (x y : Nat) : Nat := (fDiv f32 .rn false x y).bits

/-- Binary32 1.0. -/
def one32 : Nat := 0x3F800000

/-- A dot product of exact products rounded once, plus a third product rounded again: FDOT3 and Dot3 (03 R94, 05 R160). -/
def fDot3 (rm : RM) (ftz : Bool) (a0 a1 a2 b0 b1 b2 : Nat) : FRes :=
  let v := fun x => f32.valZ ftz x
  let p0 := (v a0).mul (v b0)
  let p1 := (v a1).mul (v b1)
  let p2 := (v a2).mul (v b2)
  let r1 := sumRound f32 rm ftz [p0.1, p1.1]
  let r2 := sumRound f32 rm ftz [f32.val r1.1, p2.1]
  fres f32 [v a0, v a1, v a2, v b0, v b1, v b2] r2.1
    (r1.2 ||| r2.2 ||| flIf (p0.2 || p1.2 || p2.2) flIV)

/-- FLERP: d := b − a rounded, then t·d + a rounded once (03 R94). -/
def fLerp (rm : RM) (ftz : Bool) (a b t : Nat) : FRes :=
  let d := fSub f32 rm ftz b a
  let r := fFma f32 rm ftz t d.bits a
  let ins := [f32.valZ ftz a, f32.valZ ftz b, f32.valZ ftz t]
  fres f32 ins r.bits (d.fl ||| r.fl)

/-- HDOT2: two exact products and a binary32 addend, rounded once to binary32 (05 R163). -/
def hDot2 (f : Fmt) (rm : RM) (ftz : Bool) (a0 a1 b0 b1 c : Nat) : FRes :=
  let v := fun x => f.valZ ftz x
  let p0 := (v a0).mul (v b0)
  let p1 := (v a1).mul (v b1)
  let cv := f32.valZ ftz c
  let r := sumRound f32 rm ftz [p0.1, p1.1, cv]
  fres f32 [v a0, v a1, v b0, v b1, cv] r.1 (r.2 ||| flIf (p0.2 || p1.2) flIV)

/-- FCLAMP: Minimum(Maximum(x, lo), hi) (05 R159). -/
def fClamp (ftz : Bool) (x lo hi : Nat) : FRes :=
  let m := fMinMax f32 true false ftz x lo
  let r := fMinMax f32 false false ftz m.bits hi
  fres f32 [f32.val x, f32.val lo, f32.val hi] r.bits (m.fl ||| r.fl)

end Sys2Proof.Machine
end

