-- ==== Sys2Proof/Decode.lean ====
section
/-! DEFINITION. Decoding: from the words of the two streams to an instruction or a named rejection (02 R49-R72), and the
encoder written from the same tables. Every field is taken out here and nowhere else. -/

namespace Sys2Proof

/-- Why a word is no instruction: the code of cause group 1 and the lowest bit of the offending field (08 R254): 1 an
unassigned opcode or sub-function, 2 a must-be-zero field that is not zero, 4 an illegal value, 7 a clause header where an
instruction stands. -/
structure Illegal where
  code : Nat
  bit : Nat
  deriving DecidableEq, Repr

/-- What decoding answers. -/
abbrev Decoded := Except Illegal Instr

/-- The lowest bit of a must-be-zero field that is not zero: in MOD and XF each unused bit is a field of its own (02 R67), in an
unused slot the number comes before the kind (02 R62); a flow word's fields are whole (06 R196; notes/assumptions/41.md). -/
def offending (w : BitVec 96) (f : Nat × Nat) : Nat :=
  if 0x72 ≤ (w.extractLsb' 88 8).toNat ∧ (w.extractLsb' 88 8).toNat ≤ 0x79 then f.1
  else if 80 ≤ f.1 ∨ f.1 < 6 then f.1 + ((List.range f.2).find? fun j => w.getLsbD (f.1 + j)).getD 0
  else if f.2 = 11 ∧ w.extractLsb' f.1 9 = 0 then f.1 + 9 else f.1

/-- Refuse a C word one of whose must-be-zero fields, given as (lowest bit, width), is not zero (02 R62, R64, R67). -/
def zeros (w : BitVec 96) (fs : List (Nat × Nat)) (i : Instr) : Decoded :=
  match (fs.takeWhile (fun f => 80 ≤ f.1)).reverse.find? (fun f => w.extractLsb' f.1 f.2 != 0) with
  | some f => .error { code := 2, bit := offending w f }
  | none =>
    match (fs.dropWhile (fun f => 80 ≤ f.1)).find? (fun f => w.extractLsb' f.1 f.2 != 0) with
    | some f => .error { code := 2, bit := offending w f }
    | none => .ok i

/-- Refuse an A word one of whose must-be-zero fields is not zero; bits of the second word count on from 32 (02 R51, R54). -/
def zerosA (w0 : BitVec 32) (f0 : List (Nat × Nat)) (w1 : BitVec 32) (f1 : List (Nat × Nat)) (i : Instr) : Decoded :=
  match f0.find? fun f => w0.extractLsb' f.1 f.2 != 0 with
  | some f => .error { code := 2, bit := f.1 }
  | none =>
    match f1.find? fun f => w1.extractLsb' f.1 f.2 != 0 with
    | some f => .error { code := 2, bit := f.1 + 32 }
    | none => .ok i

/-- A source operand from its kind and number (02 R62). -/
def Src.dec (k : BitVec 2) (n : BitVec 9) : Src :=
  match k.toNat with
  | 0 => .v n
  | 1 => .c n
  | 2 => .queue n
  | _ => .konst n

/-- The operand field pair of a source (02 R61, R62). -/
def Src.enc : Src → BitVec 11
  | .v n => 0#2 ++ n
  | .c n => 1#2 ++ n
  | .queue n => 2#2 ++ n
  | .konst n => 3#2 ++ n

/-- A destination from its kind and number (02 R64). -/
def Dst.dec (k : BitVec 2) (n : BitVec 9) : Dst :=
  match k.toNat with
  | 0 => .v n
  | 1 => .c n
  | 2 => .queue n
  | _ => .none n

/-- The destination field pair (02 R61, R64). -/
def Dst.enc : Dst → BitVec 11
  | .v n => 0#2 ++ n
  | .c n => 1#2 ++ n
  | .queue n => 2#2 ++ n
  | .none n => 3#2 ++ n

/-- The guard, cache hint and scheduling fields of a C word (02 R61). -/
def Ctl.dec (w : BitVec 96) : Ctl :=
  { ga := w.extractLsb' 21 4, gb := w.extractLsb' 17 4, gc := w.extractLsb' 16 1, ch := w.extractLsb' 13 3,
    stall := w.extractLsb' 9 4, yld := w.extractLsb' 8 1, reuse := w.extractLsb' 6 2 }

/-- Bits [24:6] of a C word (02 R61). -/
def Ctl.enc (x : Ctl) : BitVec 19 := x.ga ++ x.gb ++ x.gc ++ x.ch ++ x.stall ++ x.yld ++ x.reuse

/-- A C word from its fields (02 R61). -/
def cWord (op mod : BitVec 8) (d s1 s2 s3 s4 : BitVec 11) (x : Ctl) (xf : BitVec 6) : BitVec 96 :=
  op ++ mod ++ d ++ s1 ++ s2 ++ s3 ++ s4 ++ x.enc ++ xf

/-- A flow word with its join and target fields (02 R61, 06 R196). -/
def flowWord (op : BitVec 8) (join target : BitVec 22) (x : Ctl) : BitVec 96 :=
  op ++ 0#8 ++ 0#11 ++ join ++ target ++ x.enc ++ 0#6

/-- Whether the major opcode of an A word makes it the first of two (02 R50, R56). -/
def aTwoWords (w0 : BitVec 32) : Bool :=
  [0x1B, 0x1E, 0x23, 0x27, 0x28, 0x2A].contains (w0.extractLsb' 26 6).toNat

/-- Decode an A-stream instruction from its word and the word after it, which only two-word forms read (02 R50-R58). -/
def decodeA (w0 w1 : BitVec 32) : Decoded :=
  match (w0.extractLsb' 26 6).toNat with
  | 0x00 =>
    match (w0.extractLsb' 0 8).toNat with
    | 0 => zerosA w0 [] w1 [] (.add (w0.extractLsb' 20 6) (w0.extractLsb' 14 6) (w0.extractLsb' 8 6))
    | 1 => zerosA w0 [] w1 [] (.sub (w0.extractLsb' 20 6) (w0.extractLsb' 14 6) (w0.extractLsb' 8 6))
    | 2 => zerosA w0 [] w1 [] (.and (w0.extractLsb' 20 6) (w0.extractLsb' 14 6) (w0.extractLsb' 8 6))
    | 3 => zerosA w0 [] w1 [] (.or (w0.extractLsb' 20 6) (w0.extractLsb' 14 6) (w0.extractLsb' 8 6))
    | 4 => zerosA w0 [] w1 [] (.xor (w0.extractLsb' 20 6) (w0.extractLsb' 14 6) (w0.extractLsb' 8 6))
    | 5 => zerosA w0 [] w1 [] (.andn (w0.extractLsb' 20 6) (w0.extractLsb' 14 6) (w0.extractLsb' 8 6))
    | 6 => zerosA w0 [] w1 [] (.shlA (w0.extractLsb' 20 6) (w0.extractLsb' 14 6) (w0.extractLsb' 8 6))
    | 7 => zerosA w0 [] w1 [] (.shrA (w0.extractLsb' 20 6) (w0.extractLsb' 14 6) (w0.extractLsb' 8 6))
    | 8 => zerosA w0 [] w1 [] (.sra (w0.extractLsb' 20 6) (w0.extractLsb' 14 6) (w0.extractLsb' 8 6))
    | 9 => zerosA w0 [] w1 [] (.rot (w0.extractLsb' 20 6) (w0.extractLsb' 14 6) (w0.extractLsb' 8 6))
    | 10 => zerosA w0 [] w1 [] (.slt (w0.extractLsb' 20 6) (w0.extractLsb' 14 6) (w0.extractLsb' 8 6))
    | 11 => zerosA w0 [] w1 [] (.sltu (w0.extractLsb' 20 6) (w0.extractLsb' 14 6) (w0.extractLsb' 8 6))
    | 12 => zerosA w0 [] w1 [] (.min (w0.extractLsb' 20 6) (w0.extractLsb' 14 6) (w0.extractLsb' 8 6))
    | 13 => zerosA w0 [] w1 [] (.max (w0.extractLsb' 20 6) (w0.extractLsb' 14 6) (w0.extractLsb' 8 6))
    | 14 => zerosA w0 [] w1 [] (.minu (w0.extractLsb' 20 6) (w0.extractLsb' 14 6) (w0.extractLsb' 8 6))
    | 15 => zerosA w0 [] w1 [] (.maxu (w0.extractLsb' 20 6) (w0.extractLsb' 14 6) (w0.extractLsb' 8 6))
    | 16 => zerosA w0 [] w1 [] (.mul (w0.extractLsb' 20 6) (w0.extractLsb' 14 6) (w0.extractLsb' 8 6))
    | 17 => zerosA w0 [] w1 [] (.mulh (w0.extractLsb' 20 6) (w0.extractLsb' 14 6) (w0.extractLsb' 8 6))
    | 18 => zerosA w0 [] w1 [] (.mulhu (w0.extractLsb' 20 6) (w0.extractLsb' 14 6) (w0.extractLsb' 8 6))
    | 19 => zerosA w0 [] w1 [] (.div (w0.extractLsb' 20 6) (w0.extractLsb' 14 6) (w0.extractLsb' 8 6))
    | 20 => zerosA w0 [] w1 [] (.divu (w0.extractLsb' 20 6) (w0.extractLsb' 14 6) (w0.extractLsb' 8 6))
    | 21 => zerosA w0 [] w1 [] (.rem (w0.extractLsb' 20 6) (w0.extractLsb' 14 6) (w0.extractLsb' 8 6))
    | 22 => zerosA w0 [] w1 [] (.remu (w0.extractLsb' 20 6) (w0.extractLsb' 14 6) (w0.extractLsb' 8 6))
    | 23 => zerosA w0 [(8, 6)] w1 [] (.clzA (w0.extractLsb' 20 6) (w0.extractLsb' 14 6))
    | 24 => zerosA w0 [(8, 6)] w1 [] (.popcA (w0.extractLsb' 20 6) (w0.extractLsb' 14 6))
    | 25 => zerosA w0 [(8, 6)] w1 [] (.brevA (w0.extractLsb' 20 6) (w0.extractLsb' 14 6))
    | 26 => zerosA w0 [(8, 6)] w1 [] (.sextb (w0.extractLsb' 20 6) (w0.extractLsb' 14 6))
    | 27 => zerosA w0 [(8, 6)] w1 [] (.sexth (w0.extractLsb' 20 6) (w0.extractLsb' 14 6))
    | 28 => zerosA w0 [] w1 [] (.bfeA (w0.extractLsb' 20 6) (w0.extractLsb' 14 6) (w0.extractLsb' 8 6))
    | 29 => zerosA w0 [] w1 [] (.bfiA (w0.extractLsb' 20 6) (w0.extractLsb' 14 6) (w0.extractLsb' 8 6))
    | _ => .error { code := 1, bit := 0 }
  | 0x01 => zerosA w0 [] w1 [] (.addi (w0.extractLsb' 20 6) (w0.extractLsb' 14 6) (w0.extractLsb' 0 14))
  | 0x02 => zerosA w0 [] w1 [] (.andi (w0.extractLsb' 20 6) (w0.extractLsb' 14 6) (w0.extractLsb' 0 14))
  | 0x03 => zerosA w0 [] w1 [] (.ori (w0.extractLsb' 20 6) (w0.extractLsb' 14 6) (w0.extractLsb' 0 14))
  | 0x04 => zerosA w0 [] w1 [] (.xori (w0.extractLsb' 20 6) (w0.extractLsb' 14 6) (w0.extractLsb' 0 14))
  | 0x05 => zerosA w0 [] w1 [] (.slti (w0.extractLsb' 20 6) (w0.extractLsb' 14 6) (w0.extractLsb' 0 14))
  | 0x06 => zerosA w0 [] w1 [] (.sltiu (w0.extractLsb' 20 6) (w0.extractLsb' 14 6) (w0.extractLsb' 0 14))
  | 0x07 =>
    match (w0.extractLsb' 12 2).toNat with
    | 0 => zerosA w0 [(5, 7)] w1 [] (.shli (w0.extractLsb' 20 6) (w0.extractLsb' 14 6) (w0.extractLsb' 0 5))
    | 1 => zerosA w0 [(5, 7)] w1 [] (.shri (w0.extractLsb' 20 6) (w0.extractLsb' 14 6) (w0.extractLsb' 0 5))
    | 2 => zerosA w0 [(5, 7)] w1 [] (.srai (w0.extractLsb' 20 6) (w0.extractLsb' 14 6) (w0.extractLsb' 0 5))
    | _ => zerosA w0 [(5, 7)] w1 [] (.roti (w0.extractLsb' 20 6) (w0.extractLsb' 14 6) (w0.extractLsb' 0 5))
  | 0x08 => zerosA w0 [] w1 [] (.lui (w0.extractLsb' 20 6) (w0.extractLsb' 0 20))
  | 0x09 => zerosA w0 [] w1 [] (.muli (w0.extractLsb' 20 6) (w0.extractLsb' 14 6) (w0.extractLsb' 0 14))
  | 0x0A => zerosA w0 [] w1 [] (.beq (w0.extractLsb' 20 6) (w0.extractLsb' 14 6) (w0.extractLsb' 0 14))
  | 0x0B => zerosA w0 [] w1 [] (.bne (w0.extractLsb' 20 6) (w0.extractLsb' 14 6) (w0.extractLsb' 0 14))
  | 0x0C => zerosA w0 [] w1 [] (.blt (w0.extractLsb' 20 6) (w0.extractLsb' 14 6) (w0.extractLsb' 0 14))
  | 0x0D => zerosA w0 [] w1 [] (.bge (w0.extractLsb' 20 6) (w0.extractLsb' 14 6) (w0.extractLsb' 0 14))
  | 0x0E => zerosA w0 [] w1 [] (.bltu (w0.extractLsb' 20 6) (w0.extractLsb' 14 6) (w0.extractLsb' 0 14))
  | 0x0F => zerosA w0 [] w1 [] (.bgeu (w0.extractLsb' 20 6) (w0.extractLsb' 14 6) (w0.extractLsb' 0 14))
  | 0x10 => zerosA w0 [] w1 [] (.jal (w0.extractLsb' 20 6) (w0.extractLsb' 0 20))
  | 0x11 => zerosA w0 [] w1 [] (.jalr (w0.extractLsb' 20 6) (w0.extractLsb' 14 6) (w0.extractLsb' 0 14))
  | 0x12 => zerosA w0 [(14, 6)] w1 [] (.dbnz (w0.extractLsb' 20 6) (w0.extractLsb' 0 14))
  | 0x13 => zerosA w0 [(20, 6)] w1 [] (.cls (w0.extractLsb' 0 20))
  | 0x14 => zerosA w0 [(20, 6), (8, 6), (0, 8)] w1 [] (.clsr (w0.extractLsb' 14 6))
  | 0x15 => zerosA w0 [(20, 6), (8, 6), (0, 8)] w1 [] (.spush (w0.extractLsb' 14 6))
  | 0x16 => zerosA w0 [(14, 6), (8, 6), (0, 8)] w1 [] (.bpop (w0.extractLsb' 20 6))
  | 0x17 => zerosA w0 [] w1 [] (.ldv (w0.extractLsb' 25 1) (w0.extractLsb' 22 3) (w0.extractLsb' 20 2)
      (w0.extractLsb' 15 5) (w0.extractLsb' 9 6) (w0.extractLsb' 0 9))
  | 0x18 => zerosA w0 [] w1 [] (.ldg (w0.extractLsb' 25 1) (w0.extractLsb' 22 3) (w0.extractLsb' 20 2)
      (w0.extractLsb' 15 5) (w0.extractLsb' 9 6) (w0.extractLsb' 0 9))
  | 0x19 => zerosA w0 [(25, 1)] w1 [] (.stv (w0.extractLsb' 22 3) (w0.extractLsb' 20 2) (w0.extractLsb' 15 5)
      (w0.extractLsb' 9 6) (w0.extractLsb' 0 9))
  | 0x1A => zerosA w0 [(25, 1)] w1 [] (.stx (w0.extractLsb' 22 3) (w0.extractLsb' 20 2) (w0.extractLsb' 15 5)
      (w0.extractLsb' 9 6) (w0.extractLsb' 0 9))
  | 0x1B => zerosA w0 [(0, 13)] w1 [(0, 27)] (.atv (w0.extractLsb' 22 4) (w0.extractLsb' 20 2) (w0.extractLsb' 15
      5) (w0.extractLsb' 14 1) (w0.extractLsb' 13 1) (w1.extractLsb' 30 2) (w1.extractLsb' 27 3))
  | 0x1C => zerosA w0 [] w1 [] (.lda (w0.extractLsb' 20 6) (w0.extractLsb' 15 5) (w0.extractLsb' 9 6)
      (w0.extractLsb' 6 3) (w0.extractLsb' 0 6))
  | 0x1D => zerosA w0 [] w1 [] (.sta (w0.extractLsb' 20 6) (w0.extractLsb' 15 5) (w0.extractLsb' 9 6)
      (w0.extractLsb' 6 3) (w0.extractLsb' 0 6))
  | 0x1E => zerosA w0 [(0, 5)] w1 [(0, 15)] (.ata (w0.extractLsb' 22 4) (w0.extractLsb' 16 6) (w0.extractLsb' 11 5)
      (w0.extractLsb' 5 6) (w1.extractLsb' 26 6) (w1.extractLsb' 20 6) (w1.extractLsb' 18 2) (w1.extractLsb' 15 3))
  | 0x1F => zerosA w0 [(22, 3), (20, 2)] w1 [] (.prf (w0.extractLsb' 25 1) (w0.extractLsb' 15 5) (w0.extractLsb' 9
      6) (w0.extractLsb' 0 9))
  | 0x20 => zerosA w0 [(25, 1)] w1 [] (.bld (w0.extractLsb' 20 5) (w0.extractLsb' 14 6) (w0.extractLsb' 0 14))
  | 0x21 => zerosA w0 [(25, 1), (8, 6)] w1 [] (.bset (w0.extractLsb' 20 5) (w0.extractLsb' 14 6) (w0.extractLsb' 0
      8))
  | 0x22 => zerosA w0 [(24, 2)] w1 [] (.tld (w0.extractLsb' 20 4) (w0.extractLsb' 14 6) (w0.extractLsb' 0 14))
  | 0x23 =>
    match (w0.extractLsb' 22 4).toNat with
    | 0 => zerosA w0 [(0, 8)] w1 [(0, 16)] (.cpyBar (w0.extractLsb' 18 4) (w0.extractLsb' 14 4) (w0.extractLsb' 8
        6) (w1.extractLsb' 22 10) (w1.extractLsb' 19 3) (w1.extractLsb' 16 3))
    | 1 => zerosA w0 [(0, 8)] w1 [(22, 4), (0, 16)] (.cpyCnt (w0.extractLsb' 18 4) (w0.extractLsb' 14 4)
        (w0.extractLsb' 8 6) (w1.extractLsb' 26 6) (w1.extractLsb' 19 3) (w1.extractLsb' 16 3))
    | _ => .error { code := 1, bit := 22 }
  | 0x24 =>
    match (w0.extractLsb' 0 8).toNat with
    | 0 => zerosA w0 [(20, 6)] w1 [] (.cwait (w0.extractLsb' 14 6) (w0.extractLsb' 8 6))
    | 1 => zerosA w0 [(20, 6)] w1 [] (.yieldc (w0.extractLsb' 14 6) (w0.extractLsb' 8 6))
    | _ => .error { code := 1, bit := 0 }
  | 0x25 =>
    match (w0.extractLsb' 10 4).toNat with
    | 0 => zerosA w0 [(20, 6)] w1 [] (.binit (w0.extractLsb' 14 6) (w0.extractLsb' 0 10))
    | 1 => zerosA w0 [(20, 6), (14, 6)] w1 [] (.barv (w0.extractLsb' 0 10))
    | 2 => zerosA w0 [(20, 6), (14, 6)] w1 [] (.bwaita (w0.extractLsb' 0 10))
    | 3 => zerosA w0 [(20, 6), (14, 6)] w1 [] (.barvw (w0.extractLsb' 0 10))
    | 4 => zerosA w0 [(20, 6)] w1 [] (.bexp (w0.extractLsb' 14 6) (w0.extractLsb' 0 10))
    | 5 => zerosA w0 [(14, 6)] w1 [] (.btry (w0.extractLsb' 20 6) (w0.extractLsb' 0 10))
    | _ => .error { code := 1, bit := 10 }
  | 0x26 =>
    match (w0.extractLsb' 9 2).toNat with
    | 0 => zerosA w0 [(20, 6), (14, 6), (0, 8)] w1 [] (.fenceAcq (w0.extractLsb' 11 3) (w0.extractLsb' 8 1))
    | 1 => zerosA w0 [(20, 6), (14, 6), (0, 8)] w1 [] (.fenceRel (w0.extractLsb' 11 3) (w0.extractLsb' 8 1))
    | 2 => zerosA w0 [(20, 6), (14, 6), (0, 8)] w1 [] (.fenceAcqrel (w0.extractLsb' 11 3) (w0.extractLsb' 8 1))
    | _ => .error { code := 4, bit := 9 }
  | 0x27 =>
    match (w0.extractLsb' 22 4).toNat with
    | 0 => zerosA w0 [(11, 2)] w1 [(0, 10)] (.mxbind (w0.extractLsb' 13 9) (w0.extractLsb' 6 5) (w0.extractLsb' 1
        5) (w0.extractLsb' 0 1) (w1.extractLsb' 27 5) (w1.extractLsb' 25 2) (w1.extractLsb' 22 3) (w1.extractLsb'
        20 2) (w1.extractLsb' 10 10))
    | 1 => zerosA w0 [(0, 10)] w1 [] (.mxloop (w0.extractLsb' 18 4) (w0.extractLsb' 12 6) (w0.extractLsb' 10 2)
        (w1.extractLsb' 20 12) (w1.extractLsb' 15 5) (w1.extractLsb' 11 4) (w1.extractLsb' 5 6) (w1.extractLsb' 4
        1) (w1.extractLsb' 0 4))
    | 2 => zerosA w0 [(0, 6)] w1 [] (.mxconv (w0.extractLsb' 18 4) (w0.extractLsb' 14 4) (w0.extractLsb' 8 6)
        (w0.extractLsb' 6 2) (w1.extractLsb' 20 12) (w1.extractLsb' 15 5) (w1.extractLsb' 11 4) (w1.extractLsb' 5
        6) (w1.extractLsb' 4 1) (w1.extractLsb' 0 4))
    | 3 => zerosA w0 [(0, 4)] w1 [(0, 32)] (.mxsel (w0.extractLsb' 20 2) (w0.extractLsb' 15 5) (w0.extractLsb' 14
        1) (w0.extractLsb' 10 4) (w0.extractLsb' 4 6))
    | 4 => zerosA w0 [(0, 22)] w1 [(0, 32)] .mxrel
    | 5 => zerosA w0 [(0, 16)] w1 [(0, 32)] (.mxstat (w0.extractLsb' 16 6))
    | _ => .error { code := 1, bit := 22 }
  | 0x28 => zerosA w0 [(23, 3), (0, 5)] w1 [(0, 12)] (.cover (w0.extractLsb' 22 1) (w0.extractLsb' 17 5)
      (w0.extractLsb' 11 6) (w0.extractLsb' 5 6) (w1.extractLsb' 28 4) (w1.extractLsb' 22 6) (w1.extractLsb' 12 10))
  | 0x29 =>
    match (w0.extractLsb' 0 8).toNat with
    | 0 => zerosA w0 [] w1 [] (.ralloc (w0.extractLsb' 20 6) (w0.extractLsb' 14 6) (w0.extractLsb' 8 6))
    | 1 => zerosA w0 [(20, 6)] w1 [] (.rcommit (w0.extractLsb' 14 6) (w0.extractLsb' 8 6))
    | 2 => zerosA w0 [(20, 6), (8, 6)] w1 [] (.rdone (w0.extractLsb' 14 6))
    | 3 => zerosA w0 [(8, 6)] w1 [] (.rinput (w0.extractLsb' 20 6) (w0.extractLsb' 14 6))
    | 4 => zerosA w0 [(14, 6), (8, 6)] w1 [] (.rdepth (w0.extractLsb' 20 6))
    | _ => .error { code := 1, bit := 0 }
  | 0x2A =>
    match (w0.extractLsb' 22 4).toNat with
    | 0 => zerosA w0 [(0, 8)] w1 [(0, 8)] (.tstore (w0.extractLsb' 18 4) (w0.extractLsb' 14 4) (w0.extractLsb' 8 6)
        (w1.extractLsb' 22 10) (w1.extractLsb' 8 14))
    | _ => .error { code := 1, bit := 22 }
  | 0x2B => zerosA w0 [(20, 6), (14, 6), (12, 2)] w1 [] (.waitf (w0.extractLsb' 0 12))
  | 0x2C =>
    match (w0.extractLsb' 10 4).toNat with
    | 0 => zerosA w0 [(20, 6), (14, 6), (0, 10)] w1 [] .nop
    | 1 => zerosA w0 [(14, 6)] w1 [] (.rdsr (w0.extractLsb' 20 6) (w0.extractLsb' 0 10))
    | 2 => zerosA w0 [(20, 6)] w1 [] (.wrsr (w0.extractLsb' 14 6) (w0.extractLsb' 0 10))
    | 3 => zerosA w0 [(20, 6), (14, 6)] w1 [] (.trap (w0.extractLsb' 0 10))
    | 4 => zerosA w0 [(20, 6), (14, 6), (0, 10)] w1 [] .tret
    | 5 => zerosA w0 [(20, 6), (14, 6), (0, 10)] w1 [] .exit
    | 6 => zerosA w0 [(20, 6), (14, 6), (0, 10)] w1 [] .yield
    | 7 => zerosA w0 [(20, 6), (14, 6), (0, 10)] w1 [] .csync
    | 8 => zerosA w0 [(20, 6), (14, 6), (0, 10)] w1 [] .haltd
    | 9 => zerosA w0 [(14, 6), (0, 10)] w1 [] (.rdtime (w0.extractLsb' 20 6))
    | _ => .error { code := 1, bit := 10 }
  | _ => .error { code := 1, bit := 26 }

/-- Decode a C-stream instruction word; the clause header 0xFF is no instruction (02 R61-R72). -/
def decodeC (w : BitVec 96) : Decoded :=
  let d := Dst.dec (w.extractLsb' 78 2) (w.extractLsb' 69 9)
  let s1 := Src.dec (w.extractLsb' 67 2) (w.extractLsb' 58 9)
  let s2 := Src.dec (w.extractLsb' 56 2) (w.extractLsb' 47 9)
  let s3 := Src.dec (w.extractLsb' 45 2) (w.extractLsb' 36 9)
  let s4 := Src.dec (w.extractLsb' 34 2) (w.extractLsb' 25 9)
  let x := Ctl.dec w
  match (w.extractLsb' 88 8).toNat with
  | 0x00 => zeros w [(84, 4), (80, 1), (36, 11), (25, 11), (0, 6)] (.fadd (w.extractLsb' 81 2) (w.extractLsb' 83 1)
      d s1 s2 x)
  | 0x01 => zeros w [(84, 4), (80, 1), (36, 11), (25, 11), (0, 6)] (.fsub (w.extractLsb' 81 2) (w.extractLsb' 83 1)
      d s1 s2 x)
  | 0x02 => zeros w [(84, 4), (80, 1), (36, 11), (25, 11), (0, 6)] (.fmul (w.extractLsb' 81 2) (w.extractLsb' 83 1)
      d s1 s2 x)
  | 0x03 => zeros w [(84, 4), (80, 1), (25, 11), (0, 6)] (.ffma (w.extractLsb' 81 2) (w.extractLsb' 83 1) d s1 s2
      s3 x)
  | 0x04 => zeros w [(84, 4), (80, 3), (36, 11), (25, 11), (0, 6)] (.fmin (w.extractLsb' 83 1) d s1 s2 x)
  | 0x05 => zeros w [(84, 4), (80, 3), (36, 11), (25, 11), (0, 6)] (.fmax (w.extractLsb' 83 1) d s1 s2 x)
  | 0x06 => zeros w [(84, 4), (80, 3), (36, 11), (25, 11), (0, 6)] (.fminn (w.extractLsb' 83 1) d s1 s2 x)
  | 0x07 => zeros w [(84, 4), (80, 3), (36, 11), (25, 11), (0, 6)] (.fmaxn (w.extractLsb' 83 1) d s1 s2 x)
  | 0x08 => zeros w [(80, 3), (36, 11), (25, 11), (0, 6)] (.fset (w.extractLsb' 84 4) (w.extractLsb' 83 1) d s1 s2
      x)
  | 0x09 => zeros w [(84, 4), (80, 3), (25, 11), (0, 6)] (.fclamp (w.extractLsb' 83 1) d s1 s2 s3 x)
  | 0x0A => zeros w [(84, 4), (80, 1), (47, 11), (36, 11), (25, 11), (0, 6)] (.frnd (w.extractLsb' 81 2)
      (w.extractLsb' 83 1) d s1 x)
  | 0x0B => zeros w [(80, 8), (47, 11), (36, 11), (25, 11), (0, 6)] (.fclass d s1 x)
  | 0x0C => zeros w [(84, 4), (80, 1), (36, 11), (25, 11), (0, 6)] (.fldexp (w.extractLsb' 81 2) (w.extractLsb' 83
      1) d s1 s2 x)
  | 0x0D => zeros w [(84, 4), (80, 3), (47, 11), (36, 11), (25, 11), (0, 6)] (.fexpo (w.extractLsb' 83 1) d s1 x)
  | 0x0E => zeros w [(84, 4), (80, 1), (36, 11), (25, 11), (0, 6)] (.fdiv (w.extractLsb' 81 2) (w.extractLsb' 83 1)
      d s1 s2 x)
  | 0x0F => zeros w [(84, 4), (80, 1), (47, 11), (36, 11), (25, 11), (0, 6)] (.fsqrt (w.extractLsb' 81 2)
      (w.extractLsb' 83 1) d s1 x)
  | 0x10 => zeros w [(80, 8), (47, 11), (36, 11), (25, 11), (0, 6)] (.frcp d s1 x)
  | 0x11 => zeros w [(80, 8), (47, 11), (36, 11), (25, 11), (0, 6)] (.frsq d s1 x)
  | 0x12 => zeros w [(80, 8), (47, 11), (36, 11), (25, 11), (0, 6)] (.fexp2 d s1 x)
  | 0x13 => zeros w [(80, 8), (47, 11), (36, 11), (25, 11), (0, 6)] (.flog2 d s1 x)
  | 0x14 => zeros w [(80, 8), (47, 11), (36, 11), (25, 11), (0, 6)] (.fsin d s1 x)
  | 0x15 => zeros w [(80, 8), (47, 11), (36, 11), (25, 11), (0, 6)] (.fcos d s1 x)
  | 0x16 => zeros w [(84, 4), (80, 1), (25, 11), (0, 6)] (.flerp (w.extractLsb' 81 2) (w.extractLsb' 83 1) d s1 s2
      s3 x)
  | 0x17 => zeros w [(84, 4), (80, 1), (36, 11), (25, 11), (0, 6)] (.fdot3 (w.extractLsb' 81 2) (w.extractLsb' 83
      1) d s1 s2 x)
  | 0x20 => zeros w [(84, 4), (36, 11), (25, 11), (0, 6)] (.hadd2 (w.extractLsb' 80 1) (w.extractLsb' 81 2)
      (w.extractLsb' 83 1) d s1 s2 x)
  | 0x21 => zeros w [(84, 4), (36, 11), (25, 11), (0, 6)] (.hmul2 (w.extractLsb' 80 1) (w.extractLsb' 81 2)
      (w.extractLsb' 83 1) d s1 s2 x)
  | 0x22 => zeros w [(84, 4), (25, 11), (0, 6)] (.hfma2 (w.extractLsb' 80 1) (w.extractLsb' 81 2) (w.extractLsb' 83
      1) d s1 s2 s3 x)
  | 0x23 => zeros w [(84, 4), (81, 2), (36, 11), (25, 11), (0, 6)] (.hmin2 (w.extractLsb' 80 1) (w.extractLsb' 83
      1) d s1 s2 x)
  | 0x24 => zeros w [(84, 4), (81, 2), (36, 11), (25, 11), (0, 6)] (.hmax2 (w.extractLsb' 80 1) (w.extractLsb' 83
      1) d s1 s2 x)
  | 0x25 => zeros w [(81, 2), (36, 11), (25, 11), (2, 4)] (.hset2 (w.extractLsb' 84 4) (w.extractLsb' 80 1)
      (w.extractLsb' 83 1) (w.extractLsb' 0 2) d s1 s2 x)
  | 0x26 => zeros w [(84, 4), (25, 11), (0, 6)] (.hdot2 (w.extractLsb' 80 1) (w.extractLsb' 81 2) (w.extractLsb' 83
      1) d s1 s2 s3 x)
  | 0x30 => zeros w [(85, 3), (81, 3), (36, 11), (25, 11), (0, 6)] (.iadd (w.extractLsb' 84 1) (w.extractLsb' 80 1)
      d s1 s2 x)
  | 0x31 => zeros w [(85, 3), (81, 3), (36, 11), (25, 11), (0, 6)] (.isub (w.extractLsb' 84 1) (w.extractLsb' 80 1)
      d s1 s2 x)
  | 0x32 => zeros w [(85, 3), (81, 3), (36, 11), (25, 11), (0, 6)] (.imul (w.extractLsb' 84 1) (w.extractLsb' 80 1)
      d s1 s2 x)
  | 0x33 => zeros w [(85, 3), (81, 3), (25, 11), (0, 6)] (.imad (w.extractLsb' 84 1) (w.extractLsb' 80 1) d s1 s2
      s3 x)
  | 0x34 => zeros w [(85, 3), (80, 4), (36, 11), (25, 11), (0, 6)] (.imulh (w.extractLsb' 84 1) d s1 s2 x)
  | 0x35 => zeros w [(85, 3), (80, 4), (36, 11), (25, 11), (0, 6)] (.imin (w.extractLsb' 84 1) d s1 s2 x)
  | 0x36 => zeros w [(85, 3), (80, 4), (36, 11), (25, 11), (0, 6)] (.imax (w.extractLsb' 84 1) d s1 s2 x)
  | 0x37 => zeros w [(81, 7), (47, 11), (36, 11), (25, 11), (0, 6)] (.iabs (w.extractLsb' 80 1) d s1 x)
  | 0x38 => zeros w [(85, 3), (81, 3), (25, 11), (0, 6)] (.iadd3 (w.extractLsb' 84 1) (w.extractLsb' 80 1) d s1 s2
      s3 x)
  | 0x39 => zeros w [(80, 4), (36, 11), (25, 11), (0, 6)] (.iset (w.extractLsb' 85 3) (w.extractLsb' 84 1) d s1 s2
      x)
  | 0x3A => zeros w [(25, 11), (0, 6)] (.ltab (w.extractLsb' 80 8) d s1 s2 s3 x)
  | 0x3B => zeros w [(80, 8), (36, 11), (25, 11), (0, 6)] (.shl d s1 s2 x)
  | 0x3C =>
    match (w.extractLsb' 84 1).toNat with
    | 0 => zeros w [(85, 3), (80, 4), (36, 11), (25, 11), (0, 6)] (.shr d s1 s2 x)
    | _ => zeros w [(85, 3), (80, 4), (36, 11), (25, 11), (0, 6)] (.shra d s1 s2 x)
  | 0x3D => zeros w [(80, 8), (25, 11), (0, 6)] (.shf d s1 s2 s3 x)
  | 0x3E =>
    match (w.extractLsb' 84 1).toNat with
    | 0 => zeros w [(85, 3), (80, 4), (36, 11), (25, 11), (0, 6)] (.bfe d s1 s2 x)
    | _ => zeros w [(85, 3), (80, 4), (36, 11), (25, 11), (0, 6)] (.bfes d s1 s2 x)
  | 0x3F => zeros w [(80, 8), (25, 11), (0, 6)] (.bfi d s1 s2 s3 x)
  | 0x40 => zeros w [(80, 8), (47, 11), (36, 11), (25, 11), (0, 6)] (.popc d s1 x)
  | 0x41 => zeros w [(80, 8), (47, 11), (36, 11), (25, 11), (0, 6)] (.clz d s1 x)
  | 0x42 => zeros w [(80, 8), (47, 11), (36, 11), (25, 11), (0, 6)] (.brev d s1 x)
  | 0x43 => zeros w [(86, 2), (81, 3), (25, 11), (0, 6)] (.idp4 (w.extractLsb' 84 1) (w.extractLsb' 85 1)
      (w.extractLsb' 80 1) d s1 s2 s3 x)
  | 0x44 => zeros w [(86, 2), (81, 3), (25, 11), (0, 6)] (.idp2 (w.extractLsb' 84 1) (w.extractLsb' 85 1)
      (w.extractLsb' 80 1) d s1 s2 s3 x)
  | 0x45 => zeros w [(85, 3), (81, 3), (25, 11), (0, 6)] (.isad (w.extractLsb' 84 1) (w.extractLsb' 80 1) d s1 s2
      s3 x)
  | 0x46 => zeros w [(85, 3), (80, 4), (25, 11), (0, 6)] (.iclamp (w.extractLsb' 84 1) d s1 s2 s3 x)
  | 0x50 => zeros w [(47, 11), (36, 11), (25, 11)] (.cvt (w.extractLsb' 83 5) (w.extractLsb' 81 2) (w.extractLsb'
      80 1) (w.extractLsb' 5 1) (w.extractLsb' 0 5) d s1 x)
  | 0x51 => zeros w [] (.pack (w.extractLsb' 83 5) (w.extractLsb' 81 2) (w.extractLsb' 80 1) (w.extractLsb' 5 1)
      (w.extractLsb' 0 5) d s1 s2 s3 s4 x)
  | 0x52 => zeros w [(47, 11), (36, 11), (25, 11), (0, 6)] (.unpk (w.extractLsb' 83 5) (w.extractLsb' 80 3) d s1 x)
  | 0x53 => zeros w [(85, 3), (80, 4), (47, 11), (36, 11), (25, 11), (0, 6)] (.rnenc (w.extractLsb' 84 1) d s1 x)
  | 0x54 => zeros w [(85, 3), (80, 4), (47, 11), (36, 11), (25, 11), (0, 6)] (.rndec (w.extractLsb' 84 1) d s1 x)
  | 0x55 => zeros w [(80, 8), (25, 11), (0, 6)] (.rnmad d s1 s2 s3 x)
  | 0x60 => zeros w [(80, 8), (47, 11), (36, 11), (25, 11), (0, 6)] (.mov d s1 x)
  | 0x61 => zeros w [(84, 4), (36, 11), (25, 11), (0, 6)] (.sel (w.extractLsb' 80 3) (w.extractLsb' 83 1) d s1 s2 x)
  | 0x62 => zeros w [(81, 7), (25, 11), (0, 6)] (.perm (w.extractLsb' 80 1) d s1 s2 s3 x)
  | 0x63 =>
    match (w.extractLsb' 80 2).toNat with
    | 0 => zeros w [(86, 2), (25, 11), (0, 6)] (.shflup (w.extractLsb' 82 3) (w.extractLsb' 85 1) d s1 s2 s3 x)
    | 1 => zeros w [(86, 2), (25, 11), (0, 6)] (.shfldn (w.extractLsb' 82 3) (w.extractLsb' 85 1) d s1 s2 s3 x)
    | 2 => zeros w [(86, 2), (25, 11), (0, 6)] (.shflx (w.extractLsb' 82 3) (w.extractLsb' 85 1) d s1 s2 s3 x)
    | _ => zeros w [(86, 2), (25, 11), (0, 6)] (.shflr (w.extractLsb' 82 3) (w.extractLsb' 85 1) d s1 s2 s3 x)
  | 0x64 =>
    match (w.extractLsb' 80 1).toNat with
    | 0 => zeros w [(81, 7), (36, 11), (25, 11), (0, 6)] (.bcast d s1 s2 x)
    | _ => zeros w [(81, 7), (47, 11), (36, 11), (25, 11), (0, 6)] (.bcastf d s1 x)
  | 0x65 =>
    match (w.extractLsb' 84 3).toNat with
    | 0 => zeros w [(87, 1), (58, 11), (47, 11), (36, 11), (25, 11), (0, 6)] (.voteall (w.extractLsb' 80 3)
        (w.extractLsb' 83 1) d x)
    | 1 => zeros w [(87, 1), (58, 11), (47, 11), (36, 11), (25, 11), (0, 6)] (.voteany (w.extractLsb' 80 3)
        (w.extractLsb' 83 1) d x)
    | 2 => zeros w [(87, 1), (58, 11), (47, 11), (36, 11), (25, 11), (0, 6)] (.votesame (w.extractLsb' 80 3)
        (w.extractLsb' 83 1) d x)
    | 3 => zeros w [(87, 1), (58, 11), (47, 11), (36, 11), (25, 11), (2, 4)] (.voteballot (w.extractLsb' 80 3)
        (w.extractLsb' 83 1) (w.extractLsb' 0 2) d x)
    | _ => .error { code := 4, bit := 84 }
  | 0x66 => zeros w [(80, 1), (47, 11), (36, 11), (25, 11), (0, 6)] (.reduce (w.extractLsb' 84 4) (w.extractLsb' 83
      1) (w.extractLsb' 81 2) d s1 x)
  | 0x67 => zeros w [(80, 1), (47, 11), (36, 11), (25, 11), (1, 5)] (.scan (w.extractLsb' 84 4) (w.extractLsb' 83
      1) (w.extractLsb' 81 2) (w.extractLsb' 0 1) d s1 x)
  | 0x68 =>
    match (w.extractLsb' 80 2).toNat with
    | 0 => zeros w [(82, 6), (47, 11), (36, 11), (25, 11), (2, 4)] (.matchany (w.extractLsb' 0 2) d s1 x)
    | 1 => zeros w [(82, 6), (47, 11), (36, 11), (25, 11), (0, 6)] (.matchlead d s1 x)
    | 2 => zeros w [(82, 6), (47, 11), (36, 11), (25, 11), (0, 6)] (.matchall d s1 x)
    | _ => .error { code := 4, bit := 80 }
  | 0x69 => zeros w [(85, 3), (47, 11), (36, 11), (25, 11), (2, 4)] (.regroup (w.extractLsb' 80 5) (w.extractLsb' 0
      2) d s1 x)
  | 0x6A => zeros w [(83, 5), (58, 11), (47, 11), (36, 11), (25, 11), (0, 6)] (.sreg (w.extractLsb' 80 3) d x)
  | 0x6B => zeros w [(84, 4), (69, 11), (47, 11), (36, 11), (25, 11), (0, 6)] (.pop (w.extractLsb' 80 4) s1 x)
  | 0x6C => zeros w [(80, 8), (47, 11), (36, 11), (25, 11), (0, 6)] (.drop d s1 x)
  | 0x6D => zeros w [(82, 6), (58, 11), (47, 11), (36, 11), (25, 11), (0, 6)] (.push (w.extractLsb' 80 2) d x)
  | 0x70 => zeros w [(25, 11), (0, 6)] (.pltab (w.extractLsb' 80 8) d s1 s2 s3 x)
  | 0x71 =>
    match (w.extractLsb' 81 1).toNat with
    | 0 => zeros w [(82, 6), (47, 11), (36, 11), (25, 11), (3, 3)] (.pmov (w.extractLsb' 80 1) (w.extractLsb' 0 3)
        d s1 x)
    | _ => zeros w [(84, 4), (47, 11), (36, 11), (25, 11), (3, 3)] (.pmovw (w.extractLsb' 80 1) (w.extractLsb' 82
        2) (w.extractLsb' 0 3) d s1 x)
  | 0x72 => zeros w [(80, 8), (69, 11), (0, 6)] (.brd (w.extractLsb' 47 22) (w.extractLsb' 25 22) x)
  | 0x73 => zeros w [(80, 8), (69, 11), (47, 22), (0, 6)] (.jmp (w.extractLsb' 25 22) x)
  | 0x74 => zeros w [(80, 8), (69, 11), (47, 22), (25, 22), (0, 6)] (.join x)
  | 0x75 => zeros w [(80, 8), (69, 11), (47, 22), (25, 22), (0, 6)] (.endc x)
  | 0x76 => zeros w [(80, 8), (69, 11), (47, 22), (0, 6)] (.callc (w.extractLsb' 25 22) x)
  | 0x77 => zeros w [(80, 8), (69, 11), (47, 22), (25, 22), (0, 6)] (.retc x)
  | 0x78 => zeros w [(80, 8), (69, 11), (58, 11), (47, 11), (36, 11), (25, 11), (0, 6)] (.kill x)
  | 0x79 => zeros w [(80, 8), (69, 11), (58, 11), (47, 11), (36, 11), (25, 11), (0, 6)] (.nopc x)
  | 0x7A => zeros w [(80, 8), (69, 11), (58, 11), (47, 11), (36, 11), (25, 11), (0, 6)] (.tfence x)
  | 0x7B => zeros w [(80, 8), (69, 11), (47, 11), (36, 11), (25, 11), (0, 6)] (.bwait s1 x)
  | 0x7C => zeros w [(80, 8), (69, 11), (47, 11), (36, 11), (25, 11), (0, 6)] (.barvc s1 x)
  | 0x7D => zeros w [(69, 11), (58, 11), (47, 11), (36, 11), (25, 11), (0, 6)] (.ctrap (w.extractLsb' 80 8) x)
  | 0x80 => zeros w [(84, 4), (36, 11), (25, 11), (1, 5)] (.ldl (w.extractLsb' 80 3) (w.extractLsb' 83 1)
      (w.extractLsb' 0 1) d s1 s2 x)
  | 0x81 => zeros w [(84, 4), (69, 11), (25, 11), (0, 6)] (.stl (w.extractLsb' 80 3) (w.extractLsb' 83 1) s1 s2 s3
      x)
  | 0x82 => zeros w [(84, 4), (36, 11), (25, 11), (1, 5)] (.lds (w.extractLsb' 80 3) (w.extractLsb' 83 1)
      (w.extractLsb' 0 1) d s1 s2 x)
  | 0x83 => zeros w [(84, 4), (69, 11), (25, 11), (0, 6)] (.sts (w.extractLsb' 80 3) (w.extractLsb' 83 1) s1 s2 s3
      x)
  | 0x84 => zeros w [(82, 1), (1, 5)] (.atoms (w.extractLsb' 84 4) (w.extractLsb' 83 1) (w.extractLsb' 80 2)
      (w.extractLsb' 0 1) d s1 s2 s3 s4 x)
  | 0x85 => zeros w [(84, 4), (36, 11), (25, 11), (1, 5)] (.ldc (w.extractLsb' 80 3) (w.extractLsb' 83 1)
      (w.extractLsb' 0 1) d s1 s2 x)
  | 0x86 => zeros w [(84, 4), (69, 11), (25, 11), (0, 6)] (.stc (w.extractLsb' 80 3) (w.extractLsb' 83 1) s1 s2 s3
      x)
  | 0x87 => zeros w [(82, 1), (1, 5)] (.atomc (w.extractLsb' 84 4) (w.extractLsb' 83 1) (w.extractLsb' 80 2)
      (w.extractLsb' 0 1) d s1 s2 s3 s4 x)
  | 0x90 => zeros w [(80, 4), (36, 11), (25, 11), (5, 1)] (.sample (w.extractLsb' 86 2) (w.extractLsb' 84 2)
      (w.extractLsb' 1 4) (w.extractLsb' 0 1) d s1 s2 x)
  | 0x91 => zeros w [(82, 4), (36, 11), (25, 11), (5, 1)] (.gath4 (w.extractLsb' 86 2) (w.extractLsb' 80 2)
      (w.extractLsb' 1 4) (w.extractLsb' 0 1) d s1 s2 x)
  | 0x92 => zeros w [(83, 5)] (.trace (w.extractLsb' 80 3) (w.extractLsb' 1 5) (w.extractLsb' 0 1) d s1 s2 s3 s4 x)
  | 0x93 => zeros w [(80, 8), (36, 11), (25, 11)] (.tresume (w.extractLsb' 1 5) (w.extractLsb' 0 1) d s1 s2 x)
  | 0x94 => zeros w [(80, 8), (25, 11), (0, 6)] (.treport d s1 s2 s3 x)
  | 0x95 => zeros w [(80, 8), (47, 11), (36, 11), (25, 11), (0, 6)] (.tcand d s1 x)
  | 0x96 => zeros w [(80, 8), (47, 11), (36, 11), (25, 11), (0, 6)] (.tquery d s1 x)
  | 0x97 => zeros w [(80, 8), (69, 11), (47, 11), (36, 11), (25, 11), (0, 6)] (.tabort s1 x)
  | 0xA0 => zeros w [(80, 8), (69, 11), (58, 11), (47, 11), (36, 11), (25, 11), (1, 5), (6, 10)] (.mxfeed
      (w.extractLsb' 0 1) x)
  | 0xFF => .error { code := 7, bit := 88 }
  | _ => .error { code := 1, bit := 88 }

/-- The one or two words of an A-stream instruction, the second zero where there is none (02 R50-R58). -/
def encodeA : Instr → Option (BitVec 32 × BitVec 32)
  | .add d a b =>
    some (0x00#6 ++ d ++ a ++ b ++ 0#8, 0#32)
  | .sub d a b =>
    some (0x00#6 ++ d ++ a ++ b ++ 1#8, 0#32)
  | .and d a b =>
    some (0x00#6 ++ d ++ a ++ b ++ 2#8, 0#32)
  | .or d a b =>
    some (0x00#6 ++ d ++ a ++ b ++ 3#8, 0#32)
  | .xor d a b =>
    some (0x00#6 ++ d ++ a ++ b ++ 4#8, 0#32)
  | .andn d a b =>
    some (0x00#6 ++ d ++ a ++ b ++ 5#8, 0#32)
  | .shlA d a b =>
    some (0x00#6 ++ d ++ a ++ b ++ 6#8, 0#32)
  | .shrA d a b =>
    some (0x00#6 ++ d ++ a ++ b ++ 7#8, 0#32)
  | .sra d a b =>
    some (0x00#6 ++ d ++ a ++ b ++ 8#8, 0#32)
  | .rot d a b =>
    some (0x00#6 ++ d ++ a ++ b ++ 9#8, 0#32)
  | .slt d a b =>
    some (0x00#6 ++ d ++ a ++ b ++ 10#8, 0#32)
  | .sltu d a b =>
    some (0x00#6 ++ d ++ a ++ b ++ 11#8, 0#32)
  | .min d a b =>
    some (0x00#6 ++ d ++ a ++ b ++ 12#8, 0#32)
  | .max d a b =>
    some (0x00#6 ++ d ++ a ++ b ++ 13#8, 0#32)
  | .minu d a b =>
    some (0x00#6 ++ d ++ a ++ b ++ 14#8, 0#32)
  | .maxu d a b =>
    some (0x00#6 ++ d ++ a ++ b ++ 15#8, 0#32)
  | .mul d a b =>
    some (0x00#6 ++ d ++ a ++ b ++ 16#8, 0#32)
  | .mulh d a b =>
    some (0x00#6 ++ d ++ a ++ b ++ 17#8, 0#32)
  | .mulhu d a b =>
    some (0x00#6 ++ d ++ a ++ b ++ 18#8, 0#32)
  | .div d a b =>
    some (0x00#6 ++ d ++ a ++ b ++ 19#8, 0#32)
  | .divu d a b =>
    some (0x00#6 ++ d ++ a ++ b ++ 20#8, 0#32)
  | .rem d a b =>
    some (0x00#6 ++ d ++ a ++ b ++ 21#8, 0#32)
  | .remu d a b =>
    some (0x00#6 ++ d ++ a ++ b ++ 22#8, 0#32)
  | .clzA d a =>
    some (0x00#6 ++ d ++ a ++ 0#6 ++ 23#8, 0#32)
  | .popcA d a =>
    some (0x00#6 ++ d ++ a ++ 0#6 ++ 24#8, 0#32)
  | .brevA d a =>
    some (0x00#6 ++ d ++ a ++ 0#6 ++ 25#8, 0#32)
  | .sextb d a =>
    some (0x00#6 ++ d ++ a ++ 0#6 ++ 26#8, 0#32)
  | .sexth d a =>
    some (0x00#6 ++ d ++ a ++ 0#6 ++ 27#8, 0#32)
  | .bfeA d a b =>
    some (0x00#6 ++ d ++ a ++ b ++ 28#8, 0#32)
  | .bfiA d a b =>
    some (0x00#6 ++ d ++ a ++ b ++ 29#8, 0#32)
  | .addi d a imm =>
    some (0x01#6 ++ d ++ a ++ imm, 0#32)
  | .andi d a imm =>
    some (0x02#6 ++ d ++ a ++ imm, 0#32)
  | .ori d a imm =>
    some (0x03#6 ++ d ++ a ++ imm, 0#32)
  | .xori d a imm =>
    some (0x04#6 ++ d ++ a ++ imm, 0#32)
  | .slti d a imm =>
    some (0x05#6 ++ d ++ a ++ imm, 0#32)
  | .sltiu d a imm =>
    some (0x06#6 ++ d ++ a ++ imm, 0#32)
  | .muli d a imm =>
    some (0x09#6 ++ d ++ a ++ imm, 0#32)
  | .jalr d a imm =>
    some (0x11#6 ++ d ++ a ++ imm, 0#32)
  | .shli d a sh =>
    some (0x07#6 ++ d ++ a ++ 0#2 ++ 0#7 ++ sh, 0#32)
  | .shri d a sh =>
    some (0x07#6 ++ d ++ a ++ 1#2 ++ 0#7 ++ sh, 0#32)
  | .srai d a sh =>
    some (0x07#6 ++ d ++ a ++ 2#2 ++ 0#7 ++ sh, 0#32)
  | .roti d a sh =>
    some (0x07#6 ++ d ++ a ++ 3#2 ++ 0#7 ++ sh, 0#32)
  | .lui d imm =>
    some (0x08#6 ++ d ++ imm, 0#32)
  | .beq a b off =>
    some (0x0A#6 ++ a ++ b ++ off, 0#32)
  | .bne a b off =>
    some (0x0B#6 ++ a ++ b ++ off, 0#32)
  | .blt a b off =>
    some (0x0C#6 ++ a ++ b ++ off, 0#32)
  | .bge a b off =>
    some (0x0D#6 ++ a ++ b ++ off, 0#32)
  | .bltu a b off =>
    some (0x0E#6 ++ a ++ b ++ off, 0#32)
  | .bgeu a b off =>
    some (0x0F#6 ++ a ++ b ++ off, 0#32)
  | .jal d imm =>
    some (0x10#6 ++ d ++ imm, 0#32)
  | .dbnz a off =>
    some (0x12#6 ++ a ++ 0#6 ++ off, 0#32)
  | .cls imm =>
    some (0x13#6 ++ 0#6 ++ imm, 0#32)
  | .clsr a =>
    some (0x14#6 ++ 0#6 ++ a ++ 0#6 ++ 0#8, 0#32)
  | .spush a =>
    some (0x15#6 ++ 0#6 ++ a ++ 0#6 ++ 0#8, 0#32)
  | .bpop d =>
    some (0x16#6 ++ d ++ 0#6 ++ 0#6 ++ 0#8, 0#32)
  | .ldv byp ord q k ai off =>
    some (0x17#6 ++ byp ++ ord ++ q ++ k ++ ai ++ off, 0#32)
  | .ldg byp ord q k ai off =>
    some (0x18#6 ++ byp ++ ord ++ q ++ k ++ ai ++ off, 0#32)
  | .stv ord q k ai off =>
    some (0x19#6 ++ 0#1 ++ ord ++ q ++ k ++ ai ++ off, 0#32)
  | .stx ord q k ai off =>
    some (0x1A#6 ++ 0#1 ++ ord ++ q ++ k ++ ai ++ off, 0#32)
  | .atv op q k ret sdq ord scope =>
    some (0x1B#6 ++ op ++ q ++ k ++ ret ++ sdq ++ 0#13, ord ++ scope ++ 0#27)
  | .lda d k ai ord off =>
    some (0x1C#6 ++ d ++ k ++ ai ++ ord ++ off, 0#32)
  | .sta v k ai ord off =>
    some (0x1D#6 ++ v ++ k ++ ai ++ ord ++ off, 0#32)
  | .ata op d k ai x y ord scope =>
    some (0x1E#6 ++ op ++ d ++ k ++ ai ++ 0#5, x ++ y ++ ord ++ scope ++ 0#15)
  | .prf l2 k ai off =>
    some (0x1F#6 ++ l2 ++ 0#3 ++ 0#2 ++ k ++ ai ++ off, 0#32)
  | .bld r a imm =>
    some (0x20#6 ++ 0#1 ++ r ++ a ++ imm, 0#32)
  | .bset r a fn =>
    some (0x21#6 ++ 0#1 ++ r ++ a ++ 0#6 ++ fn, 0#32)
  | .tld r a imm =>
    some (0x22#6 ++ 0#2 ++ r ++ a ++ imm, 0#32)
  | .cpyBar src dst c nb scope opt =>
    some (0x23#6 ++ 0#4 ++ src ++ dst ++ c ++ 0#8, nb ++ scope ++ opt ++ 0#16)
  | .cpyCnt src dst c k scope opt =>
    some (0x23#6 ++ 1#4 ++ src ++ dst ++ c ++ 0#8, k ++ 0#4 ++ scope ++ opt ++ 0#16)
  | .cwait a b =>
    some (0x24#6 ++ 0#6 ++ a ++ b ++ 0#8, 0#32)
  | .yieldc a b =>
    some (0x24#6 ++ 0#6 ++ a ++ b ++ 1#8, 0#32)
  | .binit a nb =>
    some (0x25#6 ++ 0#6 ++ a ++ 0#4 ++ nb, 0#32)
  | .barv nb =>
    some (0x25#6 ++ 0#6 ++ 0#6 ++ 1#4 ++ nb, 0#32)
  | .bwaita nb =>
    some (0x25#6 ++ 0#6 ++ 0#6 ++ 2#4 ++ nb, 0#32)
  | .barvw nb =>
    some (0x25#6 ++ 0#6 ++ 0#6 ++ 3#4 ++ nb, 0#32)
  | .bexp a nb =>
    some (0x25#6 ++ 0#6 ++ a ++ 4#4 ++ nb, 0#32)
  | .btry d nb =>
    some (0x25#6 ++ d ++ 0#6 ++ 5#4 ++ nb, 0#32)
  | .fenceAcq scope eng =>
    some (0x26#6 ++ 0#6 ++ 0#6 ++ scope ++ 0#2 ++ eng ++ 0#8, 0#32)
  | .fenceRel scope eng =>
    some (0x26#6 ++ 0#6 ++ 0#6 ++ scope ++ 1#2 ++ eng ++ 0#8, 0#32)
  | .fenceAcqrel scope eng =>
    some (0x26#6 ++ 0#6 ++ 0#6 ++ scope ++ 2#2 ++ eng ++ 0#8, 0#32)
  | .mxbind vb fa fb dist fo tiles prio q nb =>
    some (0x27#6 ++ 0#4 ++ vb ++ 0#2 ++ fa ++ fb ++ dist, fo ++ tiles ++ prio ++ q ++ nb ++ 0#10)
  | .mxloop ta c z ks mr o ob acc epi =>
    some (0x27#6 ++ 1#4 ++ ta ++ c ++ z ++ 0#10, ks ++ mr ++ o ++ ob ++ acc ++ epi)
  | .mxconv ti tc c z ks mr o ob acc epi =>
    some (0x27#6 ++ 2#4 ++ ti ++ tc ++ c ++ z ++ 0#6, ks ++ mr ++ o ++ ob ++ acc ++ epi)
  | .mxsel z k big o ob =>
    some (0x27#6 ++ 3#4 ++ z ++ k ++ big ++ o ++ ob ++ 0#4, 0#32)
  | .mxrel =>
    some (0x27#6 ++ 4#4 ++ 0#22, 0#32)
  | .mxstat d =>
    some (0x27#6 ++ 5#4 ++ d ++ 0#16, 0#32)
  | .cover eo bs f k t o nb =>
    some (0x28#6 ++ 0#3 ++ eo ++ bs ++ f ++ k ++ 0#5, t ++ o ++ nb ++ 0#12)
  | .ralloc d a b =>
    some (0x29#6 ++ d ++ a ++ b ++ 0#8, 0#32)
  | .rcommit a b =>
    some (0x29#6 ++ 0#6 ++ a ++ b ++ 1#8, 0#32)
  | .rdone a =>
    some (0x29#6 ++ 0#6 ++ a ++ 0#6 ++ 2#8, 0#32)
  | .rinput d a =>
    some (0x29#6 ++ d ++ a ++ 0#6 ++ 3#8, 0#32)
  | .rdepth d =>
    some (0x29#6 ++ d ++ 0#6 ++ 0#6 ++ 4#8, 0#32)
  | .tstore ts td p nb sig =>
    some (0x2A#6 ++ 0#4 ++ ts ++ td ++ p ++ 0#8, nb ++ sig ++ 0#8)
  | .waitf mask =>
    some (0x2B#6 ++ 0#6 ++ 0#6 ++ 0#2 ++ mask, 0#32)
  | .nop =>
    some (0x2C#6 ++ 0#6 ++ 0#6 ++ 0#4 ++ 0#10, 0#32)
  | .rdsr d idx =>
    some (0x2C#6 ++ d ++ 0#6 ++ 1#4 ++ idx, 0#32)
  | .wrsr a idx =>
    some (0x2C#6 ++ 0#6 ++ a ++ 2#4 ++ idx, 0#32)
  | .trap code =>
    some (0x2C#6 ++ 0#6 ++ 0#6 ++ 3#4 ++ code, 0#32)
  | .tret =>
    some (0x2C#6 ++ 0#6 ++ 0#6 ++ 4#4 ++ 0#10, 0#32)
  | .exit =>
    some (0x2C#6 ++ 0#6 ++ 0#6 ++ 5#4 ++ 0#10, 0#32)
  | .yield =>
    some (0x2C#6 ++ 0#6 ++ 0#6 ++ 6#4 ++ 0#10, 0#32)
  | .csync =>
    some (0x2C#6 ++ 0#6 ++ 0#6 ++ 7#4 ++ 0#10, 0#32)
  | .haltd =>
    some (0x2C#6 ++ 0#6 ++ 0#6 ++ 8#4 ++ 0#10, 0#32)
  | .rdtime d =>
    some (0x2C#6 ++ d ++ 0#6 ++ 9#4 ++ 0#10, 0#32)
  | _ => none

/-- The word of a C-stream instruction (02 R61-R72). -/
def encodeC : Instr → Option (BitVec 96)
  | .fadd rm ftz d a b x =>
    some (cWord 0x00#8 (0#4 ++ ftz ++ rm ++ 0#1) (d.enc) (a.enc) (b.enc) 0#11 0#11 x 0#6)
  | .fsub rm ftz d a b x =>
    some (cWord 0x01#8 (0#4 ++ ftz ++ rm ++ 0#1) (d.enc) (a.enc) (b.enc) 0#11 0#11 x 0#6)
  | .fmul rm ftz d a b x =>
    some (cWord 0x02#8 (0#4 ++ ftz ++ rm ++ 0#1) (d.enc) (a.enc) (b.enc) 0#11 0#11 x 0#6)
  | .ffma rm ftz d a b c x =>
    some (cWord 0x03#8 (0#4 ++ ftz ++ rm ++ 0#1) (d.enc) (a.enc) (b.enc) (c.enc) 0#11 x 0#6)
  | .fmin ftz d a b x =>
    some (cWord 0x04#8 (0#4 ++ ftz ++ 0#3) (d.enc) (a.enc) (b.enc) 0#11 0#11 x 0#6)
  | .fmax ftz d a b x =>
    some (cWord 0x05#8 (0#4 ++ ftz ++ 0#3) (d.enc) (a.enc) (b.enc) 0#11 0#11 x 0#6)
  | .fminn ftz d a b x =>
    some (cWord 0x06#8 (0#4 ++ ftz ++ 0#3) (d.enc) (a.enc) (b.enc) 0#11 0#11 x 0#6)
  | .fmaxn ftz d a b x =>
    some (cWord 0x07#8 (0#4 ++ ftz ++ 0#3) (d.enc) (a.enc) (b.enc) 0#11 0#11 x 0#6)
  | .fset cnd ftz d a b x =>
    some (cWord 0x08#8 (cnd ++ ftz ++ 0#3) (d.enc) (a.enc) (b.enc) 0#11 0#11 x 0#6)
  | .fclamp ftz d a lo hi x =>
    some (cWord 0x09#8 (0#4 ++ ftz ++ 0#3) (d.enc) (a.enc) (lo.enc) (hi.enc) 0#11 x 0#6)
  | .frnd rm ftz d a x =>
    some (cWord 0x0A#8 (0#4 ++ ftz ++ rm ++ 0#1) (d.enc) (a.enc) 0#11 0#11 0#11 x 0#6)
  | .fclass d a x =>
    some (cWord 0x0B#8 0#8 (d.enc) (a.enc) 0#11 0#11 0#11 x 0#6)
  | .fldexp rm ftz d a n x =>
    some (cWord 0x0C#8 (0#4 ++ ftz ++ rm ++ 0#1) (d.enc) (a.enc) (n.enc) 0#11 0#11 x 0#6)
  | .fexpo ftz d a x =>
    some (cWord 0x0D#8 (0#4 ++ ftz ++ 0#3) (d.enc) (a.enc) 0#11 0#11 0#11 x 0#6)
  | .fdiv rm ftz d a b x =>
    some (cWord 0x0E#8 (0#4 ++ ftz ++ rm ++ 0#1) (d.enc) (a.enc) (b.enc) 0#11 0#11 x 0#6)
  | .fsqrt rm ftz d a x =>
    some (cWord 0x0F#8 (0#4 ++ ftz ++ rm ++ 0#1) (d.enc) (a.enc) 0#11 0#11 0#11 x 0#6)
  | .frcp d a x =>
    some (cWord 0x10#8 0#8 (d.enc) (a.enc) 0#11 0#11 0#11 x 0#6)
  | .frsq d a x =>
    some (cWord 0x11#8 0#8 (d.enc) (a.enc) 0#11 0#11 0#11 x 0#6)
  | .fexp2 d a x =>
    some (cWord 0x12#8 0#8 (d.enc) (a.enc) 0#11 0#11 0#11 x 0#6)
  | .flog2 d a x =>
    some (cWord 0x13#8 0#8 (d.enc) (a.enc) 0#11 0#11 0#11 x 0#6)
  | .fsin d a x =>
    some (cWord 0x14#8 0#8 (d.enc) (a.enc) 0#11 0#11 0#11 x 0#6)
  | .fcos d a x =>
    some (cWord 0x15#8 0#8 (d.enc) (a.enc) 0#11 0#11 0#11 x 0#6)
  | .flerp rm ftz d a b t x =>
    some (cWord 0x16#8 (0#4 ++ ftz ++ rm ++ 0#1) (d.enc) (a.enc) (b.enc) (t.enc) 0#11 x 0#6)
  | .fdot3 rm ftz d a b x =>
    some (cWord 0x17#8 (0#4 ++ ftz ++ rm ++ 0#1) (d.enc) (a.enc) (b.enc) 0#11 0#11 x 0#6)
  | .hadd2 bf rm ftz d a b x =>
    some (cWord 0x20#8 (0#4 ++ ftz ++ rm ++ bf) (d.enc) (a.enc) (b.enc) 0#11 0#11 x 0#6)
  | .hmul2 bf rm ftz d a b x =>
    some (cWord 0x21#8 (0#4 ++ ftz ++ rm ++ bf) (d.enc) (a.enc) (b.enc) 0#11 0#11 x 0#6)
  | .hfma2 bf rm ftz d a b c x =>
    some (cWord 0x22#8 (0#4 ++ ftz ++ rm ++ bf) (d.enc) (a.enc) (b.enc) (c.enc) 0#11 x 0#6)
  | .hmin2 bf ftz d a b x =>
    some (cWord 0x23#8 (0#4 ++ ftz ++ 0#2 ++ bf) (d.enc) (a.enc) (b.enc) 0#11 0#11 x 0#6)
  | .hmax2 bf ftz d a b x =>
    some (cWord 0x24#8 (0#4 ++ ftz ++ 0#2 ++ bf) (d.enc) (a.enc) (b.enc) 0#11 0#11 x 0#6)
  | .hset2 cnd bf ftz comb d a b x =>
    some (cWord 0x25#8 (cnd ++ ftz ++ 0#2 ++ bf) (d.enc) (a.enc) (b.enc) 0#11 0#11 x (0#4 ++ comb))
  | .hdot2 bf rm ftz d a b c x =>
    some (cWord 0x26#8 (0#4 ++ ftz ++ rm ++ bf) (d.enc) (a.enc) (b.enc) (c.enc) 0#11 x 0#6)
  | .iadd u sat d a b x =>
    some (cWord 0x30#8 (0#3 ++ u ++ 0#3 ++ sat) (d.enc) (a.enc) (b.enc) 0#11 0#11 x 0#6)
  | .isub u sat d a b x =>
    some (cWord 0x31#8 (0#3 ++ u ++ 0#3 ++ sat) (d.enc) (a.enc) (b.enc) 0#11 0#11 x 0#6)
  | .imul u sat d a b x =>
    some (cWord 0x32#8 (0#3 ++ u ++ 0#3 ++ sat) (d.enc) (a.enc) (b.enc) 0#11 0#11 x 0#6)
  | .imad u sat d a b c x =>
    some (cWord 0x33#8 (0#3 ++ u ++ 0#3 ++ sat) (d.enc) (a.enc) (b.enc) (c.enc) 0#11 x 0#6)
  | .imulh u d a b x =>
    some (cWord 0x34#8 (0#3 ++ u ++ 0#4) (d.enc) (a.enc) (b.enc) 0#11 0#11 x 0#6)
  | .imin u d a b x =>
    some (cWord 0x35#8 (0#3 ++ u ++ 0#4) (d.enc) (a.enc) (b.enc) 0#11 0#11 x 0#6)
  | .imax u d a b x =>
    some (cWord 0x36#8 (0#3 ++ u ++ 0#4) (d.enc) (a.enc) (b.enc) 0#11 0#11 x 0#6)
  | .iabs sat d a x =>
    some (cWord 0x37#8 (0#7 ++ sat) (d.enc) (a.enc) 0#11 0#11 0#11 x 0#6)
  | .iadd3 u sat d a b c x =>
    some (cWord 0x38#8 (0#3 ++ u ++ 0#3 ++ sat) (d.enc) (a.enc) (b.enc) (c.enc) 0#11 x 0#6)
  | .iset cnd u d a b x =>
    some (cWord 0x39#8 (cnd ++ u ++ 0#4) (d.enc) (a.enc) (b.enc) 0#11 0#11 x 0#6)
  | .ltab tbl d a b c x =>
    some (cWord 0x3A#8 (tbl) (d.enc) (a.enc) (b.enc) (c.enc) 0#11 x 0#6)
  | .shl d a b x =>
    some (cWord 0x3B#8 0#8 (d.enc) (a.enc) (b.enc) 0#11 0#11 x 0#6)
  | .shr d a b x =>
    some (cWord 0x3C#8 (0#3 ++ 0#1 ++ 0#4) (d.enc) (a.enc) (b.enc) 0#11 0#11 x 0#6)
  | .shra d a b x =>
    some (cWord 0x3C#8 (0#3 ++ 1#1 ++ 0#4) (d.enc) (a.enc) (b.enc) 0#11 0#11 x 0#6)
  | .shf d a b c x =>
    some (cWord 0x3D#8 0#8 (d.enc) (a.enc) (b.enc) (c.enc) 0#11 x 0#6)
  | .bfe d a b x =>
    some (cWord 0x3E#8 (0#3 ++ 0#1 ++ 0#4) (d.enc) (a.enc) (b.enc) 0#11 0#11 x 0#6)
  | .bfes d a b x =>
    some (cWord 0x3E#8 (0#3 ++ 1#1 ++ 0#4) (d.enc) (a.enc) (b.enc) 0#11 0#11 x 0#6)
  | .bfi d a b c x =>
    some (cWord 0x3F#8 0#8 (d.enc) (a.enc) (b.enc) (c.enc) 0#11 x 0#6)
  | .popc d a x =>
    some (cWord 0x40#8 0#8 (d.enc) (a.enc) 0#11 0#11 0#11 x 0#6)
  | .clz d a x =>
    some (cWord 0x41#8 0#8 (d.enc) (a.enc) 0#11 0#11 0#11 x 0#6)
  | .brev d a x =>
    some (cWord 0x42#8 0#8 (d.enc) (a.enc) 0#11 0#11 0#11 x 0#6)
  | .idp4 u ub sat d a b c x =>
    some (cWord 0x43#8 (0#2 ++ ub ++ u ++ 0#3 ++ sat) (d.enc) (a.enc) (b.enc) (c.enc) 0#11 x 0#6)
  | .idp2 u ub sat d a b c x =>
    some (cWord 0x44#8 (0#2 ++ ub ++ u ++ 0#3 ++ sat) (d.enc) (a.enc) (b.enc) (c.enc) 0#11 x 0#6)
  | .isad u sat d a b c x =>
    some (cWord 0x45#8 (0#3 ++ u ++ 0#3 ++ sat) (d.enc) (a.enc) (b.enc) (c.enc) 0#11 x 0#6)
  | .iclamp u d a lo hi x =>
    some (cWord 0x46#8 (0#3 ++ u ++ 0#4) (d.enc) (a.enc) (lo.enc) (hi.enc) 0#11 x 0#6)
  | .cvt dt rm sat ftz st d a x =>
    some (cWord 0x50#8 (dt ++ rm ++ sat) (d.enc) (a.enc) 0#11 0#11 0#11 x (ftz ++ st))
  | .pack dt rm sat ftz st d a b c e x =>
    some (cWord 0x51#8 (dt ++ rm ++ sat) (d.enc) (a.enc) (b.enc) (c.enc) (e.enc) x (ftz ++ st))
  | .unpk st j d a x =>
    some (cWord 0x52#8 (st ++ j) (d.enc) (a.enc) 0#11 0#11 0#11 x 0#6)
  | .rnenc u d a x =>
    some (cWord 0x53#8 (0#3 ++ u ++ 0#4) (d.enc) (a.enc) 0#11 0#11 0#11 x 0#6)
  | .rndec u d a x =>
    some (cWord 0x54#8 (0#3 ++ u ++ 0#4) (d.enc) (a.enc) 0#11 0#11 0#11 x 0#6)
  | .rnmad d a b c x =>
    some (cWord 0x55#8 0#8 (d.enc) (a.enc) (b.enc) (c.enc) 0#11 x 0#6)
  | .mov d a x =>
    some (cWord 0x60#8 0#8 (d.enc) (a.enc) 0#11 0#11 0#11 x 0#6)
  | .sel pr neg d a b x =>
    some (cWord 0x61#8 (0#4 ++ neg ++ pr) (d.enc) (a.enc) (b.enc) 0#11 0#11 x 0#6)
  | .perm act d a i f x =>
    some (cWord 0x62#8 (0#7 ++ act) (d.enc) (a.enc) (i.enc) (f.enc) 0#11 x 0#6)
  | .shflup w act d a n f x =>
    some (cWord 0x63#8 (0#2 ++ act ++ w ++ 0#2) (d.enc) (a.enc) (n.enc) (f.enc) 0#11 x 0#6)
  | .shfldn w act d a n f x =>
    some (cWord 0x63#8 (0#2 ++ act ++ w ++ 1#2) (d.enc) (a.enc) (n.enc) (f.enc) 0#11 x 0#6)
  | .shflx w act d a n f x =>
    some (cWord 0x63#8 (0#2 ++ act ++ w ++ 2#2) (d.enc) (a.enc) (n.enc) (f.enc) 0#11 x 0#6)
  | .shflr w act d a n f x =>
    some (cWord 0x63#8 (0#2 ++ act ++ w ++ 3#2) (d.enc) (a.enc) (n.enc) (f.enc) 0#11 x 0#6)
  | .bcast d a i x =>
    some (cWord 0x64#8 (0#7 ++ 0#1) (d.enc) (a.enc) (i.enc) 0#11 0#11 x 0#6)
  | .bcastf d a x =>
    some (cWord 0x64#8 (0#7 ++ 1#1) (d.enc) (a.enc) 0#11 0#11 0#11 x 0#6)
  | .voteall pr neg d x =>
    some (cWord 0x65#8 (0#1 ++ 0#3 ++ neg ++ pr) (d.enc) 0#11 0#11 0#11 0#11 x 0#6)
  | .voteany pr neg d x =>
    some (cWord 0x65#8 (0#1 ++ 1#3 ++ neg ++ pr) (d.enc) 0#11 0#11 0#11 0#11 x 0#6)
  | .votesame pr neg d x =>
    some (cWord 0x65#8 (0#1 ++ 2#3 ++ neg ++ pr) (d.enc) 0#11 0#11 0#11 0#11 x 0#6)
  | .voteballot pr neg w d x =>
    some (cWord 0x65#8 (0#1 ++ 3#3 ++ neg ++ pr) (d.enc) 0#11 0#11 0#11 0#11 x (0#4 ++ w))
  | .reduce op ftz rm d a x =>
    some (cWord 0x66#8 (op ++ ftz ++ rm ++ 0#1) (d.enc) (a.enc) 0#11 0#11 0#11 x 0#6)
  | .scan op ftz rm ex d a x =>
    some (cWord 0x67#8 (op ++ ftz ++ rm ++ 0#1) (d.enc) (a.enc) 0#11 0#11 0#11 x (0#5 ++ ex))
  | .matchany w d a x =>
    some (cWord 0x68#8 (0#6 ++ 0#2) (d.enc) (a.enc) 0#11 0#11 0#11 x (0#4 ++ w))
  | .matchlead d a x =>
    some (cWord 0x68#8 (0#6 ++ 1#2) (d.enc) (a.enc) 0#11 0#11 0#11 x 0#6)
  | .matchall d a x =>
    some (cWord 0x68#8 (0#6 ++ 2#2) (d.enc) (a.enc) 0#11 0#11 0#11 x 0#6)
  | .regroup c n d key x =>
    some (cWord 0x69#8 (0#3 ++ c) (d.enc) (key.enc) 0#11 0#11 0#11 x (0#4 ++ n))
  | .sreg sel d x =>
    some (cWord 0x6A#8 (0#5 ++ sel) (d.enc) 0#11 0#11 0#11 0#11 x 0#6)
  | .pop n q x =>
    some (cWord 0x6B#8 (0#4 ++ n) 0#11 (q.enc) 0#11 0#11 0#11 x 0#6)
  | .drop d q x =>
    some (cWord 0x6C#8 0#8 (d.enc) (q.enc) 0#11 0#11 0#11 x 0#6)
  | .push n d x =>
    some (cWord 0x6D#8 (0#6 ++ n) (d.enc) 0#11 0#11 0#11 0#11 x 0#6)
  | .pltab tbl d a b c x =>
    some (cWord 0x70#8 (tbl) (d.enc) (a.enc) (b.enc) (c.enc) 0#11 x 0#6)
  | .pmov toPred pr d a x =>
    some (cWord 0x71#8 (0#6 ++ 0#1 ++ toPred) (d.enc) (a.enc) 0#11 0#11 0#11 x (0#3 ++ pr))
  | .pmovw toPred w pr d a x =>
    some (cWord 0x71#8 (0#4 ++ w ++ 1#1 ++ toPred) (d.enc) (a.enc) 0#11 0#11 0#11 x (0#3 ++ pr))
  | .kill x =>
    some (cWord 0x78#8 0#8 0#11 0#11 0#11 0#11 0#11 x 0#6)
  | .nopc x =>
    some (cWord 0x79#8 0#8 0#11 0#11 0#11 0#11 0#11 x 0#6)
  | .tfence x =>
    some (cWord 0x7A#8 0#8 0#11 0#11 0#11 0#11 0#11 x 0#6)
  | .bwait a x =>
    some (cWord 0x7B#8 0#8 0#11 (a.enc) 0#11 0#11 0#11 x 0#6)
  | .barvc a x =>
    some (cWord 0x7C#8 0#8 0#11 (a.enc) 0#11 0#11 0#11 x 0#6)
  | .ctrap code x =>
    some (cWord 0x7D#8 (code) 0#11 0#11 0#11 0#11 0#11 x 0#6)
  | .ldl size acq fl d a b x =>
    some (cWord 0x80#8 (0#4 ++ acq ++ size) (d.enc) (a.enc) (b.enc) 0#11 0#11 x (0#5 ++ fl))
  | .stl size rel a b c x =>
    some (cWord 0x81#8 (0#4 ++ rel ++ size) 0#11 (a.enc) (b.enc) (c.enc) 0#11 x 0#6)
  | .lds size acq fl d a b x =>
    some (cWord 0x82#8 (0#4 ++ acq ++ size) (d.enc) (a.enc) (b.enc) 0#11 0#11 x (0#5 ++ fl))
  | .sts size rel a b c x =>
    some (cWord 0x83#8 (0#4 ++ rel ++ size) 0#11 (a.enc) (b.enc) (c.enc) 0#11 x 0#6)
  | .atoms op ret ord fl d a b c e x =>
    some (cWord 0x84#8 (op ++ ret ++ 0#1 ++ ord) (d.enc) (a.enc) (b.enc) (c.enc) (e.enc) x (0#5 ++ fl))
  | .ldc size acq fl d a b x =>
    some (cWord 0x85#8 (0#4 ++ acq ++ size) (d.enc) (a.enc) (b.enc) 0#11 0#11 x (0#5 ++ fl))
  | .stc size rel a b c x =>
    some (cWord 0x86#8 (0#4 ++ rel ++ size) 0#11 (a.enc) (b.enc) (c.enc) 0#11 x 0#6)
  | .atomc op ret ord fl d a b c e x =>
    some (cWord 0x87#8 (op ++ ret ++ 0#1 ++ ord) (d.enc) (a.enc) (b.enc) (c.enc) (e.enc) x (0#5 ++ fl))
  | .sample addr filt t fl d a lod x =>
    some (cWord 0x90#8 (addr ++ filt ++ 0#4) (d.enc) (a.enc) (lod.enc) 0#11 0#11 x (0#1 ++ t ++ fl))
  | .gath4 addr chan t fl d a lod x =>
    some (cWord 0x91#8 (addr ++ 0#4 ++ chan) (d.enc) (a.enc) (lod.enc) 0#11 0#11 x (0#1 ++ t ++ fl))
  | .trace modf b fl d ray s root mask x =>
    some (cWord 0x92#8 (0#5 ++ modf) (d.enc) (ray.enc) (s.enc) (root.enc) (mask.enc) x (b ++ fl))
  | .tresume b fl d ray s x =>
    some (cWord 0x93#8 0#8 (d.enc) (ray.enc) (s.enc) 0#11 0#11 x (b ++ fl))
  | .treport d s t w x =>
    some (cWord 0x94#8 0#8 (d.enc) (s.enc) (t.enc) (w.enc) 0#11 x 0#6)
  | .tcand d s x =>
    some (cWord 0x95#8 0#8 (d.enc) (s.enc) 0#11 0#11 0#11 x 0#6)
  | .tquery d s x =>
    some (cWord 0x96#8 0#8 (d.enc) (s.enc) 0#11 0#11 0#11 x 0#6)
  | .tabort s x =>
    some (cWord 0x97#8 0#8 0#11 (s.enc) 0#11 0#11 0#11 x 0#6)
  | .mxfeed fl x =>
    some (cWord 0xA0#8 0#8 0#11 0#11 0#11 0#11 0#11 x (0#5 ++ fl))
  | .brd join target x => some (flowWord 0x72#8 join target x)
  | .jmp target x => some (flowWord 0x73#8 0#22 target x)
  | .join x => some (flowWord 0x74#8 0#22 0#22 x)
  | .endc x => some (flowWord 0x75#8 0#22 0#22 x)
  | .callc target x => some (flowWord 0x76#8 0#22 target x)
  | .retc x => some (flowWord 0x77#8 0#22 0#22 x)
  | _ => none

/-- The words of an instruction, the lowest address first (02 R49, R60); events have none. -/
def encode (i : Instr) : List (BitVec 32) :=
  match encodeA i with
  | some (w0, w1) => if aTwoWords w0 then [w0, w1] else [w0]
  | none =>
    match encodeC i with
    | some w => [w.extractLsb' 0 32, w.extractLsb' 32 32, w.extractLsb' 64 32]
    | none => []

/-- A clause header (02 R69). -/
structure Header where
  wait : BitVec 12
  seta : Nat
  setb : Nat
  count : Nat
  joinpt : Bool
  kc : Word
  deriving DecidableEq, Repr

/-- Whether a C word is a header (02 R69). -/
def isHeader (w : BitVec 96) : Bool := w.extractLsb' 88 8 == 0xFF

/-- The fields of a header, or the breach of R69. -/
def decodeHeader (w : BitVec 96) : Except Illegal Header :=
  let seta := (w.extractLsb' 72 4).toNat
  let setb := (w.extractLsb' 68 4).toNat
  let count := (w.extractLsb' 63 5).toNat
  if 12 ≤ seta ∧ seta ≤ 14 then .error { code := 4, bit := 72 }
  else if (12 ≤ setb ∧ setb ≤ 14) ∨ (setb = seta ∧ setb ≠ 15) then .error { code := 4, bit := 68 }
  else if count = 0 then .error { code := 4, bit := 63 }
  else if w.extractLsb' 32 30 ≠ 0 then .error { code := 2, bit := 32 }
  else .ok { wait := w.extractLsb' 76 12, seta, setb, count, joinpt := w.getLsbD 62, kc := w.extractLsb' 0 32 }

/-- The instruction of a word numbered as the opcode table numbers its bits: an A-stream word of 32 bits or pair of 64, or a
C-stream word of 96. -/
def decodeTableWord (nbits w : Nat) : Option Instr :=
  if 96 ≤ nbits then (decodeC (BitVec.ofNat 96 w)).toOption
  else (decodeA (BitVec.ofNat 32 w) (BitVec.ofNat 32 (w / 2 ^ 32))).toOption

end Sys2Proof
end

