-- ==== Sys2Proof/Config.lean ====
section
/-! DEFINITION. What the manual leaves open, as constants without a body: nothing can be proved about their values.
Each is applied to a counter or to operands (notes/assumptions/1.md, 12.md, 13.md). -/

namespace Sys2Proof.Config

/-- Whose turn it is when the agenda is empty: whether the A-stream's (else the C-stream's), which group, which split, the
time that passes first in ticks, and the event, if it is an event's turn (01 R20, R29; 03 R112: the order between agents is
left to the device). -/
opaque freeTurn : Nat → Bool × Nat × Nat × Nat × Option Instr

/-- A free bit: whether a plain load is served by a line that L1 holds (09 R284), whether an access uses a cached
translation (10 R296). -/
opaque freeBit : Nat → Bool

/-- A free number: which free frame a grant returns (10 R298), and where else a choice among several is open. -/
opaque freeNat : Nat → Nat

/-- The choice of an approximate result within its bound, for a function and an operand (03 R93): the shadow and a DIVERSE
instance compute the same result (08 R267, 11 R315). -/
opaque approx : Nat → Word → Nat

/-- The ways of a core's L1 (09 R275 gives its size and its lines, no ways). -/
opaque l1Ways : Nat

/-- Which parts of an access are left for later (09 R278: its parts are accessed in no fixed order), or kept by a line that is filled
again: a choice by a counter for each part. -/
opaque freeSet : Nat → Nat → Bool

/-- A free 32-bit value, drawn by a counter. -/
opaque freeWord : Nat → Word

end Sys2Proof.Config
end

