-- ==== Sys2Proof/Machine/Access.lean ====
section
/-! DEFINITION. Reading and writing the parts of the state by their owners: the current group and its launch, A, C, V, P
registers, records, flags, times, Colophon events and interrupts. -/

namespace Sys2Proof.Machine

/-- What an instruction or event answers inside the machine: done, waits (08 R245), traps (08 R256), or stops the machine. -/
inductive Res where
  | done (s : State)
  | wait (k : WaitKind) (s : State)
  | trap (c : Cause) (s : State)
  | stop (f : Fault)
  deriving Repr

/-- A trap cause without lanes or address. -/
def Cause.mk' (grp code : Nat) (detail : Nat := 0) (va : Nat := 0) (lanes : Mask := 0) : Cause :=
  { grp, code, detail := BitVec.ofNat 96 detail, va, lanes }

/-- Whether a cause group is restartable (08 R254). -/
def restartable (grp : Nat) : Bool := [3, 4, 7, 11, 12, 13].contains grp

/-- One clk in ticks (00 R2: 1.2 GHz; a tick is 1/6 ns). -/
def clkT : Nat := 5

/-- One ns in ticks. -/
def nsT : Nat := 6

/-- TIME: ns since the last reset (01 R35). -/
def State.time (s : State) : Nat := s.tick / nsT

/-- An empty packet. -/
def Packet.blank : Packet :=
  { abase := 0, cbase := 0, rtbase := 0, argptr := 0, crec := 0, aentry := 0, threads := 0, gx := 0, gy := 0, gz := 0,
    w := 0, h := 0, team := 0, aregs := 64, vregs := 512, cregs := 64, depths := [], bars := 0, laneB := 0, coreK := 0,
    cluK := 0, argn := 0, prio := 0, progress := 0, priv := false, shadow := false, diverse := false, stack := false,
    nonpreempt := false, after := false, deadline := 0, budget := 0, memd := 0, usertag := 0, surface := 0, layer := 0,
    buf := 0, delay := 0 }

/-- A disabled queue. -/
def QDesc.blank : QDesc :=
  { ring := 0, k := 0, vf := 0, pf := false, port := 0, part := 0, ceil := 0, demote := false, npok := false,
    supok := false, savebase := 0, slot64 := 0, saven := 0, watchdog := 0, window := 0, tveca := 0, tvecc := 0,
    hen := false, thresh := [] }

/-- A launch that is not there. -/
def Launch.blank : Launch :=
  { pk := Packet.blank, qd := QDesc.blank, qno := 0, qslot := 0, serial := 0, inst := 0, twin := none, status := 0,
    cgrp := 0, reason := 0, late := 0, errPc := 0, errG := 0, hasErr := false, arrival := 0, start := none, issued := none, endT := 0,
    cycles := 0, traffic := 0, counters := List.replicate 16 0, thrown := [], demoted := false, nextC := 0,
    placedAll := false, origin := none, batch := none, killed := false, watched := false, l1Cores := [] }

/-- The launch of a group. -/
def State.lau (s : State) (g : Group) : Launch := s.launches.getD g.who.lid Launch.blank

/-- The packet of a group's launch. -/
def State.pk (s : State) (g : Group) : Packet := (s.lau g).pk

/-- The group whose turn it is. -/
def State.grp? (s : State) : Option Group := s.groups.get? s.cur.gid

/-- Replace the group whose turn it is. -/
def State.putG (s : State) (g : Group) : State := { s with groups := s.groups.set s.cur.gid g }

/-- Apply a function to the group whose turn it is. -/
def State.updG (s : State) (f : Group → Group) : State := { s with groups := s.groups.upd s.cur.gid f }

/-- Replace a group by its number. -/
def State.setG (s : State) (gid : Nat) (g : Group) : State := { s with groups := s.groups.set gid g }

/-- Apply a function to a launch. -/
def State.updL (s : State) (lid : Nat) (f : Launch → Launch) : State := { s with launches := s.launches.upd lid f }

/-- Draw a number for a free value. -/
def State.draw (s : State) : Nat × State := (s.fresh, { s with fresh := s.fresh + 1 })

/-- A new name. -/
def State.newId (s : State) : Nat × State := (s.nextId, { s with nextId := s.nextId + 1 })

/-- Read an A register; A0 reads 0 (01 R12). -/
def Group.ra (g : Group) (n : Nat) : Word := if n = 0 then 0 else g.a.getD n 0

/-- Write an A register; a write to A0 has no effect (01 R12). -/
def Group.wa (g : Group) (n : Nat) (x : Word) : Group := if n = 0 then g else { g with a := g.a.set n x }

/-- A lane that is present and has not exited (01 R44, R45). -/
def CSide.alive (c : CSide) : Mask := c.present &&& ~~~c.exited

/-- A word as stuck bits of its row leave it (14 R369). -/
def stuckWord (st : List (Nat × Nat × Nat × Bool)) (n l : Nat) (x : Word) : Word :=
  st.foldl (fun x e =>
    if e.1 = n ∧ e.2.1 = l then (if e.2.2.2 then x ||| ((1 : Word) <<< e.2.2.1) else x &&& ~~~((1 : Word) <<< e.2.2.1)) else x) x

/-- The content of a vector register. -/
def CSide.raw (c : CSide) (n : Nat) : Lanes :=
  let v := c.v.getD n zeroLanes
  if c.stuck.isEmpty then v else mkLanes fun l => stuckWord c.stuck n l (lane v l)

/-- A vector register as instructions read it: absent lanes read 0 (01 R44). -/
def CSide.rv (c : CSide) (n : Nat) : Lanes :=
  mkLanes fun l => if c.present.getLsbD l then lane (c.raw n) l else 0

/-- Write the lanes of a mask of a vector register; absent and exited lanes are never written (05 R151). -/
def CSide.wv (c : CSide) (n : Nat) (m : Mask) (x : Lanes) : CSide :=
  let old := c.v.getD n zeroLanes
  let ok := m &&& c.alive
  { c with v := c.v.set n (mkLanes fun l => if ok.getLsbD l then lane x l else lane old l) }

/-- A split of the table. -/
def CSide.sp (c : CSide) (k : Nat) : Option Split := c.splits.get? k

/-- Replace a split. -/
def CSide.setSp (c : CSide) (k : Nat) (x : Split) : CSide := { c with splits := c.splits.set k x }

/-- Apply a function to a split. -/
def CSide.updSp (c : CSide) (k : Nat) (f : Split → Split) : CSide := { c with splits := c.splits.upd k f }

/-- Read a C register: C0-C2 are the activity mask of the split (01 R17, R19). -/
def CSide.rc (c : CSide) (k n : Nat) : Word :=
  if n < 3 then maskWord (((c.sp k).map (·.act)).getD 0) n else c.c.getD n 0

/-- Replace the 32-lane part `w` of a mask. -/
def setMaskWord (m : Mask) (w : Nat) (x : Word) : Mask :=
  mkMask fun l => if l / 32 = w then x.getLsbD (l % 32) else m.getLsbD l

/-- Write a C register; a write to C0-C2 is masked by the owned lanes (01 R19). -/
def CSide.wc (c : CSide) (k n : Nat) (x : Word) : CSide :=
  if n < 3 then c.updSp k fun p => { p with act := setMaskWord p.act n x &&& p.own }
  else { c with c := c.c.set n x }

/-- Read a predicate; P7 reads all ones (01 R21). -/
def CSide.rp (c : CSide) (n : Nat) : Mask := if n = 7 then allLanes else c.p.getD n 0

/-- Write the bits of a mask of a predicate (01 R21). -/
def CSide.wp (c : CSide) (n : Nat) (m x : Mask) : CSide :=
  let old := c.p.getD n 0
  { c with p := c.p.set n ((old &&& ~~~m) ||| (x &&& m)) }

/-- A record register; invalid at group start (01 R24). -/
def Rec.none : Rec := { img := 0, loaded := false, busy := 0 }

/-- Buffer record register. -/
def Group.rb (g : Group) (n : Nat) : Rec := g.b.getD n Rec.none

/-- Tensor record register. -/
def Group.rt (g : Group) (n : Nat) : Rec := g.t.getD n Rec.none

/-- Pending count of a completion flag (01 R22). -/
def Group.cfn (g : Group) (n : Nat) : Nat := g.cf.getD n 0

/-- Attach one operation to a flag; 15 names none. -/
def Group.attach (g : Group) (n : Nat) : Group := if n = 15 then g else { g with cf := g.cf.set n (g.cfn n + 1) }

/-- Complete one operation of a flag. -/
def Group.detach (g : Group) (n : Nat) : Group := if n = 15 then g else { g with cf := g.cf.set n (g.cfn n - 1) }

/-- Raise sticky flags (01 R37). -/
def Group.raiseFl (g : Group) (f : Fl) : Group := { g with sys.sticky := g.sys.sticky ||| f }

/-- GSTAT (01 R36). -/
def State.gstat (s : State) (g : Group) : Word :=
  let pk := s.pk g
  BitVec.ofNat 32 (g.sys.sticky.toNat + (if pk.stack then 64 else 0) + (if g.sys.priv then 128 else 0) +
    256 * g.cs.splits.length + (if pk.diverse && g.who.inst == 1 then 2 ^ 14 else 0) + (if pk.shadow then 2 ^ 15 else 0))

/-- The quad of a core (00 R3). -/
def quadOf (core : Nat) : Nat := 4 * (core / 8 / 2) + core % 8 / 2

/-- Raise an interrupt (15 R375). -/
def State.irq (s : State) (port : Nat) (fn : Option Nat) (vec : Nat) : State :=
  { s with irqs := s.irqs ++ [{ port, fn, vec }] }

/-- The function that owns a queue: its VF, or the PF of its port. -/
def QDesc.fn (d : QDesc) : Option Nat := if d.pf then none else some d.vf

/-- The port of a queue's owner: VFMAP gives that of a VF (15 R375, R380). -/
def State.portOf (s : State) (d : QDesc) : Nat := if d.pf then d.port else if s.regs.vfmap.getLsbD d.vf then 1 else 0

/-- Raise an interrupt to the function that owns a launch's queue. -/
def State.irqL (s : State) (l : Launch) (vec : Nat) : State := s.irq (s.portOf l.qd) l.qd.fn vec

/-- Record a Colophon event; a frozen recorder records nothing, 4,096 are kept, and a fatal event freezes it (14 R374). -/
def State.colophon (s : State) (cls code quad vf : Nat) (detail : List Byte) : State :=
  if s.regs.frozen then s
  else
    let e : Event := { time := s.time, seq := s.regs.clseq, cls, code, quad, vf,
                       detail := (detail ++ List.replicate 16 0).take 16 }
    let l := s.rely.events ++ [e]
    let fatal := cls == 6
    let s := { s with rely.events := if 4096 < l.length then l.drop 1 else l,
                      regs.clseq := (s.regs.clseq + 1) % 2 ^ 32, regs.since := s.regs.since + 1,
                      regs.wrap := s.regs.wrap || decide (4096 < s.regs.since + 1), regs.frozen := fatal }
    if fatal then (s.irq 0 none 3).irq 1 none 3 else s

/-- QSLOT and SERIAL as Colophon details lay them out (14 R401). -/
def Launch.tag (l : Launch) : List Byte := natLe 4 (l.qslot % 128 + 65536 * (l.serial % 65536))

/-- Count events of results in a launch's counters (03 R111): each saturates, and one that first reaches its threshold raises
vector 1 once. DESIGN CHOICE: the counters of each instance of a DIVERSE launch are compared with the thresholds by themselves, and their sum
is not (14 R362; notes/assumptions/20.md). -/
def State.countEv (s : State) (lid : Nat) : List Nat → State
  | [] => s
  | e :: r =>
    match s.launches.get? lid with
    | none => s
    | some l =>
      let n := l.counters.getD e 0
      let n' := min (n + 1) 0xFFFFFFFF
      let th := l.qd.thresh.getD e 0
      let hit := th != 0 && n' == th && !l.thrown.contains e
      let l' := { l with counters := setAt l.counters e n', thrown := if hit then e :: l.thrown else l.thrown }
      let s := { s with launches := s.launches.set lid l' }
      (if hit then s.irqL l 1 else s).countEv lid r

/-- The barriers of a group's team. -/
def State.bar (s : State) (tid nb : Nat) : Bar :=
  ((s.teams.get? tid).map fun t => t.bars.getD nb
    { exp := 0, init := 0, cnt := 0, phase := false, owed := [], rel := [], wait := [], go := [], engZero := [] }).getD
    { exp := 0, init := 0, cnt := 0, phase := false, owed := [], rel := [], wait := [], go := [], engZero := [] }

/-- Replace a barrier of a team. -/
def State.setBar (s : State) (tid nb : Nat) (b : Bar) : State :=
  { s with teams := s.teams.upd tid fun t => { t with bars := t.bars.set nb b } }

/-- Count `n` clk of a group from clk `c` on in its launch's issue cycles, each clk once (11 R314). -/
def State.countClk (s : State) (gid c n : Nat) : State :=
  match s.groups.get? gid with
  | none => s
  | some g =>
    { s.updL g.who.lid (fun l => { l with cycles := l.cycles + (c + n - max c g.upTo) }) with
      groups := s.groups.set gid { g with upTo := max g.upTo (c + n) } }

end Sys2Proof.Machine
end

