-- ==== Sys2Proof/Machine/L2.lean ====
section
/-! DEFINITION. The L2 and the physical layout of the near memories (09 R272-R274; 14 R373): which lines of device memory the L2 holds, and
so which bytes the memory controller transfers for a launch (11 R312). No value that a program reads depends on it
(notes/assumptions/17.md). -/

namespace Sys2Proof.Machine

/-! ## Layouts -/

/-- The slice of a byte of the chip scratchpad (09 R272). -/
def chipSlice (b : Nat) : Nat := b / 256 % 32

/-- Where an offset of cluster memory lies in a cluster of `n` cores: the core by its TEAM, and the offset in that core's share (09 R272). -/
def cluHome (n o : Nat) : Nat × Nat := (o / 256 % n, 256 * (o / (256 * n)) + o % 256)

/-- The slice that the hash gives a physical address (09 R273). -/
def l2Hash (pa : Nat) : Nat :=
  ([6, 11, 16, 21, 26, 31].map fun k => pa / 2 ^ k % 32).foldl Nat.xor 0

/-- The slice in service that takes an address: a retired slice's addresses go to the next one (14 R373). -/
def liveSlice (retired : List Nat) (n : Nat) : Option Nat :=
  ((List.range 32).map fun k => (n + k) % 32).find? fun m => !retired.contains m

/-- The set of a physical address within its slice (09 R273). -/
def l2Set (pa : Nat) : Nat := pa / 2 ^ 11 % 2 ^ 11

/-- The index of a line, its set and its way among the L1 or L2 lines that corrected errors count (14 R373). -/
def lineKey (unit set way : Nat) : Nat := (unit * 4096 + set) * 4096 + way

/-- Lines of a set that are disabled (14 R373). -/
def offInSet (off : List Nat) (unit set : Nat) : Nat := (off.filter fun k => k / 4096 == unit * 4096 + set).length

/-! ## Lines -/

/-- Who accesses memory: the agent by its name (a group or an engine operation: 09 R277), its core, the partition and launch that it works
for (R274, R275; 11 R312), and whether its engine writes are performed for the other agents only by its completion (04 R141). -/
structure User where
  agent : Nat
  core : Nat
  part : Nat
  lid : Nat
  narrow : Bool := false
  deriving DecidableEq, Repr

/-- A group, and the device as it works for it, as a user of memory. -/
def State.user (s : State) (g : Group) : User :=
  { agent := g.who.gid, core := g.who.core, part := (s.lau g).qd.part, lid := g.who.lid }

/-- A place as an access through a record with an L2 class meets it (04 R128): 3 leaves the class of the page, and 4 stands for the general
class that an option of CPY names (R141). -/
def Loc.under (l : Loc) (c : Nat) : Loc := if c = 3 then l else { l with cls := min c 3 }

/-- Word `i` of a partition's block (11 R315). -/
def State.partW (s : State) (p i : Nat) : Nat := ((s.regs.part.getD p []).getD i 0).toNat

/-- The quota of a partition and class (09 R274; 11 R315). -/
def State.quota (s : State) (part cls : Nat) : Nat := s.partW part 2 / 32 ^ cls % 32

/-- The lines of a set, the most recently used first. -/
def State.l2Lines (s : State) (slice set : Nat) : List L2Line := s.rely.l2.getD (2048 * slice + set) []

/-- Lines of a set that a pair of partition and class holds. -/
def heldBy (ls : List L2Line) (part cls : Nat) : List L2Line := ls.filter fun x => x.part == part && x.cls == cls

/-- The way of a set that a fill takes, by the first rule that applies; none where it does not allocate (09 R274). -/
def State.l2Victim (s : State) (slice set part cls : Nat) : Option Nat :=
  let ls := s.l2Lines slice set
  let lru := fun (xs : List L2Line) => xs.getLast?.map (·.way)
  if s.quota part cls = 0 then none
  else
    ((List.range 16).find? fun w => !s.rely.l2off.contains (lineKey slice set w) && ls.all fun x => x.way != w).or
      (if s.quota part cls ≤ (heldBy ls part cls).length then lru (heldBy ls part cls)
       else (lru (ls.filter fun x => decide (s.quota x.part x.cls < (heldBy ls x.part x.cls).length))).or (lru ls))

/-- Count bytes that the memory controller transfers for a launch (11 R312). -/
def State.carries (s : State) (lid n : Nat) : State := s.updL lid fun l => { l with traffic := l.traffic + n }

/-- Write a line back to memory, where it is dirty. -/
def State.writeBack (s : State) (x : L2Line) : State := if x.dirty then s.carries x.lid 64 else s

/-- An access to `n` bytes of one line of device memory: a hit is served whoever filled the line; a miss is carried to memory, and fills a
line where it may (09 R273, R274). A line written as a whole is not read first. -/
def State.useLine (s : State) (u : User) (cls pa n : Nat) (write : Bool) : State :=
  match liveSlice s.rely.retired (l2Hash pa) with
  | none => s.carries u.lid n
  | some sl =>
    let set := l2Set pa
    let ls := s.l2Lines sl set
    let put := fun (s : State) (xs : List L2Line) => { s with rely.l2 := s.rely.l2.set (2048 * sl + set) xs }
    match ls.find? fun x => x.line == pa / 64 with
    | some x =>
      put s ({ x with dirty := x.dirty || write, lid := if write then u.lid else x.lid } :: ls.filter fun y => y.line != pa / 64)
    | none =>
      match s.l2Victim sl set u.part cls with
      | none => s.carries u.lid n
      | some w =>
        let s := ((ls.filter fun y => y.way == w).foldl (fun (s : State) y => s.writeBack y) s)
        let s := if write && n == 64 then s else s.carries u.lid 64
        put s ({ line := pa / 64, way := w, part := u.part, cls, dirty := write, lid := u.lid } :: ls.filter fun y => y.way != w)

/-- An access of `n` bytes, line by line; device memory alone lies behind the L2. -/
def useLines (u : User) (write : Bool) : Nat → Loc → Nat → State → State
  | 0, _, _, s => s
  | k + 1, l, n, s =>
    if n = 0 then s
    else
      let m := min n (64 - l.addr % 64)
      useLines u write k (l.add m) (n - m) (s.useLine u l.cls l.addr m write)

/-- An access of `n` bytes at a place that reaches the L2. -/
def State.useL2 (s : State) (u : User) (l : Loc) (n : Nat) (write : Bool) : State :=
  if l.space = .dev then useLines u write (n / 64 + 2) l n s else s

/-- Lines leave the L2, written back where they are dirty (14 R373). -/
def State.dropL2 (s : State) (slice : Nat) (f : Nat → L2Line → Bool) : State :=
  (List.range 2048).foldl (fun (s : State) set =>
    let ls := s.l2Lines slice set
    if ls.any (f set) then
      let s := (ls.filter (f set)).foldl (fun (s : State) x => s.writeBack x) s
      { s with rely.l2 := s.rely.l2.set (2048 * slice + set) (ls.filter fun x => !f set x) }
    else s) s

end Sys2Proof.Machine
end

