-- ==== Sys2Proof/Machine/Entries.lean ====
section
/-! DEFINITION. Page-table entries: their fields, the walk from one to the next, the place that a leaf gives an address, and the A and D bits
that the device sets (10 R290-R294). -/

namespace Sys2Proof.Machine

/-- Usable device memory in bytes (00 R4, 15 R383: 90 GiB after inline ECC); nothing lies above it. -/
def usable : Nat := 90 * 2 ^ 30

/-- A leaf that a walk found: the entry, its level and the address it was read at; or the level of the entry that fails. -/
inductive WalkRes where
  | leaf (pte : BitVec 64) (level at_ : Nat)
  | fault (level : Nat)
  | hole (a : Nat)
  deriving DecidableEq, Repr

/-- The translation block of a VF. -/
def State.vf (s : State) (v : Nat) : VfSt := s.vfs.getD v VfSt.reset

/-- Replace a VF's translation block. -/
def State.setVf (s : State) (v : Nat) (x : VfSt) : State := { s with vfs := setAt s.vfs v x }

/-- The physical address that an entry's PFN names. -/
def ptePa (p : BitVec 64) : Nat := p.toNat / 2 ^ 14 % 2 ^ 38 * 2 ^ 14

/-- TGT of an entry (10 R291). -/
def pteTgt (p : BitVec 64) : Nat := p.toNat / 256 % 8

/-- The index of a VA at a level (10 R290). -/
def vaIndex (va level : Nat) : Nat :=
  if level = 1 then va / 2 ^ 36 % 2 ^ 11 else if level = 2 then va / 2 ^ 25 % 2 ^ 11 else va / 2 ^ 14 % 2 ^ 11

/-- Whether a valid leaf keeps the rules of R291 and R299. -/
def leafOk (p : BitVec 64) (level : Nat) : Bool :=
  p.toNat / 2 ^ 52 == 0 && !p.getLsbD 13 && decide (pteTgt p ≤ 4) && (pteTgt p != 4 || p.getLsbD 5) &&
    (level == 3 || pteTgt p == 4 || p.toNat / 2 ^ 14 % 2 ^ 11 == 0)

/-- One level after another, from the table at a physical address (10 R290-R292). -/
def walkFrom (s : State) (va : Nat) : Nat → Nat → Nat → WalkRes
  | 0, level, _ => .fault level
  | n + 1, level, tbl =>
    let a := tbl + 8 * vaIndex va level
    if usable ≤ a then .hole a
    else
      let p := BitVec.ofNat 64 (s.readLoc { space := .dev, addr := a } 8)
      if !p.getLsbD 0 then .fault level
      else if p.getLsbD 1 then
        if level = 1 || !leafOk p level then .fault level else .leaf p level a
      else if level = 3 || p.toNat / 2 ^ 52 != 0 || p.toNat / 4 % 2 ^ 12 != 0 then .fault level
      else walkFrom s va n (level + 1) (ptePa p)

/-- Where a translated address lies: a place, or an offset in the frame window (10 R299). -/
inductive Where where
  | at_ (l : Loc)
  | window (off : Nat)
  | hole (a : Nat)
  deriving DecidableEq, Repr

/-- The place that a leaf gives an address. -/
def pteWhere (p : BitVec 64) (level va : Nat) : Where :=
  let off := if level = 2 then va % 2 ^ 25 else va % 2 ^ 14
  let a := ptePa p + off
  let cls := p.toNat / 64 % 4
  match pteTgt p with
  | 0 => if usable ≤ a then .hole a else .at_ { space := .dev, addr := a, cls }
  | 1 => .at_ { space := .host 0, addr := a, cls }
  | 2 => .at_ { space := .host 1, addr := a, cls }
  | 3 => .at_ { space := .peer, addr := a, cls }
  | _ => .window (va % 2 ^ 14)

/-- Set A, and D for a write, in an entry (10 R293). -/
def State.markUsed (s : State) (a : Nat) (p : BitVec 64) (acc : Nat) : State :=
  let n := p.toNat % 2 ^ 13
  let n := if n / 2048 % 2 = 0 then n + 2048 else n
  let n := if (acc == 1 || acc == 2) && n / 4096 % 2 == 0 then n + 4096 else n
  if n = p.toNat % 2 ^ 13 then s else s.writeLoc { space := .dev, addr := a } 2 (p.toNat / 2 ^ 13 % 8 * 2 ^ 13 + n)

/-- A walk of a VF's tables (10 R290-R293). -/
def walk (s : State) (v va : Nat) : WalkRes :=
  if 2 ^ 47 ≤ va then .fault 0
  else if !(s.vf v).troot.getLsbD 0 then .fault 1
  else walkFrom s va 3 1 (ptePa (s.vf v).troot)

/-- A write through an entry whose D was clear sets it, where a walk finds an entry that maps the place (10 R291, R293, R294). -/
def State.dirtied (s : State) (l : Loc) : State :=
  match l.leaf with
  | none => s
  | some (v, va) =>
    match walk s v va with
    | .leaf p level a =>
      match pteWhere p level (va / 2 ^ 14 * 2 ^ 14 + l.addr % 2 ^ 14) with
      | .at_ m => if m.same l then s.markUsed a p 1 else s
      | _ => s
    | _ => s

end Sys2Proof.Machine
end

