-- ==== Sys2Proof/Machine/L1.lean ====
section
/-! DEFINITION. What an agent sees of shared memory: writes of other agents that have not reached it yet (09 R277-R283), and a
core's L1, the one cache whose content a program can see (R275, R276, R284). -/

namespace Sys2Proof.Machine

/-! ## Late writes -/

/-- Whether several agents share a space: all but the lanes' slices (09 R269). -/
def Space.shared : Space → Bool
  | .lane .. => false
  | _ => true

/-- The late writes on `n` bytes at a place that an agent does not see, oldest first. -/
def State.unseen (s : State) (agent : Nat) (l : Loc) (n : Nat) : List Late :=
  s.late.filter fun w => w.meets l n && !w.seen.contains agent

/-- An agent sees some late writes from now on. -/
def State.see (s : State) (agent : Nat) (ws : List Late) : State :=
  { s with late := s.late.map fun w => if w ∈ ws then { w with seen := insertNat w.seen agent } else w }

/-- The groups that a test names and the engine operations that they issued, as agents (09 R277). -/
def State.agents (s : State) (f : Group → Bool) : List Nat :=
  let gs := (s.groups.filter fun e => f e.2).map (·.1)
  gs ++ (s.eng.filter fun o => gs.contains o.gid).map (·.id)

/-- An agent sees what is written at a place by the agents of its core, or seen by them: a load that L1 serves respects those writes
(09 R275, R284). -/
def State.seeCore (s : State) (u : User) (l : Loc) (n : Nat) : State :=
  match s.unseen u.agent l n with
  | [] => s
  | ws =>
    let here := s.agents fun g => g.who.core == u.core
    s.see u.agent (ws.filter fun w => w.seen.any here.contains)

/-- An engine operation begins with what its group sees (09 R287). -/
def State.inherit (s : State) (gid id : Nat) : State :=
  { s with late := s.late.map fun w => if w.seen.contains gid then { w with seen := insertNat w.seen id } else w }

/-- Bytes at a place as they were before a late write. -/
def Late.undo (w : Late) (l : Loc) (bs : List Byte) : List Byte :=
  bs.zipIdx.map fun b =>
    if w.loc.addr ≤ l.addr + b.2 then w.old.getD (l.addr + b.2 - w.loc.addr) b.1 else b.1

/-- A read of a piece of at most 4 bytes by an agent: it sees the late writes there up to one of its choice, in coherence order, and
those it has seen it keeps seeing (09 R281; notes/assumptions/66.md). -/
def State.agentRead (s : State) (agent : Nat) (l : Loc) (n : Nat) : State × List Byte :=
  let bs := (s.memOf l.space).bytes l.key n
  match s.unseen agent l n with
  | [] => (s, bs)
  | ws =>
    let (k, s) := s.draw
    let m := ws.length - Config.freeNat k % (ws.length + 1)
    (s.see agent (ws.take m), (ws.drop m).reverse.foldl (fun bs w => w.undo l bs) bs)

/-- A write by an agent: it sees it, and every earlier write that it covers; the others come to see it (09 R281). -/
def State.agentWrite (s : State) (agent : Nat) (l : Loc) (bs : List Byte) : State :=
  if l.space.shared then
    let s := s.see agent (s.unseen agent l bs.length)
    let w : Late := { loc := l, old := (s.memOf l.space).bytes l.key bs.length, seen := [agent] }
    { s.putBytes l bs with late := s.late ++ [w] }
  else s.putBytes l bs

/-- The late writes that an agent has seen, with the earlier ones under them, changed by a function or let go, and all others (09 R282: a
release is cumulative over what its agent wrote or read). The second list holds those that it published. -/
def publishLate (agent : Nat) (f : Late → List Late) : List Late → List Late × List Late
  | [] => ([], [])
  | w :: r =>
    let x := publishLate agent f r
    if w.seen.contains agent || x.2.any fun p => p.meets w.loc w.old.length then (f w ++ x.1, w :: x.2) else (w :: x.1, x.2)

/-- What a release at a scope, by a group or by an engine operation of it, performs at that scope (09 R277, R282): at grp the group sees it,
at core and clu the agents of the core or cluster come to see it, at dev and wider every agent does. -/
def State.publishBy (s : State) (agent : Nat) (g : Group) (scope : Nat) : State :=
  let shown := fun (f : Group → Bool) =>
    let as := s.agents f
    ({ s with late := (publishLate agent (fun w => [{ w with seen := as.foldl insertNat w.seen }]) s.late).1 } : State)
  if s.late.isEmpty || (scope < 2 && agent == g.who.gid) then s
  else if scope < 2 then shown fun h => h.who.gid == g.who.gid
  else if scope = 2 then shown fun h => h.who.core == g.who.core
  else if scope = 3 then shown fun h => h.who.cid == g.who.cid
  else { s with late := (publishLate agent (fun _ => []) s.late).1 }

/-- A release of a group at a scope. -/
def State.publish (s : State) (g : Group) (scope : Nat) : State := s.publishBy g.who.gid g scope

/-- Bytes at a place as an agent reads them, in pieces of 4 (09 R278). -/
def agentBytes (agent : Nat) : Nat → Loc → Nat → State → State × List Byte
  | 0, _, _, s => (s, [])
  | k + 1, l, n, s =>
    if n = 0 then (s, [])
    else
      let m := min n (4 - l.addr % 4)
      let r := s.agentRead agent l m
      let t := agentBytes agent k (l.add m) (n - m) r.1
      (t.1, r.2 ++ t.2)

/-- Bytes at a place as an agent reads them. -/
def State.readView (s : State) (agent : Nat) (l : Loc) (n : Nat) : State × List Byte :=
  if (s.unseen agent l n).isEmpty then (s, (s.memOf l.space).bytes l.key n) else agentBytes agent (n / 4 + 2) l n s

/-- Bytes at a place as an agent reads them past its L1: from the L2 or from memory. -/
def State.readPast (s : State) (u : User) (l : Loc) (n : Nat) : State × List Byte := (s.useL2 u l n false).readView u.agent l n

/-! ## L1 -/

/-- The lines that a core's L1 holds. -/
def State.l1Of (s : State) (core : Nat) : List L1Line := s.rely.l1.getD core []

/-- Whether a held line is that of a place. -/
def L1Line.holds (x : L1Line) (l : Loc) : Bool := x.space == l.space && x.line == l.addr / 64

/-- The line of a core's L1 that holds a place. -/
def State.l1Line (s : State) (core : Nat) (l : Loc) : Option L1Line := (s.l1Of core).find? fun x => x.holds l

/-- Whether a core has an L1 (14 R373). -/
def State.hasL1 (s : State) (core : Nat) : Bool := !s.rely.noL1.contains core

/-- The ways of a set of L1, and the sets of 128 KiB in lines of 64 bytes (09 R275). -/
def l1Assoc : Nat := max 1 Config.l1Ways

/-- The set of a line. -/
def l1Set (line : Nat) : Nat := line % (2048 / l1Assoc)

/-- The lines that a fill evicts from its set, if it is full: a streaming line first, a persistent one last, which among equals is
open (02 R66; 09 R275). -/
def victims (mine : List L1Line) (room pick : Nat) : List L1Line :=
  if mine.length < room then []
  else
    let of_ := fun (h : Nat) => mine.filter fun x => x.hint == h
    let first := ([of_ 1, of_ 0, of_ 2].find? fun l => !l.isEmpty).getD []
    ((first[pick % max 1 first.length]?).map fun x => [x]).getD []

/-- Fill a core's L1 with the line of a place, as the agent sees it that asks for it; hint 3 fills nothing (02 R66; 09 R275). -/
def State.fillL1 (s : State) (u : User) (l : Loc) (hint : Nat) : State :=
  let core := u.core
  if s.hasL1 core && hint != 3 then
    let r := (s.seeCore u l.line 64).readPast u l.line 64
    let x : L1Line := { space := l.space, line := l.addr / 64, data := r.2, hint }
    let rest := (r.1.l1Of core).filter fun y => !y.holds l
    let (out, s) : List L1Line × State :=
      if rest.isEmpty then ([], r.1)
      else
        let (n, s) := r.1.draw
        let set := l1Set x.line
        (victims (rest.filter fun y => l1Set y.line == set) (l1Assoc - offInSet s.rely.l1off core set) (Config.freeNat n), s)
    { s with rely.l1 := s.rely.l1.set core (x :: rest.filter fun y => !out.contains y) }
  else s

/-- Some 4-byte parts of a line as L1 holds them and the others as memory does: a line read while it is written (13 R353). -/
def mixLine (n : Nat) (old new : List Byte) : List Byte :=
  new.zipIdx.map fun b => if Config.freeSet n (b.2 / 4) then old.getD b.2 b.1 else b.1

/-- A plain load served by L1 (09 R284): a line that the L1 holds may serve it or not, a free choice; a line that it does not
hold is filled from L2. What the access reads is what L1 then holds. A line filled again may keep some of its parts (13 R353). -/
def State.touchL1 (s : State) (u : User) (l : Loc) (hint : Nat) : State :=
  match s.l1Line u.core l with
  | some x =>
    let (n, s) := s.draw
    if Config.freeBit n then s
    else
      let s := s.fillL1 u l (if hint = 3 then x.hint else hint)
      { s with rely.l1 := s.rely.l1.upd u.core fun ls => ls.map fun y =>
          if y.holds l then { y with data := mixLine n x.data y.data } else y }
  | none => s.fillL1 u l hint

/-- Bytes of a place within a line through a core's L1. -/
def State.readL1 (s : State) (u : User) (l : Loc) (n : Nat) : State × List Byte :=
  let s := s.seeCore u l n
  match s.l1Line u.core l with
  | some x => (s, (x.data.drop (l.addr % 64)).take n)
  | none => s.readPast u l n

/-- Update the matching line of a core's L1 with bytes that lie within it. -/
def State.updL1 (s : State) (core : Nat) (l : Loc) (bs : List Byte) : State :=
  let at_ := l.addr % 64
  { s with rely.l1 := s.rely.l1.upd core fun ls => ls.map fun x =>
      if x.holds l then { x with data := (x.data.take at_ ++ bs ++ x.data.drop (at_ + bs.length)).take 64 } else x }

/-- Update every matching line of a core's L1 with what an agent of the core writes (09 R275). -/
def State.l1Write (s : State) (core : Nat) (l : Loc) (bs : List Byte) : State :=
  if (s.l1Of core).isEmpty then s
  else ((List.range (bs.length / 64 + 2)).foldl (fun (x : State × Loc × List Byte) _ =>
    let n := 64 - x.2.1.addr % 64
    (x.1.updL1 core x.2.1 (x.2.2.take n), x.2.1.add n, x.2.2.drop n)) (s, l, bs)).1

/-- Whether no link to a peer is up (15 R382; an access takes any link that is up: notes/assumptions/37.md). -/
def State.peerCut (s : State) : Bool := s.regs.lrate.all fun r => r == 0

/-- A write of a thread of a core: memory as the other agents come to see it, and every matching line of its L1 (09 R275). A write to a peer
that no link reaches is lost (15 R382). -/
def State.writeThrough (s : State) (u : User) (l : Loc) (bs : List Byte) : State :=
  let s := ((s.dirtied l).l1Write u.core l bs).useL2 u l bs.length true
  if l.space = .peer ∧ s.peerCut then s else s.agentWrite u.agent l bs

/-- A write of an engine, or of the device for a group, on a core: performed for every agent once it is made, since the lines that an
engine writes are its own until then (09 R286). Those of a copy that completes at a scope narrower than dev are performed at that scope
by its completion (04 R141; 09 R277). -/
def State.engineWrite (s : State) (u : User) (l : Loc) (bs : List Byte) : State :=
  let s := ((s.dirtied l).l1Write u.core l bs).useL2 u l bs.length true
  if l.space = .peer ∧ s.peerCut then s else if u.narrow then s.agentWrite u.agent l bs else s.writeBytes l bs

/-- Drop every line of a core's L1 (09 R276). -/
def State.dropL1 (s : State) (core : Nat) : State := { s with rely.l1 := s.rely.l1.del core }

end Sys2Proof.Machine
end

