-- ==== Sys2Proof/Machine/Translate.lean ====
section
/-! DEFINITION. Address translation (10 R290-R299) and the levels that an address may point to (04 R127, 09 R272). -/

namespace Sys2Proof.Machine

/-- The accesses of R254: 0 read, 1 write, 2 atomic, 3 fetch. -/
def pteAllows (p : BitVec 64) (acc : Nat) (sup : Bool) : Bool :=
  (match acc with
   | 0 => p.getLsbD 2
   | 1 => p.getLsbD 3
   | 2 => p.getLsbD 2 && p.getLsbD 3
   | _ => p.getLsbD 4) && (!p.getLsbD 5 || sup)

/-- An entry without A and D: what a cached copy is compared by. -/
def pteCore (p : BitVec 64) : BitVec 64 := p &&& ~~~(0x1800 : BitVec 64)

/-- Why a translation fails: cause group 3 with the level, or 4. -/
structure TFault where
  grp : Nat
  level : Nat
  deriving DecidableEq, Repr

/-- Address bits below what an entry of a level maps (10 R290). -/
def entryBits (level : Nat) : Nat := if level = 1 then 36 else if level = 2 then 25 else 14

/-- The address at which what a cached entry maps begins. -/
def TlbEnt.base (e : TlbEnt) : Nat := e.page * 2 ^ entryBits e.level

/-- Whether a cached entry serves an address of a VF for an agent with the TLBs of a core and slot, or none of its own (10 R295). -/
def TlbEnt.serves (e : TlbEnt) (v va : Nat) (tlbs : Option (Nat × Nat)) : Bool :=
  e.vf == v && e.page == va / 2 ^ entryBits e.level && match e.site, tlbs with
    | .walker, _ => true
    | .core c, some (d, _) => c == d
    | .slot c k, some (d, j) => c == d && k == j
    | _, none => false

/-- Keep an entry where there is room for `cap` (0 any number); which entry leaves a full TLB is a free choice (10 R295). -/
def State.keepT (s : State) (e : TlbEnt) (cap : Nat) : State :=
  let same := fun (x : TlbEnt) => x.site == e.site && x.vf == e.vf && x.page == e.page && x.level == e.level && pteCore x.pte == pteCore e.pte
  let l := s.tlb.filter fun x => !same x
  let full := l.filter fun x => x.site == e.site
  if cap = 0 ∨ full.length < cap then { s with tlb := e :: l }
  else
    let (n, s) := s.draw
    { s with tlb := e :: match full[Config.freeNat n % full.length]? with
        | some o => l.erase o
        | none => l }

/-- The table pointers that a walk passes, each with its level; only valid entries are kept (10 R295). -/
def walkPath (s : State) (va : Nat) : Nat → Nat → Nat → List (Nat × BitVec 64)
  | 0, _, _ => []
  | n + 1, level, tbl =>
    let p := BitVec.ofNat 64 (s.readLoc { space := .dev, addr := tbl + 8 * vaIndex va level } 8)
    if !p.getLsbD 0 || p.getLsbD 1 then [] else (level, p) :: walkPath s va n (level + 1) (ptePa p)

/-- Where a walk begins: the level and the table that is read there. -/
structure WalkStart where
  level : Nat
  table : Nat
  deriving DecidableEq, Repr

/-- A walk of a VF begins at its root table (10 R293). -/
def State.root (s : State) (v : Nat) : WalkStart := { level := 1, table := ptePa (s.vf v).troot }

/-- What a walk that reached a leaf does: A is set, and the entries that it passed are kept, that of a write with D (10 R293, R295). D of the
entry in memory is set by the write itself (R291; `State.dirtied`). -/
def State.walked (s : State) (v : Nat) (tlbs : Option (Nat × Nat)) (va acc level a : Nat) (p : BitVec 64) (from_ : WalkStart) : State :=
  let keep := fun (s : State) (site : TlbSite) (level : Nat) (p : BitVec 64) (cap : Nat) =>
    s.keepT { site, vf := v, page := va / 2 ^ entryBits level, pte := p, level } cap
  let path := walkPath s va (4 - from_.level) from_.level from_.table
  let q := p ||| 0x800 ||| (if acc == 1 || acc == 2 then 0x1000 else 0)
  let s := path.foldl (fun (s : State) e => keep s .walker e.1 e.2 0) (s.markUsed a p 0)
  match tlbs with
  | some (c, k) => keep (keep s (.core c) level q 2048) (.slot c k) level q 64
  | none => s

/-- How an address may be translated: by a leaf entry that is cached, or by a walk. -/
inductive Route where
  | cached (p : BitVec 64) (level : Nat)
  | walked (w : WalkRes) (from_ : WalkStart)
  deriving DecidableEq, Repr

/-- How a cached entry translates an address otherwise than a walk of the tables does: a leaf, though a write does not pass an entry
whose D is clear without a walk (10 R293), or the walk from a table that a cached pointer names, which like any walk faults at level 1
while TROOT.EN is 0. -/
def TlbEnt.route (s : State) (va acc : Nat) (w : WalkRes) (e : TlbEnt) : Option Route :=
  if e.pte.getLsbD 1 then
    let same := match w with
      | .leaf p l _ => pteCore e.pte == pteCore p && e.level == l
      | _ => false
    if same || ((acc == 1 || acc == 2) && !e.pte.getLsbD 12) then none else some (.cached e.pte e.level)
  else if !(s.vf e.vf).troot.getLsbD 0 then none
  else
    let w' := walkFrom s va (3 - e.level) (e.level + 1) (ptePa e.pte)
    if w' = w then none else some (.walked w' { level := e.level + 1, table := ptePa e.pte })

/-- The place of an access that writes names the page whose entry's D its write has to set (10 R291). -/
def Where.toWrite (w : Where) (acc v va : Nat) (p : BitVec 64) : Where :=
  match w with
  | .at_ l => if (acc == 1 || acc == 2) && !p.getLsbD 12 then .at_ { l with leaf := some (v, va) } else w
  | _ => w

/-- Translate an address for an access at a privilege, by an agent with the TLBs of a core and slot or none. Cached entries that no longer
agree with the tables may be used or not: a free choice (10 R296). DESIGN CHOICE: a walk whose entry does not allow the access sets no A in
it (R291 says the first walk that uses the entry; notes/assumptions/79.md). -/
def translate (s : State) (v : Nat) (sup : Bool) (tlbs : Option (Nat × Nat)) (acc va : Nat) : State × Except TFault Where :=
  let w := walk s v va
  let now : Route := .walked w (s.root v)
  let (route, s) : Route × State :=
    match (s.tlb.filter fun e => e.serves v va tlbs).filterMap fun e => e.route s va acc w with
    | [] => (now, s)
    | os =>
      let (n, s) := s.draw
      ((now :: os).getD (Config.freeNat n % (os.length + 1)) now, s)
  match route with
  | .cached p l => if pteAllows p acc sup then (s, .ok (pteWhere p l va)) else (s, .error { grp := 4, level := 0 })
  | .walked (.fault l) _ => (s, .error { grp := 3, level := l })
  | .walked (.hole a) _ => (s, .ok (.hole a))
  | .walked (.leaf p l a) r =>
    if pteAllows p acc sup then (s.walked v tlbs va acc l a p r, .ok ((pteWhere p l va).toWrite acc v va p))
    else (s, .error { grp := 4, level := 0 })

/-- What an access inside the machine meets when it cannot be made. -/
inductive AFault where
  | cause (grp code detail va : Nat)
  | hole (a : Nat)
  | window (off va : Nat)
  deriving DecidableEq, Repr

/-- The code of groups 3 and 4 (08 R254): 1 an A-stream access, 2 XQ-indexed, 3 engine, 4 fetch, with the engine number, the quad, and
the core and slot whose TLBs the access uses. -/
structure Agent where
  code : Nat
  engine : Nat := 0
  quad : Nat := 0
  tlbs : Option (Nat × Nat) := none
  deriving DecidableEq, Repr

/-- An agent of a group. -/
def Group.agent (g : Group) (ag : Agent) : Agent := { ag with quad := quadOf g.who.core, tlbs := some (g.who.core, g.who.slot) }

/-- The detail of a translation or permission fault (08 R254). -/
def tDetail (acc level engine : Nat) : Nat := acc + 4 * level + 16 * engine

/-- The detail of cause group 10, codes 2 and 3 (08 R254): the quad, and the sequence number of a Colophon event. The manual writes no
event of these errors that could be meant: any number given so far, or the next one (notes/assumptions/38.md). -/
def lostDetail (s : State) (quad : Nat) : State × Nat :=
  let (n, s) := s.draw
  (s, quad + 2 ^ 32 * (Config.freeNat n % (s.regs.clseq + 1)))

/-- A global access of a VF. A read of a peer that no link reaches is cause group 10, code 3 (15 R382). -/
def globalAt (s : State) (v : Nat) (sup : Bool) (ag : Agent) (acc va : Nat) : State × Except AFault Loc :=
  match translate s v sup ag.tlbs acc va with
  | (s, .ok (.at_ l)) =>
    if l.space = .peer ∧ acc ≠ 1 ∧ s.peerCut then
      let d := lostDetail s ag.quad
      (d.1, .error (.cause 10 3 d.2 va))
    else (s, .ok l)
  | (s, .ok (.window off)) => (s, .error (.window off va))
  | (s, .ok (.hole a)) => (s, .error (.hole a))
  | (s, .error f) => (s, .error (.cause f.grp ag.code (tDetail acc f.level ag.engine) va))

/-- The granules of a VF in ascending order (09 R272, 11 R318). -/
def State.granules (s : State) (v : Nat) : List Nat := (s.regs.granule.filter fun e => e.2 == v).map (·.1)

/-- Bytes that a level allots to a group, or to a lane (04 R127). -/
def State.allot (s : State) (g : Group) (level : Nat) : Nat :=
  let l := s.lau g
  match level with
  | 1 => 65536 * (s.granules l.qd.vf).length
  | 2 => 1024 * l.pk.cluK * l.pk.w * l.pk.h
  | 3 => 1024 * l.pk.coreK
  | _ => 16 * l.pk.laneB

/-- The place of an offset of a near level or the chip scratchpad, without its check (09 R272). -/
def State.nearLoc (s : State) (g : Group) (level ln off : Nat) : Loc :=
  match level with
  | 1 => { space := .chip, addr := (s.granules (s.lau g).qd.vf).getD (off / 65536) 0 * 65536 + off % 65536 }
  | 2 => { space := .clu g.who.cid, addr := off }
  | 3 => { space := .core g.who.tid, addr := off }
  | _ => { space := .lane g.who.gid ln, addr := off }

/-- An access of `n` bytes at an address of a level (04 R116 rows 3 and 4, R127). `gid` names the group whose levels are
meant; its privilege is the one the group has when the access is made, an engine's too (10 R292; notes/assumptions/70.md). -/
def levelAt (s : State) (g : Group) (ag : Agent) (acc level ln a n : Nat) : State × Except AFault Loc :=
  if level = 0 then globalAt s (s.lau g).qd.vf g.sys.priv (g.agent ag) acc a
  else if s.allot g level < a + n then
    (s, .error (.cause 4 6 (tDetail acc 0 ag.engine + 256 * level) a))
  else (s, .ok (s.nearLoc g level ln a))

/-- Whether an operation in progress owns a line: its number (09 R286). -/
def Loc.sameLine (a b : Loc) : Bool := a.space == b.space && a.addr / 64 == b.addr / 64

/-- Pieces of a byte range that do not cross a 16 KiB page: address and length. -/
def pagePieces (va : Nat) : Nat → Nat → List (Nat × Nat)
  | 0, _ => []
  | k + 1, n =>
    let m := min n (2 ^ 14 - va % 2 ^ 14)
    if n = 0 then [] else (va, m) :: pagePieces (va + m) k (n - m)

/-- Read `n` bytes of a VF's space, page by page, with the A bits that the accesses set (10 R293); what is read for a group passes the L2
(11 R312). -/
def State.readVa (s : State) (v : Nat) (sup : Bool) (va n : Nat) (u : Option User := none) : State × Except AFault (List Byte) :=
  (pagePieces va (n / 2 ^ 14 + 2) n).foldl (fun acc p =>
    match acc with
    | (s, .error e) => (s, .error e)
    | (s, .ok bs) =>
      match globalAt s v sup { code := 3 } 0 p.1 with
      | (s, .ok l) =>
        (match u with
          | some u => s.useL2 u l p.2 false
          | none => s, .ok (bs ++ (s.memOf l.space).bytes l.key p.2))
      | (s, .error e) => (s, .error e)) (s, .ok [])

/-- Write bytes of a VF's space, page by page, for a group's core where there is one (09 R275); the pages written before a failure keep
their bytes. -/
def State.writeVaBlk (s : State) (v : Nat) (sup : Bool) (u : Option User) (va : Nat) (bs : List Byte) : State × Option AFault :=
  (pagePieces va (bs.length / 2 ^ 14 + 2) bs.length).foldl (fun acc p =>
    match acc with
    | (s, some e) => (s, some e)
    | (s, none) =>
      match globalAt s v sup { code := 3 } 1 p.1 with
      | (s, .ok l) =>
        let b := (bs.drop (p.1 - va)).take p.2
        (match u with
          | some u => s.engineWrite u l b
          | none => (s.dirtied l).writeBytes l b, none)
      | (s, .error e) => (s, some e)) (s, none)

end Sys2Proof.Machine
end

