-- ==== Sys2Proof/Machine/Image.lean ====
section
/-! DEFINITION. The state image in the save slot (08 R260): what trap entry and pre-emption write and what TRET and restore
read back. The places inside the split-table, tag and queue words are the model's (notes/assumptions/14.md). -/

namespace Sys2Proof.Machine

/-- Bytes of a word. -/
def wBytes (w : Word) : List Byte := natLe 4 w.toNat

/-- Bytes of a mask, lanes 0-31 first (08 R252). -/
def maskBytes (m : Mask) : List Byte := natLe 12 m.toNat

/-- A mask from 12 bytes. -/
def bytesMask (b : List Byte) : Mask := BitVec.ofNat 96 (leNat b)

/-- The bytes of the lanes of a queue entry or register (04 R129). -/
def lanesBytes (v : Lanes) : List Byte := ((List.range 96).map fun l => wBytes (lane v l)).flatten

/-- Lanes from 384 bytes. -/
def bytesLanes (b : List Byte) : Lanes := mkLanes fun l => BitVec.ofNat 32 (leNat ((b.drop (4 * l)).take 4))

/-- The save-slot base of a group (08 R252). -/
def Group.slotBase (g : Group) : Nat := g.sys.save.toNat % 2 ^ 31 * 65536

/-- Where the spill region begins, as an offset in the slot (08 R260). -/
def spillOff (vregs : Nat) : Nat := (0x7000 + 384 * vregs + 4095) / 4096 * 4096

/-- The address of entry `e` of split `k`'s stack, counted from the bottom (08 R260). -/
def stackVa (g : Group) (vregs k e : Nat) : Nat :=
  if e < 32 then g.slotBase + 0x1000 + 512 * k + 16 * e
  else g.slotBase + spillOff vregs + 16 * (4 * (e - 32) + k)

/-- A stack entry's 16 bytes. -/
def stackBytes (e : Nat × Mask) : List Byte := natLe 4 e.1 ++ maskBytes e.2

/-- State code of a split in the table. -/
def SplitSt.code : SplitSt → Nat
  | .running => 1
  | .parkedJoin => 2
  | .parkedEnd => 3

/-- A split-table entry: word index, owned, active, (parent, state, depth), (tag, owed, clause slot), the lanes in which its long-latency
operations are to be reissued (08 R264), the rest zero. -/
def splitBytes (p : Split) (faults : Mask) : List Byte :=
  natLe 4 p.idx ++ maskBytes p.own ++ maskBytes p.act ++
    natLe 4 (p.parent + 256 * p.st.code + 65536 * p.stack.length) ++
    natLe 4 (p.tag + 256 * p.owed + 65536 * p.slot) ++ maskBytes faults ++ natLe 16 0

/-- The lanes in which the long-latency operations of a split have faulted, or stand at a node visit. -/
def Group.faultedLanes (g : Group) (k : Nat) : Mask :=
  mkMask fun l => g.lane.any fun o => o.split == k &&
    ((o.faults.any fun f => f.1 == l) || (o.faults.isEmpty && o.left.getLsbD l))

/-- A vector queue entry's 512 bytes: data, mask, then the token, held and reserved bits. -/
def vEntryBytes : Option VEntry → List Byte
  | none => natLe 512 0
  | some e =>
    lanesBytes e.data ++ maskBytes e.mask ++
      natLe 116 ((match e.fill with | .token _ => 1 | _ => 0) + (if e.held then 2 else 0) +
        (match e.fill with | .reserved => 4 | _ => 0))

/-- The vector queues in order with their declared depths (01 R26, 11 R310): LDQ0-LDQ3, XQ, SDQ0, SDQ1. -/
def vQueues (pk : Packet) (q : Queues) : List (Nat × List VEntry) :=
  [(pk.depths.getD 0 0, q.ldq.getD 0 []), (pk.depths.getD 1 0, q.ldq.getD 1 []), (pk.depths.getD 2 0, q.ldq.getD 2 []),
   (pk.depths.getD 3 0, q.ldq.getD 3 []), (pk.depths.getD 6 0, q.xq), (pk.depths.getD 7 0, q.sdq0),
   (pk.depths.getD 8 0, q.sdq1)]

/-- The first two words of an A instruction. -/
def aWords (i : Instr) : BitVec 64 :=
  match encodeA i with
  | some (w0, w1) => w1 ++ w0
  | none => 0

/-- A memory-unit list entry's 48 bytes (08 R260). -/
def muBytes : Option MuOp → List Byte
  | none => natLe 48 0
  | some o => natLe 8 (aWords o.instr).toNat ++ wBytes o.first ++ natLe 4 (if o.held.isSome then 3 else 1) ++
      natLe 32 o.buf.toNat

/-- The segments of the image: offset and bytes (08 R260). The declared count sets its A part, with A61-A63 (01 R13); stack entries
beyond the 32nd already lie in the spill region (R32). -/
def imageSegs (s : State) (g : Group) : List (Nat × List Byte) :=
  let pk := s.pk g
  let c := g.cs
  let r := List.range
  let sq := fun (q : List SEntry) (n : Nat) => ((r n).map fun i => natLe 4 ((q[i]?.map (·.val.toNat)).getD 0)).flatten
  [(0x100, ((r (min 64 pk.aregs)).map fun n => wBytes (g.ra n)).flatten),
   (0x1F4, ((r 3).map fun n => wBytes (g.ra (61 + n))).flatten),
   (0x200, ((r 64).map fun n => wBytes (c.rc 0 n)).flatten),
   (0x300, ((r 7).map fun n => maskBytes (c.rp n)).flatten ++ ((r 12).map fun n => natLe 1 (g.cfn n)).flatten ++
      wBytes (s.gstat g ||| g.sys.sticky.setWidth 32) ++ wBytes (g.sys.gten.setWidth 32) ++ wBytes g.sys.timeHi ++
      wBytes g.sys.timeH ++
      natLe 8 ((r 48).foldl (fun a n =>
        if (if n < 32 then g.rb n else g.rt (n - 32)).loaded then a + 2 ^ n else a) 0)),
   (0x400, sq g.q.svq 32 ++ sq g.q.bq 16 ++ sq g.q.clq 8 ++ natLe 4 0 ++ natLe 4 g.q.svq.length ++ natLe 4 0 ++
      natLe 4 g.q.bq.length ++ natLe 4 0 ++ natLe 4 g.q.clq.length),
   (0x500, ((r 4).map fun k => match c.sp k with
      | some p => splitBytes p (g.faultedLanes k)
      | none => natLe 64 0).flatten),
   (0x600, ((r 7).map fun k => match c.tags.get? (k + 1) with
      | some t => natLe 4 t.join ++ natLe 4 t.encl ++ natLe 4 t.base ++ natLe 4 (if t.alone then 3 else 1)
      | none => natLe 16 0).flatten),
   (0x680, ((r 8).map fun k => muBytes g.mu[k]?).flatten),
   (0x800, ((r 32).map fun n => natLe 32 (g.rb n).img.toNat).flatten),
   (0xC00, ((r 16).map fun n => natLe 64 (g.rt n).img.toNat).flatten),
   (0x1800, ((vQueues pk g.q).map fun q => ((r q.1).map fun i => vEntryBytes q.2[i]?).flatten).flatten),
   (0x7000, ((r pk.vregs).map fun n => lanesBytes (c.raw n)).flatten)] ++
  ((c.splits.map fun kp => (kp.2.stack.reverse.take 32).zipIdx.map fun ei =>
      (stackVa g pk.vregs kp.1 ei.2 - g.slotBase, stackBytes ei.1)).flatten)

/-- Write the state image to the save slot at supervisor privilege; the failure of an access, if any. -/
def writeImage (s : State) (g : Group) : State × Option AFault :=
  (imageSegs s g).foldl (fun acc seg =>
    match acc with
    | (s, some e) => (s, some e)
    | (s, none) => s.writeVaBlk (s.lau g).qd.vf true (some (s.user g)) (g.slotBase + seg.1) seg.2) (s, none)

/-- A word out of an image. -/
def wordAt (b : List Byte) (off : Nat) : Word := BitVec.ofNat 32 (leNat ((b.drop off).take 4))

/-- A number out of an image. -/
def numAt (b : List Byte) (off n : Nat) : Nat := leNat ((b.drop off).take n)

/-- A split-table entry read back; the fields of its clause header are fetched again at its next word (08 R259). -/
def readSplit (b : List Byte) (k : Nat) (stack : List (Nat × Mask)) : Option Split :=
  let e := (b.drop (64 * k)).take 64
  let w := numAt e 28 4
  let t := numAt e 32 4
  let st := w / 256 % 256
  if st = 0 ∨ 3 < st then none
  else
    let slot := t / 65536 % 32
    some { idx := numAt e 0 4 % 2 ^ 22, slot, hdr := numAt e 0 4 % 2 ^ 22 - slot, cnt := 0, kc := 0, seta := 15,
           setb := 15, own := bytesMask ((e.drop 4).take 12), act := bytesMask ((e.drop 16).take 12), tag := t % 8,
           parent := w % 256, st := if st = 1 then .running else if st = 2 then .parkedJoin else .parkedEnd, stack,
           owed := t / 256 % 32, held := [], blk := none, since := 0, cmp := false, noWait := false, dropN := none }

/-- A stack entry from its 16 bytes. -/
def stackEntry (b : List Byte) : Nat × Mask := (numAt b 0 4 % 2 ^ 22, bytesMask (b.drop 4))

/-- The stack of a split read back, top first; a spilled entry that cannot be read now faults when it is filled (01 R32). -/
def readStack (s : State) (g : Group) (vregs k depth : Nat) : State × List (Nat × Mask) :=
  (List.range depth).foldl (fun (x : State × List (Nat × Mask)) e =>
    match x.1.readVa (x.1.lau g).qd.vf true (stackVa g vregs k e) 16 (some (x.1.user g)) with
    | (s, .ok b) => (s, stackEntry b :: x.2)
    | (s, .error _) => (s, (0, 0) :: x.2)) (s, [])

/-- A vector queue entry read back; the device keeps which operation owns it. -/
def readVEntry (old : VEntry) (b : List Byte) : VEntry :=
  let f := numAt b 396 4
  let tok := match old.fill with
    | .token c => Fill.token c
    | _ => .token (Cause.mk' 0 0)
  { data := bytesLanes b, mask := bytesMask ((b.drop 384).take 12),
    fill := if f % 2 = 1 then tok else if f / 4 % 2 = 1 then .reserved else .filled,
    held := f / 2 % 2 == 1, op := old.op, need := [] }

/-- The result queue of a memory-unit operation that returns one (04 R130, R137). -/
def MuOp.resultQ (o : MuOp) : Option Nat :=
  match o.instr with
  | .ldg _ _ q _ _ _ => some q.toNat
  | .atv _ q _ ret _ _ _ => if ret == 1 then some q.toNat else none
  | _ => none

/-- The memory-unit list read back; the device keeps each operation's number and A-PC. -/
def readMu (b : List Byte) (old : List MuOp) : List MuOp :=
  (List.range 8).filterMap fun k =>
    let e := (b.drop (48 * k)).take 48
    if numAt e 12 4 % 2 = 0 then none
    else match decodeA (wordAt e 0) (wordAt e 4) with
      | .ok i =>
        let o := old[k]?
        some { id := (o.map (·.id)).getD 0, instr := i, pc := (o.map (·.pc)).getD 0,
               buf := BitVec.ofNat 256 (numAt e 16 32), first := wordAt e 8, held := o.bind (·.held),
               places := none, begun := false, got := [], passed := (o.map (·.passed)).getD [] }
      | .error _ => none

/-- Several reads of a VF's space at supervisor privilege, in order; the first failure, if any. -/
def State.readParts (s : State) (v : Nat) (u : User) : List (Nat × Nat) → State × Except AFault (List (List Byte))
  | [] => (s, .ok [])
  | p :: r =>
    match s.readVa v true p.1 p.2 (some u) with
    | (s, .error e) => (s, .error e)
    | (s, .ok b) =>
      match s.readParts v u r with
      | (s, .ok bs) => (s, .ok (b :: bs))
      | (s, .error e) => (s, .error e)

/-- The splits of an image, with their stacks. -/
def readSplits (s : State) (g : Group) (vregs : Nat) (tbl : List Byte) : State × Tbl Split :=
  (List.range 4).foldl (fun (x : State × Tbl Split) k =>
    let r := readStack x.1 g vregs k (numAt tbl (64 * k + 30) 2)
    match readSplit tbl k r.2 with
    | some p => (r.1, x.2 ++ [(k, p)])
    | none => x) (s, [])

/-- What an image's bytes make of a group: `b` from 0x100 on, `qb` the vector queues, `vb` the V registers; completion-flag counts
only where `counts`. Lane operations keep the faulting lanes that the split table names (08 R264). -/
def Group.ofImage (g : Group) (pk : Packet) (splits : Tbl Split) (b qb vb : List Byte) (counts : Bool) : Group :=
  let at_ := fun off => b.drop (off - 0x100)
  let r := List.range
  let tags := (r 7).filterMap fun k =>
    let f := numAt (at_ 0x600) (16 * k + 12) 4
    if f % 2 = 0 then none
    else some (k + 1, ({ join := numAt (at_ 0x600) (16 * k) 4 % 2 ^ 22, encl := numAt (at_ 0x600) (16 * k + 4) 4 % 8,
                         base := numAt (at_ 0x600) (16 * k + 8) 4, alone := f / 2 % 2 == 1 } : TagRec))
  let ld := numAt (at_ 0x370) 0 8
  let sq := fun (off n : Nat) => (r n).map fun i => ({ val := wordAt (at_ off) (4 * i), need := [] } : SEntry)
  let vq := ((vQueues pk g.sys.qAside).foldl (fun (acc : Nat × List (List VEntry)) q =>
    (acc.1 + q.1, acc.2 ++ [q.2.zipIdx.map fun e =>
      if e.2 < q.1 then readVEntry e.1 ((qb.drop (512 * (acc.1 + e.2))).take 512) else e.1])) (0, [])).2
  let left := fun (o : LaneOp) =>
    if (splits.get? o.split).isNone then o
    else
      let m := bytesMask (((at_ 0x500).drop (64 * o.split + 36)).take 12)
      { o with faults := o.faults.filter fun f => m.getLsbD f.1, left := o.left &&& m }
  { g with
    a := (r 64).map fun n => (n, if n < pk.aregs ∨ 61 ≤ n then wordAt (at_ 0x100) (4 * n) else g.ra n),
    cs := { g.cs with
      v := (r pk.vregs).map fun n => (n, bytesLanes ((vb.drop (384 * n)).take 384)),
      c := (r 61).map fun n => (n + 3, wordAt (at_ 0x200) (4 * (n + 3))),
      p := (r 7).map fun n => (n, bytesMask ((at_ 0x300).drop (12 * n) |>.take 12)),
      splits, tags },
    cf := if counts then (r 12).map fun n => (n, numAt (at_ 0x354) n 1) else g.cf,
    b := (r 32).map fun n => (n, { img := BitVec.ofNat 512 (numAt (at_ 0x800) (32 * n) 32),
                                   loaded := ld / 2 ^ n % 2 == 1, busy := 0 }),
    t := (r 16).map fun n => (n, { img := BitVec.ofNat 512 (numAt (at_ 0xC00) (64 * n) 64),
                                   loaded := ld / 2 ^ (32 + n) % 2 == 1, busy := 0 }),
    q := { ldq := vq.take 4, svq := sq 0x400 (min 32 (numAt (at_ 0x4E4) 0 4)),
           bq := sq 0x480 (min 16 (numAt (at_ 0x4EC) 0 4)), clq := sq 0x4C0 (min 8 (numAt (at_ 0x4F4) 0 4)),
           xq := vq.getD 4 [], sdq0 := vq.getD 5 [], sdq1 := vq.getD 6 [] },
    mu := readMu (at_ 0x680) g.sys.muAside, lane := g.lane.map left,
    sys := { g.sys with
      sticky := (wordAt (at_ 0x360) 0).setWidth 5, gten := (wordAt (at_ 0x360) 4).setWidth 5,
      timeHi := wordAt (at_ 0x360) 8, timeH := wordAt (at_ 0x360) 12, muAside := [], pendAside := [], qAside := Queues.empty, uwAside := [], asideId := 0 },
    pend := g.sys.pendAside ++ g.pend,
    unwaited := g.sys.uwAside }

/-- Read the state image back into a group (08 R259, R265). The device keeps how many entries each vector queue held, and those past
its slots (notes/assumptions/14.md). -/
def readImage (s : State) (g : Group) (counts : Bool) : State × Except AFault Group :=
  let pk := s.pk g
  match s.readParts (s.lau g).qd.vf (s.user g)
      [(g.slotBase + 0x100, 0xF00), (g.slotBase + 0x1800, 22528), (g.slotBase + 0x7000, 384 * pk.vregs)] with
  | (s, .ok [b, qb, vb]) =>
    let r := readSplits s g pk.vregs (b.drop 0x400)
    (r.1, .ok (g.ofImage pk r.2 b qb vb counts))
  | (s, .ok _) => (s, .ok g)
  | (s, .error e) => (s, .error e)

end Sys2Proof.Machine
end

