-- ==== Sys2Proof/Machine/Records.lean ====
section
/-! DEFINITION. The fields and the validity of the records that B and T registers hold: buffer records (04 R123, R124), tensor,
surface and conv records (04 R139, R140). -/

namespace Sys2Proof.Machine

/-- The fields of a buffer record (04 R123). -/
structure Buf where
  base : Nat
  pitch : Nat
  extent : Nat
  stride : Nat
  esz : Nat
  swz : Nat
  level : Nat
  l2cls : Nat
  oob : Bool
  sgn : Bool
  roc : Bool
  rest : Nat
  deriving DecidableEq, Repr

/-- The fields of a buffer record's image. -/
def Buf.of (x : Nat) : Buf :=
  { base := x % 2 ^ 48, pitch := x / 2 ^ 48 % 2 ^ 16, extent := x / 2 ^ 64 % 2 ^ 32, stride := x / 2 ^ 96 % 2 ^ 24,
    esz := x / 2 ^ 120 % 8, swz := x / 2 ^ 123 % 4, level := x / 2 ^ 125 % 8, l2cls := x / 2 ^ 128 % 4,
    oob := x / 2 ^ 130 % 2 == 1, sgn := x / 2 ^ 131 % 2 == 1, roc := x / 2 ^ 132 % 2 == 1,
    rest := x / 2 ^ 133 % 2 ^ 123 }

/-- Element size in bytes. -/
def Buf.size (b : Buf) : Nat := 2 ^ b.esz

/-- Validity, apart from LOADED (04 R124). -/
def Buf.ok (b : Buf) : Bool :=
  decide (b.esz ≤ 4) && decide (b.level ≤ 4) && (decide (b.swz ≠ 1 ∧ b.swz ≠ 2) || decide (1 ≤ b.pitch)) &&
    (b.swz != 2 || b.pitch % 32 == 0) && b.rest == 0

/-- The fields of a valid record register. -/
def Rec.buf? (r : Rec) : Option Buf :=
  let b := Buf.of (r.img.toNat % 2 ^ 256)
  if r.loaded && b.ok then .some b else .none

/-- Whether a record names a tree that the traversal unit may walk (07 R240). -/
def Buf.isTree (b : Buf) : Bool := b.level == 0 && b.esz == 4 && b.swz == 0 && b.stride == 16

/-- One dimension of a tensor record. -/
structure Dim where
  ext : Nat
  box : Nat
  str : Int
  deriving DecidableEq, Repr

/-- The fields of a tensor record (04 R139). -/
structure Ten where
  base : Nat
  level : Nat
  l2cls : Nat
  fmt : Nat
  ndim : Nat
  padm : Nat
  padv : Nat
  kind : Nat
  ilvl : Nat
  sigbase : Nat
  dims : List Dim
  deriving DecidableEq, Repr

/-- The signed value of a 32-bit number. -/
def signed32 (n : Nat) : Int := (BitVec.ofNat 32 n).toInt

/-- The fields of a tensor record's image. -/
def Ten.of (x : Nat) : Ten :=
  { base := x % 2 ^ 48, level := x / 2 ^ 48 % 8, l2cls := x / 2 ^ 51 % 4, fmt := x / 2 ^ 53 % 32, ndim := x / 2 ^ 58 % 8,
    padm := x / 2 ^ 61 % 4, padv := x / 2 ^ 64 % 2 ^ 32, kind := x / 2 ^ 96 % 4, ilvl := x / 2 ^ 98 % 8,
    sigbase := x / 2 ^ 448 % 2 ^ 48,
    dims := (List.range 5).map fun d =>
      let y := x / 2 ^ (128 + 64 * d)
      { ext := y % 2 ^ 24, box := y / 2 ^ 24 % 256 + 1, str := signed32 (y / 2 ^ 32 % 2 ^ 32) } }

/-- Bits of an element by format code (03 R84, R87). -/
def fmtBits (f : Nat) : Nat :=
  [8, 8, 4, 4, 2, 1, 16, 16, 32, 16, 16, 32, 32, 8, 8, 8, 6, 6, 4, 16, 32, 64, 272, 144].getD f 8

/-- Whether a plain tensor or surface image is valid, apart from LOADED (04 R139). -/
def Ten.okPlain (t : Ten) (x : Nat) : Bool :=
  decide (x / 2 ^ 496 = 0) && decide (x / 2 ^ 63 % 2 = 0) && decide (x / 2 ^ 101 % 2 ^ 27 = 0) && decide (t.fmt ≤ 23) &&
    decide (1 ≤ t.ndim ∧ t.ndim ≤ 5) && t.padm != 3 && decide (t.ilvl ≤ 4) && decide (t.level ≤ 3) &&
    ((List.range 5).all fun d =>
      if d < t.ndim then decide (x / 2 ^ (128 + 64 * d) % 2 ^ 24 ≠ 0) else decide (x / 2 ^ (128 + 64 * d) % 2 ^ 64 = 0)) &&
    (t.kind != 0 || (t.sigbase == 0 && t.ilvl == 0)) && t.sigbase % 64 == 0 &&
    (decide (8 ≤ fmtBits t.fmt) || (t.dims[0]?.map (·.str)) == some 1)

/-- The fields of a conv record (04 R140). -/
structure Conv where
  fh : Nat
  fw : Nat
  sh : Nat
  sw : Nat
  dh : Nat
  dw : Nat
  pt : Nat
  pb : Nat
  pl : Nat
  pr : Nat
  cin : Nat
  cout : Nat
  dw1 : Bool
  deriving DecidableEq, Repr

/-- The fields of a conv record's image. -/
def Conv.of (x : Nat) : Conv :=
  let b := fun k => x / 2 ^ k % 256
  { fh := b 128, fw := b 136, sh := b 144, sw := b 152, dh := b 160, dw := b 168, pt := b 176, pb := b 184, pl := b 192,
    pr := b 200, cin := x / 2 ^ 208 % 2 ^ 16, cout := x / 2 ^ 224 % 2 ^ 16, dw1 := x / 2 ^ 240 % 2 == 1 }

/-- Whether a conv record's image is valid, apart from LOADED (04 R140). -/
def Conv.ok (c : Conv) (x : Nat) : Bool :=
  decide (x % 2 ^ 96 = 0) && decide (x / 2 ^ 98 % 2 ^ 30 = 0) && decide (x / 2 ^ 241 = 0) && c.fh != 0 && c.fw != 0 &&
    c.sh != 0 && c.sw != 0 && c.dh != 0 && c.dw != 0 && c.cin != 0 && c.cout != 0

/-- The record of a valid T register: its kind is 2 for a conv record. -/
def Rec.ten? (r : Rec) : Option Ten :=
  let x := r.img.toNat
  let t := Ten.of x
  if r.loaded && (if t.kind = 2 then (Conv.of x).ok x else t.kind != 3 && t.okPlain x) then .some t else .none

/-- Whether a record is a texture (07 R238). -/
def Ten.isTexture (t : Ten) : Bool := t.kind == 0 && (t.ndim == 3 || t.ndim == 4) && [11, 9, 10, 1, 0, 7].contains t.fmt

end Sys2Proof.Machine
end

