-- ==== Sys2Proof/Machine/Ops.lean ====
section
/-! DEFINITION. The named operations that meanings share: line ownership, barriers, the end of a group, raising and taking a
trap (08 R249-R260) and the return from one (R259). -/

namespace Sys2Proof.Machine

/-- Whether a lane operation of the traversal unit owns a lane's state line (07 R241); once it has stopped at a fault, the
lines of the faulting lanes alone (17 R389). -/
def LaneOp.owns (o : LaneOp) (gid : Nat) (l : Loc) : Bool :=
  let mine := fun (g ln : Nat) =>
    g == gid && o.lanes.getLsbD ln && (o.faults.isEmpty || o.faults.any fun f => f.1 == ln) &&
      (lane (o.vals.getD 8 []) ln).toNat / 64 == l.addr / 64
  match o.instr, l.space with
  | .trace .., .lane g ln => mine g ln
  | .tresume .., .lane g ln => mine g ln
  | _, _ => false

/-- Whether an engine operation owns a place's line. -/
def EngOp.owns (o : EngOp) (l : Loc) : Bool := o.lines.any fun x => l.sameLine x.1

/-- Whether a pass owns a place's line. -/
def Pass.owns (p : Pass) (l : Loc) : Bool := p.lines.any fun x => l.sameLine x.1

/-- Where a cause group stands in the order in which lanes' causes are reported (07 R216). -/
def faultRank (grp : Nat) : Nat := ([10, 9, 5, 6, 3, 4].idxOf? grp).getD 6

/-- What a stopped lane operation reports: the first group in the order, its lowest lane's address and detail, every faulting
lane (07 R216). -/
def LaneOp.report (o : LaneOp) : Option Cause :=
  let best := o.faults.foldl (fun n f => min n (faultRank f.2.grp)) 7
  let mine := o.faults.filter fun f => faultRank f.2.grp == best
  (sortBy (fun (a b : Nat × Cause) => decide (a.1 ≤ b.1)) mine).head?.map fun f =>
    { f.2 with lanes := mkMask fun l => o.faults.any fun x => x.1 == l }

/-- An operation suspended at a fault that an access of its own group meets (09 R288): the engine operation, the pass of a
session or the lane operation, its cause and the PC of its instruction. -/
structure Faulted where
  eng : Option Nat
  pass : Option (Nat × Nat)
  ray : Option Nat
  cause : Cause
  pc : Nat
  deriving DecidableEq, Repr

/-- What stands in the way of an access to a line (09 R286, R288): nothing, an owner whose write must be waited for (of the group
itself or not), or an owner of the same group suspended at a fault. -/
inductive Owned where
  | free
  | busy (own : Bool)
  | faulted (f : Faulted)
  deriving DecidableEq, Repr

/-- The owner of a line, as an access of group `gid` named `before` meets it: an operation that the group itself issued after
the access does not hold it up (09 R286-R288). -/
def State.owner (s : State) (gid before : Nat) (l : Loc) : Owned :=
  match s.eng.find? fun o => o.owns l && !(o.gid == gid && decide (before < o.id)) with
  | some o => match o.fault with
    | some c => if o.gid = gid then .faulted ⟨some o.id, none, none, c, o.pc⟩ else .busy false
    | none => .busy (o.gid == gid)
  | none =>
    let lead := fun (ss : Session) => (ss.parts[0]?.map (·.gid)) == some gid
    let holds := fun (ss : Session) (p : Pass) => p.owns l && !(lead ss && decide (before < p.id))
    match s.sessions.findSome? fun e => (e.2.passes.find? (holds e.2)).map fun p => (e.1, e.2, p) with
    | some (k, ss, p) =>
      match p.fault with
      | some c => if lead ss then .faulted ⟨none, some (k, p.id), none, c, p.pc⟩ else .busy false
      | none => .busy (lead ss)
    | none =>
      let rays := fun (k : Nat) (o : LaneOp) => o.owns k l && !(k == gid && decide (before < o.id))
      match s.groups.findSome? fun e => (e.2.lane.find? (rays e.1)).map fun o => (e.1, o) with
      | some (k, o) =>
        match o.report with
        | some c => if k = gid then .faulted ⟨none, none, some o.id, c, o.cpc⟩ else .busy false
        | none => .busy (k == gid)
      | none => .free

/-- Whether every place of a list is free of owners. -/
def State.allFree (s : State) (gid before : Nat) (ls : List Loc) : Bool := ls.all fun l => s.owner gid before l == .free

/-- The first place that another operation owns. -/
def State.firstOwned (s : State) (gid before : Nat) (ls : List Loc) : Owned :=
  match ls.find? fun l => s.owner gid before l != .free with
  | some l => s.owner gid before l
  | none => .free

/-- The first place that an operation of the same group owns: an access meets it at issue, so that its fault is precise (09 R288); an
access to a line that another agent owns issues, and waits in flight (R286). -/
def State.firstOwn (s : State) (gid before : Nat) (ls : List Loc) : Owned :=
  match ls.find? fun l => s.owner gid before l != .free && s.owner gid before l != .busy false with
  | some l => s.owner gid before l
  | none => .free

/-- The fault of a suspended engine operation or pass is delivered: a restartable one waits for TRET, another has ended at its
recorded unit (07 R216). -/
def State.deliverEng (s : State) (eng : Option Nat) (pass : Option (Nat × Nat)) (c : Cause) : State :=
  let keep := restartable c.grp
  let s := match eng with
    | some id =>
      { s with eng := if keep then s.eng.map fun o => if o.id = id then { o with told := true } else o
                      else s.eng.filter fun o => o.id != id }
    | none => s
  match pass with
  | some (k, id) =>
    { s with sessions := s.sessions.upd k fun ss =>
        { ss with passes := if keep then ss.passes.map fun p => if p.id = id then { p with told := true } else p
                            else ss.passes.filter fun p => p.id != id } }
  | none => s

/-- The group, once the fault of its suspended lane operation has been delivered at an access (09 R288). -/
def Faulted.mark (f : Faulted) (g : Group) : Group :=
  match f.ray with
  | none => g
  | some id => { g with lane := g.lane.map fun o => if o.id = id then { o with done := true } else o }

/-- Complete a phase when the arrivals have met the expected count (04 R145). -/
def Bar.settle (b : Bar) : Bar :=
  if b.cnt = b.exp ∧ b.exp ≠ 0 then
    { b with cnt := 0, exp := b.init, phase := !b.phase, rel := b.owed.foldl insertNat b.rel, owed := [],
             go := b.go ++ b.wait, wait := [] }
  else b

/-- One arrival of a group, with its owed bit (04 R145 BARV). -/
def Bar.arrive (b : Bar) (gid : Nat) : Bar := { b with cnt := b.cnt + 1, owed := insertNat b.owed gid }.settle

/-- One arrival of an engine, without owed bit; at EXP = 0 it is a fault of the issuing group (04 R146). -/
def Bar.engArrive (b : Bar) (gid : Nat) : Bar :=
  if b.exp = 0 then { b with engZero := b.engZero ++ [gid] } else { b with cnt := b.cnt + 1 }.settle

/-- An engine arrival at a team's barrier. -/
def State.engArrive (s : State) (tid nb gid : Nat) : State := s.setBar tid nb ((s.bar tid nb).engArrive gid)

/-- An acquire of a group at a scope: clu and wider drop its core's L1 (09 R276). DEDUCED: the acquire of a barrier wait has scope
core (04 R145, 06 R207) and drops nothing (notes/assumptions/77.md). -/
def State.acquire (s : State) (g : Group) (scope : Nat) : State :=
  if 3 ≤ scope then s.dropL1 g.who.core else s

/-- Mark a launch failed with a cause group, unless a failure is recorded already (08 R257, R258). -/
def State.failLaunch (s : State) (lid grp : Nat) : State :=
  s.updL lid fun l => if l.status = 0 then { l with status := 3, cgrp := grp } else l

/-- Return the unpublished records of a group's handles to the pool (04 R148). -/
def Galley.dropGroup (y : Galley) (gid : Nat) : Galley :=
  let mine := y.handles.filter fun h => h.gid == gid
  let free := (mine.map fun h => (List.range (h.n - h.done)).map fun i => h.idx + h.done + i).flatten
  { y with handles := y.handles.filter (fun h => h.gid != gid), waits := y.waits.filter (fun w => w.gid != gid),
           used := y.used.filter fun u => !free.contains u }

/-- Count issue cycles of a launch. -/
def State.charge (s : State) (lid n : Nat) : State := s.updL lid fun l => { l with cycles := l.cycles + n }

/-- The arrays of a quad let go of a session's pass: the clk that it waited at the surge arbiter count for its leader, and one that ran has
used the engine until now (11 R314, R326). -/
def State.offArrays (s : State) (ss : Session) : State :=
  ss.passes.foldl (fun (s : State) p =>
    if !p.granted then s
    else match p.surge with
      | some t => s.charge ss.lid ((s.tick - t) / clkT)
      | none => { s with quads := setAt s.quads ss.quad { (s.quads.getD ss.quad Quad.reset) with lastUse := some s.tick } }) s

/-- Discard a session: its passes, its tiles and its entry; the flags of feeds not latched complete (16 R387, 12 R343), those of a saved
participant when its image comes back. -/
def State.dissolve (s : State) (k : Nat) : State :=
  match s.sessions.get? k with
  | none => s
  | some ss =>
    let gs := ss.parts.foldl (fun (gs : Tbl Group) p =>
      if p.left then gs
      else gs.upd p.gid fun g => p.flags.foldl (fun g f => g.detach f)
        { g with session := none, freed := if g.saved then g.freed ++ p.flags else g.freed }) s.groups
    { s.offArrays ss with sessions := s.sessions.del k, groups := gs }

/-- A participant leaves its session: feeds that no step has consumed are discarded and their flags complete; the last one to
leave destroys the session (07 R223). -/
def leaveSession (s : State) (g : Group) (k : Nat) (ss : Session) (q : Nat) : State × Group :=
  let part := ss.parts[q]?
  let g := (((part.map (·.flags)).getD []).foldl (fun (g : Group) f => g.detach f) g)
  let parts := ss.parts.zipIdx.map fun e => if e.2 = q then { e.1 with left := true, flags := [] } else e.1
  let s := if parts.all (·.left) then { s with sessions := s.sessions.del k }
    else { s with sessions := s.sessions.set k { ss with parts } }
  (s, { g with session := none })

/-- A group that ends by a trap leaves its session, whose pass goes on with the others (12 R342). DESIGN CHOICE: the leader's passes end with
it, as its other engine operations do (08 R258; notes/assumptions/24.md). -/
def State.quitSession (s : State) (g : Group) : State :=
  match g.session.bind fun x => (s.sessions.get? x.1).map fun ss => (x.1, ss, x.2) with
  | none => s
  | some (k, ss, q) =>
    let r := if q = 0 then leaveSession (s.offArrays ss) g k { ss with passes := [] } q else leaveSession s g k ss q
    { r.1 with groups := r.1.groups.set g.who.gid r.2 }

/-- What a group gives up when it ends: its engine operations, its waiting MXBIND, its handles, its session. -/
def State.release (s : State) (gid : Nat) : State :=
  match s.groups.get? gid with
  | none => s
  | some g =>
    let s := { s with eng := s.eng.filter fun o => o.gid != gid, binds := s.binds.filter fun b => b.gid != gid,
                      watch := s.watch.filter fun w => w.gid != gid,
                      galley := s.galley.upd (s.lau g).qd.vf fun y => y.dropGroup gid }
    s.quitSession g

/-- Remove a group that has ended, with the team and cluster that no longer hold any (11 R319, R322). -/
def State.removeGroup (s : State) (gid : Nat) : State :=
  match s.groups.get? gid with
  | none => s
  | some g =>
    let s := s.release gid
    let s := { s with groups := s.groups.del gid }
    let s := if s.groups.any fun e => e.2.who.tid == g.who.tid then s else { s with teams := s.teams.del g.who.tid }
    let s := if s.teams.any fun e => e.2.cid == g.who.cid then s else { s with clusters := s.clusters.del g.who.cid }
    s.updL g.who.lid fun l => { l with endT := s.tick }

/-- Whether a memory operation writes: it outlives its group (04 R150, 08 R262). -/
def MemOp.outlives (o : MemOp) : Bool :=
  match o.kind with
  | .sta .. => true
  | .ata .. => true
  | .nearStore .. => true
  | .nearAtom .. => true
  | _ => false

/-- Whether an operation's data comes back from memory. -/
def MemOp.reads (o : MemOp) : Bool :=
  match o.kind with
  | .sta .. => false
  | .nearStore .. => false
  | .nearAtom _ _ ret _ _ _ => ret
  | _ => true

/-! ## Memory operations and their order -/

/-- The acquire scope of an atomic's ordering code and scope (02 R55). -/
def atomAcq (ord : BitVec 2) (scope : BitVec 3) : Nat := if ord = 1 ∨ ord = 3 then scope.toNat else 0

/-- The release scope of an atomic. -/
def atomRel (ord : BitVec 2) (scope : BitVec 3) : Nat := if ord = 2 ∨ ord = 3 then scope.toNat else 0

/-- An operation of the A-stream in flight. -/
def aOp (id pc : Nat) (kind : MemKind) (els : List (Nat × Loc)) (acq rel : Nat) : MemOp :=
  { id, who := 4, pc, kind, els, got := [], acq, rel }

/-- Bytes of each piece of an operation in flight. -/
def MemOp.pieceLen (o : MemOp) : Nat :=
  match o.kind with
  | .lda _ n _ => n
  | .sta _ n => n
  | .ata .. => 4
  | .ldv _ n _ => min n 4
  | .bld _ => 32
  | .tld _ => 64
  | .near _ n _ _ => min n 4
  | .nearStore n _ => min n 4
  | .nearAtom .. => 4

/-- Whether two operations touch one byte. -/
def overlap (a b : MemOp) : Bool :=
  a.els.any fun x => b.els.any fun y =>
    x.2.space == y.2.space && decide (x.2.addr < y.2.addr + b.pieceLen) && decide (y.2.addr < x.2.addr + a.pieceLen)

/-- Whether an operation of the memory unit's list is an acquire (02 R55, 20 R390). -/
def MuOp.acquires (o : MuOp) : Bool :=
  match o.instr with
  | .ldg _ ord .. => ord != 0
  | .atv _ _ _ _ _ ord _ => ord == 1 || ord == 3
  | _ => false

/-- The scope of an operation's release, 0 where it is none. -/
def MuOp.rel (o : MuOp) : Nat :=
  match o.instr with
  | .stv ord .. => ord.toNat
  | .stx ord .. => ord.toNat
  | .atv _ _ _ _ _ ord scope => atomRel ord scope
  | _ => 0

/-- The scope of its acquire. -/
def MuOp.acq (o : MuOp) : Nat :=
  match o.instr with
  | .ldg _ ord .. => ord.toNat
  | .atv _ _ _ _ _ ord scope => atomAcq ord scope
  | _ => 0

/-- Bytes of each part of an operation. -/
def MuOp.pieceLen (o : MuOp) : Nat := min (Buf.of o.buf.toNat).size 4

/-- The pieces of an operation as one that overlaps may be sought for. -/
def MuOp.asMem (o : MuOp) (sz : Nat) (ps : List (Nat × Loc)) : MemOp := aOp o.id o.pc (.sta 0 sz) ps 0 0

/-- The access code of an operation (08 R254). -/
def MuOp.access (o : MuOp) : Nat :=
  match o.instr with
  | .ldg .. => 0
  | .atv .. => 2
  | _ => 1

/-- An operation of the memory unit's list as one of the A-stream's operations, with the places that it has still to access. -/
def MuOp.view (o : MuOp) (ps : List (Nat × Loc)) : MemOp :=
  aOp o.id o.pc (if o.access = 1 then .sta 0 o.pieceLen else .lda 0 o.pieceLen false) ps (if o.acquires then 1 else 0) o.rel

/-- Whether the order of R279-R283 keeps an operation of the A-stream from being performed as long as the earlier ones of a list are not
(04 R147; 20 R390): an acquire holds all later ones, a release follows all earlier ones, an acquire with nothing to access follows the
loads and atomics, and accesses to the same bytes keep their order. The list says which of its operations are in flight. -/
def MemOp.heldBy (o : MemOp) (before : List (MemOp × Bool)) : Bool :=
  before.any (fun p => p.1.acq != 0 || (p.2 && overlap p.1 o)) || (o.rel != 0 && !before.isEmpty) ||
    (o.acq != 0 && o.els.isEmpty && before.any fun p => p.1.reads)

/-- The A-stream's operations that cannot be performed for want of what the memory unit's list has still to take: those of the list for
which `goes` does not hold, and all that they hold back, in A program order (08 R256, R264; 20 R390). -/
def Group.standing (g : Group) (places : MuOp → List (Nat × Loc)) (goes : MuOp → Bool) : List MemOp :=
  let flight := (g.pend.filter fun o => o.who == 4).map fun o => (o, true, true)
  let listed := g.mu.map fun m => (m.view (places m), false, m.begun || goes m)
  let all := sortBy (fun (a b : MemOp × Bool × Bool) => decide (a.1.id ≤ b.1.id)) (flight ++ listed)
  (all.foldl (fun (st : List (MemOp × Bool)) x => if !x.2.2 || x.1.heldBy st then st ++ [(x.1, x.2.1)] else st) []).map Prod.fst

/-- The numbers of the operations that stand while a trap is to be entered: no operation of the list begins then (08 R256). -/
def Group.standsAtTrap (g : Group) : List Nat := (g.standing (fun _ => []) fun _ => false).map (·.id)

/-- Whether the operations that trap entry and a save wait for have ended (08 R256 steps 2 and 3): a load that an operation of the memory
unit's list holds back has not begun, and is not waited for (notes/assumptions/67.md). -/
def Group.drained (g : Group) : Bool :=
  g.pend.all (fun o => !o.reads || g.standsAtTrap.contains o.id) && g.lane.all (fun o => !o.faults.isEmpty) && (g.shadow.all fun x => x.log.isEmpty) &&
    g.mu.all fun o => !o.begun

/-- QOCC (01 R39); entries that the shadow has not popped count (R30). -/
def Group.shadowPops (g : Group) (q : Nat) : Nat :=
  match g.shadow with
  | none => 0
  | some x => (x.log.map fun i => (i.pops.filter fun p => p.1 == q).length).sum

/-- The operations of the memory unit's list before one of the A-stream. -/
def Group.muBefore (g : Group) (id : Nat) : List MuOp := g.mu.filter fun m => decide (m.id < id)

/-- Whether operations have all been performed (09 R280). -/
def Group.performed (g : Group) (need : List Nat) : Bool :=
  need.all fun n => !(((g.pend ++ g.sys.pendAside).any fun o => o.id == n) || (g.mu ++ g.sys.muAside).any fun o => o.id == n)

/-- Whether an arrival that a stream of the group has made at a barrier still waits for earlier operations. -/
def Group.arriving (g : Group) (nb stream : Nat) : Bool := g.arrivals.any fun a => a.nb == nb && a.stream == stream

/-- Publish records: they join their node's records in order, and the rules of the Galley apply in this clk (20 R393). -/
def Galley.publish (y : Galley) (recs : List Nat) (node depth now : Nat) : Galley :=
  let new : List Committed := recs.zipIdx.map fun r => { idx := r.1, node, depth, time := now, seq := y.seq + r.2 }
  { y with comm := y.comm ++ new, seq := y.seq + recs.length, due := true }

/-- An RCOMMIT of a group takes effect, with release at dev (04 R148). -/
def State.commit (s : State) (g : Group) (c : Commit) : State :=
  let s := s.publish g 4
  { s with galley := s.galley.upd c.vf fun y => y.publish c.recs c.node c.depth s.tick }

/-- The arrivals and the commits of a group whose earlier operations are now performed take place (04 R145, R148; 06 R207; 09 R282). -/
def State.arriveReady (s : State) (gid : Nat) : State :=
  match s.groups.get? gid with
  | none => s
  | some g =>
    if g.arrivals.isEmpty && g.commits.isEmpty then s
    else
      let s := s.setG gid { g with arrivals := g.arrivals.filter (fun a => !g.performed a.need),
                                   commits := g.commits.filter fun c => !g.performed c.need }
      let s := (g.arrivals.filter fun a => g.performed a.need).foldl (fun (s : State) a =>
        (s.publish g 2).setBar g.who.tid a.nb ((s.bar g.who.tid a.nb).arrive gid)) s
      (g.commits.filter fun c => g.performed c.need).foldl (fun (s : State) c => s.commit g c) s

/-- End a group: at once, or once the writes it has issued are performed; its arrivals at barriers take place. Its writes are performed
for every agent before its launch's completion record is (09 R282; 11 R323). -/
def State.endGroup (s : State) (gid : Nat) : State :=
  match s.groups.get? gid with
  | none => s
  | some g =>
    let pend := (g.sys.pendAside ++ g.pend).filter MemOp.outlives
    let sys := { g.sys with muAside := [], pendAside := [], qAside := Queues.empty, uwAside := [] }
    let s := ((s.release gid).setG gid
      { g with stop := .gone, pend, mu := [], lane := [], trap := none, session := none, sys }).arriveReady gid
    if pend.isEmpty then (s.publish g 4).removeGroup gid else s

/-- The SDQs that an operation of the memory unit takes from (04 R131, R137). -/
def MuOp.sdqs (o : MuOp) : List Nat :=
  match o.instr with
  | .stv _ q _ _ _ => [q.toNat]
  | .stx _ q _ _ _ => [q.toNat]
  | .atv op _ _ _ q _ _ => if op = 9 then [0, 1] else [q.toNat]
  | _ => []

/-- Whether an operation takes its indices from XQ (04 R115). -/
def MuOp.indexed (o : MuOp) : Bool :=
  match o.instr with
  | .ldg .. => true
  | .stx .. => true
  | .atv .. => true
  | _ => false

/-- The queues (0 XQ, 1 SDQ0, 2 SDQ1) that an operation takes from. -/
def MuOp.takes (o : MuOp) : List Nat := (if o.indexed then [0] else []) ++ o.sdqs.map (· + 1)

/-- XQ, SDQ0 or SDQ1 (0, 1, 2) as a list: the entries that listed operations have taken, in A program order, then those that
none has taken yet (04 R132). -/
def Group.vq (g : Group) (q : Nat) : List VEntry :=
  match q with
  | 0 => g.q.xq
  | 1 => g.q.sdq0
  | _ => g.q.sdq1

/-- Replace XQ, SDQ0 or SDQ1. -/
def Group.setVq (g : Group) (q : Nat) (l : List VEntry) : Group :=
  match q with
  | 0 => { g with q.xq := l }
  | 1 => { g with q.sdq0 := l }
  | _ => { g with q.sdq1 := l }

/-- How many entries of a queue the listed operations have taken: each takes an entry as it arrives, once what precedes its push
has been performed, and does not wait for its other entries (04 R132, 09 R280; notes/assumptions/43.md). -/
def Group.taken (g : Group) (q : Nat) : Nat :=
  (((g.vq q).take ((g.mu.filter fun o => o.takes.contains q).length)).takeWhile fun e => g.performed e.need).length

/-- The place of an operation's entry in a queue: after those of the operations listed before it. -/
def Group.placeOf (g : Group) (o : MuOp) (q : Nat) : Nat :=
  ((g.mu.takeWhile fun x => x.id != o.id).filter fun x => x.takes.contains q).length

/-- The entry that an operation has taken from a queue, when it has arrived. -/
def Group.vHead (g : Group) (o : MuOp) (q : Nat) : Option VEntry :=
  ((g.vq q)[g.placeOf o q]?).filter fun e => g.performed e.need

/-- Whether the operations listed before one let it take its entries: indexed operations go in order, and so do the takers of
one SDQ, unless a failed check has stopped the earlier one (04 R115, R132). -/
def Group.muTurn (g : Group) (o : MuOp) : Bool :=
  let before := g.mu.takeWhile fun x => x.id != o.id
  before.all fun x => !(x.indexed && o.indexed) && (x.held.isSome || !(x.sdqs.any fun q => o.sdqs.contains q))

/-- Whether an operation that the unit does not hold has all its entries: it is performed before a save or TRET (08 R259, R264). -/
def Group.muReady (g : Group) (o : MuOp) : Bool := o.held.isNone && o.takes.all fun q => (g.vHead o q).isSome

/-- Change or remove the entry of an operation in a queue. -/
def Group.updHead (g : Group) (o : MuOp) (q : Nat) (f : VEntry → Option VEntry) : Group :=
  let n := g.placeOf o q
  g.setVq q ((g.vq q).take n ++ (((g.vq q)[n]?).bind f).toList ++ (g.vq q).drop (n + 1))

/-- Apply a function to the entry of a queue that an operation reserved. -/
def Group.updEntry (g : Group) (q id : Nat) (f : VEntry → VEntry) : Group :=
  { g with q.ldq := setAt g.q.ldq q ((g.q.ldq.getD q []).map fun e => if e.op = id ∧ e.fill ≠ .filled then f e else e) }

/-- An operation of the memory unit without the entries it has taken from XQ and the SDQs, no longer in the list. -/
def Group.dropMu (g : Group) (o : MuOp) : Group :=
  let g := o.takes.foldl (fun (g : Group) q => g.updHead o q fun _ => none) g
  { g with mu := g.mu.filter fun x => x.id != o.id }

/-- A held operation whose cause is not restartable ends (04 R115): it performs no access, its XQ and SDQ entries are discarded, and
its result entry holds zeros in place of its token. -/
def Group.endMuOp (g : Group) (o : MuOp) : Group :=
  let g := g.dropMu o
  match o.resultQ with
  | some q => g.updEntry q o.id fun e => { e with data := zeroLanes, fill := .filled, held := false }
  | none => g

/-- A held operation goes on (08 R259): its entries are held no more, and its result entry is reserved again. -/
def Group.takeUp (g : Group) (o : MuOp) : Group :=
  let g := o.takes.foldl (fun (g : Group) q => g.updHead o q fun e => some { e with held := false }) g
  let g := { g with mu := g.mu.map fun x => if x.id = o.id then { x with held := none } else x }
  match o.resultQ with
  | some q => g.updEntry q o.id fun e => { e with fill := .reserved, held := false }
  | none => g

/-- The held operations of the memory unit at TRET, in A program order: one whose cause is restartable is reissued; one whose cause is not
has ended if its fault was delivered, and is held on until it is (04 R115; 08 R259). -/
def Group.resumeMu (g : Group) : Group :=
  g.mu.foldl (fun (g : Group) o =>
    match o.held with
    | some c => if restartable c.grp then g.takeUp o else g
    | none => g) g

/-- An operation of the memory unit whose fault is delivered ends there when its cause is not restartable (04 R115). -/
def Group.endHeld (g : Group) (op : Nat) (c : Cause) : Group :=
  if restartable c.grp then g
  else match g.mu.find? fun o => o.id == op with
    | some o => g.endMuOp o
    | none => g

/-- Occupancy of a queue, by its id of R254 (01 R30, R39). -/
def Group.occ (g : Group) (q : Nat) : Nat :=
  match q with
  | 4 => g.q.svq.length + g.shadowPops 4
  | 5 => g.q.clq.length
  | 6 => g.q.xq.length - g.taken 0
  | 7 => g.q.sdq0.length - g.taken 1
  | 8 => g.q.sdq1.length - g.taken 2
  | 9 => g.q.bq.length
  | n => (g.q.ldq.getD n []).length + g.shadowPops n

/-- QOCC (01 R39). -/
def Group.qocc (g : Group) : Word :=
  BitVec.ofNat 32 (g.occ 0 + 2 ^ 5 * g.occ 1 + 2 ^ 10 * g.occ 2 + 2 ^ 15 * g.occ 3 + 2 ^ 20 * g.occ 4 + 2 ^ 26 * g.occ 5)

/-- QOCCB (01 R39). -/
def Group.qoccb (g : Group) : Word :=
  BitVec.ofNat 32 (g.occ 6 + 2 ^ 3 * g.occ 7 + 2 ^ 6 * g.occ 8 + 2 ^ 9 * g.occ 9)

/-- Declared depth of a queue by its id (11 R310 in the order of R81: LDQ0-3, SVQ, CLQ, XQ, SDQ0, SDQ1, BQ). -/
def Packet.depth (pk : Packet) (q : Nat) : Nat := pk.depths.getD q 0

/-- Word 0 of the frame (08 R253). -/
def frameWord0 (p : Pending) (priv : Bool) : Nat :=
  p.cause.grp % 32 + 256 * (p.cause.code % 256) + (if p.aside then 2 ^ 16 else 0) + (if p.cside then 2 ^ 17 else 0) +
    (if restartable p.cause.grp then 2 ^ 18 else 0) + (if priv then 2 ^ 19 else 0) +
    2 ^ 24 * (if p.cside then p.split else 255)

/-- The 256 bytes of a trap frame (08 R252). -/
def frameBytes (s : State) (g : Group) (p : Pending) : List Byte :=
  natLe 4 (frameWord0 p g.sys.priv) ++ natLe 4 p.apc ++ natLe 4 (if p.cside then p.cpc % 2 ^ 22 else 0) ++
    natLe 4 (if p.cside then p.slot % 32 else 0) ++ natLe 8 p.cause.va ++ maskBytes p.cause.lanes ++
    natLe 12 p.word.toNat ++ natLe 12 p.cause.detail.toNat ++ wBytes g.qocc ++ natLe 4 p.fpc ++ wBytes g.qoccb ++
    wBytes (s.gstat g) ++ natLe 4 p.displaced ++
    ((List.range 8).map fun i => natLe 4 ((g.q.clq[i]?.map (·.val.toNat)).getD 0)).flatten ++
    natLe 4 g.q.clq.length ++ natLe 4 p.pop ++ natLe 136 0

/-- The address of the active frame (08 R252). -/
def Group.frameVa (g : Group) : Nat := g.slotBase + g.sys.tframe.toNat / 256 * 256

/-- Whether a group has a handler (08 R258). -/
def State.hasHandler (s : State) (g : Group) : Bool := (s.lau g).qd.hen || g.sys.wroteTvec

/-- A split at a word index with a mask, tag 0 and an empty stack. -/
def Split.fresh (idx : Nat) (m : Mask) (st : SplitSt) : Split :=
  { idx, slot := 0, hdr := idx, cnt := 0, kc := 0, seta := 15, setb := 15, own := m, act := m, tag := 0, parent := 0, st,
    stack := [], owed := 0, held := [], blk := none, since := 0, cmp := false, noWait := false, dropN := none }

/-- A Colophon event of class 1 about a group (14 R401). -/
def State.colGroup (s : State) (g : Group) (code first : Nat) : State :=
  let l := s.lau g
  s.colophon 1 code (quadOf g.who.core) l.qd.vf (natLe 4 first ++ l.tag ++ natLe 4 g.who.lin)

/-- The cause of an access that cannot be made, with its lanes. -/
def AFault.cause' (f : AFault) (code acc : Nat) (lanes : Mask) : Cause :=
  match f with
  | .cause grp c d va => Cause.mk' grp c d va lanes
  | .window _ va => Cause.mk' 4 1 acc va lanes
  | .hole a => Cause.mk' 3 code acc a lanes

/-- A double trap (08 R257): no frame; the group ends and its launch fails with the second cause. -/
def doubleTrap (s : State) (gid : Nat) (p : Pending) : State :=
  match s.groups.get? gid with
  | none => s
  | some g =>
    let s := s.colGroup g 1 (p.cause.grp % 32 + 256 * (p.cause.code % 256))
    (s.failLaunch g.who.lid p.cause.grp).endGroup gid

/-- Put a popped entry back at the head of its queue. -/
def Group.unpop (g : Group) (q : Nat) (e : VEntry) : Group :=
  if q = 4 then { g with q.svq := { val := e.data.getD 0 0, need := [] } :: g.q.svq }
  else { g with q.ldq := setAt g.q.ldq q (e :: g.q.ldq.getD q []) }

/-- Put entries that an instruction had popped back (08 R250, R251: it has no effect). -/
def Group.unpopAll (g : Group) (es : List (Nat × VEntry)) : Group :=
  es.reverse.foldl (fun g e => if 100 ≤ e.1 then g else g.unpop e.1 e.2) g

/-- The group as a trap or a save leaves it before its image is written (08 R251, R256): instructions that wait have no
effect, so the entries they had popped go back, the latest first, and nothing waits any more at a REGROUP. -/
def Group.settle (g : Group) : Group :=
  let order := sortBy (fun (a b : Nat × Split) => decide (b.2.since ≤ a.2.since)) g.cs.splits
  let g := order.foldl (fun (g : Group) e => g.unpopAll e.2.held) g
  { g with regroup := .none,
           cs := { g.cs with splits := g.cs.splits.mapV fun _ p =>
             { p with held := [], blk := .none, dropN := .none, cmp := false } } }

/-- A group waits at no barrier, no RALLOC and no MXBIND any more. -/
def State.unwait (s : State) (gid : Nat) : State :=
  { s with teams := s.teams.mapV fun _ t =>
             { t with bars := t.bars.mapV fun _ b => { b with wait := b.wait.filter fun w => w.1 != gid } },
           galley := s.galley.mapV fun _ y => { y with waits := y.waits.filter fun w => w.gid != gid },
           binds := s.binds.filter fun b => b.gid != gid }

/-- Whether a lane operation that a trap has set aside waits for TRET: it is attached to its flag no more (08 R256; 17 R388). -/
def Group.laneAside (g : Group) (o : LaneOp) : Bool := g.sys.frame && decide (o.id < g.sys.asideId)

/-- Lane operations of a group that stops are attached to their flags no more: those that have not stopped at a fault, at which they let go
of it (08 R256 step 3). -/
def Group.detachLanes (g : Group) : Group :=
  (g.lane.filter fun o => !g.laneAside o && o.faults.isEmpty).foldl (fun g o => g.detach o.flag) g

/-- TAKING A TRAP (08 R256 steps 4 to 7, R257, R258): the image and the frame go to the save slot, TCG and TDX are set, and
the streams enter the handlers; a group without a handler ends; a trap inside a handler is a double trap, and so is a
failing image or frame write, with the cause of that access. DESIGN CHOICE: the code of that cause, which R254 gives no name for, is 3, that of
an engine access (notes/assumptions/36.md). -/
def takeTrap (s : State) (gid : Nat) (p : Pending) : State :=
  match s.groups.get? gid with
  | none => s
  | some g =>
    if g.sys.frame then doubleTrap s gid p
    else
      let s := s.unwait gid
      let g := g.settle
      let g := { g.detachLanes with trap := none }
      let (s, e1) := writeImage s g
      match e1 with
      | some e => doubleTrap (s.setG gid g) gid { p with cause := e.cause' 3 1 0 }
      | none =>
        let (s, e2) := s.writeVaBlk (s.lau g).qd.vf true (some (s.user g)) g.frameVa (frameBytes s g p)
        match e2 with
        | some e => doubleTrap (s.setG gid g) gid { p with cause := e.cause' 3 1 0 }
        | none =>
          let d := p.cause.detail
          let g := { g with sys := { g.sys with tcg := BitVec.ofNat 32 (p.cause.grp % 32), tdx0 := d.extractLsb' 0 32,
                                                tdx1 := d.extractLsb' 32 32, tdx2 := d.extractLsb' 64 32 } }
          if s.hasHandler g then
            let alive := g.cs.alive
            let sp := if p.cside then Split.fresh (g.sys.tvecc.toNat % 2 ^ 22) (p.cause.lanes &&& alive) .running
              else Split.fresh 0 alive .parkedEnd
            let g := (g.wa 62 (BitVec.ofNat 32 g.frameVa)).wa 61 (BitVec.ofNat 32 (g.frameVa / 2 ^ 32 % 2 ^ 15))
            let st := g.standsAtTrap
            let g := { g with
              pend := g.pend.filter (fun o => !st.contains o.id), fenced := none,
              sys := { g.sys with priv := true, frame := true, muAside := g.mu,
                                    pendAside := g.pend.filter (fun o => st.contains o.id), qAside := g.q, uwAside := g.unwaited,
                                    asideId := s.nextId },
              mu := [], q := Queues.empty, apc := g.sys.tveca.toNat, stop := .run, ablk := none, unwaited := [],
              cs := { g.cs with splits := [(0, sp)], tags := [] },
              shadow := g.shadow.map fun x => { x with cs := { x.cs with splits := [(0, sp)], tags := [] } },
              pushed := (if p.cside then 1 else 0), ended := 0 }
            s.setG gid g
          else
            let s := s.setG gid g
            let s := s.failLaunch g.who.lid p.cause.grp
            let s := s.colGroup g 2 (p.cause.grp % 32 + 256 * (p.cause.code % 256))
            (s.irqL (s.lau g) 1).endGroup gid

/-- Raise a trap of a group: taken at once if nothing of the group has still to end, otherwise by the step TRAP_ENTRY
(08 R256); a group that HALTD has stopped takes it once the host resumes the group (04 R149). The first trap raised stands. -/
def raise (s : State) (gid : Nat) (p : Pending) : State :=
  match s.groups.get? gid with
  | none => s
  | some g =>
    if g.trap.isSome || g.stop == .gone then s
    else if g.sys.frame then doubleTrap s gid p
    else if g.drained && !g.saved && g.stop != .halt then takeTrap s gid p
    else (s.unwait gid).setG gid { g with trap := some { p with since := s.tick } }

/-- A trap that the A-stream meets at its own instruction (08 R252). -/
def aPending (g : Group) (i : Instr) (c : Cause) : Pending :=
  { cause := c, aside := true, cside := false, split := 255, apc := g.apc, cpc := 0, slot := 0,
    word := (aWords i).setWidth 96, fpc := g.apc, pop := 0, displaced := 0 }

/-- The entries that the word of a POP removes (06 R190). -/
def popCount (w : BitVec 96) : Nat := (w.extractLsb' 80 4).toNat + 1

/-- A trap that a split meets at its instruction (08 R250, R252); the count at 0x74 is a POP's alone. -/
def cPending (g : Group) (k : Nat) (w : BitVec 96) (c : Cause) : Pending :=
  let p := (g.cs.sp k).getD (Split.fresh 0 0 .running)
  { cause := c, aside := false, cside := true, split := k, apc := g.apc, cpc := p.idx, slot := p.slot, word := w,
    fpc := p.idx, pop := if w.extractLsb' 88 8 ≠ 0x6B then 0 else if p.owed ≠ 0 then p.owed else popCount w, displaced := 0 }

/-- The engine operations of a group whose fault has been delivered resume; an ended one is gone (07 R216). -/
def State.resumeEng (s : State) (gid : Nat) : State :=
  { s with eng := s.eng.map fun o => if o.gid = gid ∧ o.told then { o with fault := none, told := false } else o,
           sessions := s.sessions.mapV fun _ ss =>
             if (ss.parts[0]?.map (·.gid)) = some gid then
               { ss with passes := ss.passes.map fun p => if p.told then { p with fault := none, told := false } else p }
             else ss }

/-- The four result registers of a lane operation (07 R239, R240). -/
def LaneOp.regs (o : LaneOp) : List Nat :=
  let four := fun (d : Dst) => match d with
    | .v n => (List.range 4).map fun j => n.toNat + j
    | _ => []
  match o.instr with
  | .sample _ _ _ _ d _ _ _ => four d
  | .gath4 _ _ _ _ d _ _ _ => four d
  | .trace _ _ _ d _ _ _ _ _ => four d
  | .tresume _ _ d _ _ _ => four d
  | _ => []

/-- A lane operation in flight again, attached to its flag (17 R388). -/
def Group.relane (g : Group) (o : LaneOp) : Group :=
  { g with cf := if o.flag = 15 then g.cf else g.cf.set o.flag (g.cfn o.flag + 1), lane := g.lane ++ [o] }

/-- A lane operation that is reissued: for its faulting lanes, or for those left when it was stopped at a node visit; as a TRESUME where
it traverses (07 R216, R244; 11 R321); a lane that has exited meanwhile is no more (01 R45). -/
def LaneOp.again (o : LaneOp) (alive : Mask) : LaneOp :=
  let m := alive &&& if o.faults.isEmpty then o.left else mkMask fun l => o.faults.any fun f => f.1 == l
  { o with lanes := m, left := m, faults := [], done := false, resume := true }

/-- The lane operations of a group after TRET or restore: those whose faults are restartable are reissued for their faulting
lanes (07 R216, R244); delivered ones that are not have ended. In a handler those that its trap has set aside wait on. -/
def Group.reissueLanes (g : Group) : Group :=
  g.lane.foldl (fun g o =>
    if g.laneAside o then { g with lane := g.lane ++ [o] }
    else if o.faults.isEmpty then g.relane (o.again g.cs.alive)
    else if o.faults.all fun f => restartable f.2.grp then
      g.relane (o.again g.cs.alive)
    else if o.done then g
    else { g with lane := g.lane ++ [o] }) { g with lane := [] }

/-- A side whose splits own only lanes that have not exited: one that a KILL has ended in a handler stays ended (01 R45; 06 R204). -/
def CSide.clip (c : CSide) : CSide :=
  let cut := fun (p : Split) =>
    { p with own := p.own &&& c.alive, act := p.act &&& c.alive, stack := p.stack.map fun e => (e.1, e.2 &&& c.alive) }
  { c with splits := (c.splits.mapV fun _ p => cut p).filter fun e => e.2.own != 0 }

/-- The group that TRET makes of the frame and the image: `h` is the image read back, `f` the frame's bytes (08 R259). -/
def Group.returned (h : Group) (f : List Byte) : Group :=
  let w0 := numAt f 0 4
  let k := w0 / 2 ^ 24
  let fix := fun (p : Split) =>
    { p with idx := numAt f 8 4 % 2 ^ 22, slot := numAt f 12 4 % 32,
             hdr := (numAt f 8 4 % 2 ^ 22 + 2 ^ 22 - numAt f 12 4 % 32) % 2 ^ 22, noWait := true, owed := numAt f 0x74 4 % 32 }
  let splits := if k < 4 then h.cs.splits.upd k fix else h.cs.splits
  let clq := (List.range (min 8 (numAt f 0x70 4))).map fun i =>
    ({ val := BitVec.ofNat 32 (numAt f (0x50 + 4 * i) 4 % 2 ^ 22), need := [] } : SEntry)
  let h := h.resumeMu
  let fixQ := fun (q : List VEntry) => q.filter fun (e : VEntry) =>
    match e.fill with
    | .token _ => h.mu.any fun o => o.id == e.op
    | _ => true
  let inRegion := splits.any fun e => e.2.st != .parkedEnd
  let h := { h with
    cs := ({ h.cs with splits } : CSide).clip,
    q := { h.q with clq, ldq := h.q.ldq.map fixQ },
    apc := numAt f 4 4,
    sys := { h.sys with priv := w0 / 2 ^ 19 % 2 == 1, frame := false },
    stop := .run, ablk := none,
    pushed := clq.length + (if inRegion then 1 else 0), ended := 0 }
  { h with shadow := h.shadow.map fun x => { cs := { h.cs with stuck := x.cs.stuck }, log := [], late := x.late } }

/-- RETURNING FROM A TRAP (08 R259): the image but for the flag counts, the CLQ, the privilege, the A-PC and the position of
the split that SPLIT names come back; held operations and delivered engine faults go on. The failure of a read, if any. -/
def returnTrap (s : State) (gid : Nat) : State × Option AFault :=
  match s.groups.get? gid with
  | none => (s, none)
  | some g =>
    match s.readVa (s.lau g).qd.vf true g.frameVa 256 (some (s.user g)) with
    | (s, .error e) => (s, some e)
    | (s, .ok f) =>
      match readImage s g false with
      | (s, .error e) => (s, some e)
      | (s, .ok h) => ((s.setG gid (h.returned f).reissueLanes).resumeEng gid, none)

/-- A late store error (08 R262): the launch fails with cause group 10 if it had not, errors are counted, a Colophon event
is written. -/
def State.lateError (s : State) (g : Group) (pc : Nat) : State :=
  let s := s.colGroup g 3 pc
  let l := s.lau g
  let s := s.updL g.who.lid fun l =>
    { l with late := l.late + 1, status := if l.status = 0 then 3 else l.status,
             cgrp := if l.status = 0 then 10 else l.cgrp, errPc := if l.hasErr then l.errPc else pc,
             errG := if l.hasErr then l.errG else g.who.lin, hasErr := true }
  s.irqL l 1

/-- A late store error of a group's write that no link to the peer acknowledges (15 R382). -/
def State.lateIfCut (s : State) (gid pc : Nat) (ls : List Loc) : State :=
  if s.peerCut && ls.any fun l => l.space == .peer then
    match s.groups.get? gid with
    | some g => s.lateError g pc
    | none => s
  else s

end Sys2Proof.Machine
end

