-- ==== Sys2Proof/WellFormed.lean ====
section
/-! DEFINITION. Step 1 of the checks at issue (02 R73): the field values and combinations that an instruction may not hold,
each with its code of cause group 1 and the lowest bit of the offending field (08 R254). -/

namespace Sys2Proof

/-- A breach of step 1: code 2 must be zero, 3 an illegal operand, destination kind or index, 4 an illegal value or
combination; 1 an unassigned operation. -/
structure Breach where
  code : Nat
  bit : Nat
  deriving DecidableEq, Repr

/-- The first breach of a list of tests. -/
def firstBreach : List (Bool × Nat × Nat) → Option Breach
  | [] => none
  | (bad, code, bit) :: r => if bad then some { code, bit } else firstBreach r

/-- A source operand number outside what its kind allows (02 R62). -/
def Src.bad : Src → Bool
  | .v _ => false
  | .c n => decide (63 < n.toNat)
  | .queue n => !(n.toNat ≤ 4 || (8 ≤ n.toNat && n.toNat ≤ 12))
  | .konst n => !(n.toNat = 0 || 256 ≤ n.toNat)

/-- A destination number outside what its kind allows (02 R64). -/
def Dst.bad : Dst → Bool
  | .v _ => false
  | .c n => decide (63 < n.toNat)
  | .queue n => decide (3 < n.toNat)
  | .none n => decide (0 < n.toNat)

/-- Kind tests of operands. -/
def Src.isV : Src → Bool
  | .v _ => true
  | _ => false

/-- Kind 01 or 11. -/
def Src.isUniform : Src → Bool
  | .c _ => true
  | .konst _ => true
  | _ => false

/-- An inline integer (02 R62). -/
def Src.isInline : Src → Bool
  | .konst n => decide (256 ≤ n.toNat)
  | _ => false

/-- Kind 10 (02 R62). -/
def Src.isQueue : Src → Bool
  | .queue _ => true
  | _ => false

/-- A queue that is popped, not peeked: S = 0-4 (06 R190). -/
def Src.isPop : Src → Bool
  | .queue n => decide (n.toNat ≤ 4)
  | _ => false

/-- The number of an operand without its kind. -/
def Src.num : Src → BitVec 9
  | .v n => n
  | .c n => n
  | .queue n => n
  | .konst n => n

/-- The tests of a slot that must be empty: the number, then the kind (02 R62). -/
def emptySlot (a : Src) (lo : Nat) : List (Bool × Nat × Nat) := [(a.num != 0, 2, lo), (!a.isV, 2, lo + 9)]

/-- The number of a destination without its kind. -/
def Dst.num : Dst → BitVec 9
  | .v n => n
  | .c n => n
  | .queue n => n
  | .none n => n

/-- Kind 00 (07 R239). -/
def Dst.isV : Dst → Bool
  | .v _ => true
  | _ => false

/-- The tests of a predicate destination: kind 00, D[8:3] = 0, not 7 (02 R64, 01 R21). DESIGN CHOICE: the discard kind is refused here
too, where R64 and R151 do not say whether FSET, HSET2 and ISET take it (notes/assumptions/71.md). -/
def predDstTests : Dst → List (Bool × Nat × Nat)
  | .v n => [(decide (7 < n.toNat), 2, 72), (n == 7, 3, 69)]
  | _ => [(true, 3, 78)]

/-- The tests of a predicate source whose slot begins at a bit: kind 00, S[8:3] = 0 (06 R194). -/
def predSrcTests (a : Src) (lo : Nat) : List (Bool × Nat × Nat) := [(!a.isV, 3, lo + 9), (decide (7 < a.num.toNat), 2, lo + 3)]

/-- The tests of an instruction that takes no guard (02 R65). -/
def noGuard (x : Ctl) : List (Bool × Nat × Nat) := [(x.ga != 7, 4, 21), (x.gb != 7, 4, 17), (x.gc != 0, 4, 16)]

/-- The tests common to every C instruction: its operands in order and the cache hint, which only some accept (02 R62, R64,
R66). -/
def cTests (d : Option Dst) (ss : List Src) (x : Ctl) (cacheOk : Bool) : List (Bool × Nat × Nat) :=
  [((d.map Dst.bad).getD false, 3, 69), ((ss[0]?.map Src.bad).getD false, 3, 58),
   ((ss[1]?.map Src.bad).getD false, 3, 47), ((ss[2]?.map Src.bad).getD false, 3, 36),
   ((ss[3]?.map Src.bad).getD false, 3, 25), (if cacheOk then decide (3 < x.ch.toNat) else x.ch != 0, 4, 13)]

/-- Tests of an ordinary C instruction. -/
def cBreach (d : Dst) (ss : List Src) (x : Ctl) (more : List (Bool × Nat × Nat) := []) : Option Breach :=
  firstBreach (more ++ cTests (some d) ss x false)

/-- Tests of a C instruction whose destination is a predicate. -/
def pBreach (d : Dst) (ss : List Src) (x : Ctl) (more : List (Bool × Nat × Nat) := []) : Option Breach :=
  firstBreach (more ++ predDstTests d ++ cTests none ss x false)

/-- Tests of an unguarded C instruction (06 R177). -/
def fBreach (x : Ctl) (more : List (Bool × Nat × Nat) := []) : Option Breach :=
  firstBreach (more ++ noGuard x ++ cTests none [] x false)

/-- Integer operations: U without SAT changes nothing and is illegal (05 R165). -/
def uNoSat (u sat : BitVec 1) : Bool × Nat × Nat := (u == 1 && sat == 0, 4, 84)

/-- Element types of R170: 0-10 floating point, 11-16 integers, the rest illegal. -/
def tyFloat (t : BitVec 5) : Bool := decide (t.toNat ≤ 10)

/-- Integer element types of R170. -/
def tyInt (t : BitVec 5) : Bool := decide (11 ≤ t.toNat ∧ t.toNat ≤ 16)

/-- How many sources PACK takes for a destination type, 0 where it is illegal (05 R172). -/
def packCount (t : BitVec 5) : Nat :=
  if [1, 2, 4, 13, 14].contains t.toNat then 2
  else if [5, 6, 7, 8, 9, 10, 15, 16].contains t.toNat then 4 else 0

/-- How many elements UNPK may name for a source type, 0 where it is illegal (05 R173). -/
def unpkCount (t : BitVec 5) : Nat :=
  if [1, 2, 4, 13, 14].contains t.toNat then 2
  else if [5, 6, 7, 8, 9, 15, 16].contains t.toNat then 4
  else if t.toNat = 10 then 8 else 0

/-- SAT and FTZ of a conversion (05 R171). -/
def cvtTests (dt st : BitVec 5) (sat ftz : BitVec 1) : List (Bool × Nat × Nat) :=
  [(decide (16 < dt.toNat), 4, 83), (decide (16 < st.toNat), 4, 0), (sat == 1 && !(tyInt dt && tyInt st), 2, 80),
   (ftz == 1 && !(tyFloat dt || tyFloat st), 2, 5)]

/-- The tests of three XF bits that a form does not use (02 R67). -/
def unusedXf (b : BitVec 3) : List (Bool × Nat × Nat) := [(b.getLsbD 0, 2, 0), (b.getLsbD 1, 2, 1), (b.getLsbD 2, 2, 2)]

/-- An inline integer as a source of a type that R152 does not name. -/
def badInline (st : BitVec 5) (s : Src) : Bool := s.isInline && !(tyInt st || st.toNat ≤ 2)

/-- The reduction operations (06 R185): 0-4 floating point, 5-12 integer. -/
def redTests (op : BitVec 4) (ftz : BitVec 1) (rm : BitVec 2) : List (Bool × Nat × Nat) :=
  [(decide (12 < op.toNat), 4, 84), (decide (4 < op.toNat) && (ftz != 0 || rm != 0), 2, 81)]

/-- Scopes of FENCE, ATV, ATA and CPY (02 R55). -/
def badScope (s : BitVec 3) : Bool := s == 0 || s == 7

/-- Matrix format groups of R219: 0 narrow integers, 1 RN24, 2 narrow floating point and BQ, 3 wide integers, 4 RN48,
5 wide floating point; none where the format is neither A nor B. -/
def mxGroup (f : BitVec 5) : Option Nat :=
  if f.toNat ≤ 5 then some 0
  else if f.toNat = 20 then some 1
  else if (13 ≤ f.toNat ∧ f.toNat ≤ 19) ∨ f.toNat = 22 ∨ f.toNat = 23 then some 2
  else if f.toNat = 6 ∨ f.toNat = 7 then some 3
  else if f.toNat = 21 then some 4
  else if f.toNat = 9 ∨ f.toNat = 10 ∨ f.toNat = 12 then some 5 else none

/-- Whether a format has the "out" role (03 R84). -/
def mxOut (f : BitVec 5) : Bool := [0, 1, 6, 8, 9, 10, 11, 13, 14, 19, 20, 21].contains f.toNat

/-- Whether the tile of an A format is I32 (07 R219). -/
def mxIntTile (f : BitVec 5) : Bool := [0, 1, 3, 4].contains ((mxGroup f).getD 2)

/-- Whether an epilogue reads its table (07 R229). -/
def epiTable (e : BitVec 4) : Bool := [1, 2, 3, 4, 5, 6, 8].contains e.toNat

/-- Tests common to MXLOOP and MXCONV (07 R227-R231); `span` is how many registers follow the coordinate base. DESIGN CHOICE: the
5-bit MROWS is read plainly, so 0 is the illegal 0 and no word says 32, which R54 and R230 also allow (notes/assumptions/76.md). -/
def mxTests (c : BitVec 6) (span cbit : Nat) (ks : BitVec 12) (mr : BitVec 5) (o : BitVec 4) (ob : BitVec 6)
    (acc : BitVec 1) (epi : BitVec 4) : List (Bool × Nat × Nat) :=
  [(ks == 0, 4, 52), (mr == 0, 4, 47), (decide (9 < epi.toNat) || (o == 15 && epi != 0) || (epi == 9 && acc == 1), 4, 32),
   (decide (63 < c.toNat + span), 4, cbit),
   (o != 15 && decide (62 < ob.toNat) || (epiTable epi && decide (61 < ob.toNat)), 4, 37)]

/-- Tests of a near-memory atomic: without a return the destination slot and XF[0] are empty, and the last operand stands in
a compare-and-swap alone (06 R211). -/
def atomTests (op : BitVec 4) (ret fl : BitVec 1) (d : Dst) (e : Src) : List (Bool × Nat × Nat) :=
  [(op == 15, 4, 84)] ++
    (if ret == 1 then [(!d.isV, 3, 78)]
     else [(d.num != 0, 2, 69), (!d.isV, 2, 78), (fl != 0, 2, 0)]) ++
    (if op == 9 then [] else emptySlot e 25)

/-- The special-register indices that R34 lists. -/
def srListed (i : BitVec 10) : Bool :=
  [0, 1, 2, 3, 4, 5, 6, 8, 9, 0xA, 0xB, 0xC, 0xD, 0xE, 0xF, 0x10, 0x11, 0x12, 0x14, 0x15, 0x18, 0x100, 0x101, 0x102,
   0x103, 0x104, 0x105, 0x106, 0x107].contains i.toNat

/-- The first breach of step 1 of R73 in an instruction; events have none. DESIGN CHOICE: an index that R34 does not list breaks as
an illegal value, code 4, where R254 would also allow code 3 (notes/assumptions/71.md). -/
def violation : Instr → Option Breach
  | .dbnz a _ => firstBreach [(a == 0, 4, 20)]
  | .ldv _ ord _ _ _ _ => firstBreach [(ord == 7, 4, 22)]
  | .ldg _ ord _ _ _ _ => firstBreach [(ord == 7, 4, 22)]
  | .stv ord q _ _ _ => firstBreach [(ord == 7, 4, 22), (decide (1 < q.toNat), 4, 20)]
  | .stx ord q _ _ _ => firstBreach [(ord == 7, 4, 22), (decide (1 < q.toNat), 4, 20)]
  | .lda _ _ _ ord _ => firstBreach [(ord == 7, 4, 6)]
  | .sta _ _ _ ord _ => firstBreach [(ord == 7, 4, 6)]
  | .atv op q _ ret sdq _ scope =>
    firstBreach [(op == 15, 4, 22), (ret == 0 && q != 0, 2, 20), (op == 9 && sdq != 0, 2, 13), (badScope scope, 4, 59)]
  | .ata op _ _ _ _ y _ scope =>
    firstBreach [(op == 15, 4, 22), (op != 9 && y != 0, 2, 52), (badScope scope, 4, 47)]
  | .bset _ _ fn => firstBreach [(decide (11 < fn.toNat), 1, 0)]
  | .cpyBar _ _ _ _ scope opt => firstBreach [(badScope scope, 4, 51), (decide (4 < opt.toNat), 4, 48)]
  | .cpyCnt _ _ _ _ scope opt => firstBreach [(badScope scope, 4, 51), (decide (4 < opt.toNat), 4, 48)]
  | .fenceAcq scope _ => firstBreach [(badScope scope, 4, 11)]
  | .fenceRel scope _ => firstBreach [(badScope scope, 4, 11)]
  | .fenceAcqrel scope _ => firstBreach [(badScope scope, 4, 11)]
  | .mxbind _ fa fb dist fo _ _ _ _ =>
    firstBreach [(decide (23 < fa.toNat), 4, 6), (decide (23 < fb.toNat), 4, 1), (decide (23 < fo.toNat), 4, 59),
      ((mxGroup fa).isNone || mxGroup fa != mxGroup fb, 4, 6),
      (dist == 1 && !(mxGroup fa == some 0 || mxGroup fa == some 3), 4, 0), (!mxOut fo, 4, 59),
      ((fo == 20 || fo == 21) && !mxIntTile fa, 4, 59)]
  | .mxloop _ c _ ks mr o ob acc epi => firstBreach (mxTests c 1 12 ks mr o ob acc epi)
  | .mxconv _ _ c _ ks mr o ob acc epi => firstBreach (mxTests c 3 8 ks mr o ob acc epi)
  | .mxsel _ k _ o ob =>
    firstBreach [(k == 0 || decide (16 < k.toNat), 4, 15), (o == 15, 4, 10), (decide (62 < ob.toNat), 4, 4)]
  | .cover _ _ _ _ _ o _ => firstBreach [(o == 63, 4, 54)]
  | .tstore _ _ p _ _ => firstBreach [(p == 63, 4, 8)]
  | .rdsr _ idx => firstBreach [(!srListed idx, 4, 0)]
  | .wrsr _ idx => firstBreach [(!srListed idx, 4, 0)]
  | .rdtime d => firstBreach [(d.toNat % 2 == 1 || d == 0 || decide (60 < d.toNat), 4, 20)]
  | .fadd _ _ d a b x => cBreach d [a, b] x
  | .fsub _ _ d a b x => cBreach d [a, b] x
  | .fmul _ _ d a b x => cBreach d [a, b] x
  | .ffma _ _ d a b c x => cBreach d [a, b, c] x
  | .fmin _ d a b x => cBreach d [a, b] x
  | .fmax _ d a b x => cBreach d [a, b] x
  | .fminn _ d a b x => cBreach d [a, b] x
  | .fmaxn _ d a b x => cBreach d [a, b] x
  | .fset cnd _ d a b x => pBreach d [a, b] x [(decide (11 < cnd.toNat), 4, 84)]
  | .fclamp _ d a lo hi x => cBreach d [a, lo, hi] x
  | .frnd _ _ d a x => cBreach d [a] x
  | .fclass d a x => cBreach d [a] x
  | .fldexp _ _ d a n x => cBreach d [a, n] x
  | .fexpo _ d a x => cBreach d [a] x
  | .fdiv _ _ d a b x => cBreach d [a, b] x
  | .fsqrt _ _ d a x => cBreach d [a] x
  | .frcp d a x => cBreach d [a] x
  | .frsq d a x => cBreach d [a] x
  | .fexp2 d a x => cBreach d [a] x
  | .flog2 d a x => cBreach d [a] x
  | .fsin d a x => cBreach d [a] x
  | .fcos d a x => cBreach d [a] x
  | .flerp _ _ d a b t x => cBreach d [a, b, t] x
  | .fdot3 _ _ d a b x => cBreach d [a, b] x [(!a.isV, 3, 67), (!b.isV, 3, 56)]
  | .hadd2 _ _ _ d a b x => cBreach d [a, b] x
  | .hmul2 _ _ _ d a b x => cBreach d [a, b] x
  | .hfma2 _ _ _ d a b c x => cBreach d [a, b, c] x
  | .hmin2 _ _ d a b x => cBreach d [a, b] x
  | .hmax2 _ _ d a b x => cBreach d [a, b] x
  | .hset2 cnd _ _ _ d a b x => pBreach d [a, b] x [(decide (11 < cnd.toNat), 4, 84)]
  | .hdot2 _ _ _ d a b c x => cBreach d [a, b, c] x
  | .iadd u sat d a b x => cBreach d [a, b] x [uNoSat u sat]
  | .isub u sat d a b x => cBreach d [a, b] x [uNoSat u sat]
  | .imul u sat d a b x => cBreach d [a, b] x [uNoSat u sat]
  | .imad u sat d a b c x => cBreach d [a, b, c] x [uNoSat u sat]
  | .imulh _ d a b x => cBreach d [a, b] x
  | .imin _ d a b x => cBreach d [a, b] x
  | .imax _ d a b x => cBreach d [a, b] x
  | .iabs _ d a x => cBreach d [a] x
  | .iadd3 u sat d a b c x => cBreach d [a, b, c] x [uNoSat u sat]
  | .iset cnd _ d a b x => pBreach d [a, b] x [(decide (5 < cnd.toNat), 4, 85)]
  | .ltab _ d a b c x => cBreach d [a, b, c] x
  | .shl d a b x => cBreach d [a, b] x
  | .shr d a b x => cBreach d [a, b] x
  | .shra d a b x => cBreach d [a, b] x
  | .shf d a b c x => cBreach d [a, b, c] x
  | .bfe d a b x => cBreach d [a, b] x
  | .bfes d a b x => cBreach d [a, b] x
  | .bfi d a b c x => cBreach d [a, b, c] x
  | .popc d a x => cBreach d [a] x
  | .clz d a x => cBreach d [a] x
  | .brev d a x => cBreach d [a] x
  | .idp4 _ _ _ d a b c x => cBreach d [a, b, c] x
  | .idp2 _ _ _ d a b c x => cBreach d [a, b, c] x
  | .isad _ _ d a b c x => cBreach d [a, b, c] x
  | .iclamp _ d a lo hi x => cBreach d [a, lo, hi] x
  | .cvt dt _ sat ftz st d a x => cBreach d [a] x (cvtTests dt st sat ftz ++ [(badInline st a, 3, 58)])
  | .pack dt _ sat ftz st d a b c e x =>
    cBreach d [a, b, c, e] x (cvtTests dt st sat ftz ++
      [(packCount dt == 0, 4, 83), (!(st == 0 || st == 11 || st == 12), 4, 0)] ++
      (if packCount dt == 2 then emptySlot c 36 ++ emptySlot e 25 else []))
  | .unpk st j d a x =>
    cBreach d [a] x [(unpkCount st == 0, 4, 83), (decide (unpkCount st ≤ j.toNat), 4, 80), (badInline st a, 3, 58)]
  | .rnenc _ d a x => cBreach d [a] x
  | .rndec _ d a x => cBreach d [a] x
  | .rnmad d a b c x => cBreach d [a, b, c] x
  | .mov d a x => cBreach d [a] x
  | .sel _ _ d a b x => cBreach d [a, b] x
  | .perm _ d a i f x => cBreach d [a, i, f] x [(!a.isV, 3, 67)]
  | .shflup w _ d a n f x => cBreach d [a, n, f] x [(decide (5 < w.toNat), 4, 82), (!a.isV, 3, 67), (!n.isUniform, 3, 56)]
  | .shfldn w _ d a n f x => cBreach d [a, n, f] x [(decide (5 < w.toNat), 4, 82), (!a.isV, 3, 67), (!n.isUniform, 3, 56)]
  | .shflx w _ d a n f x => cBreach d [a, n, f] x [(decide (5 < w.toNat), 4, 82), (!a.isV, 3, 67), (!n.isUniform, 3, 56)]
  | .shflr w _ d a n f x => cBreach d [a, n, f] x [(decide (5 < w.toNat), 4, 82), (!a.isV, 3, 67), (!n.isUniform, 3, 56)]
  | .bcast d a i x => cBreach d [a, i] x [(!a.isV, 3, 67), (!i.isUniform, 3, 56)]
  | .bcastf d a x => cBreach d [a] x [(!a.isV, 3, 67)]
  | .voteall _ _ d x => pBreach d [] x
  | .voteany _ _ d x => pBreach d [] x
  | .votesame _ _ d x => pBreach d [] x
  | .voteballot _ _ w d x => cBreach d [] x [(w == 3, 4, 0)]
  | .reduce op ftz rm d a x => cBreach d [a] x (redTests op ftz rm)
  | .scan op ftz rm _ d a x => cBreach d [a] x (redTests op ftz rm)
  | .matchany w d a x => cBreach d [a] x [(w == 3, 4, 0)]
  | .matchlead d a x => cBreach d [a] x
  | .matchall d a x => pBreach d [a] x
  | .regroup _ _ d key x => firstBreach (noGuard x ++ [(!d.isV, 3, 78)] ++ cTests (some d) [key] x false)
  | .sreg sel d x => cBreach d [] x [(decide (4 < sel.toNat), 4, 80)]
  | .pop _ q x => fBreach x [(!q.isQueue, 3, 67), (!q.isPop, 3, 58)]
  | .drop d q x => 
    firstBreach (noGuard x ++ [(!q.isQueue, 3, 67), (!q.isPop, 3, 58)] ++ cTests (some d) [] x false)
  | .push _ d x =>
    firstBreach (noGuard x ++ [(match d with | .queue _ => false | _ => true, 3, 78)] ++ cTests (some d) [] x false)
  | .pltab _ d a b c x => pBreach d [] x (predSrcTests a 58 ++ predSrcTests b 47 ++ predSrcTests c 36)
  | .pmov toPred pr d a x =>
    if toPred == 1 then pBreach d [a] x (unusedXf pr) else cBreach d [] x (emptySlot a 58)
  | .pmovw toPred w pr d a x =>
    if toPred == 1 then pBreach d [a] x ([(w == 3, 4, 82)] ++ unusedXf pr ++ [(!a.isUniform, 3, 67)])
    else cBreach d [] x ([(w == 3, 4, 82)] ++ emptySlot a 58)
  | .brd _ _ x => firstBreach (cTests none [] x false)
  | .jmp _ x => fBreach x
  | .join x => fBreach x
  | .endc x => fBreach x
  | .callc _ x => fBreach x
  | .retc x => fBreach x
  | .kill x => firstBreach (cTests none [] x false)
  | .nopc x => firstBreach (cTests none [] x false)
  | .tfence x => fBreach x
  | .bwait a x => fBreach x [(!a.isUniform, 3, 67), (a.bad, 3, 58)]
  | .barvc a x => fBreach x [(!a.isUniform, 3, 67), (a.bad, 3, 58)]
  | .ctrap _ x => firstBreach (cTests none [] x false)
  | .ldl size _ _ d a b x => cBreach d [a, b] x [(size == 7, 4, 80), (!d.isV, 3, 78)]
  | .stl size _ a b c x =>
    firstBreach ([(size == 7, 4, 80), (decide (4 < size.toNat) && !c.isV, 3, 45)] ++ cTests none [a, b, c] x false)
  | .lds size _ _ d a b x => cBreach d [a, b] x [(size == 7, 4, 80), (!d.isV, 3, 78)]
  | .sts size _ a b c x =>
    firstBreach ([(size == 7, 4, 80), (decide (4 < size.toNat) && !c.isV, 3, 45)] ++ cTests none [a, b, c] x false)
  | .atoms op ret _ fl d a b c e x => cBreach d [a, b, c, e] x (atomTests op ret fl d e)
  | .ldc size _ _ d a b x => cBreach d [a, b] x [(size == 7, 4, 80), (!d.isV, 3, 78)]
  | .stc size _ a b c x =>
    firstBreach ([(size == 7, 4, 80), (decide (4 < size.toNat) && !c.isV, 3, 45)] ++ cTests none [a, b, c] x false)
  | .atomc op ret _ fl d a b c e x => cBreach d [a, b, c, e] x (atomTests op ret fl d e)
  | .sample addr filt _ _ d a lod x =>
    firstBreach ([(addr == 3, 4, 86), (filt == 3, 4, 84), (!d.isV, 3, 78), (!a.isV, 3, 67)] ++
      cTests (some d) [a, lod] x true)
  | .gath4 addr _ _ _ d a lod x =>
    firstBreach ([(addr == 3, 4, 86), (!d.isV, 3, 78), (!a.isV, 3, 67)] ++ cTests (some d) [a, lod] x true)
  | .trace _ _ _ d ray s root mask x =>
    firstBreach ([(!d.isV, 3, 78), (!ray.isV, 3, 67)] ++ cTests (some d) [ray, s, root, mask] x true)
  | .tresume _ _ d ray s x => firstBreach ([(!d.isV, 3, 78), (!ray.isV, 3, 67)] ++ cTests (some d) [ray, s] x true)
  | .treport d s t w x => pBreach d [s, t, w] x
  | .tcand d s x => cBreach d [s] x [(!d.isV, 3, 78)]
  | .tquery d s x => cBreach d [s] x [(!d.isV, 3, 78)]
  | .tabort s x => firstBreach (cTests none [s] x false)
  | .mxfeed _ x => fBreach x [(x.stall != 0 || x.yld != 0 || x.reuse != 0, 2, 6)]
  | _ => none

/-- An instruction that step 1 of R73 lets pass. -/
def WellFormed (i : Instr) : Prop := violation i = none

end Sys2Proof
end

