-- ==== Sys2Proof/Machine/Operands.lean ====
section
/-! DEFINITION. Operand forms of both streams and the checks at issue (02 R62-R66, R73; 01 R13-R30): what an instruction
names, how its operands are read, popped and peeked, how its result is written or pushed, and how it waits or traps. -/

namespace Sys2Proof.Machine

/-- What exec answers. -/
abbrev Out := Host.Outcome State Fault Refusal

/-! ## A-stream -/

/-- The A registers that an instruction names, with the lowest bit of the naming field, and those it reads through a base
(02 R54). -/
def aNamed : Instr → List (Nat × Nat)
  | .add d a b | .sub d a b | .and d a b | .or d a b | .xor d a b | .andn d a b | .shlA d a b | .shrA d a b | .sra d a b
  | .rot d a b | .slt d a b | .sltu d a b | .min d a b | .max d a b | .minu d a b | .maxu d a b | .mul d a b
  | .mulh d a b | .mulhu d a b | .div d a b | .divu d a b | .rem d a b | .remu d a b | .bfeA d a b | .bfiA d a b
  | .ralloc d a b => [(d.toNat, 20), (a.toNat, 14), (b.toNat, 8)]
  | .clzA d a | .popcA d a | .brevA d a | .sextb d a | .sexth d a | .rinput d a => [(d.toNat, 20), (a.toNat, 14)]
  | .addi d a _ | .andi d a _ | .ori d a _ | .xori d a _ | .slti d a _ | .sltiu d a _ | .muli d a _ | .jalr d a _ =>
    [(d.toNat, 20), (a.toNat, 14)]
  | .shli d a _ | .shri d a _ | .srai d a _ | .roti d a _ => [(d.toNat, 20), (a.toNat, 14)]
  | .lui d _ | .jal d _ => [(d.toNat, 20)]
  | .beq a b _ | .bne a b _ | .blt a b _ | .bge a b _ | .bltu a b _ | .bgeu a b _ => [(a.toNat, 20), (b.toNat, 14)]
  | .dbnz a _ => [(a.toNat, 20)]
  | .clsr a | .spush a => [(a.toNat, 14)]
  | .bpop d | .rdepth d => [(d.toNat, 20)]
  | .ldv _ _ _ _ ai _ | .ldg _ _ _ _ ai _ | .stv _ _ _ ai _ | .stx _ _ _ ai _ | .prf _ _ ai _ => [(ai.toNat, 9)]
  | .lda d _ ai _ _ => [(d.toNat, 20), (ai.toNat, 9)]
  | .sta v _ ai _ _ => [(v.toNat, 20), (ai.toNat, 9)]
  | .ata op d _ ai x y _ _ =>
    [(d.toNat, 16), (ai.toNat, 5), (x.toNat, 58)] ++ (if op == 9 then [(y.toNat, 52)] else [])
  | .bld _ a _ | .tld _ a _ | .bset _ a _ => [(a.toNat, 14)]
  | .cpyBar _ _ c _ _ _ => [(c.toNat, 8)]
  | .cpyCnt _ _ c k _ _ => [(c.toNat, 8), (k.toNat, 58)]
  | .cwait a b | .yieldc a b => [(a.toNat, 14), (b.toNat, 8)]
  | .binit a _ | .bexp a _ => [(a.toNat, 14)]
  | .btry d _ => [(d.toNat, 20)]
  | .mxloop _ c _ _ _ o ob _ epi =>
    [(c.toNat, 12), (c.toNat + 1, 12)] ++
      (if o == 15 then [] else [(ob.toNat, 37), (ob.toNat + 1, 37)] ++ if epiTable epi then [(ob.toNat + 2, 37)] else [])
  | .mxconv _ _ c _ _ _ o ob _ epi =>
    [(c.toNat, 8), (c.toNat + 1, 8), (c.toNat + 2, 8), (c.toNat + 3, 8)] ++
      (if o == 15 then [] else [(ob.toNat, 37), (ob.toNat + 1, 37)] ++ if epiTable epi then [(ob.toNat + 2, 37)] else [])
  | .mxsel _ _ _ _ ob => [(ob.toNat, 4), (ob.toNat + 1, 4)]
  | .mxstat d => [(d.toNat, 16)]
  | .cover _ _ f k _ o _ => [(f.toNat, 11), (k.toNat, 5), (o.toNat, 54), (o.toNat + 1, 54)]
  | .rcommit a b => [(a.toNat, 14), (b.toNat, 8)]
  | .rdone a => [(a.toNat, 14)]
  | .tstore _ _ p _ _ => [(p.toNat, 8), (p.toNat + 1, 8)]
  | .rdsr d _ => [(d.toNat, 20)]
  | .wrsr a _ => [(a.toNat, 14)]
  | .rdtime d => [(d.toNat, 20), (d.toNat + 1, 20)]
  | _ => []

/-- The queues that an A instruction names, by their ids of R254 (01 R28). -/
def aQueues : Instr → List (Nat × Nat)
  | .cls _ | .clsr _ => [(5, 26)]
  | .spush _ => [(4, 26)]
  | .bpop _ => [(9, 26)]
  | .ldv _ _ q _ _ _ => [(q.toNat, 20)]
  | .ldg _ _ q _ _ _ => [(q.toNat, 20), (6, 26)]
  | .stv _ q _ _ _ => [(7 + q.toNat, 20)]
  | .stx _ q _ _ _ => [(7 + q.toNat, 20), (6, 26)]
  | .atv op q _ ret sdq _ _ =>
    (if ret == 1 then [(q.toNat, 20)] else []) ++ [(6, 26)] ++
      (if op == 9 then [(7, 13), (8, 13)] else [(7 + sdq.toNat, 13)])
  | _ => []

/-- Step 3 of R73: what user privilege may not do (01 R34, 02 R59). -/
def aPriv : Instr → Option (Nat × Nat)
  | .rdsr _ idx | .wrsr _ idx => if 0x100 ≤ idx.toNat then some (1, idx.toNat) else none
  | .tret | .haltd => some (2, 0)
  | _ => none

/-- An RN24 or RN48 output takes no epilogue but none and accin: the format is the session's (07 R219). -/
def mxEpilogue (s : State) (g : Group) (i : Instr) : Option Cause :=
  let fo := (g.session.bind fun (x : Nat × Nat) => s.sessions.get? x.1).map (·.fo)
  let bad := fun (epi : BitVec 4) =>
    if (fo = some 20 ∨ fo = some 21) ∧ epi ≠ 0 ∧ epi ≠ 9 then some (Cause.mk' 1 4 32) else none
  match i with
  | .mxloop _ _ _ _ _ _ _ _ epi => bad epi
  | .mxconv _ _ _ _ _ _ _ _ _ epi => bad epi
  | _ => none

/-- Steps 1 to 3 of R73 for an A instruction. -/
def aCheck (s : State) (g : Group) (i : Instr) : Option Cause :=
  let pk := s.pk g
  match ((violation i).map fun b => Cause.mk' 1 b.code b.bit).or (mxEpilogue s g i) with
  | some c => some c
  | none =>
    match (aNamed i).find? fun r => decide (pk.aregs ≤ r.1) && !(decide (61 ≤ r.1) && decide (r.1 ≤ 63)) with
    | some r => some (Cause.mk' 1 5 r.2)
    | none =>
      match (aQueues i).find? fun q => pk.depth q.1 == 0 with
      | some q => some (Cause.mk' 1 6 q.2)
      | none =>
        match aPriv i with
        | some p => if g.sys.priv then none else some (Cause.mk' 2 p.1 p.2)
        | none => none

/-- The interlock of R113: whether one of some registers is one whose value a load or atomic has still to return. -/
def Group.lockedAt (g : Group) (ns : List Nat) : Bool :=
  g.pend.any fun o =>
    match o.kind with
    | .lda d _ _ => d != 0 && ns.contains d
    | .ata d _ _ _ _ => d != 0 && ns.contains d
    | _ => false

/-- Whether an instruction meets that interlock at a register that it names. -/
def Group.locked (g : Group) (i : Instr) : Bool := g.lockedAt ((aNamed i).map (·.1))

/-- Record why the A-stream waits and since when (08 R245, R248). -/
def State.waitA (s : State) (k : WaitKind) : State :=
  s.updG fun g => if g.ablk = some k then g else { g with ablk := some k, asince := s.tick }

/-- The machine once an A instruction is done: the A-stream waits for nothing. -/
def State.endA (s : State) : State := s.updG fun g => { g with ablk := none }

/-- What an A instruction's answer makes of the machine. -/
def finishA (i : Instr) (r : Res) : Out :=
  match r with
  | .done s => .next s.endA
  | .wait k s => .next (s.waitA k)
  | .trap c s =>
    match s.grp? with
    | some g => .next (raise s s.cur.gid (aPending g i c))
    | none => .next s
  | .stop f => .fault f

/-- Issue an A-stream instruction: the checks of R73, the interlock of R113, then its own meaning. -/
def aIssue (i : Instr) (body : Group → State → Res) (s : State) : Out :=
  match s.grp? with
  | none => .next s
  | some g =>
    match aCheck s g i with
    | some c => finishA i (.trap c s)
    | none => if g.locked i then finishA i (.wait .other s) else finishA i (body g s)

/-- The group with its A-PC moved past an instruction of `n` bytes. -/
def Group.adv (g : Group) (n : Nat := 4) : Group := { g with apc := (g.apc + n) % 2 ^ 32 }

/-- An A instruction that writes one register and goes on. -/
def aWrite (i : Instr) (d : BitVec 6) (f : Group → Word) : State → Out :=
  aIssue i fun g s => .done (s.putG ((g.wa d.toNat (f g)).adv))

/-! ## C-stream -/

/-- What a C instruction names: destination (and how many registers, and whether it is a predicate), sources with how many
registers each names, whether sources are predicates, and its control fields. -/
structure CShape where
  d : Option Dst := none
  dn : Nat := 1
  pred : Bool := false
  ss : List (Src × Nat) := []
  psrc : Bool := false
  x : Ctl
  deriving DecidableEq, Repr

/-- Registers of a near-memory element (06 R210). -/
def sizeWords (size : BitVec 3) : Nat := if size = 5 then 2 else if size = 6 then 4 else 1

/-- Ordinary sources, one register each. -/
def one (l : List Src) : List (Src × Nat) := l.map fun x => (x, 1)

/-- The shape of a C instruction. -/
def cShape : Instr → Option CShape
  | .fadd _ _ d a b x | .fsub _ _ d a b x | .fmul _ _ d a b x | .fdiv _ _ d a b x => some { d, ss := one [a, b], x }
  | .ffma _ _ d a b c x | .flerp _ _ d a b c x => some { d, ss := one [a, b, c], x }
  | .fmin _ d a b x | .fmax _ d a b x | .fminn _ d a b x | .fmaxn _ d a b x => some { d, ss := one [a, b], x }
  | .fset _ _ d a b x => some { d, pred := true, ss := one [a, b], x }
  | .fclamp _ d a lo hi x => some { d, ss := one [a, lo, hi], x }
  | .frnd _ _ d a x | .fsqrt _ _ d a x => some { d, ss := one [a], x }
  | .fclass d a x | .frcp d a x | .frsq d a x | .fexp2 d a x | .flog2 d a x | .fsin d a x | .fcos d a x =>
    some { d, ss := one [a], x }
  | .fexpo _ d a x => some { d, ss := one [a], x }
  | .fldexp _ _ d a n x => some { d, ss := one [a, n], x }
  | .fdot3 _ _ d a b x => some { d, ss := [(a, 3), (b, 3)], x }
  | .hadd2 _ _ _ d a b x | .hmul2 _ _ _ d a b x => some { d, ss := one [a, b], x }
  | .hfma2 _ _ _ d a b c x | .hdot2 _ _ _ d a b c x => some { d, ss := one [a, b, c], x }
  | .hmin2 _ _ d a b x | .hmax2 _ _ d a b x => some { d, ss := one [a, b], x }
  | .hset2 _ _ _ _ d a b x => some { d, pred := true, ss := one [a, b], x }
  | .iadd _ _ d a b x | .isub _ _ d a b x | .imul _ _ d a b x => some { d, ss := one [a, b], x }
  | .imad _ _ d a b c x | .iadd3 _ _ d a b c x | .isad _ _ d a b c x => some { d, ss := one [a, b, c], x }
  | .imulh _ d a b x | .imin _ d a b x | .imax _ d a b x => some { d, ss := one [a, b], x }
  | .iabs _ d a x => some { d, ss := one [a], x }
  | .iset _ _ d a b x => some { d, pred := true, ss := one [a, b], x }
  | .ltab _ d a b c x => some { d, ss := one [a, b, c], x }
  | .shl d a b x | .shr d a b x | .shra d a b x | .bfe d a b x | .bfes d a b x => some { d, ss := one [a, b], x }
  | .shf d a b c x | .bfi d a b c x | .rnmad d a b c x => some { d, ss := one [a, b, c], x }
  | .popc d a x | .clz d a x | .brev d a x => some { d, ss := one [a], x }
  | .idp4 _ _ _ d a b c x | .idp2 _ _ _ d a b c x => some { d, ss := one [a, b, c], x }
  | .iclamp _ d a lo hi x => some { d, ss := one [a, lo, hi], x }
  | .cvt _ _ _ _ _ d a x => some { d, ss := one [a], x }
  | .pack dt _ _ _ _ d a b c e x => some { d, ss := one (if packCount dt = 2 then [a, b] else [a, b, c, e]), x }
  | .unpk _ _ d a x => some { d, ss := one [a], x }
  | .rnenc _ d a x | .rndec _ d a x => some { d, ss := one [a], x }
  | .mov d a x => some { d, ss := one [a], x }
  | .sel _ _ d a b x => some { d, ss := one [a, b], x }
  | .perm _ d a i f x => some { d, ss := one [a, i, f], x }
  | .shflup _ _ d a n f x | .shfldn _ _ d a n f x | .shflx _ _ d a n f x | .shflr _ _ d a n f x =>
    some { d, ss := one [a, n, f], x }
  | .bcast d a i x => some { d, ss := one [a, i], x }
  | .bcastf d a x => some { d, ss := one [a], x }
  | .voteall _ _ d x | .voteany _ _ d x | .votesame _ _ d x => some { d, pred := true, x }
  | .voteballot _ _ _ d x => some { d, x }
  | .reduce _ _ _ d a x => some { d, ss := one [a], x }
  | .scan _ _ _ _ d a x => some { d, ss := one [a], x }
  | .matchany _ d a x | .matchlead d a x => some { d, ss := one [a], x }
  | .matchall d a x => some { d, pred := true, ss := one [a], x }
  | .regroup c _ d key x => some { d, dn := c.toNat + 1, ss := one [key], x }
  | .sreg _ d x => some { d, x }
  | .pop _ q x => some { ss := one [q], x }
  | .drop d q x => some { d, ss := one [q], x }
  | .push _ d x => some { d, x }
  | .pltab _ d a b c x => some { d, pred := true, ss := one [a, b, c], psrc := true, x }
  | .pmov t _ d a x => if t == 1 then some { d, pred := true, ss := one [a], x } else some { d, x }
  | .pmovw t _ _ d a x => if t == 1 then some { d, pred := true, ss := one [a], x } else some { d, x }
  | .brd _ _ x | .jmp _ x | .join x | .endc x | .callc _ x | .retc x | .kill x | .nopc x | .tfence x => some { x }
  | .bwait a x | .barvc a x => some { ss := one [a], x }
  | .ctrap _ x => some { x }
  | .ldl size _ _ d a b x | .lds size _ _ d a b x | .ldc size _ _ d a b x =>
    some { d, dn := sizeWords size, ss := one [a, b], x }
  | .stl size _ a b c x | .sts size _ a b c x | .stc size _ a b c x =>
    some { ss := [(a, 1), (b, 1), (c, sizeWords size)], x }
  | .atoms op ret _ _ d a b c e x | .atomc op ret _ _ d a b c e x =>
    some { d := if ret == 1 then some d else none, ss := one (if op == 9 then [a, b, c, e] else [a, b, c]), x }
  | .sample _ filt _ _ d a lod x => some { d, dn := 4, ss := [(a, if filt == 2 then 6 else 2), (lod, 1)], x }
  | .gath4 _ _ _ _ d a lod x => some { d, dn := 4, ss := [(a, 2), (lod, 1)], x }
  | .trace _ _ _ d ray s root mask x => some { d, dn := 4, ss := [(ray, 8), (s, 1), (root, 1), (mask, 1)], x }
  | .tresume _ _ d ray s x => some { d, dn := 4, ss := [(ray, 8), (s, 1)], x }
  | .treport d s t w x => some { d, pred := true, ss := one [s, t, w], x }
  | .tcand d s x | .tquery d s x => some { d, dn := 4, ss := one [s], x }
  | .tabort s x => some { ss := one [s], x }
  | .mxfeed _ x => some { x }
  | _ => none

/-- The vector registers that a shape writes. -/
def CShape.vDst (h : CShape) : List Nat :=
  match h.d, h.pred with
  | some (.v n), false => (List.range h.dn).map fun j => n.toNat + j
  | _, _ => []

/-- The vector registers that a shape reads. -/
def CShape.vSrc (h : CShape) : List Nat :=
  if h.psrc then []
  else (h.ss.map fun e => match e.1 with
    | .v n => (List.range e.2).map fun j => n.toNat + j
    | _ => []).flatten

/-- The lowest bit of operand slot `j`. -/
def slotBit (j : Nat) : Nat := [58, 47, 36, 25].getD j 0

/-- Step 2 of R73 for a C instruction: declared register counts and queue depths (01 R14, R18, R28). -/
def cCount (pk : Packet) (h : CShape) : Option (Nat × Nat) :=
  let dst : Option (Nat × Nat) :=
    match h.d with
    | some (.v n) => if !h.pred && decide (pk.vregs < n.toNat + h.dn) then some (5, 69) else none
    | some (.c n) => if 3 ≤ n.toNat ∧ pk.cregs ≤ n.toNat then some (5, 69) else none
    | some (.queue n) => if pk.depth ([6, 7, 8, 9].getD n.toNat 9) = 0 then some (6, 69) else none
    | _ => none
  match dst with
  | some e => some e
  | none =>
    h.ss.zipIdx.findSome? fun e =>
      match e.1.1 with
      | .v n => if !h.psrc && decide (pk.vregs < n.toNat + e.1.2) then some (5, slotBit e.2) else none
      | .c n => if 3 ≤ n.toNat ∧ pk.cregs ≤ n.toNat then some (5, slotBit e.2) else none
      | .queue n => if pk.depth (n.toNat % 8) = 0 then some (6, slotBit e.2) else none
      | .konst _ => none

/-- The registers of a bank (07 R220): first and count by B format. -/
def bankRegs (fb : Nat) : Nat :=
  if fb = 19 then 16 else if fb = 20 then 32 else if fb = 22 ∨ fb = 23 then 9
  else if fb = 6 ∨ fb = 7 ∨ fb = 9 ∨ fb = 10 then 4 else if fb = 12 then 8 else if fb = 21 then 12 else 8

/-- The registers of the banks whose MXFEED has not latched (07 R226). -/
def State.fedRegs (s : State) (g : Group) : List Nat :=
  match g.session with
  | none => []
  | some (k, q) =>
    match s.sessions.get? k with
    | none => []
    | some ss =>
      match ss.parts[q]? with
      | none => []
      | some p =>
        let n := bankRegs ss.fb
        ((List.range (p.feeds - p.latched)).map fun j =>
          (List.range n).map fun r => p.vb + n * ((p.latched + j) % 2) + r).flatten

/-- The XF[0] of a long-latency instruction, which names the flag that it attaches to (02 R68). -/
def flagBit : Instr → Option (BitVec 1)
  | .ldl _ _ fl .. => some fl
  | .lds _ _ fl .. => some fl
  | .ldc _ _ fl .. => some fl
  | .atoms _ ret _ fl .. => if ret = 1 then some fl else none
  | .atomc _ ret _ fl .. => if ret = 1 then some fl else none
  | .sample _ _ _ fl .. => some fl
  | .gath4 _ _ _ fl .. => some fl
  | .trace _ _ fl .. => some fl
  | .tresume _ fl .. => some fl
  | .mxfeed fl _ => some fl
  | _ => none

/-- The flag that a long-latency instruction of a split attaches to. -/
def Split.flag (p : Split) (fl : BitVec 1) : Nat := if fl = 1 then p.setb else p.seta

/-- A flag that the header sets to 15 (none) is illegal at issue (02 R68, R69). -/
def cFlag (p : Option Split) (i : Instr) : Option Cause :=
  (flagBit i).bind fun fl =>
    if (p.map fun q => decide (12 ≤ q.flag fl)).getD false then some (Cause.mk' 1 4 0) else none

/-- Step 4 of R73 for a C instruction: the record that it uses is not valid (01 R24); one that is still loading is waited for. -/
def cRecord (g : Group) (i : Instr) : Option Cause :=
  let bad := fun (r : Rec) (ok : Bool) => if r.busy = 0 ∧ ok = false then some (Cause.mk' 8 1) else none
  match i with
  | .sample _ _ t .. => bad (g.rt t.toNat) (g.rt t.toNat).ten?.isSome
  | .gath4 _ _ t .. => bad (g.rt t.toNat) (g.rt t.toNat).ten?.isSome
  | .trace _ b .. => bad (g.rb b.toNat) (g.rb b.toNat).buf?.isSome
  | .tresume b .. => bad (g.rb b.toNat) (g.rb b.toNat).buf?.isSome
  | _ => none

/-- The regroup set of a group: the groups of its team on its slot in GROUP order, cut into sets of `n`; none where the
group's set is incomplete (06 R187, R189). -/
def regroupSet (s : State) (g : Group) (n : Nat) : Option (List Nat) :=
  let l := sortBy (fun (a b : Nat × Group) => decide (a.2.who.groupIx ≤ b.2.who.groupIx))
    (s.groups.filter fun e => e.2.who.tid == g.who.tid && e.2.who.slot == g.who.slot && e.2.stop != .gone)
  match l.findIdx? fun e => e.1 == g.who.gid with
  | some i =>
    let set := ((l.drop (i / n * n)).take n).map (·.1)
    if set.length = n then some set else none
  | none => none

/-- Step 5 for a C instruction, as far as it needs no operand: the sequencing checks of R154 and 12 R343, then the kind of its record
(07 R238, R240), or for REGROUP one split with an empty stack in a complete set (06 R189). -/
def cKind (s : State) (g : Group) (i : Instr) (h : CShape) : Option Cause :=
  let texture := fun (t : BitVec 4) =>
    if (g.rt t.toNat).busy = 0 ∧ ((g.rt t.toNat).ten?.all (·.isTexture)) = false then some (Cause.mk' 9 2 5) else none
  let tree := fun (b : BitVec 5) =>
    if (g.rb b.toNat).busy = 0 ∧ ((g.rb b.toNat).buf?.all (·.isTree)) = false then some (Cause.mk' 9 2 4) else none
  match (h.vDst ++ h.vSrc).find? fun n => g.unwaited.any fun u => u.1 == s.cur.split && u.2.1 == n with
  | some n => some (Cause.mk' 8 2 n)
  | none =>
    if h.vDst.any fun n => (s.fedRegs g).contains n then some (Cause.mk' 8 6)
    else match i with
      | .sample _ _ t .. => texture t
      | .gath4 _ _ t .. => texture t
      | .trace _ b .. => tree b
      | .tresume b .. => tree b
      | .regroup _ n .. =>
        if 1 < g.cs.splits.length ∨ ((g.cs.sp s.cur.split).all fun p => p.stack.isEmpty) = false ∨
            (g.regroup.isNone ∧ (regroupSet s g (n.toNat + 1)).isNone) then some (Cause.mk' 8 4)
        else none
      | _ => none

/-- The checks of R73 for a C instruction that need no operand, in their order: the word and its flag, the declared counts, its
record, and the checks of its own (R154). -/
def cCheck (s : State) (g : Group) (i : Instr) (h : CShape) : Option Cause :=
  ((violation i).map fun b => Cause.mk' 1 b.code b.bit).or <|
    (cFlag (g.cs.sp s.cur.split) i).or <|
      ((cCount (s.pk g) h).map fun x => Cause.mk' 1 x.1 x.2).or <| (cRecord g i).or (cKind s g i h)

/-- The lanes that a guard holds in (02 R65). -/
def guardMask (c : CSide) (x : Ctl) : Mask :=
  let one := fun (gx : BitVec 4) => if gx.getLsbD 3 then ~~~(c.rp (gx.toNat % 8)) else c.rp (gx.toNat % 8)
  if x.gc = 0 then one x.ga &&& one x.gb else one x.ga ||| one x.gb

/-- How an inline integer reaches an operand (02 R63, 05 R152): as an integer, as binary32, or in both halves. -/
inductive OpTy where
  | int
  | f32
  | half (bf : Bool)
  deriving DecidableEq, Repr

/-- An inline integer in an operand type. -/
def inlineVal (ty : OpTy) (n : BitVec 9) : Word :=
  let i : Int := (n.toNat : Int) - 384
  match ty with
  | .int => BitVec.ofInt 32 i
  | .f32 => BitVec.ofNat 32 (intToF f32 .rn false i).1
  | .half bf =>
    let h := (intToF (if bf then bf16 else f16) .rn false i).1
    BitVec.ofNat 32 (h + 65536 * h)

/-- The same word in every lane. -/
def splat (w : Word) : Lanes := mkLanes fun _ => w

/-- The head of a queue as a C instruction meets it: ready, a token, or not there yet (01 R30, 08 R250, 09 R280). -/
inductive Head where
  | ready (e : VEntry)
  | token (c : Cause) (op : Nat)
  | empty
  deriving DecidableEq, Repr

/-- The head of LDQ0-LDQ3 or the SVQ. -/
def Group.head (g : Group) (q : Nat) : Head :=
  if q = 4 then
    match g.q.svq with
    | [] => .empty
    | e :: _ =>
      if g.performed e.need then
        .ready { data := splat e.val, mask := allLanes, fill := .filled, held := false, op := 0, need := [] }
      else .empty
  else
    match g.q.ldq.getD q [] with
    | [] => .empty
    | e :: _ =>
      match e.fill with
      | .reserved => .empty
      | .filled => if g.performed e.need then .ready e else .empty
      | .token c => .token c e.op

/-- Remove the head of LDQ0-LDQ3 or the SVQ; a DROP that waits on the queue has one entry less to remove (06 R191). -/
def Group.popHead (g : Group) (q : Nat) : Group :=
  let g := { g with cs := { g.cs with splits := g.cs.splits.mapV fun _ p =>
    { p with dropN := p.dropN.map fun (d : Nat × Nat) => if d.1 = q then (d.1, d.2 - 1) else d } } }
  if q = 4 then { g with q.svq := g.q.svq.drop 1 }
  else { g with q.ldq := setAt g.q.ldq q ((g.q.ldq.getD q []).drop 1) }

/-- The operation that left a token, and the A-PC it was issued at: an LDV stopped in the A-stream, or an operation that the
memory unit holds. -/
def Group.tokenPc (g : Group) (op : Nat) : Nat :=
  match g.mu.find? fun o => o.id == op with
  | some o => o.pc
  | none => g.apc

/-- The earliest fault token of a group in A program order (08 R250). -/
def Group.firstToken (g : Group) : Option (Cause × Nat) :=
  let toks := (g.q.ldq.map fun q => q.filterMap fun e =>
    match e.fill with
    | .token c => some (c, e.op)
    | _ => none).flatten
  toks.find? fun t => toks.all fun u => decide (t.2 ≤ u.2)

/-- The steps of the queue operands of an instruction: peeks first (as 100 plus the queue), then pops in operand order
(01 R29). -/
def queueSteps (ss : List (Src × Nat)) : List Nat :=
  let qs := ss.filterMap fun e => match e.1 with
    | .queue n => some n.toNat
    | _ => none
  ((qs.filter fun n => decide (8 ≤ n)).map fun n => 100 + n - 8) ++ qs.filter fun n => decide (n < 8)

/-- The queue operands that an instruction takes at issue: POP and DROP take theirs themselves. -/
def fetches (i : Instr) (ss : List (Src × Nat)) : List Nat :=
  match i with
  | .pop .. => []
  | .drop .. => []
  | _ => queueSteps ss

/-- What fetching the queue operands answers: all entries in step order, a wait at a queue, or a token met. -/
inductive Fetched where
  | all (g : Group) (es : List (Nat × VEntry))
  | wait (g : Group) (es : List (Nat × VEntry)) (q : Nat)
  | token (g : Group) (es : List (Nat × VEntry)) (c : Cause) (op : Nat)

/-- Fetch the queue operands that are still missing. -/
def fetchQ : List Nat → Group → List (Nat × VEntry) → Fetched
  | [], g, es => .all g es
  | st :: r, g, es =>
    let q := if 100 ≤ st then st - 100 else st
    match g.head q with
    | .empty => .wait g es q
    | .token c op => .token g es c op
    | .ready e => fetchQ r (if 100 ≤ st then g else g.popHead q) (es ++ [(st, e)])

/-- The environment of a C instruction's meaning: its split, enabled lanes, activity mask, the entries it fetched and the
clause's constant and flags. -/
structure CEnv where
  k : Nat
  en : Mask
  p : Split
  es : List (Nat × VEntry)

/-- The value of a source operand in every lane: register, uniform, queue entry, clause constant or inline integer. -/
def CEnv.val (e : CEnv) (c : CSide) (ty : OpTy) (es : List (Nat × VEntry)) (x : Src) : Lanes :=
  match x with
  | .v n => c.rv n.toNat
  | .c n => splat (c.rc e.k n.toNat)
  | .queue n =>
    let st := if 8 ≤ n.toNat then 100 + n.toNat - 8 else n.toNat
    ((es.find? fun p => p.1 == st).map (·.2.data)).getD zeroLanes
  | .konst n => if n = 0 then splat e.p.kc else splat (inlineVal ty n)

/-- The values of a list of sources in order; the j-th pop of one queue takes the j-th entry fetched from it. -/
def CEnv.vals (e : CEnv) (c : CSide) : List (OpTy × Src) → List (Nat × VEntry) → List Lanes
  | [], _ => []
  | (ty, x) :: r, es =>
    let v := e.val c ty es x
    let es' := match x with
      | .queue n => if 8 ≤ n.toNat then es else es.eraseP fun p => p.1 == n.toNat
      | _ => es
    v :: e.vals c r es'

/-- The near-memory operations of a split that a push waits for (09 R280). -/
def Group.nearOf (g : Group) (k : Nat) : List Nat := (g.pend.filter fun o => o.who == k).map (·.id)

/-- Whether the queue that a destination pushes has room for `n` entries (01 R30). -/
def roomFor (s : State) (g : Group) (d : Option Dst) (n : Nat) : Option Nat :=
  match d with
  | some (.queue m) =>
    let q := [6, 7, 8, 9].getD m.toNat 9
    if (s.pk g).depth q < g.occ q + n then some q else none
  | _ => none

/-- Push an entry as R64 says: XQ, SDQ0, SDQ1 with data and mask, BQ with the lowest enabled lane's value. -/
def Group.pushC (g : Group) (q : Nat) (k : Nat) (m : Mask) (f : Nat → Word) (now : Nat) : Group :=
  let e : VEntry := { data := mkLanes fun l => if m.getLsbD l then f l else 0, mask := m, fill := .filled, held := false,
                      op := 0, need := g.nearOf k }
  let g := { g with lastQ := now }
  match q with
  | 0 => { g with q.xq := g.q.xq ++ [e] }
  | 1 => { g with q.sdq0 := g.q.sdq0 ++ [e] }
  | 2 => { g with q.sdq1 := g.q.sdq1 ++ [e] }
  | _ => { g with q.bq := g.q.bq ++ [{ val := ((lowLane m).map f).getD 0, need := g.nearOf k }] }

/-- Write a result as the destination says (02 R64, 05 R151). -/
def Group.writeDst (g : Group) (k : Nat) (d : Dst) (m : Mask) (f : Nat → Word) (now : Nat) : Group :=
  match d with
  | .v n => { g with cs := g.cs.wv n.toNat m (mkLanes f) }
  | .c n =>
    match lowLane m with
    | some l => { g with cs := g.cs.wc k n.toNat (f l) }
    | none => g
  | .queue n => g.pushC n.toNat k m f now
  | .none _ => g

/-- Write a predicate result (01 R21). -/
def Group.writePred (g : Group) (d : Dst) (m : Mask) (f : Nat → Bool) : Group :=
  match d with
  | .v n => { g with cs := g.cs.wp n.toNat m (mkMask f) }
  | _ => g

/-- A split past the word it has executed (02 R70); an index has 22 bits (R60; notes/assumptions/64.md). -/
def Split.past (p : Split) : Split :=
  let last := decide (p.cnt ≤ p.slot)
  { p with idx := (p.idx + 1) % 2 ^ 22, slot := if last then 0 else p.slot + 1, held := [], blk := none, noWait := false, owed := 0,
           dropN := none }

/-- Record why a split waits and since when, with the entries it holds. -/
def State.waitC (s : State) (g : Group) (k : Nat) (es : List (Nat × VEntry)) (w : WaitKind) : State :=
  s.putG { g with cs := g.cs.updSp k fun p =>
    { p with held := es, blk := some w, since := if p.blk = some w then p.since else s.tick } }

/-- The trap of a fault token reached by a split (08 R250): the instruction that left it is the A-stream's, which stops at its
restart point (notes/assumptions/42.md). -/
def tokenPending (g : Group) (k : Nat) (w : BitVec 96) (c : Cause) (op : Nat) : Pending :=
  { cPending g k w c with aside := true, fpc := g.tokenPc op }

/-- Whether a queue on which a split waits has an entry to come that was pushed or reserved before a token's operation, in A program
order: entries ahead of a token are consumed normally (08 R249, R251's example; notes/assumptions/42.md). -/
def Group.comesFirst (g : Group) (q op : Nat) : Bool :=
  if q = 4 then g.q.svq.head?.any fun e => !e.need.contains op
  else
    match (g.q.ldq.getD q []).find? fun e => match e.fill with
      | .reserved => true
      | .filled => !g.performed e.need
      | .token _ => false with
    | some e => decide (e.op < op)
    | none => false

/-- A split waits on a queue: with a token pending in the group the token's trap is taken instead (08 R250 case 2), unless the
wait is for an entry ahead of the token. -/
def queueWait (s : State) (g : Group) (k : Nat) (es : List (Nat × VEntry)) (w : BitVec 96) (q : Nat) : State :=
  match g.firstToken.filter fun t => !g.comesFirst q t.2 with
  | some (c, op) =>
    let g := g.unpopAll es
    let g := { g with cs := g.cs.updSp k fun p => { p with held := [] } }
    raise (s.putG (g.endHeld op c)) s.cur.gid (tokenPending g k w c op)
  | none => s.waitC g k es (.queue q)

/-- Whether a C instruction is compared with the shadow before it is released (08 R267). -/
def compared : Instr → Bool
  | .stl .. | .sts .. | .stc .. | .atoms .. | .atomc .. | .brd .. | .kill .. | .push .. => true
  | i => match (cShape i).bind (·.d) with
    | some (.queue _) => true
    | _ => false

/-- Whether the shadow takes an instruction's results from the leader (08 R267). -/
def replayed : Instr → Bool
  | .sreg .. | .treport .. | .tcand .. | .tquery .. | .tabort .. | .drop .. => true
  | _ => false

/-- Instructions that compute nothing for the shadow to compute again: it takes their results otherwise, or they have none
(06 R187; 08 R267). -/
def inert : Instr → Bool
  | .regroup .. | .pop .. | .nopc .. | .tfence .. | .bwait .. | .barvc .. | .ctrap .. | .mxfeed .. => true
  | _ => false

/-- Instructions whose results come later: the shadow takes them from the leader when they come (08 R267). -/
def late : Instr → Bool
  | .ldl .. | .lds .. | .ldc .. | .sample .. | .gath4 .. | .trace .. | .tresume .. => true
  | _ => false

/-- An item of the replay log: an instruction that the leader has issued. -/
def LogItem.of (k : Nat) (p : Split) (i : Instr) (es : List (Nat × VEntry)) : LogItem :=
  { split := k, at_ := [(k, p.idx, p.slot)], instr := some i, pops := es, writes := [], ctl := none, cmp := false }

/-- What the shadow takes of a finished instruction: the instruction itself, with the leader's results where it takes those. -/
def logOf (k : Nat) (p : Split) (i : Instr) (h : CShape) (es : List (Nat × VEntry)) (c : CSide) (en : Mask) (op : Nat) : LogItem :=
  let it := LogItem.of k p i es
  if late i then { it with op }
  else if replayed i then
    let ws := (h.vDst.map fun n => (n, en, c.rv n)) ++
      (match h.d, h.pred with
       | some (.v n), true => [(1000 + n.toNat, en, mkLanes fun l => if (c.rp n.toNat).getLsbD l then 1 else 0)]
       | some (.c n), _ => [(2000 + n.toNat, en, splat (c.rc k n.toNat))]
       | _, _ => [])
    { it with writes := ws }
  else it

/-- Add an item to the replay log of a group that has a shadow (08 R266); handlers are not shadowed (R268). -/
def Group.log (g : Group) (it : LogItem) : Group :=
  if g.sys.frame then g else { g with shadow := g.shadow.map fun x => { x with log := x.log ++ [it] } }

/-- Whether the leader logs: it has a shadow and runs no handler. -/
def State.shadowed (s : State) (g : Group) : Bool := g.shadow.isSome && !g.sys.frame && s.cur.mode == 0

/-- How many instructions the shadow is behind its leader (08 R266). -/
def Group.behind (g : Group) : Nat := (g.shadow.map fun x => (x.log.filter fun it => it.instr.isSome).length).getD 0

/-- The entries that a DROP has to remove, counted at its issue (06 R191). -/
def dropCount (g : Group) (i : Instr) : Option (Nat × Nat) :=
  match i with
  | .drop _ (.queue n) _ =>
    let q := n.toNat % 8
    some (q, if q = 4 then g.q.svq.length else (g.q.ldq.getD q []).length)
  | _ => none

/-- Whether a split has left the word at which it stood. -/
def Group.moved (g : Group) (k : Nat) (p : Split) : Bool := (g.cs.sp k).map (·.idx) != some p.idx

/-- The machine once a C instruction is done: where the leader logs, a compared instruction waits for the compare before anything
of it happens, and of another that has issued the shadow is told (08 R266, R267). -/
def State.leave (s s0 : State) (g0 : Group) (i : Instr) (h : CShape) (env : CEnv) : State :=
  if s.shadowed g0 then
    if compared i then
      s0.putG (({ g0 with cs := g0.cs.updSp env.k fun p =>
        { p with cmp := true, held := env.es, blk := some .shadow, since := s0.tick, dropN := p.dropN.or (dropCount g0 i) } } : Group).log
          { LogItem.of env.k env.p i env.es with cmp := true })
    else s.updG fun g =>
      if g.moved env.k env.p && g.trap.isNone then g.log (logOf env.k env.p i h env.es g.cs env.en s0.nextId) else g
  else s

/-- What a C instruction's answer makes of the machine: `s0` is the machine before it with the entries it had popped. -/
def finishC (i : Instr) (h : CShape) (w : BitVec 96) (env : CEnv) (s0 : State) (g0 : Group) (r : Res) : Out :=
  match r with
  | .done s => .next (s.leave s0 g0 i h env)
  | .wait k _ => .next (s0.waitC g0 env.k env.es k)
  | .trap c _ =>
    let g := g0.unpopAll env.es
    let g := { g with cs := g.cs.updSp env.k fun p => { p with held := [] } }
    let pd := cPending g env.k w c
    let g := if s0.shadowed g0 && c.grp == 13 then g.log (.of env.k env.p i []) else g
    let q := env.p.past
    let pd := if c.grp = 7 ∨ c.grp = 13 then { pd with cpc := q.idx, slot := q.slot, fpc := q.idx } else pd
    .next (raise (s0.putG g) s0.cur.gid pd)
  | .stop f => .fault f

/-- The group after entries have left its queues, if any have. -/
def Group.popped (g : Group) (now : Nat) (nothing : Bool) : Group := if nothing then g else { g with lastQ := now }

/-- The group with a split moved past its word (02 R70). -/
def Group.stepped (g : Group) (k : Nat) : Group := { g with cs := g.cs.updSp k fun p => { p.past with cmp := false } }

/-- Whether the record that a C instruction uses is still loading: it waits before it takes anything (01 R24; 02 R73). -/
def recordBusy (g : Group) (i : Instr) : Bool :=
  match i with
  | .sample _ _ t .. => (g.rt t.toNat).busy != 0
  | .gath4 _ _ t .. => (g.rt t.toNat).busy != 0
  | .trace _ b .. => (g.rb b.toNat).busy != 0
  | .tresume b .. => (g.rb b.toNat).busy != 0
  | _ => false

/-- Issue a C-stream instruction of the current split: the checks of R73 and R154, the queue operands, the room for its push,
then its own meaning over the split moved past the word. -/
def cIssueN (i : Instr) (pushes : Nat) (body : CEnv → State → Res) (s : State) : Out :=
  match s.grp?, cShape i with
  | some g, some h =>
    let k := s.cur.split
    match g.cs.sp k with
    | none => .next s
    | some p =>
      let w := (encodeC i).getD 0
      match cCheck s g i h with
      | some c => finishC i h w { k, en := 0, p, es := p.held } s g (.trap c s)
      | none =>
        if s.cur.mode = 0 ∧ p.cmp then .next s
        else if s.shadowed g ∧ 64 ≤ g.behind then .next (s.waitC g k p.held .shadow)
        else if recordBusy g i then .next (s.waitC g k p.held .other)
        else
          match fetchQ ((fetches i h.ss).drop p.held.length) g p.held with
          | .wait g es q => .next (queueWait s g k es w q)
          | .token g es c op =>
            let g := g.unpopAll es
            let g := { g with cs := g.cs.updSp k fun p => { p with held := [] } }
            .next (raise (s.putG (g.endHeld op c)) s.cur.gid (tokenPending g k w c op))
          | .all g es =>
            match roomFor s g h.d pushes with
            | some q => .next (queueWait s g k es w q)
            | none =>
              let env : CEnv := { k, en := p.act &&& guardMask g.cs h.x, p, es }
              let g0 := g.popped s.tick (es.length = p.held.length)
              finishC i h w env s g0 (body env (s.putG (g0.stepped k)))
  | _, _ => .next s

/-- Issue a C instruction that pushes at most one entry, its meaning given the group after the word. -/
def cIssue (i : Instr) (body : CEnv → Group → State → Res) : State → Out :=
  cIssueN i 1 fun e s =>
    match s.grp? with
    | some g => body e g s
    | none => .done s

/-- Write the lanes of a result, raise its flags and count its events; the shadow raises and counts nothing (03 R110). -/
def putLanes (s : State) (g : Group) (e : CEnv) (d : Dst) (f : Nat → Word) (fl : Fl) (ev : List Nat) : State :=
  let g := g.writeDst e.k d e.en f s.tick
  if s.cur.mode = 1 then s.putG g else (s.putG (g.raiseFl fl)).countEv g.who.lid ev

/-- A split that goes on waiting at its instruction, with what the group keeps meanwhile. -/
def stay (s : State) (g : Group) (e : CEnv) (es : List (Nat × VEntry)) (w : WaitKind) : State :=
  s.waitC { g with cs := g.cs.updSp e.k fun _ => e.p } e.k es w

/-- The flag that a long-latency instruction attaches to, by its XF[0] (02 R68). -/
def CEnv.flag (e : CEnv) (fl : BitVec 1) : Nat := e.p.flag fl

/-- Attach a long-latency instruction of the current split to its flag: a 64th attachment waits (01 R23). -/
def withFlag (e : CEnv) (g : Group) (s : State) (fl : BitVec 1) (f : Nat → Res) : Res :=
  let n := e.flag fl
  if 63 ≤ g.cfn n then .wait .flag s else f n

/-- Registers that a long-latency write of a split will reach, until the split has waited on its flag (05 R154;
notes/assumptions/44.md). -/
def Group.await (g : Group) (k : Nat) (regs : List Nat) (flag : Nat) : Group :=
  { g with unwaited := g.unwaited ++ regs.map fun r => (k, r, flag) }

/-- A split that traps at its instruction, with what the group keeps; the PC of the instruction that faulted, if it is another
one (08 R252). -/
def trapHere (s : State) (g : Group) (e : CEnv) (word : BitVec 96) (c : Cause) (at_ : Option Nat := none) : State :=
  let g := ({ g with cs := g.cs.updSp e.k fun _ => { e.p with held := [] } } : Group).unpopAll e.es
  let p := cPending g e.k word c
  raise (s.putG g) s.cur.gid { p with fpc := at_.getD p.fpc }

/-- A lane-wise C instruction (05 R151): each enabled lane computes a word from its operands' words; flags are raised and
events counted. -/
def cLanes (i : Instr) (d : Dst) (ops : List (OpTy × Src)) (f : Nat → List Word → LRes) : State → Out :=
  cIssue i fun e g s =>
    let vs := e.vals g.cs ops e.es
    let r := fun l => f l (vs.map fun v => lane v l)
    let out := (lanesOf e.en).map r
    .done (putLanes s g e d (fun l => (r l).w) (flOr out) (out.map (·.ev)).flatten)

/-- A lane-wise C instruction that writes a predicate. -/
def cPred (i : Instr) (d : Dst) (ops : List (OpTy × Src)) (f : Nat → List Word → Bool × Fl) : State → Out :=
  cIssue i fun e g s =>
    let vs := e.vals g.cs ops e.es
    let r := fun l => f l (vs.map fun v => lane v l)
    let g := g.writePred d e.en fun l => (r l).1
    let fl := (lanesOf e.en).foldl (fun a l => a ||| (r l).2) 0
    .done (s.putG (if s.cur.mode = 1 then g else g.raiseFl fl))

end Sys2Proof.Machine
end

