-- ==== Sys2Proof/Machine/IntC.lean ====
section
/-! DEFINITION. Integer instructions of the C-stream (05 R164-R169). -/

namespace Sys2Proof.Machine

/-- Integer sources. -/
def ints (l : List Src) : List (OpTy × Src) := l.map fun x => (.int, x)

/-- An integer instruction: no flag, no count (05 R153). -/
def intOp (i : Instr) (d : Dst) (ss : List Src) (f : List Word → Word) : State → Out :=
  cLanes i d (ints ss) fun _ v => .pure (f v)

/-- Operand `j` of a lane. -/
def arg (v : List Word) (j : Nat) : Word := v.getD j 0

/-- A word as an integer of its type (05 R165). -/
def ival (u : Bool) (w : Word) : Int := if u then (w.toNat : Int) else w.toInt

/-- An exact result as a word: its low 32 bits, or clamped to the type's range (03 R95, 05 R165). -/
def narrow (u sat : Bool) (n : Int) : Word :=
  if sat then
    if u then BitVec.ofInt 32 (max 0 (min (2 ^ 32 - 1) n)) else BitVec.ofInt 32 (max (-2 ^ 31) (min (2 ^ 31 - 1) n))
  else BitVec.ofInt 32 n

/-- IADD (05 R165). -/
def execIadd (u sat : BitVec 1) (d : Dst) (a b : Src) (x : Ctl) (s : State) : Out :=
  intOp (.iadd u sat d a b x) d [a, b]
    (fun v => narrow (u == 1) (sat == 1) (ival (u == 1) (arg v 0) + ival (u == 1) (arg v 1))) s

/-- ISUB (05 R165). -/
def execIsub (u sat : BitVec 1) (d : Dst) (a b : Src) (x : Ctl) (s : State) : Out :=
  intOp (.isub u sat d a b x) d [a, b]
    (fun v => narrow (u == 1) (sat == 1) (ival (u == 1) (arg v 0) - ival (u == 1) (arg v 1))) s

/-- IMUL (05 R165). -/
def execImul (u sat : BitVec 1) (d : Dst) (a b : Src) (x : Ctl) (s : State) : Out :=
  intOp (.imul u sat d a b x) d [a, b]
    (fun v => narrow (u == 1) (sat == 1) (ival (u == 1) (arg v 0) * ival (u == 1) (arg v 1))) s

/-- IMAD (05 R165). -/
def execImad (u sat : BitVec 1) (d : Dst) (a b c : Src) (x : Ctl) (s : State) : Out :=
  intOp (.imad u sat d a b c x) d [a, b, c]
    (fun v => narrow (u == 1) (sat == 1)
      (ival (u == 1) (arg v 0) * ival (u == 1) (arg v 1) + ival (u == 1) (arg v 2))) s

/-- IMULH (05 R165). -/
def execImulh (u : BitVec 1) (d : Dst) (a b : Src) (x : Ctl) (s : State) : Out :=
  intOp (.imulh u d a b x) d [a, b]
    (fun v => if u == 1 then mulhu (arg v 0) (arg v 1) else mulhs (arg v 0) (arg v 1)) s

/-- IMIN (05 R165). -/
def execImin (u : BitVec 1) (d : Dst) (a b : Src) (x : Ctl) (s : State) : Out :=
  intOp (.imin u d a b x) d [a, b]
    (fun v => if u == 1 then minu (arg v 0) (arg v 1) else mins (arg v 0) (arg v 1)) s

/-- IMAX (05 R165). -/
def execImax (u : BitVec 1) (d : Dst) (a b : Src) (x : Ctl) (s : State) : Out :=
  intOp (.imax u d a b x) d [a, b]
    (fun v => if u == 1 then maxu (arg v 0) (arg v 1) else maxs (arg v 0) (arg v 1)) s

/-- IABS (05 R165). -/
def execIabs (sat : BitVec 1) (d : Dst) (a : Src) (x : Ctl) (s : State) : Out :=
  intOp (.iabs sat d a x) d [a] (fun v => narrow false (sat == 1) ((arg v 0).toInt.natAbs : Int)) s

/-- IADD3 (05 R165). -/
def execIadd3 (u sat : BitVec 1) (d : Dst) (a b c : Src) (x : Ctl) (s : State) : Out :=
  intOp (.iadd3 u sat d a b c x) d [a, b, c]
    (fun v => narrow (u == 1) (sat == 1)
      (ival (u == 1) (arg v 0) + ival (u == 1) (arg v 1) + ival (u == 1) (arg v 2))) s

/-- ISET (05 R165). -/
def execIset (cnd : BitVec 3) (u : BitVec 1) (d : Dst) (a b : Src) (x : Ctl) (s : State) : Out :=
  cPred (.iset cnd u d a b x) d (ints [a, b])
    (fun _ v => (icond cnd.toNat (compare (ival (u == 1) (arg v 0)) (ival (u == 1) (arg v 1))), 0)) s

/-- Bit `i` of LTAB's result: the table bit that the three source bits index (05 R166). -/
def ltab (tbl : BitVec 8) (a b c : Word) : Word :=
  BitVec.ofNat 32 ((List.range 32).foldl (fun m i =>
    if tbl.getLsbD ((a.getLsbD i).toNat + 2 * (b.getLsbD i).toNat + 4 * (c.getLsbD i).toNat) then m + 2 ^ i else m) 0)

/-- LTAB (05 R166). -/
def execLtab (tbl : BitVec 8) (d : Dst) (a b c : Src) (x : Ctl) (s : State) : Out :=
  intOp (.ltab tbl d a b c x) d [a, b, c] (fun v => ltab tbl (arg v 0) (arg v 1) (arg v 2)) s

/-- SHL (05 R167): the amount is not reduced. -/
def execShl (d : Dst) (a b : Src) (x : Ctl) (s : State) : Out :=
  intOp (.shl d a b x) d [a, b] (fun v => arg v 0 <<< min 32 (arg v 1).toNat) s

/-- SHR (05 R167). -/
def execShr (d : Dst) (a b : Src) (x : Ctl) (s : State) : Out :=
  intOp (.shr d a b x) d [a, b] (fun v => arg v 0 >>> min 32 (arg v 1).toNat) s

/-- SHRA (05 R167). -/
def execShra (d : Dst) (a b : Src) (x : Ctl) (s : State) : Out :=
  intOp (.shra d a b x) d [a, b] (fun v => (arg v 0).sshiftRight (min 32 (arg v 1).toNat)) s

/-- The funnel of SHF (05 R167). -/
def funnel (a b c : Word) : Word := ((b ++ a : BitVec 64) >>> (c.toNat % 32)).extractLsb' 0 32

/-- SHF (05 R167). -/
def execShf (d : Dst) (a b c : Src) (x : Ctl) (s : State) : Out :=
  intOp (.shf d a b c x) d [a, b, c] (fun v => funnel (arg v 0) (arg v 1) (arg v 2)) s

/-- BFE (05 R168). -/
def execBfe (d : Dst) (a b : Src) (x : Ctl) (s : State) : Out :=
  intOp (.bfe d a b x) d [a, b] (fun v => bfe32 (arg v 0) (arg v 1)) s

/-- The extracted field sign-extended from its top bit, bit min(n, 32 − p) − 1 (05 R168). -/
def bfes32 (a b : Word) : Word :=
  let f := fieldAt b
  let k := 32 - min f.2 (32 - f.1)
  (bfe32 a b <<< k).sshiftRight k

/-- BFES (05 R168). -/
def execBfes (d : Dst) (a b : Src) (x : Ctl) (s : State) : Out :=
  intOp (.bfes d a b x) d [a, b] (fun v => bfes32 (arg v 0) (arg v 1)) s

/-- BFI (05 R168): the field of z = c takes the low bits of a. -/
def execBfi (d : Dst) (a b c : Src) (x : Ctl) (s : State) : Out :=
  intOp (.bfi d a b c x) d [a, b, c] (fun v => bfi32 (arg v 2) (arg v 0) (arg v 1)) s

/-- POPC (05 R165). -/
def execPopc (d : Dst) (a : Src) (x : Ctl) (s : State) : Out :=
  intOp (.popc d a x) d [a] (fun v => BitVec.ofNat 32 (popc32 (arg v 0))) s

/-- CLZ (05 R165). -/
def execClz (d : Dst) (a : Src) (x : Ctl) (s : State) : Out :=
  intOp (.clz d a x) d [a] (fun v => BitVec.ofNat 32 (clz32 (arg v 0))) s

/-- BREV (05 R165). -/
def execBrev (d : Dst) (a : Src) (x : Ctl) (s : State) : Out :=
  intOp (.brev d a x) d [a] (fun v => brev32 (arg v 0)) s

/-- Part `i` of `n` bits of a word as an integer (05 R169). -/
def part (u : Bool) (n i : Nat) (w : Word) : Int :=
  let p : Int := (w.toNat / 2 ^ (n * i) % 2 ^ n : Nat)
  if u || decide (p < 2 ^ (n - 1)) then p else p - 2 ^ n

/-- The dot product of `k` parts with a 32-bit addend (05 R169). -/
def idp (k n : Nat) (u ub sat : Bool) (a b c : Word) : Word :=
  let sum := (List.range k).foldl (fun (t : Int) i => t + part u n i a * part ub n i b) (ival (u && ub) c)
  narrow (u && ub) sat sum

/-- IDP4 (05 R169). -/
def execIdp4 (u ub sat : BitVec 1) (d : Dst) (a b c : Src) (x : Ctl) (s : State) : Out :=
  intOp (.idp4 u ub sat d a b c x) d [a, b, c]
    (fun v => idp 4 8 (u == 1) (ub == 1) (sat == 1) (arg v 0) (arg v 1) (arg v 2)) s

/-- IDP2 (05 R169). -/
def execIdp2 (u ub sat : BitVec 1) (d : Dst) (a b c : Src) (x : Ctl) (s : State) : Out :=
  intOp (.idp2 u ub sat d a b c x) d [a, b, c]
    (fun v => idp 2 16 (u == 1) (ub == 1) (sat == 1) (arg v 0) (arg v 1) (arg v 2)) s

/-- ISAD (05 R165): |a − b| + c. -/
def execIsad (u sat : BitVec 1) (d : Dst) (a b c : Src) (x : Ctl) (s : State) : Out :=
  intOp (.isad u sat d a b c x) d [a, b, c]
    (fun v => narrow (u == 1) (sat == 1)
      (((ival (u == 1) (arg v 0) - ival (u == 1) (arg v 1)).natAbs : Int) + ival (u == 1) (arg v 2))) s

/-- ICLAMP (05 R165): Min(Max(x, lo), hi). -/
def execIclamp (u : BitVec 1) (d : Dst) (a lo hi : Src) (x : Ctl) (s : State) : Out :=
  intOp (.iclamp u d a lo hi x) d [a, lo, hi]
    (fun v => if u == 1 then minu (maxu (arg v 0) (arg v 1)) (arg v 2) else mins (maxs (arg v 0) (arg v 1)) (arg v 2)) s

end Sys2Proof.Machine
end

