-- ==== Sys2Proof/Machine/Windows.lean ====
section
/-! DEFINITION. When a launch and its groups receive issue: the window table (11 R317), deadlines, and the order in which a slot picks
among its ready groups (R320). -/

namespace Sys2Proof.Machine

/-- The absolute deadline of a launch, in ns. -/
def Launch.due (l : Launch) : Nat := l.arrival / nsT + l.pk.deadline

/-- Whether an accepted launch counts as an unfinished deadline launch. -/
def Launch.dlLive (l : Launch) : Bool := l.pk.deadline != 0 && !l.demoted && !l.killed

/-- The window table, as (mask, length in ns) pairs; empty where none is in force (11 R317). -/
def State.windows (s : State) : List (Nat × Nat) :=
  let t := (s.regs.win.take (min 16 s.regs.wincnt)).map fun w => (w.toNat / 65536, 1000 * (w.toNat % 65536))
  if s.regs.wincnt ≤ 16 ∧ (t.map (·.2)).sum = 1000000 then t else []

/-- The windows of a partition in a cycle: start and end of each. -/
def openSpans (t : List (Nat × Nat)) (p : Nat) : List (Nat × Nat) :=
  let act := fun (w : Nat × Nat) => w.1 / 2 ^ p % 2 == 1
  let starts := t.foldl (fun (acc : List Nat × Nat) w => (acc.1 ++ [acc.2], acc.2 + w.2)) ([], 0)
  (t.zipIdx.filter fun w => act w.1).map fun w =>
    let a := starts.1.getD w.2 0
    (a, a + w.1.2)

/-- Whether a partition's window is open at a time in ns (11 R317). -/
def State.winOpen (s : State) (p t : Nat) : Bool :=
  let w := s.windows
  w.isEmpty || (openSpans w p).any fun x => decide (x.1 ≤ t % 1000000 ∧ t % 1000000 < x.2)

/-- Whether a group receives issue: its partition's window is open (11 R317). -/
def State.issues (s : State) (g : Group) : Bool := s.winOpen (s.lau g).qd.part s.time

/-- What a slot's scheduler ranks a group by, lowest first (11 R320): deadline launches before the others and by their deadlines, the age of
the group, its priority, its residence. -/
def State.rank (s : State) (g : Group) : List Nat :=
  let l := s.lau g
  (if l.dlLive then [0, l.due] else [1, 0]) ++ [g.who.start, 7 - l.pk.prio, g.who.res]

/-- Whether a rank comes no later than another. -/
def rankLe : List Nat → List Nat → Bool
  | a :: x, b :: y => decide (a < b) || (a == b && rankLe x y)
  | _, _ => true

/-- The group that a slot picks among its ready groups (11 R320). -/
def State.pick (s : State) (ready : Tbl Group) : Option Nat :=
  ((sortBy (fun a b => rankLe (s.rank a.2) (s.rank b.2)) ready).head?).map (·.1)

end Sys2Proof.Machine
end

