-- ==== Sys2Proof/Machine/Fetch.lean ====
section
/-! DEFINITION. Whose turn it is and what it runs: which streams may run, fetching the words of the two streams (02 R49, R59,
R60; 04 R120), and the rejections that take the place of an instruction (02 R70, R73; 08 R254). -/

namespace Sys2Proof.Machine

/-- The constructors that are steps of an agent, not instructions of a stream. -/
def Instr.isEvent : Instr → Bool
  | .clauseStart | .regionEntry | .parkedJoinTimeout | .loadComplete _ | .scalarAccessReturn _ | .recordLoadComplete _
  | .xqOperationPerform _ | .storePerform _ | .nearMemoryComplete _ | .sampleComplete _ | .traversalComplete _
  | .copyComplete _ | .coverComplete _ | .tstoreComplete _ | .engineFault _ | .translationWalk .. | .sessionForm _
  | .passGrant _ | .surgeGrant _ | .stepStart _ | .rowDecode .. | .passComplete _ | .topkSelect .. | .trapEntry
  | .decouplingDeadlock | .lateStoreError _ | .shadowReplay | .yieldcWake | .quadPreempt _ | .groupSave | .forcedFullSave
  | .preemptComplete _ | .groupRestore | .notify .. | .queueMap _ | .starvationEvent _ | .launchPacket _ | .teamPlace _
  | .launchComplete _ | .launchOverrun _ | .launchWatchdog _ | .launchKill _ | .windowEndPreempt _ | .windowOpen _
  | .rallocGrant _ | .galleyTimeout _ | .frameReclaim _ | .tlbInvalidationComplete _ | .splinterComplete _
  | .granuleZeroFill | .surfaceTableRead | .frameStart _ | .scanoutLine _ | .warpLatch _ | .proofPoint ..
  | .fennelPassStart _ | .fennelPassEnd .. | .sramCorrectedError _ | .sramUncorrectableError _ | .memoryScrub
  | .thermalTrip _ | .coolantHot _ | .housekeepingWatchdog | .hostMemoryWrite .. | .linkFlitReceive .. | .linkReplayLimit ..
  | .lretrain .. | .portReset _ | .deviceReset | .semAcquire _ | .semRelease .. | .vfmapWrite .. | .pwrcapWrite ..
  | .qtbaseWrite .. | .partitionWrite .. | .windowTableWrite .. | .grant .. | .tlbinv .. | .splinter .. | .framePoolWrite ..
  | .prqheadWrite .. | .safesetWrite .. | .retest .. | .colophonUnfreeze .. | .registerWrite .. | .hostBreak
  | .hostDebugControl | .writePerformed _ => true
  | _ => false

/-- Whether the A-stream of a group may issue (08 R245, R249, R256, R263): no trap to enter, not stopped, not saved. -/
def Group.aRuns (g : Group) : Bool :=
  g.trap.isNone && !g.saved && !g.saving &&
    match g.stop with
    | .run => true
    | .halting => true
    | .bind => true
    | .ralloc => true
    | _ => false

/-- Whether HALTD holds a group's splits at their clause boundaries (04 R149). -/
def Group.halts (g : Group) : Bool := g.stop == .halting || g.stop == .halt

/-- Whether the C-stream of a group may issue: not once HALTD has stopped it (04 R149). -/
def Group.cRuns (g : Group) : Bool :=
  g.trap.isNone && !g.saved && !g.saving && !g.cEnded &&
    match g.stop with
    | .sleep .. => false
    | .gone => false
    | .halt => false
    | _ => true

/-- Bytes fetched for a stream through the L2, with the instruction-fetch access and the group's privilege (10 R293; 08 R254; 11 R312). -/
def fetchBytes (s : State) (g : Group) (va n : Nat) : State × Except AFault (List Byte) :=
  (pagePieces va 2 n).foldl (fun acc p =>
    match acc with
    | (s, .error e) => (s, .error e)
    | (s, .ok bs) =>
      match globalAt s (s.lau g).qd.vf g.sys.priv (g.agent { code := 4 }) 3 p.1 with
      | (s, .ok l) => (s.useL2 (s.user g) l p.2 false, .ok (bs ++ (s.memOf l.space).bytes l.key p.2))
      | (s, .error e) => (s, .error e)) (s, .ok [])

/-- What a fetch answers in place of an instruction that it cannot give: the trap of the fetch, or a missing address. -/
def fetchFailed (cside : Bool) (va : Nat) : AFault → Except Fault Instr
  | .cause grp _ detail a => .ok (.fetchFault cside a (detail / 4 % 4) (grp == 4))
  | .window _ a => .ok (.fetchFault cside a 0 true)
  | .hole a => .error (.noSuchAddress (if a = 0 then va else a))

/-- What a turn runs: nothing, an instruction or event, or the fault that stops the machine. -/
inductive Turning where
  | idle
  | runs (i : Instr)
  | stops (f : Fault)
  deriving DecidableEq, Repr

/-- A failed fetch as a turn. -/
def Turning.failed (cside : Bool) (va : Nat) (f : AFault) : Turning :=
  match fetchFailed cside va f with
  | .ok i => .runs i
  | .error e => .stops e

/-- A failed fetch of the A-stream, or of a split: one that no link to a peer answers, or one of the frame window, is a trap of its stream
with a code of its own (15 R382; 10 R299). -/
def failedTurn (s : State) (g : Group) (split : Option Nat) (va : Nat) (f : AFault) : State × Turning :=
  let trap := fun (c : Cause) =>
    (raise s g.who.gid (match split with
      | some k => cPending g k 0 c
      | none => { aPending g .nop c with word := 0 }), Turning.idle)
  match f with
  | .cause 10 code d a => trap (Cause.mk' 10 code d a)
  | .window _ a => trap (Cause.mk' 4 1 (tDetail 3 0 0) a)
  | f => (s, .failed split.isSome va f)

/-- The two words at an A-PC: a two-word instruction whose words lie on one page is fetched at once (02 R49, R59; 04 R120). -/
def fetchA (s : State) (g : Group) : State × Turning :=
  let va := ((s.pk g).abase + g.apc) % 2 ^ 64
  match fetchBytes s g va 4 with
  | (s, .error e) => failedTurn s g none va e
  | (s, .ok b0) =>
    let w0 : BitVec 32 := BitVec.ofNat 32 (leNat b0)
    let (s, r1) : State × Except AFault (List Byte) :=
      if aTwoWords w0 then fetchBytes s g (va + 4) 4 else (s, .ok [])
    match r1 with
    | .error e => failedTurn s g none (va + 4) e
    | .ok b1 =>
      match decodeA w0 (BitVec.ofNat 32 (leNat b1)) with
      | .ok i => (s, .runs i)
      | .error e => (s, .runs (.illegalInstruction false e.code e.bit (BitVec.ofNat 96 (leNat (b0 ++ b1)))))

/-- The address of a C word (02 R60). -/
def Group.cVa (s : State) (g : Group) (idx : Nat) : Nat := ((s.pk g).cbase + 12 * idx) % 2 ^ 64

/-- A C word at an index, at most 2^22 words after the base (02 R60, R70). -/
def fetchC (s : State) (g : Group) (idx : Nat) : State × Except AFault (BitVec 96) :=
  match fetchBytes s g (g.cVa s idx) 12 with
  | (s, .ok b) => (s, .ok (BitVec.ofNat 96 (leNat b)))
  | (s, .error e) => (s, .error e)

/-- The header fields of a clause in progress (02 R69). -/
def Split.withHeader (p : Split) (h : Header) : Split :=
  { p with cnt := h.count, kc := h.kc, seta := h.seta, setb := h.setb }

/-- The turn of a split that stands within a clause: a split restored from an image reads its header again first
(08 R259, R265), and traps there when no header stands where its position says. -/
def withinClause (s : State) (g : Group) (k : Nat) (p : Split) : State × Turning :=
  let (s, bad) : State × Option Turning :=
    if p.cnt = 0 then
      match fetchC s g p.hdr with
      | (s, .ok w) =>
        if w.extractLsb' 88 8 ≠ 0xFF then (s, some (.runs (.illegalInstruction true 7 88 w)))
        else match decodeHeader w with
          | .ok h => (s.putG { g with cs := g.cs.setSp k (p.withHeader h) }, none)
          | .error b => (s, some (.runs (.illegalInstruction true b.code b.bit w)))
      | (s, .error e) =>
        let r := failedTurn s g (some k) (g.cVa s p.hdr) e
        (r.1, some r.2)
    else (s, none)
  match bad with
  | some t => (s, t)
  | none =>
    match fetchC s g p.idx with
    | (s, .error e) => failedTurn s g (some k) (g.cVa s p.idx) e
    | (s, .ok w) =>
      match decodeC w with
      | .ok i => (s, .runs i)
      | .error e => (s, .runs (.illegalInstruction true e.code e.bit w))

/-- The turn of a split: a parked one waits, a group that has parked at its region's end enters the next region, a split at
a clause boundary starts its clause (06 R199, R202; 01 R23). -/
def turnC (s : State) (g : Group) (k : Nat) : State × Turning :=
  match g.cs.sp k with
  | none => (s, .idle)
  | some p =>
    match p.st with
    | .parkedJoin => (s, .idle)
    | .parkedEnd => (s, if g.halts || (g.q.clq.isEmpty && g.firstToken.isNone) then .idle else .runs .regionEntry)
    | .running =>
      if p.cmp ∨ (p.slot = 0 ∧ g.halts) then (s, .idle)
      else if p.slot = 0 then (s, .runs .clauseStart)
      else withinClause s g k p

/-- What a turn runs. -/
def turnOf (s : State) (w : What) : State × Turning :=
  match w with
  | .ev i => (s, if Instr.isEvent i then .runs i else .idle)
  | .a =>
    match s.grp? with
    | some g => if g.aRuns && s.issues g then fetchA s g else (s, .idle)
    | none => (s, .idle)
  | .c =>
    match s.grp? with
    | some g => if g.cRuns && s.issues g then turnC s g s.cur.split else (s, .idle)
    | none => (s, .idle)

/-- The groups that are ready with a group in a clk, in its slot and of its partition: when what a group waits for ends is open, so which
others are ready is a free choice (11 R316, R320; notes/assumptions/1.md). -/
def State.readyWith (s : State) (gid n : Nat) (runs : Group → Bool) : Tbl Group :=
  match s.groups.get? gid with
  | none => []
  | some g => s.groups.filter fun e => e.1 == gid ||
      (e.2.who.core == g.who.core && e.2.who.slot == g.who.slot && (s.lau e.2).qd.part == (s.lau g).qd.part && runs e.2 &&
        Config.freeSet n e.1)

/-- The next turn: the agenda's first, or a free one when the agenda is empty, which goes to the group that its slot picks among the ready
ones (11 R320; notes/assumptions/1.md). -/
def State.nextTurn (s : State) : Turn × State :=
  match s.agenda with
  | t :: r => (t, { s with agenda := r })
  | [] =>
    let f := Config.freeTurn s.fresh
    let stream := fun (w : What) (runs : Group → Bool) =>
      ({ adv := f.2.2.2.1, gid := (s.pick (s.readyWith f.2.1 s.fresh runs)).getD f.2.1, split := f.2.2.1, what := w } : Turn)
    (match f.2.2.2.2 with
      | some i => { adv := f.2.2.2.1, gid := f.2.1, split := f.2.2.1, what := .ev i }
      | none => if f.1 then stream .a Group.aRuns else stream .c Group.cRuns, { s with fresh := s.fresh + 1 })

/-- The machine at the beginning of a turn: its time has passed and its group and split are current. -/
def State.begin (s : State) (t : Turn) : State :=
  { s with tick := s.tick + t.adv, cur := { gid := t.gid, split := t.split, mode := 0 } }

/-- Why the machine runs no more, if it does not: nothing but a reset ends that (15 R384, R385). -/
def State.haltedAt (s : State) (w : What) : Option Fault :=
  if w = .ev .deviceReset then none
  else if s.rely.stopped then some .thermallyStopped
  else if s.regs.boot ≠ 6 ∧ 16 ≤ s.regs.boot then some .bootHalted
  else none

end Sys2Proof.Machine
end

