-- ==== Sys2Proof/Machine/Splits.lean ====
section
/-! DEFINITION. Splits, division tags and reconvergence stacks (06 R196-R205), as functions of the C side alone, so that the
shadow follows the leader through the same functions (08 R266). -/

namespace Sys2Proof.Machine

/-- The base of a division tag: the stack depth at the division; 0 for the region itself (06 R198). -/
def CSide.base (c : CSide) (tag : Nat) : Nat := if tag = 0 then 0 else ((c.tags.get? tag).map (·.base)).getD 0

/-- The tag that encloses a tag. -/
def CSide.encl (c : CSide) (tag : Nat) : Nat := ((c.tags.get? tag).map (·.encl)).getD 0

/-- A split that goes on at a header. -/
def Split.goto (p : Split) (t : Nat) : Split :=
  { p with idx := t % 2 ^ 22, slot := 0, held := [], blk := none, owed := 0, noWait := false, dropN := none }

/-- The word after a split's clause (06 R196). -/
def Split.fall (p : Split) : Nat := (p.hdr + p.cnt + 1) % 2 ^ 22

/-- The tags of the chain of a tag: itself and those that enclose it. -/
def CSide.chain (c : CSide) : Nat → Nat → List Nat
  | 0, _ => []
  | n + 1, tag => if tag = 0 then [] else tag :: c.chain n (c.encl tag)

/-- The records that no split passes through any more are free (06 R200). DESIGN CHOICE: so is the record of a split that resumed
alone once the side it waited for can arrive no more, and the record of two splits that fuse stays while a third split's divisions pass
through it (notes/assumptions/74.md). -/
def CSide.tidy (c : CSide) : CSide :=
  let used := (c.splits.map fun e => if e.2.st = .parkedEnd then [] else c.chain 8 e.2.tag).flatten
  { c with tags := c.tags.filter fun t => used.contains t.1 }

/-- The lowest free number of a range. -/
def freeKey {α : Type} (t : Tbl α) (lo n : Nat) : Option Nat :=
  ((List.range n).map fun j => lo + j).find? fun k => (t.get? k).isNone

/-- A pop of the stack by a JOIN or RETC (06 R197, R199). -/
def CSide.popJoin (c : CSide) (k : Nat) (p : Split) : CSide :=
  match p.stack with
  | (j, m) :: r => c.setSp k { p.goto j with stack := r, act := m &&& p.own }
  | [] => c

/-- BRD (06 R197, R198): divides the split where it may, otherwise uses the stack. -/
def CSide.brd (c : CSide) (k : Nat) (gm : Mask) (join target : Nat) (stackMode : Bool) : CSide :=
  match c.sp k with
  | none => c
  | some p =>
    let t := p.act &&& gm
    let f := p.act &&& ~~~gm
    let divide := if stackMode ∨ t = 0 ∨ f = 0 then none
      else match freeKey c.splits 0 4, freeKey c.tags 1 7 with
        | some k', some tag => some (k', tag)
        | _, _ => none
    match divide with
    | some (k', tag) =>
      let own := f ||| (p.own &&& ~~~p.act)
      let clip := fun (m : Mask) => p.stack.map fun e => (e.1, e.2 &&& m)
      let stay := { p.goto p.fall with tag, act := f, own, stack := clip own }
      let go := { p.goto target with tag, act := t, own := t, stack := clip t, parent := k }
      { (c.setSp k stay).setSp k' go with tags := c.tags.set tag { join, encl := p.tag, base := p.stack.length, alone := false } }
    | none =>
      let st := (join, p.act) :: p.stack
      c.setSp k (if t = 0 then { p.goto p.fall with stack := st }
        else if f = 0 then { p.goto target with stack := st }
        else { p.goto target with stack := (p.fall, f) :: st, act := t })

/-- JOIN (06 R199): none where the depth is at the base of tag 0. -/
def CSide.join (c : CSide) (k : Nat) : Option CSide :=
  match c.sp k with
  | none => some c
  | some p =>
    if c.base p.tag < p.stack.length then some (c.popJoin k p)
    else if p.tag ≠ 0 then
      some (c.setSp k (p.goto (((c.tags.get? p.tag).map (·.join)).getD 0)))
    else none

/-- RETC (06 R203): none where the depth is at the base of the split's tag. -/
def CSide.retc (c : CSide) (k : Nat) : Option CSide :=
  match c.sp k with
  | none => some c
  | some p => if c.base p.tag < p.stack.length then some (c.popJoin k p) else none

/-- The tag of a split whose stack has fallen to a depth: it has left the divisions whose base lies above (06 R202). -/
def CSide.leave (c : CSide) : Nat → Nat → Nat → Nat
  | 0, tag, _ => tag
  | n + 1, tag, depth => if tag ≠ 0 ∧ depth < c.base tag then c.leave n (c.encl tag) depth else tag

/-- Pop entries until one has a lane: that entry, the rest of the stack and the tag left with (06 R202). -/
def CSide.popEnd (c : CSide) : List (Nat × Mask) → Nat → Option (Nat × Mask × List (Nat × Mask) × Nat)
  | [], _ => none
  | (j, m) :: r, tag =>
    let tag := c.leave 8 tag r.length
    if m = 0 then c.popEnd r tag else some (j, m, r, tag)

/-- When every split has parked at its end or ended, one split remains, with the lanes that have not exited (06 R202); the
C side and whether the region has ended. A C side without such lanes has no split left (01 R45). -/
def CSide.closeRegion (c : CSide) : CSide × Bool :=
  if c.splits.all fun e => e.2.st == .parkedEnd then
    ({ c with splits := if c.alive = 0 then [] else [(0, Split.fresh 0 c.alive .parkedEnd)], tags := [] }, true)
  else (c.tidy, false)

/-- ENDC (06 R202), before the check that closes the region. -/
def CSide.endc (c : CSide) (k : Nat) : CSide :=
  match c.sp k with
  | none => c
  | some p =>
    let stack := p.stack.map fun e => (e.1, e.2 &&& ~~~p.act)
    match c.popEnd stack p.tag with
    | some (j, m, r, tag) => c.setSp k { p.goto j with stack := r, act := m &&& p.own, tag }
    | none => c.setSp k { p.goto p.idx with stack := [], st := .parkedEnd, tag := 0 }

/-- KILL (06 R204): lanes exit, and a split that owns none any more ends. -/
def CSide.kill (c : CSide) (k : Nat) (m : Mask) : CSide :=
  let c := { c with exited := c.exited ||| m }
  match c.sp k with
  | none => c
  | some p =>
    let p := { p with own := p.own &&& ~~~m, act := p.act &&& ~~~m, stack := p.stack.map fun e => (e.1, e.2 &&& ~~~m) }
    if p.own = 0 then { c with splits := c.splits.del k } else c.setSp k p

/-- CALLC (06 R203). -/
def CSide.callc (c : CSide) (k target : Nat) : CSide :=
  c.updSp k fun p => { p.goto target with stack := (p.fall, p.act) :: p.stack }

/-- JMP (06 R203). -/
def CSide.jmp (c : CSide) (k target : Nat) : CSide := c.updSp k fun p => p.goto target

/-! ## Parking and fusion -/

/-- The or of two stacks, entry by entry (06 R200), counted from the bottom: an entry that one of them alone has stays as it
is (notes/assumptions/40.md). Both are written bottom first. -/
def orUp : List (Nat × Mask) → List (Nat × Mask) → List (Nat × Mask)
  | [], b => b
  | a, [] => a
  | e :: a, f :: b => (e.1, e.2 ||| f.2) :: orUp a b

/-- The or of two stacks whose tops come first. -/
def orStack (a b : List (Nat × Mask)) : List (Nat × Mask) := (orUp a.reverse b.reverse).reverse

/-- Two splits become one, with the smaller id (06 R200, R201). -/
def CSide.fuse (c : CSide) (k j : Nat) (p q : Split) (tag : Nat) : CSide :=
  let r := { p with own := p.own ||| q.own, act := p.act ||| q.act, stack := orStack p.stack q.stack, tag, st := .running,
                    blk := none, held := [], parent := if k < j then p.parent else q.parent }
  { c with splits := (c.splits.del (max k j)).set (min k j) r }

/-- Whether a split that is about to start a header parks there (06 R199): the header is a join point and the join of the
split's record, whose other side has not gone on alone. -/
def CSide.parksAt (c : CSide) (p : Split) (joinpt : Bool) : Option TagRec :=
  if !joinpt ∨ p.tag = 0 then none else (c.tags.get? p.tag).filter fun t => t.join == p.idx

/-- Whether a split other than `k` still passes through a tag and can arrive (06 R200). -/
def CSide.sideLeft (c : CSide) (k tag : Nat) : Bool :=
  c.splits.any fun e => e.1 != k && e.2.st != .parkedEnd && (c.chain 8 e.2.tag).contains tag

/-- A parked split resumes alone (06 R200). -/
def CSide.resume (c : CSide) (k : Nat) : CSide :=
  match c.sp k with
  | none => c
  | some p =>
    let tags := c.tags.upd p.tag fun t => { t with alone := true }
    ({ c with tags }.setSp k { p with st := .running, tag := c.encl p.tag, blk := none }).tidy

/-- What becomes of a split that is about to start a header: it parks, fuses with its parked partner, passes a join that the
other side has left alone, or fuses with a split that starts the same header (06 R199-R201). The answer says whether the
split goes on to start the clause. -/
def CSide.arrive (c : CSide) (k : Nat) (joinpt : Bool) : CSide × Option Nat :=
  match c.sp k with
  | none => (c, none)
  | some p =>
    match c.parksAt p joinpt with
    | some t =>
      if t.alone then ((c.setSp k { p with tag := t.encl }).tidy, some k)
      else
        match c.splits.find? fun e => e.1 != k && e.2.st == .parkedJoin && e.2.tag == p.tag && e.2.idx == p.idx with
        | some (j, q) => ((c.fuse k j p q t.encl).tidy, some (min k j))
        | none =>
          if c.sideLeft k p.tag then (c.setSp k { p with st := .parkedJoin, blk := none }, none)
          else ((c.setSp k { p with tag := t.encl }).tidy, some k)
    | none => (c, some k)

/-- The split with which one that is about to start a header fuses (06 R201): same header, tag, and stack indices. -/
def CSide.meets (c : CSide) (k : Nat) (p : Split) : Option (Nat × Split) :=
  c.splits.find? fun e => e.1 != k && e.2.st == .running && e.2.slot == 0 && e.2.idx == p.idx && e.2.tag == p.tag &&
    (e.2.stack.map Prod.fst == p.stack.map Prod.fst)

/-! ## Spills -/

/-- Stack entries beyond the hardware's 32 that a new C side holds and the old one did not: split, place from the bottom, entry
(01 R32). -/
def spills (old new : CSide) : List (Nat × Nat × (Nat × Mask)) :=
  let st := fun (k : Nat) => ((old.sp k).map (·.stack.reverse)).getD []
  (new.splits.map fun e => (e.2.stack.reverse.zipIdx.filterMap fun x =>
    if 32 ≤ x.2 ∧ (st e.1)[x.2]? ≠ some x.1 then some (e.1, x.2, x.1) else none)).flatten

/-- Cause group 15 for a spill (code 1) or a fill (2) of a split that cannot reach the save slot (01 R32; 08 R254). -/
def spillCause (code k : Nat) : AFault → Except Fault Cause
  | .cause grp .. => .ok (Cause.mk' 15 code (k + 256 * grp))
  | .window .. => .ok (Cause.mk' 15 code (k + 256 * 4))
  | .hole a => .error (Fault.noSuchAddress a)

/-- Whether a spilled entry lies past what the group's slot has for spills (08 R260; 12 R331). -/
def State.pastSlot (s : State) (g : Group) (k e : Nat) : Bool :=
  let room := 65536 * (s.lau g).qd.slot64 - (if g.session.isSome then 49408 else 0)
  decide (g.slotBase + room < stackVa g (s.pk g).vregs k e + 16)

/-- Spill to the save slot what a change of the C side adds beyond 32 entries; the failure, if any (01 R32, 06 R205). -/
def stackIo (s : State) (g : Group) (new : CSide) : State × Option (Except Fault Cause) :=
  (spills g.cs new).foldl (fun (acc : State × Option (Except Fault Cause)) x =>
    match acc.2 with
    | some _ => acc
    | none =>
      if s.pastSlot g x.1 x.2.1 then (acc.1, some (.ok (Cause.mk' 15 1 x.1)))
      else match acc.1.writeVaBlk (s.lau g).qd.vf true (some (s.user g)) (stackVa g (s.pk g).vregs x.1 x.2.1)
          (stackBytes x.2.2) with
        | (t, none) => (t, none)
        | (t, some e) => (t, some (spillCause 1 x.1 e))) (s, none)

/-- A split's stack with its `n` topmost entries as the save slot holds those that are spilled: they are filled back as they are
popped (01 R32). -/
def fillStack (s : State) (g : Group) (k n : Nat) : State × Except (Except Fault Cause) Group :=
  match g.cs.sp k with
  | none => (s, .ok g)
  | some p =>
    let depth := p.stack.length
    let r := (List.range (min n (depth - 32))).foldl (fun (x : State × Except (Except Fault Cause) (List (Nat × Mask))) j =>
      match x with
      | (s, .error e) => (s, .error e)
      | (s, .ok st) =>
        if s.pastSlot g k (depth - 1 - j) then (s, .error (.ok (Cause.mk' 15 2 k)))
        else match s.readVa (s.lau g).qd.vf true (stackVa g (s.pk g).vregs k (depth - 1 - j)) 16 (some (s.user g)) with
          | (s, .ok b) => (s, .ok (setAt st j (stackEntry b)))
          | (s, .error e) => (s, .error (spillCause 2 k e))) (s, .ok p.stack)
    match r with
    | (s, .ok st) => (s, .ok { g with cs := g.cs.updSp k fun p => { p with stack := st } })
    | (s, .error e) => (s, .error e)

/-- The trap of a fault token that no C instruction meets (08 R250, R402): the C-side bit is clear. -/
def bareToken (s : State) (g : Group) (c : Cause) (op : Nat) : State :=
  let i := match g.mu.find? fun o => o.id == op with
    | some o => o.instr
    | none => match g.stop with
      | .token i => i
      | _ => .nop
  raise (s.setG g.who.gid (g.endHeld op c)) g.who.gid { aPending g i c with fpc := g.tokenPc op }

/-- What follows when a group's C-stream has ended (08 R402): regions and entries are discarded, a pending token is taken. -/
def endCStream (s : State) (g : Group) : State :=
  let tok := g.firstToken
  let g' := { g with cEnded := true, ended := g.pushed, lastQ := s.tick,
                     q := { g.q with clq := [], svq := [], ldq := [[], [], [], []] } }
  match tok with
  | some (c, op) => bareToken (s.setG g.who.gid g') g' c op
  | none => s.setG g.who.gid g'

/-- The group after its C side has changed: a region may have ended, or the C-stream; a split that parks at its end waits from now
on (08 R248); a new split has still to wait for what its parent has (05 R154). -/
def afterFlow (s : State) (g : Group) (c : CSide) : State :=
  let r := c.closeRegion
  let since := fun (k : Nat) (p : Split) =>
    if p.st == .parkedEnd && (r.2 || (g.cs.sp k).all fun q => q.st != .parkedEnd) then { p with since := s.tick } else p
  let born := (c.splits.filter fun e => (g.cs.sp e.1).isNone).map fun e =>
    (g.unwaited.filter fun u => u.1 == e.2.parent).map fun (u : Nat × Nat × Nat) => (e.1, u.2)
  let owed := g.unwaited ++ born.flatten
  let g := { g with cs := { r.1 with splits := r.1.splits.mapV since },
                    unwaited := if r.2 then owed.map fun (u : Nat × Nat × Nat) => (0, u.2) else owed }
  if r.1.alive = 0 then endCStream s g
  else s.setG g.who.gid (if r.2 then { g with ended := g.ended + 1 } else g)

/-- What follows when a return from a trap has left splits without lanes, since a KILL in the handler ended them: the region that they were
in may have ended, or the C-stream (01 R45; 06 R202, R204). -/
def State.afterReturn (s : State) (gid : Nat) : State :=
  match s.groups.get? gid with
  | none => s
  | some h =>
    if h.cs.alive = 0 || ((h.cs.splits.all fun e => e.2.st == .parkedEnd) && decide (h.q.clq.length < h.pushed)) then
      let sh := h.shadow.map fun x => { x with cs := { h.cs.closeRegion.1 with stuck := x.cs.stuck } }
      afterFlow s { h with shadow := sh } h.cs
    else s

/-- The trap of a lane operation that has stopped at a fault, taken by a split at a flag wait: the frame names the wait's place,
the faulting instruction and its word (07 R215, R216; 17 R388). -/
def laneFaultAt (s : State) (g : Group) (k : Nat) (names : Nat → Bool) : Option State :=
  match g.lane.find? fun o => !o.faults.isEmpty && !o.done && names o.flag with
  | none => none
  | some o =>
    let c := o.report.getD (Cause.mk' 0 0)
    let w := (encodeC o.instr).getD 0
    let g := { g with lane := g.lane.map fun (x : LaneOp) => if x.id = o.id then { x with done := true } else x }
    some (raise (s.setG g.who.gid g) g.who.gid { cPending g k w c with fpc := o.cpc })

end Sys2Proof.Machine
end

