-- ==== Sys2Proof/Machine/ConvC.lean ====
section
/-! DEFINITION. Conversions and residue arithmetic of the C-stream (05 R170-R174; 03 R96-R99). -/

namespace Sys2Proof.Machine

/-- The floating-point format of a type code of R170. -/
def tyFmt (t : Nat) : Fmt :=
  match t with
  | 0 => f32
  | 1 => f16
  | 2 => bf16
  | 3 => f19
  | 4 => f12
  | 5 => f8a
  | 6 => f8b
  | 7 => f8c
  | 8 => f6a
  | 9 => f6b
  | _ => f4

/-- Width in bits of a type code of R170. -/
def tyWidth (t : Nat) : Nat := [32, 16, 16, 19, 12, 8, 8, 8, 6, 6, 4, 32, 32, 16, 16, 8, 8].getD t 32

/-- Whether an integer type code is signed: I32, I16, I8. -/
def tySigned (t : Nat) : Bool := t % 2 == 1

/-- How an inline integer reaches a source of a type (05 R152). -/
def tyOp (t : BitVec 5) : OpTy :=
  match t.toNat with
  | 0 => .f32
  | 1 => .half false
  | 2 => .half true
  | _ => .int

/-- The value of the low bits of a word as an integer of a type. -/
def tyInt' (t : Nat) (x : Nat) : Int :=
  let w := tyWidth t
  let p := x % 2 ^ w
  if tySigned t && decide (2 ^ (w - 1) ≤ p) then (p : Int) - 2 ^ w else p

/-- The range of an integer type. -/
def tyRange (t : Nat) : Int × Int :=
  let w := tyWidth t
  if tySigned t then (-2 ^ (w - 1), 2 ^ (w - 1) - 1) else (0, 2 ^ w - 1)

/-- A source pattern of a type: F19 stands in bits 31-13 of its container (03 R85). -/
def tyPattern (t : Nat) (w : Word) : Nat := if t = 3 then w.toNat / 2 ^ 13 else w.toNat % 2 ^ tyWidth t

/-- One element converted (03 R96, 05 R171): its pattern (an integer as the value modulo 2^32), flags and counts. -/
def convert (dt st : Nat) (rm : RM) (sat ftz : Bool) (w : Word) : Nat × Fl × List Nat :=
  let x := tyPattern st w
  let cls := if dt = 0 then 0 else 4
  let counted := fun (ins : List FVal) (r : Nat × Fl) =>
    let e := fres (tyFmt dt) ins r.1 r.2
    (e.bits, e.fl, e.events.map fun n => cls + n)
  if dt ≤ 10 then
    if st ≤ 10 then
      let v := (tyFmt st).valZ ftz x
      counted [v] (fToF (tyFmt dt) rm ftz v)
    else counted [] (intToF (tyFmt dt) rm ftz (tyInt' st x))
  else
    let rg := tyRange dt
    if st ≤ 10 then
      let r := fToInt rm ((tyFmt st).valZ ftz x) rg.1 rg.2
      ((BitVec.ofInt 32 r.1).toNat, r.2, [])
    else
      let n := tyInt' st x
      let n := if sat then max rg.1 (min rg.2 n) else tyInt' dt (n % 2 ^ 32).toNat
      ((BitVec.ofInt 32 n).toNat, 0, [])

/-- CVT (05 R170, R171). -/
def execCvt (dt : BitVec 5) (rm : BitVec 2) (sat ftz : BitVec 1) (st : BitVec 5) (d : Dst) (a : Src) (x : Ctl)
    (s : State) : Out :=
  cLanes (.cvt dt rm sat ftz st d a x) d [(tyOp st, a)] (fun _ v =>
    let r := convert dt.toNat st.toNat (.of rm) (sat == 1) (ftz == 1) (v.getD 0 0)
    { w := BitVec.ofNat 32 (if dt = 3 then r.1 * 2 ^ 13 else r.1), fl := r.2.1, ev := r.2.2 }) s

/-- Bits from one packed element to the next (05 R172). -/
def packStep (t : Nat) : Nat := if tyWidth t = 12 then 16 else tyWidth t

/-- PACK (05 R172). -/
def execPack (dt : BitVec 5) (rm : BitVec 2) (sat ftz : BitVec 1) (st : BitVec 5) (d : Dst) (a b c e : Src) (x : Ctl)
    (s : State) : Out :=
  cLanes (.pack dt rm sat ftz st d a b c e x) d
    ((if packCount dt = 2 then [a, b] else [a, b, c, e]).map fun y => (tyOp st, y)) (fun _ v =>
      let t := dt.toNat
      let rs := v.map (convert t st.toNat (.of rm) (sat == 1) (ftz == 1))
      { w := BitVec.ofNat 32 ((rs.zipIdx.map fun r => r.1.1 % 2 ^ tyWidth t * 2 ^ (packStep t * r.2)).sum),
        fl := rs.foldl (fun f r => f ||| r.2.1) 0, ev := (rs.map fun r => r.2.2).flatten }) s

/-- UNPK (05 R173): element `j` widened exactly. -/
def execUnpk (st : BitVec 5) (j : BitVec 3) (d : Dst) (a : Src) (x : Ctl) (s : State) : Out :=
  cLanes (.unpk st j d a x) d [(tyOp st, a)] (fun _ v =>
    let t := st.toNat
    let p := (v.getD 0 0).toNat / 2 ^ (packStep t * j.toNat) % 2 ^ tyWidth t
    if t ≤ 10 then
      let r := fToF f32 .rn false ((tyFmt t).val p)
      { w := BitVec.ofNat 32 r.1, fl := r.2 }
    else .pure (BitVec.ofInt 32 (tyInt' t p))) s

/-- The residues of an RN24 container, each reduced (03 R97, R99). -/
def rn24 (w : Word) : Nat × Nat × Nat :=
  (w.toNat % 256, w.toNat / 256 % 256 % 255, w.toNat / 65536 % 256 % 253)

/-- An RN24 container from its residues. -/
def rn24Word (r : Nat × Nat × Nat) : Word := BitVec.ofNat 32 (r.1 + 256 * r.2.1 + 65536 * r.2.2)

/-- An integer in RN24 (03 R99). -/
def rn24Enc (x : Int) : Word := rn24Word ((x % 256).toNat, (x % 255).toNat, (x % 253).toNat)

/-- RN24 decoded by mixed radix digits (03 R99). -/
def rn24Dec (sgn : Bool) (w : Word) : Int :=
  let (p1, p2, p3) := rn24 w
  let a1 : Int := p1
  let a2 : Int := ((p2 : Int) - a1) * 1 % 255
  let a3 : Int := (((p3 : Int) - a1) * 169 - a2) * 127 % 253
  let x := a1 + 256 * a2 + 65280 * a3
  if sgn && decide (8257920 ≤ x) then x - 16515840 else x

/-- RNENC (05 R174). -/
def execRnenc (u : BitVec 1) (d : Dst) (a : Src) (x : Ctl) (s : State) : Out :=
  intOp (.rnenc u d a x) d [a] (fun v => rn24Enc (ival (u == 1) (arg v 0))) s

/-- RNDEC (05 R174). -/
def execRndec (u : BitVec 1) (d : Dst) (a : Src) (x : Ctl) (s : State) : Out :=
  intOp (.rndec u d a x) d [a] (fun v => BitVec.ofInt 32 (rn24Dec (u == 0) (arg v 0))) s

/-- RNMAD (05 R174): a·b + c in each channel. -/
def execRnmad (d : Dst) (a b c : Src) (x : Ctl) (s : State) : Out :=
  intOp (.rnmad d a b c x) d [a, b, c] (fun v =>
    let p := rn24 (arg v 0)
    let q := rn24 (arg v 1)
    let r := rn24 (arg v 2)
    rn24Word ((p.1 * q.1 + r.1) % 256, (p.2.1 * q.2.1 + r.2.1) % 255, (p.2.2 * q.2.2 + r.2.2) % 253)) s

end Sys2Proof.Machine
end

