-- ==== Sys2Proof/Machine/Tensor.lean ====
section
/-! DEFINITION. Tensor records in use: the places of their elements (04 R139; 03 R84, R85) and the accesses of the engines. -/

namespace Sys2Proof.Machine

/-- Use a T record at issue (01 R24): an interlock while it loads, cause group 8 when it is invalid. -/
def withT (g : Group) (s : State) (n : Nat) (f : Ten → Res) : Res :=
  let r := g.rt n
  if r.busy ≠ 0 then .wait .other s
  else match r.ten? with
    | none => .trap (Cause.mk' 8 1) s
    | some t => f t

/-- Whether coordinates lie in a tensor's extents. -/
def Ten.inside (t : Ten) (cs : List Int) : Bool :=
  ((List.range t.ndim).all fun d => decide (0 ≤ cs.getD d 0) && decide (cs.getD d 0 < ((t.dims.getD d ⟨0, 0, 0⟩).ext : Int)))

/-- The first dimension in which coordinates lie outside, with the coordinate. -/
def Ten.outAt (t : Ten) (cs : List Int) : Nat × Int :=
  match (List.range t.ndim).find? fun d =>
      !(decide (0 ≤ cs.getD d 0) && decide (cs.getD d 0 < ((t.dims.getD d ⟨0, 0, 0⟩).ext : Int))) with
  | some d => (d, cs.getD d 0)
  | none => (0, 0)

/-- The byte address of an element and its first bit there (04 R139, 03 R85). -/
def Ten.addr (t : Ten) (cs : List Int) : Nat × Nat :=
  let e : Int := (List.range t.ndim).foldl (fun (a : Int) d => a + cs.getD d 0 * (t.dims.getD d ⟨0, 0, 0⟩).str) 0
  let bit : Int := e * (fmtBits t.fmt : Int)
  ((((t.base : Int) + bit / 8) % (2 ^ 64 : Int)).toNat, (bit % 8).toNat)

/-- The bytes that an element touches. -/
def Ten.span (t : Ten) (bit : Nat) : Nat := (bit + fmtBits t.fmt + 7) / 8

/-- One engine access of `n` bytes at an address of a level, split at page ends: its places (10 R292, 04 R116), under a record's L2 class
(R128). -/
def engPlaces (s : State) (g : Group) (engine acc level va n : Nat) (cls : Nat := 3) : State × Except AFault (List (Loc × Nat)) :=
  let ag : Agent := { code := 3, engine }
  (pagePieces va 2 n).foldl (fun x p =>
    match x with
    | (s, .error e) => (s, .error e)
    | (s, .ok ls) =>
      match levelAt s g ag acc level 0 p.1 p.2 with
      | (s, .ok l) => (s, .ok (ls ++ [(l.under cls, p.2)]))
      | (s, .error e) => (s, .error e)) (s, .ok [])

/-- Bytes at a list of places, as an agent of a core reads them. -/
def readPlaces (s : State) (u : User) (ls : List (Loc × Nat)) : State × List Byte :=
  ls.foldl (fun (x : State × List Byte) p =>
    let r := x.1.readPast u p.1 p.2
    (r.1, x.2 ++ r.2)) (s, [])

/-- Read `n` bytes for an engine, as a user of memory: the group, or its operation (09 R277). -/
def engRead (s : State) (g : Group) (engine level va n : Nat) (cls : Nat := 3) (u : User := s.user g) :
    State × Except AFault (List Byte) :=
  match engPlaces s g engine 0 level va n cls with
  | (s, .ok ls) =>
    let r := readPlaces s u ls
    (r.1, .ok r.2)
  | (s, .error e) => (s, .error e)

/-- Write bytes at a list of places, for an engine of a core (09 R275, R286). -/
def writePlaces (s : State) (u : User) (ls : List (Loc × Nat)) (bs : List Byte) : State :=
  (ls.foldl (fun (x : State × List Byte) p => (x.1.engineWrite u p.1 (x.2.take p.2), x.2.drop p.2)) (s, bs)).1

/-- Write bytes for an engine; nothing is written where a page fails. -/
def engWrite (s : State) (g : Group) (engine level va : Nat) (bs : List Byte) (cls : Nat := 3) (u : User := s.user g) :
    State × Option AFault :=
  match engPlaces s g engine 1 level va bs.length cls with
  | (s, .ok ls) => (writePlaces s u ls bs, none)
  | (s, .error e) => (s, some e)

/-- Read an element: its raw bits. -/
def tenRead (s : State) (g : Group) (engine : Nat) (t : Ten) (cs : List Int) (u : User := s.user g) : State × Except AFault Nat :=
  let (va, bit) := t.addr cs
  match engRead s g engine t.level va (t.span bit) t.l2cls u with
  | (s, .ok bs) => (s, .ok (leNat bs / 2 ^ bit % 2 ^ fmtBits t.fmt))
  | (s, .error e) => (s, .error e)

/-- Write an element's raw bits, leaving the other bits of its bytes. -/
def tenWrite (s : State) (g : Group) (engine : Nat) (t : Ten) (cs : List Int) (v : Nat) (u : User := s.user g) :
    State × Option AFault :=
  let (va, bit) := t.addr cs
  let n := t.span bit
  let w := fmtBits t.fmt
  if bit = 0 ∧ w % 8 = 0 then engWrite s g engine t.level va (natLe n v) t.l2cls u
  else
    match engPlaces s g engine 1 t.level va n t.l2cls with
    | (s, .error e) => (s, some e)
    | (s, .ok ls) =>
      let old := leNat (ls.map fun p => (s.memOf p.1.space).bytes p.1.key p.2).flatten
      let new := old - old / 2 ^ bit % 2 ^ w * 2 ^ bit + v % 2 ^ w * 2 ^ bit
      (writePlaces s u ls (natLe n new), none)

/-- The lines that an element's bytes lie on, found without changing anything: what ownership is taken of at issue (09 R286). -/
def tenLines (s : State) (g : Group) (t : Ten) (cs : List Int) : List Loc :=
  let (va, bit) := t.addr cs
  let n := t.span bit
  ((pagePieces va 2 n).map fun p =>
    match (levelAt s g { code := 3 } 1 t.level 0 p.1 p.2).2 with
    | .ok l => (List.range (((l.addr % 64) + p.2 + 63) / 64)).map fun i => (l.line.add (64 * i))
    | .error _ => []).flatten

/-- The `i`-th offset of a box. -/
def boxAt : List Nat → Nat → List Int
  | [], _ => []
  | n :: r, i => (((i % n : Nat) : Int)) :: boxAt r (i / n)

/-- The number of offsets of a box. -/
def boxCount (ns : List Nat) : Nat := ns.foldl (· * ·) 1

/-- The box of a record. -/
def Ten.box (t : Ten) : List Nat := (List.range t.ndim).map fun d => (t.dims.getD d ⟨0, 0, 0⟩).box

/-- Sum of coordinates. -/
def addC (a b : List Int) : List Int := (a.zip b).map fun p => p.1 + p.2

/-- What an element out of bounds reads as: zero or the pad value (04 R139). -/
def Ten.pad (t : Ten) : Nat := if t.padm = 1 then t.padv % 2 ^ min 32 (fmtBits t.fmt) else 0

end Sys2Proof.Machine
end

