-- ==== Sys2Proof/Machine/MatrixNum.lean ====
section
/-! DEFINITION. The arithmetic of the matrix engine (03 R84-R87, R97-R107; 07 R219, R220, R229): elements, step sums in
residues with their check, floating-point blocks, epilogues and output conversions. -/

namespace Sys2Proof.Machine

/-- Whether an A format works in narrow mode (03 R84, 07 R219). -/
def mxNarrow (f : Nat) : Bool := decide (f ≤ 5) || (decide (13 ≤ f) && decide (f ≤ 20)) || f == 22 || f == 23

/-- Whether the tile of an A format is F32 (07 R219). -/
def tileF32 (f : Nat) : Bool := (decide (9 ≤ f) && f != 20 && f != 21 && f != 11)

/-- Whether a format is a block format. -/
def isBq (f : Nat) : Bool := f == 22 || f == 23

/-- K rows of a step, and of a quarter. -/
def slabOf (fa : Nat) : Nat := if mxNarrow fa then 128 else 32

/-- The floating-point format of an element code. -/
def elemFmt (f : Nat) : Fmt :=
  match f with
  | 9 => f16
  | 10 => bf16
  | 12 => f19
  | 13 => f8a
  | 14 => f8b
  | 15 => f8c
  | 16 => f6a
  | 17 => f6b
  | 18 => f4
  | 19 => f12
  | _ => f32

/-- The low `w` bits of a number as a two's complement integer. -/
def signedBits (w x : Nat) : Int :=
  let p := x % 2 ^ w
  if 2 ^ (w - 1) ≤ p then (p : Int) - 2 ^ w else p

/-- Moduli of the three channels, and of the check channel (03 R97, R98, R100). -/
def moduli (nar : Bool) : Int × Int × Int := if nar then (256, 255, 253) else (65536, 65535, 65533)

/-- The check modulus. -/
def checkMod (nar : Bool) : Int := if nar then 251 else 65521

/-- Decode three residues (03 R99). -/
def mixed (nar uns : Bool) (p1 p2 p3 : Int) : Int :=
  let (m1, m2, m3) := moduli nar
  let c13 : Int := if nar then 169 else 43689
  let c23 : Int := if nar then 127 else 32767
  let a1 := p1 % m1
  let a2 := (p2 - a1) % m2
  let a3 := ((p3 - a1) * c13 - a2) * c23 % m3
  let x := a1 + m1 * a2 + m1 * m2 * a3
  if !uns && decide (m1 * m2 * m3 ≤ 2 * x) then x - m1 * m2 * m3 else x

/-- The value of an RN48 container, signed (03 R98, R99). -/
def rn48Dec (x : Nat) : Int :=
  mixed false false (x % 65536 : Nat) (x / 65536 % 65536 : Nat) (x / 2 ^ 32 % 65536 : Nat)

/-- An integer in RN48 (03 R98, R99). -/
def rn48Enc (x : Int) : Nat := (x % 65536).toNat + 65536 * (x % 65535).toNat + 2 ^ 32 * (x % 65533).toNat

/-- The integer value of an element (03 R84, R102). -/
def elemInt (f x : Nat) : Int :=
  match f with
  | 0 => signedBits 8 x
  | 1 => (x % 256 : Nat)
  | 2 => signedBits 4 x
  | 3 => (x % 16 : Nat)
  | 4 => signedBits 2 x
  | 5 => if x % 2 = 0 then 1 else -1
  | 6 => signedBits 16 x
  | 7 => (x % 65536 : Nat)
  | 8 => signedBits 32 x
  | 20 => rn24Dec true (BitVec.ofNat 32 x)
  | 21 => rn48Dec x
  | _ => 0

/-- The value of a floating-point element; F12 and F19 stand in containers (03 R85). -/
def elemVal (f x : Nat) : FVal :=
  if f = 12 then f19.val (x / 2 ^ 13 % 2 ^ 19) else (elemFmt f).val (x % 2 ^ (if f = 19 then 12 else fmtBits f))

/-- Half-word `h` of a word. -/
def mxHalf (w : Word) (h : Nat) : Nat := w.toNat / 65536 ^ h % 65536

/-- The raw element in K row `k` of a latched panel, column `n` (07 R220); block formats give their integer. -/
def panelElem (fb : Nat) (panel : List (List Lanes)) (k n : Nat) : Nat :=
  let per := if mxNarrow fb then 32 else 8
  let q := panel.getD (k / per) []
  let r := k % per
  let w := fun (j : Nat) => lane (q.getD j zeroLanes) n
  if fb = 19 then mxHalf (w (r / 2)) (r % 2)
  else if fb = 20 then (w r).toNat
  else if fb = 12 then (w r).toNat
  else if fb = 21 then (w r).toNat + 2 ^ 32 * mxHalf (w (8 + r / 2)) (r % 2)
  else if mxNarrow fb then (w (r / 4)).toNat / 256 ^ (r % 4) % 256
  else mxHalf (w (r / 2)) (r % 2)

/-- The BF16 scale of a B block. -/
def panelScale (panel : List (List Lanes)) (blk n : Nat) : Nat := mxHalf (lane ((panel.getD blk []).getD 8 zeroLanes) n) 0

/-- The integer of element `j` of a block of a block format (03 R87). -/
def bqInt (f x j : Nat) : Int := if f = 22 then signedBits 8 (x / 2 ^ (8 * j)) else signedBits 4 (x / 2 ^ (4 * j))

/-- The scale of a block in memory. -/
def bqScale (f x : Nat) : Nat := x / 2 ^ (if f = 22 then 256 else 128) % 65536

/-- A residue sum decoded and checked (03 R100, R103), with the amounts added to the three channels by an error; none where
the check fails. -/
def checkedSum (nar uns : Bool) (s : Int) (err : Int × Int × Int) : Option Int :=
  let x := mixed nar uns (s + err.1) (s + err.2.1) (s + err.2.2)
  if x % checkMod nar = s % checkMod nar then some x else none

/-- The sum of products, or of squared differences, of two lists (03 R102, 12 R338). -/
def dotSum (dist : Bool) (a b : List Int) : Int :=
  (a.zip b).foldl (fun (t : Int) p => t + (if dist then (p.1 - p.2) * (p.1 - p.2) else p.1 * p.2)) 0

/-- Clamp to the I32 range, with OF (03 R104). -/
def clamp32 (x : Int) : Int × Fl :=
  if x < -2147483648 then (-2147483648, flOF) else if x > 2147483647 then (2147483647, flOF) else (x, 0)

/-- What one element of one step becomes: its tile word, flags and counted events; none where the check fails. -/
abbrev StepRes := Option (Word × Fl × List Nat)

/-- One step of an element of an integer pass (03 R102-R104). -/
def intStep (fa fb : Nat) (dist : Bool) (a b : List Int) (z : Word) (err : Int × Int × Int) : StepRes :=
  let nar := mxNarrow fa
  let unsF := fun (f : Nat) => f == 1 || f == 3 || f == 7
  let uns := dist || (unsF fa && unsF fb)
  let add := fun (r : Int × Fl) (x : Int) =>
    let c := clamp32 (r.1 + x)
    (c.1, r.2 ||| c.2)
  let two := dist && ((fa == 0 && fb == 1) || (fa == 1 && fb == 0))
  let sums := if two then [dotSum true (a.take 64) (b.take 64), dotSum true (a.drop 64) (b.drop 64)] else [dotSum dist a b]
  let xs := sums.zipIdx.map fun p => checkedSum nar uns p.1 (if p.2 = 0 then err else (0, 0, 0))
  if xs.any Option.isNone then none
  else
    let r := (xs.filterMap id).foldl add (z.toInt, 0)
    some (BitVec.ofInt 32 r.1, r.2, [])

/-- A block as the engine aligns it (03 R106): 32 integers and a factor m·2^e with its sign; none where it is not finite. -/
abbrev Block := Option (List Int × FVal)

/-- A floating-point block aligned to its greatest exponent. -/
def alignBlock (l : Nat) (fb : Nat) (vs : List FVal) : Block :=
  if vs.all FVal.isFin then
    let ex := fun (v : FVal) => match v with
      | .num _ _ e => e + fb
      | _ => 0
    let emax := vs.foldl (fun (m : Int) v => if m < ex v then ex v else m) (ex (vs.headD (.num false 0 0)))
    let q := vs.map fun v => match v with
      | .num neg m e =>
        let r := (roundShift .rn neg m (emax - (e + fb) - (l - 1 : Nat) + fb) false).1
        if neg then -(r : Int) else r
      | _ => 0
    some (q, .num false 1 (emax - (l - 1 : Nat)))
  else none

/-- A block of a block format with its scale. -/
def scaledBlock (q : List Int) (scale : Nat) : Block :=
  let v := bf16.val scale
  if v.isFin then some (q, v) else none

/-- One block pair added to the accumulator (03 R106), with its flags and the events of class 2. DESIGN CHOICE: every zero product,
one with a scale of ±0 and a block sum that is not zero too, adds +0 (notes/assumptions/73.md). -/
def blockStep (nar : Bool) (a b : Block) (z : Word) (err : Int × Int × Int) : StepRes :=
  match a, b with
  | some (qa, fa), some (qb, fb) =>
    match checkedSum nar false (dotSum false qa qb) err with
    | none => none
    | some s =>
      let p := ((FVal.num (decide (s < 0)) s.natAbs 0).mul fa).1.mul fb
      let vr : Nat × Fl := match p.1 with
        | .num n m e => if m = 0 then (0, 0) else f32.round .rn false n m e false
        | _ => (0, 0)
      let v := fres f32 [] vr.1 vr.2
      let r := fAdd f32 .rn false z.toNat vr.1
      some (BitVec.ofNat 32 r.bits, v.fl ||| r.fl, (v.events ++ r.events).map (8 + ·))
  | _, _ => some (0x7FC00000, flIV, [])

/-- The blocks of a step one after another; the error, if any, meets the first. -/
def blocksStep (nar : Bool) (ps : List (Block × Block)) (z : Word) (err : Int × Int × Int) : StepRes :=
  (ps.zipIdx.foldl (fun (acc : StepRes) p =>
    acc.bind fun r =>
      (blockStep nar p.1.1 p.1.2 r.1 (if p.2 = 0 then err else (0, 0, 0))).map fun x =>
        (x.1, r.2.1 ||| x.2.1, r.2.2 ++ x.2.2)) (some (z, 0, [])))

/-- The A blocks of a row from its raw elements. -/
def aBlocks (fa : Nat) (raw : List Nat) : List Block :=
  if isBq fa then raw.map fun x => scaledBlock ((List.range 32).map (bqInt fa x)) (bqScale fa x)
  else (List.range (raw.length / 32)).map fun b =>
    alignBlock (if mxNarrow fa then 7 else 15) (elemFmt fa).fb (((raw.drop (32 * b)).take 32).map (elemVal fa))

/-- The B blocks of a column. -/
def bBlocks (fb : Nat) (panel : List (List Lanes)) (n : Nat) : List Block :=
  (List.range (if mxNarrow fb then 4 else 1)).map fun b =>
    let es := (List.range 32).map fun j => panelElem fb panel (32 * b + j) n
    if isBq fb then scaledBlock (es.map fun x => if fb = 22 then signedBits 8 x else signedBits 4 x) (panelScale panel b n)
    else alignBlock (if mxNarrow fb then 7 else 15) (elemFmt fb).fb (es.map (elemVal fb))

/-- The integer of an element that was read, or 0 for one that no memory gives. -/
def elemInt? (f : Nat) (x : Option Nat) : Int := (x.map (elemInt f)).getD 0

/-- One step of a row in every column: the new row with its flags and events; none where a check fails (12 R334). -/
def rowStep (fa fb : Nat) (dist : Bool) (raw : List (Option Nat)) (panel : List (List Lanes)) (z : Lanes)
    (err : Nat → Int × Int × Int) : Option (Lanes × Fl × List Nat) :=
  let cols : List StepRes :=
    if tileF32 fa then
      let ab := aBlocks fa (raw.map fun x => x.getD 0)
      (List.range 96).map fun n => blocksStep (mxNarrow fa) (ab.zip (bBlocks fb panel n)) (lane z n) (err n)
    else
      let a := raw.map (elemInt? fa)
      (List.range 96).map fun n =>
        intStep fa fb dist a ((List.range a.length).map fun k => elemInt fb (panelElem fb panel k n)) (lane z n) (err n)
  if cols.any Option.isNone then none
  else
    let xs := cols.filterMap id
    some (xs.map (·.1), xs.foldl (fun f x => f ||| x.2.1) 0, (xs.map (·.2.2)).flatten)

/-- An element of the output record as accin loads it (07 R229), with its flags. -/
def accinElem (fo : Nat) (raw : Nat) : Word × Fl :=
  let clampI := fun (x : Int) =>
    let c := clamp32 x
    (BitVec.ofInt 32 c.1, c.2)
  if fo = 8 ∨ fo = 20 ∨ fo = 21 then clampI (elemInt fo raw)
  else
    let r := fToF f32 .rn false ((elemFmt fo).val (raw % 2 ^ fmtBits fo))
    (BitVec.ofNat 32 r.1, r.2)

/-- Whether accin may load an output format into a tile (07 R229). -/
def accinOk (fa fo : Nat) : Bool := if tileF32 fa then [11, 9, 10].contains fo else [8, 20, 21].contains fo

/-- The epilogue of an element (07 R229): the binary32 operations of its code, given its column's scale and bias and the
table's lo and hi. -/
def epilogue (epi : Nat) (v scale bias lo hi : Nat) : Nat × Fl × List FVal :=
  let sc := fun (x : Nat × Fl × List FVal) =>
    let r := fMul f32 .rn false x.1 scale
    (r.bits, x.2.1 ||| r.fl, x.2.2 ++ [f32.val scale])
  let bi := fun (x : Nat × Fl × List FVal) =>
    let r := fAdd f32 .rn false x.1 bias
    (r.bits, x.2.1 ||| r.fl, x.2.2 ++ [f32.val bias])
  let re := fun (x : Nat × Fl × List FVal) =>
    let r := fMinMax f32 true false false x.1 0
    (r.bits, x.2.1 ||| r.fl, x.2.2)
  let cl := fun (x : Nat × Fl × List FVal) =>
    let r := fClamp false x.1 lo hi
    (r.bits, x.2.1 ||| r.fl, x.2.2 ++ [f32.val lo, f32.val hi])
  let x : Nat × Fl × List FVal := (v, 0, [f32.val v])
  match epi with
  | 1 => sc x
  | 2 => bi (sc x)
  | 3 => re (bi (sc x))
  | 4 => cl (bi (sc x))
  | 5 => bi x
  | 6 => re (bi x)
  | 7 => re x
  | 8 => cl x
  | _ => x

/-- The range of an integer output format. -/
def outRange (fo : Nat) : Int × Int :=
  match fo with
  | 0 => (-128, 127)
  | 1 => (0, 255)
  | 6 => (-32768, 32767)
  | 20 => (-8257920, 8257919)
  | _ => (-2147483648, 2147483647)

/-- A tile word of an I32 tile converted to an output format (03 R104). -/
def outInt (fo : Nat) (x : Int) : Nat × Fl :=
  let lh := outRange fo
  let c := max lh.1 (min lh.2 x)
  let fl := flIf (c != x) flOF
  match fo with
  | 0 => ((c % 256).toNat, fl)
  | 1 => ((c % 256).toNat, fl)
  | 6 => ((c % 65536).toNat, fl)
  | 8 => ((x % 2 ^ 32).toNat, 0)
  | 20 => ((rn24Enc c).toNat, fl)
  | 21 => (rn48Enc x, 0)
  | _ => intToF (elemFmt fo) .rn false x

/-- A binary32 value converted to an output format (03 R107). -/
def outFloat (fo : Nat) (v : Nat) : Nat × Fl :=
  if fo ≤ 8 then
    let lh := outRange fo
    let r := fToInt .rn (f32.val v) lh.1 lh.2
    ((r.1 % 2 ^ fmtBits fo).toNat, r.2)
  else fToF (elemFmt fo) .rn false (f32.val v)

/-- An element as it goes to the output record: its bits, flags and the events of class 3 (03 R107, R111). -/
def outElem (fa fo epi : Nat) (z : Word) (scale bias lo hi : Nat) : Nat × Fl × List Nat :=
  let conv : Nat × Fl := if tileF32 fa then (z.toNat, 0) else intToF f32 .rn false z.toInt
  let (b, fl, ins) : Nat × Fl × List FVal :=
    if !tileF32 fa && (epi == 0 || epi == 9) then
      let r := outInt fo z.toInt
      (r.1, r.2, [])
    else
      let e := epilogue epi conv.1 scale bias lo hi
      let r := outFloat fo e.1
      (r.1, conv.2 ||| e.2.1 ||| r.2, e.2.2)
  let out := fo == 9 || fo == 10 || fo == 11 || decide (13 ≤ fo ∧ fo ≤ 19)
  let v := (elemFmt fo).val b
  let r : FRes := { bits := b, fl, nan := out && v.isNan, inf := out && v.isInf, nanIn := ins.any FVal.isNan,
                    finIn := ins.all FVal.isFin }
  (b, fl, r.events.map (12 + ·))

end Sys2Proof.Machine
end

