-- ==== Sys2Proof/Machine/MemOps.lean ====
section
/-! DEFINITION. What memory instructions share: buffer records and element addresses (04 R123-R128), the checks of R116, the
lists of operations in flight, and the order in which they may be performed (R113-R115, R132; 09 R278-R288). -/

namespace Sys2Proof.Machine

/-- The low five bits of two numbers interleaved (04 R126). -/
def morton (x y : Nat) : Nat :=
  (List.range 5).foldl (fun a j => a + (x / 2 ^ j % 2) * 2 ^ (2 * j) + (y / 2 ^ j % 2) * 2 ^ (2 * j + 1)) 0

/-- The byte address of an element (04 R126). -/
def Buf.addr (b : Buf) (i : Nat) : Nat :=
  let s := b.size
  let off := match b.swz with
    | 0 => i * b.stride
    | 1 => i / b.pitch * b.stride + i % b.pitch * s
    | 2 =>
      let x := i % b.pitch
      let y := i / b.pitch
      (((y / 32 * (b.pitch / 32) + x / 32) * 1024) + morton (x % 32) (y % 32)) * s
    | _ =>
      let o := i * b.stride
      Nat.xor o (Nat.land (o / 32) 0x7C)
  (b.base + off) % 2 ^ 64

/-- What the checks of an access answer: the pieces to touch as (byte offset in the entry, place), a trap, or an address that
does not exist. -/
inductive Checked where
  | ok (ps : List (Nat × Loc))
  | trap (c : Cause)
  | hole (a : Nat)
  deriving DecidableEq, Repr

/-- Translate once for each distinct page of an instruction (04 R130, 10 R295). -/
def transPages (s : State) (g : Group) (acc : Nat) (vas : List Nat) :
    State × List (Nat × Except TFault Where) :=
  (dedup (vas.map (· / 2 ^ 14))).foldl (fun x p =>
    let r := translate x.1 (x.1.lau g).qd.vf g.sys.priv (some (g.who.core, g.who.slot)) acc (p * 2 ^ 14)
    (r.1, x.2 ++ [(p, r.2)])) (s, [])

/-- A piece of an element: its byte offset in the entry, its address, and the element (number, offset, address). -/
structure Piece where
  key : Nat
  addr : Nat
  elem : Nat
  ekey : Nat
  deriving DecidableEq, Repr

/-- The lanes that an element at an offset of an entry covers. -/
def elemLanes (scalar : Bool) (s : Nat) (ks : List Nat) : Mask :=
  if scalar then 1 else mkMask fun l => ks.any fun k => decide (k / 4 ≤ l) && decide (l ≤ (k + s - 1) / 4)

/-- The checks of R116 over the elements of one instruction, given as (byte offset in the entry, element number): the row of
the smallest number decides, with the lanes whose elements fail it. -/
def checkElems (s : State) (g : Group) (ag : Agent) (acc : Nat) (b : Buf) (scalar : Bool) (els : List (Nat × Nat)) :
    State × Checked :=
  let sz := b.size
  let al := min sz 4
  let lanes := fun (ks : List Nat) => elemLanes scalar sz ks
  let outs := els.filter fun e => decide (b.extent ≤ e.2)
  match outs, b.oob with
  | (_, i) :: _, true =>
    (s, .trap { grp := 5, code := 1, detail := BitVec.ofNat 96 (i + b.extent * 2 ^ 64), va := 0,
                lanes := lanes (outs.map (·.1)) })
  | _, _ =>
    let ins := (els.filter fun e => decide (e.2 < b.extent)).map fun e => (e.1, b.addr e.2)
    let bad := ins.filter fun e => e.2 % al != 0
    match bad with
    | (_, a) :: _ =>
      (s, .trap { grp := 6, code := 1, detail := BitVec.ofNat 96 (a % 2 ^ 32 + al.log2 * 2 ^ 32), va := a,
                  lanes := lanes (bad.map (·.1)) })
    | [] =>
      let ps : List Piece := (ins.map fun e => (List.range (sz / al)).map fun q =>
        { key := e.1 + al * q, addr := e.2 + al * q, elem := e.2, ekey := e.1 }).flatten
      if b.level = 0 then
        let t := transPages s g acc (ps.map (·.addr))
        let at_ := fun (p : Piece) => ((t.2.find? fun e => e.1 == p.addr / 2 ^ 14).map (·.2)).getD (.error { grp := 3, level := 0 })
        let fails := fun (row : Nat) => ps.filter fun p => match at_ p with
          | .error f => f.grp == row
          | .ok (.window _) => row == 4
          | _ => false
        let row := if (fails 3).isEmpty then 4 else 3
        match fails row with
        | p :: r =>
          let lv := match at_ p with
            | .error f => (f.level, ag.code)
            | .ok _ => (0, 1)
          (t.1, .trap { grp := row, code := lv.2, detail := BitVec.ofNat 96 (tDetail acc lv.1 ag.engine), va := p.addr,
                        lanes := lanes ((p :: r).map (·.ekey)) })
        | [] =>
          match ps.find? fun p => match at_ p with
            | .ok (.hole _) => true
            | _ => false with
          | some p => (t.1, .hole p.addr)
          | none =>
            (t.1, .ok (ps.filterMap fun p => match at_ p with
              | .ok (.at_ l) => some (p.key, (l.under b.l2cls).add (p.addr % 2 ^ 14))
              | _ => none))
      else
        let out := ps.filter fun p => decide (s.allot g b.level < p.addr + al)
        match out with
        | p :: _ =>
          (s, .trap { grp := 4, code := 6, detail := BitVec.ofNat 96 (tDetail acc 0 ag.engine + 256 * b.level), va := p.addr,
                      lanes := lanes (out.map (·.ekey)) })
        | [] => (s, .ok (ps.map fun p => (p.key, s.nearLoc g b.level (p.key / 4) p.addr)))

/-- Use a B record at issue: an interlock while it loads, cause group 8 when it is invalid (01 R24, 04 R124). -/
def withB (g : Group) (s : State) (n : Nat) (f : Buf → Res) : Res :=
  let r := g.rb n
  if r.busy ≠ 0 then .wait .other s
  else match r.buf? with
    | none => .trap (Cause.mk' 8 1) s
    | some b => f b

/-- An access whose pieces fall on lines that an operation of its own group owns waits at issue, so that it takes that operation's fault
with its own PC, should it be suspended at one (09 R286, R288; notes/assumptions/57.md). -/
def whenFree (i : Instr) (s : State) (g : Group) (ls : List Loc) (f : State → Res) : Res :=
  match s.firstOwn g.who.gid s.nextId ls with
  | .free => f s
  | .busy _ => .wait .other s
  | .faulted x =>
    let p := aPending g i x.cause
    .done (raise ((s.deliverEng x.eng x.pass x.cause).putG (x.mark g)) g.who.gid { p with fpc := x.pc })

/-- The answer of checks at issue: go on with the pieces, trap, or stop. -/
def onChecked (r : State × Checked) (f : State → List (Nat × Loc) → Res) : Res :=
  match r.2 with
  | .ok ps => f r.1 ps
  | .trap c => .trap c r.1
  | .hole a => .stop (.noSuchAddress a)

/-- A buffer index in element numbers: a register plus a signed offset, modulo 2^32 (04 R129). -/
def Group.first {n : Nat} (g : Group) (ai : BitVec 6) (off : BitVec n) : Word := g.ra ai.toNat + sext32 off

/-- The elements of a packed entry from a first index (04 R129): (byte offset, element number). -/
def packedEls (b : Buf) (f : Word) : List (Nat × Nat) :=
  (List.range (384 / b.size)).map fun j => (b.size * j, (f + BitVec.ofNat 32 j).toNat)

/-- Put an operation in flight. -/
def Group.addPend (g : Group) (o : MemOp) : Group := { g with pend := g.pend ++ [o] }

/-- The A-stream operations that are not performed yet: what a pop of an entry that the A-stream pushes now must see (09 R280). -/
def Group.aPend (g : Group) : List Nat := (g.pend.filter fun o => o.who == 4).map (·.id) ++ g.mu.map (·.id)

/-- A queue entry that a load has reserved (01 R26, 09 R280). -/
def reservedEntry (g : Group) (id : Nat) : VEntry :=
  { data := zeroLanes, mask := allLanes, fill := .reserved, held := false, op := id, need := g.aPend }

/-- Append an entry to an LDQ; once the C-stream has ended it is discarded (08 R402). -/
def Group.pushLdq (g : Group) (q : Nat) (e : VEntry) (now : Nat) : Group :=
  if g.cEnded then g else { g with q.ldq := setAt g.q.ldq q (g.q.ldq.getD q [] ++ [e]), lastQ := now }

/-- Whether an LDQ has room; after the C-stream's end it always has (01 R30, R39; 08 R402). -/
def State.ldqRoom (s : State) (g : Group) (q : Nat) : Bool := g.cEnded || decide (g.occ q < (s.pk g).depth q)

/-- Whether an acquire of the A-stream before a given operation has still to complete: it holds every later one (04 R147,
09 R282, 20 R390). -/
def Group.acqBefore (g : Group) (id : Nat) : Bool :=
  (g.pend.any fun p => p.who == 4 && p.acq != 0 && decide (p.id < id)) || (g.muBefore id).any MuOp.acquires

/-- Whether an access of the A-stream touches bytes that an operation of the memory unit before it has begun to access (09 R281). -/
def Group.meetsMu (g : Group) (o : MemOp) : Bool :=
  (g.muBefore o.id).any fun m => m.begun && overlap (aOp m.id m.pc (.sta 0 4) (m.places.getD []) 0 0) o

/-- Whether an operation in flight may be performed now (notes/assumptions/16.md): no earlier one of its stream is an acquire or
touches the same word, a release waits for every earlier one, and near operations of a split keep their order (04 R147;
06 R214; 09 R279-R283; 20 R390). DESIGN CHOICE: the near operations of a new split follow none of the split it left,
since 06 R214 orders those of one split (notes/assumptions/74.md). -/
def Group.mayPerform (g : Group) (o : MemOp) : Bool :=
  let before := g.pend.filter fun p => p.who == o.who && decide (p.id < o.id)
  if o.who < 4 then before.isEmpty
  else
    !g.acqBefore o.id && before.all (fun p => !overlap p o) && !g.meetsMu o &&
      (o.rel == 0 || (before.isEmpty && (g.muBefore o.id).isEmpty))

/-- Remove an operation in flight; arrivals that waited for it take place, and a group that has ended and has none left is removed,
its writes performed (09 R282). -/
def State.dropPend (s : State) (gid id : Nat) : State :=
  match s.groups.get? gid with
  | none => s
  | some g =>
    let g := { g with pend := g.pend.filter fun o => o.id != id }
    let s := (s.setG gid g).arriveReady gid
    if g.stop == .gone && g.pend.isEmpty then (s.publish g 4).removeGroup gid else s

/-- The bytes of a place that a later access of the A-stream reads or is about to write, kept as they are for an LDG before it that
has not read them (09 R281; notes/assumptions/67.md). -/
def MuOp.pass (o : MuOp) (l : Loc) (bs : List Byte) : MuOp :=
  { o with passed := o.passed ++ (bs.zipIdx.map fun b => (l.add b.2, b.1)).filter fun x => !(o.passed.any fun y => y.1.same x.1) }

/-- An access of the A-stream passes the LDGs issued before it that have not been performed. -/
def Group.pass (g : Group) (id : Nat) (xs : List (Loc × List Byte)) : Group :=
  let f := fun (m : MuOp) => match m.instr with
    | .ldg .. => if m.id < id then xs.foldl (fun (m : MuOp) x => m.pass x.1 x.2) m else m
    | _ => m
  { g with mu := g.mu.map f, sys := { g.sys with muAside := if id < g.sys.asideId then g.sys.muAside.map f else g.sys.muAside } }

/-- A piece as an LDG reads it: the bytes that later accesses have passed are those of then. -/
def MuOp.passedBytes (o : MuOp) (l : Loc) (bs : List Byte) : List Byte :=
  bs.zipIdx.map fun b => ((o.passed.find? fun x => x.1.same (l.add b.2)).map (·.2)).getD b.1

/-- The parts of an access that are made in a step, and those left for later: a free choice, in their order where the instruction
states one; a single part is never divided (09 R278; 04 R131, 06 R212). -/
def State.parts (s : State) (ordered : Bool) (els : List (Nat × Loc)) : State × List (Nat × Loc) × List (Nat × Loc) :=
  if els.length ≤ 1 then (s, els, [])
  else
    let (n, s) := s.draw
    if ordered then (s, els.span fun e => !Config.freeSet n e.1)
    else (s, els.partition fun e => !Config.freeSet n (e.2.addr / 4))

/-- The parts of an access that releases: where its instruction states an order, one in each step, so that each lane's write is a release
of what precedes it (09 R282; 20 R390). -/
def State.partsOf (s : State) (ordered : Bool) (rel : Nat) (els : List (Nat × Loc)) :
    State × List (Nat × Loc) × List (Nat × Loc) :=
  if ordered && rel != 0 then (s, els.take 1, els.drop 1) else s.parts ordered els

/-- The word that a piece of at most 4 bytes reads. -/
def State.readPiece (s : State) (l : Loc) (n : Nat) : Word := BitVec.ofNat 32 (s.readLoc l n)

/-- A mask of the low bytes of a word. -/
def lowBytes (n : Nat) : Word := BitVec.ofNat 32 (2 ^ (8 * n) - 1)

/-- Extend a loaded element narrower than a word (04 R130). -/
def extend (sgn : Bool) (sz : Nat) (x : Word) : Word :=
  if sgn && decide (sz < 4) && x.getLsbD (8 * sz - 1) then x ||| ~~~lowBytes sz else x

/-- The atomic operations: the new value from the old one and the operands (04 R135); fadd rounds to nearest and its NaNs are
canonical, fmin and fmax return the number. -/
def rmw (op : Nat) (o x y : Word) : Word :=
  match op with
  | 0 => o + x
  | 1 => if x.ult o then x else o
  | 2 => if o.ult x then x else o
  | 3 => if x.slt o then x else o
  | 4 => if o.slt x then x else o
  | 5 => o &&& x
  | 6 => o ||| x
  | 7 => o ^^^ x
  | 8 => x
  | 9 => if o = x then y else o
  | 10 => if x.ule o then 0 else o + 1
  | 11 => if o = 0 ∨ x.ult o then x else o - 1
  | 12 => BitVec.ofNat 32 (fAdd f32 .rn false o.toNat x.toNat).bits
  | 13 => BitVec.ofNat 32 (fMinMax f32 false true false o.toNat x.toNat).bits
  | _ => BitVec.ofNat 32 (fMinMax f32 true true false o.toNat x.toNat).bits

/-- Whether a load or an atomic of the C-stream that was issued before a name is in flight (04 R147). -/
def Group.cLoads (g : Group) (id : Nat) : Bool :=
  (g.pend.any fun p => p.who != 4 && decide (p.id < id) && match p.kind with
    | .nearStore .. => false
    | _ => true) || g.lane.any fun o => decide (o.id < id) && o.faults.isEmpty

end Sys2Proof.Machine
end

