-- ==== Sys2Proof/Machine/MemA.lean ====
section
/-! DEFINITION. A-stream loads, stores, prefetches and atomics at issue (04 R129-R138): their checks, the queue entries they
reserve, and the operations they put in flight. The steps that perform them are in MemEvents. -/

namespace Sys2Proof.Machine

/-- Prefetch of the elements of an entry, every line that they touch, into L2 and, where asked, into the core's L1: pages without a valid
mapping are skipped, nothing else changes (04 R129, R133). -/
def State.prefetch (s : State) (g : Group) (b : Buf) (l1 : Bool) (els : List (Nat × Nat)) : State :=
  let vas := (els.filter fun e => decide (e.2 < b.extent)).map fun e => b.addr e.2
  (dedup (vas.map fun va => [va / 64, (va + b.size - 1) / 64]).flatten).foldl (fun s ln =>
    match walk s (s.lau g).qd.vf (ln * 64) with
    | .leaf p lv _ =>
      if pteAllows p 0 g.sys.priv then
        match pteWhere p lv (ln * 64) with
        | .at_ l =>
          if l1 && s.hasL1 g.who.core then s.fillL1 (s.user g) (l.under b.l2cls) 0
          else s.useL2 (s.user g) ((l.under b.l2cls).line) 64 false
        | _ => s
      else s
    | _ => s) s

/-- A load's entry holds a fault token and the A-stream stops at it (08 R249); once the C-stream has ended the fault is taken
at once and leaves no token (R402). -/
def placeToken (s : State) (g : Group) (i : Instr) (q : Nat) (c : Cause) : Res :=
  if g.cEnded then .trap c s
  else
    let (id, s) := s.newId
    .done (s.putG { g.pushLdq q { reservedEntry g id with fill := .token c } s.tick with stop := .token i })

/-- LDV: reserves an entry, checks every element, and loads them (04 R130). -/
def execLdv (byp : BitVec 1) (ord : BitVec 3) (q : BitVec 2) (k : BitVec 5) (ai : BitVec 6) (off : BitVec 9) : State → Out :=
  aIssue (.ldv byp ord q k ai off) fun g s =>
    withB g s k.toNat fun b =>
      if !s.ldqRoom g q.toNat then .wait (.queue q.toNat) s
      else
        let r := checkElems s g { code := 1 } 0 b false (packedEls b (g.first ai off))
        match r.2 with
        | .trap c => placeToken r.1 g (.ldv byp ord q k ai off) q.toNat c
        | .hole a => .stop (.noSuchAddress a)
        | .ok ps =>
          whenFree (.ldv byp ord q k ai off) r.1 g (ps.map (·.2)) fun s =>
            let (id, s) := s.newId
            let l1 := b.level = 0 ∧ b.roc ∧ byp = 0 ∧ ord = 0
            let g := g.pushLdq q.toNat (reservedEntry g id) s.tick
            .done (s.putG ((g.addPend (aOp id g.apc (.ldv q.toNat b.size l1) ps ord.toNat 0)).adv))

/-- Issue an operation of the memory unit's list (04 R132): it holds 8, each with the record and first index as they stand, and
the places of a store that has passed its checks. -/
def issueMu (s : State) (g : Group) (i : Instr) (k : BitVec 5) (first : Word) (resultQ : Option Nat) (n : Nat)
    (places : Option (List (Nat × Loc)) := none) : Res :=
  if 8 ≤ g.mu.length then .wait .other s
  else
    match resultQ.filter fun q => !s.ldqRoom g q with
    | some q => .wait (.queue q) s
    | none =>
      let (id, s) := s.newId
      let g' := match resultQ with
        | some q => g.pushLdq q (reservedEntry g id) s.tick
        | none => g
      let o : MuOp := { id, instr := i, pc := g.apc, buf := (g.rb k.toNat).img.setWidth 256, first, held := none,
                        places, begun := false, got := [], passed := [] }
      .done (s.putG ({ g' with mu := g.mu ++ [o] }.adv n))

/-- The record of a gather, scatter or vector atomic: elements of at most 4 bytes, or exactly 4 (04 R130, R131, R136). -/
def gatherSize (b : Buf) (exact : Bool) : Option Cause :=
  if (exact && b.esz != 2) || decide (2 < b.esz) then some (Cause.mk' 1 4 15) else none

/-- LDG: the memory unit gathers once its indices arrive (04 R130, R132). -/
def execLdg (byp : BitVec 1) (ord : BitVec 3) (q : BitVec 2) (k : BitVec 5) (ai : BitVec 6) (off : BitVec 9) : State → Out :=
  aIssue (.ldg byp ord q k ai off) fun g s =>
    withB g s k.toNat fun b =>
      match gatherSize b false with
      | some c => .trap c s
      | none => issueMu s g (.ldg byp ord q k ai off) k (g.first ai off) (some q.toNat) 4

/-- STV: checks every element of its entry whatever the mask, then waits in the memory unit for its data (04 R131). -/
def execStv (ord : BitVec 3) (q : BitVec 2) (k : BitVec 5) (ai : BitVec 6) (off : BitVec 9) : State → Out :=
  aIssue (.stv ord q k ai off) fun g s =>
    withB g s k.toNat fun b =>
      if 8 ≤ g.mu.length then .wait .other s
      else
        onChecked (checkElems s g { code := 1 } 1 b false (packedEls b (g.first ai off))) fun s ps =>
          whenFree (.stv ord q k ai off) s g (ps.map (·.2)) fun s =>
            issueMu s g (.stv ord q k ai off) k (g.first ai off) none 4 (some ps)

/-- STX: the memory unit scatters once its indices and data arrive (04 R131). -/
def execStx (ord : BitVec 3) (q : BitVec 2) (k : BitVec 5) (ai : BitVec 6) (off : BitVec 9) : State → Out :=
  aIssue (.stx ord q k ai off) fun g s =>
    withB g s k.toNat fun b =>
      match gatherSize b false with
      | some c => .trap c s
      | none => issueMu s g (.stx ord q k ai off) k (g.first ai off) none 4

/-- The record of a scalar access: elements of at most 4 bytes, no lane-private slices (04 R127, R134, R136). -/
def scalarSize (b : Buf) (exact : Bool) (bit : Nat) : Option Cause :=
  if b.level = 4 then some (Cause.mk' 8 1)
  else if (exact && b.esz != 2) || decide (2 < b.esz) then some (Cause.mk' 1 4 bit)
  else none

/-- The element number of a scalar access as its one element. -/
def scalarEl (i : Word) : List (Nat × Nat) := [(0, i.toNat)]

/-- LDA: one element, returned through the interlock (04 R134). -/
def execLda (d : BitVec 6) (k : BitVec 5) (ai : BitVec 6) (ord : BitVec 3) (off : BitVec 6) : State → Out :=
  aIssue (.lda d k ai ord off) fun g s =>
    withB g s k.toNat fun b =>
      match scalarSize b false 15 with
      | some c => .trap c s
      | none =>
        onChecked (checkElems s g { code := 1 } 0 b true (scalarEl (g.first ai off))) fun s ps =>
          whenFree (.lda d k ai ord off) s g (ps.map (·.2)) fun s =>
            let (id, s) := s.newId
            .done (s.putG ((g.addPend (aOp id g.apc (.lda d.toNat b.size b.sgn) ps ord.toNat 0)).adv))

/-- STA: the low bytes of a register to one element (04 R134). -/
def execSta (v : BitVec 6) (k : BitVec 5) (ai : BitVec 6) (ord : BitVec 3) (off : BitVec 6) : State → Out :=
  aIssue (.sta v k ai ord off) fun g s =>
    withB g s k.toNat fun b =>
      match scalarSize b false 15 with
      | some c => .trap c s
      | none =>
        onChecked (checkElems s g { code := 1 } 1 b true (scalarEl (g.first ai off))) fun s ps =>
          whenFree (.sta v k ai ord off) s g (ps.map (·.2)) fun s =>
            let (id, s) := s.newId
            .done (s.putG ((g.addPend (aOp id g.apc (.sta (g.ra v.toNat) b.size) ps 0 ord.toNat)).adv))

/-- PRF fills the caches with the lines of its elements and raises no fault of the access: `.byp` fills L2 only, and so does one through a
record whose plain loads do not use L1 (02 R52; 04 R129, R133; 09 R275). -/
def execPrf (l2 : BitVec 1) (k : BitVec 5) (ai : BitVec 6) (off : BitVec 9) : State → Out :=
  aIssue (.prf l2 k ai off) fun g s =>
    withB g s k.toNat fun b =>
      let s' := if b.level = 0 then s.prefetch g b (decide (l2 = 0) && b.roc) (packedEls b (g.first ai off)) else s
      .done (s'.updG Group.adv)

/-- ATV: the memory unit performs its atomics once indices and operands arrive (04 R137). -/
def execAtv (op : BitVec 4) (q : BitVec 2) (k : BitVec 5) (ret sdq : BitVec 1) (ord : BitVec 2) (scope : BitVec 3) :
    State → Out :=
  aIssue (.atv op q k ret sdq ord scope) fun g s =>
    withB g s k.toNat fun b =>
      match gatherSize b true with
      | some c => .trap c s
      | none => issueMu s g (.atv op q k ret sdq ord scope) k 0 (if ret = 1 then some q.toNat else none) 8

/-- The one frame-window operation that an atomic may be (10 R299). -/
def windowOp (op off : Nat) : Bool := off == 0 || (off == 4 && op == 8) || (off == 8 && op == 9)

/-- The page-window offset of a scalar element, where its page maps the frame window (10 R299). -/
def scalarWindow (s : State) (g : Group) (b : Buf) (i : Word) : State × Option Nat :=
  if b.level = 0 ∧ i.toNat < b.extent then
    let a := b.addr i.toNat
    if a % 4 = 0 then
      match translate s (s.lau g).qd.vf g.sys.priv (some (g.who.core, g.who.slot)) 2 a with
      | (s, .ok (.window off)) => (s, some off)
      | (s, _) => (s, none)
    else (s, none)
  else (s, none)

/-- An operation of the frame window is the first write through its page's entry (10 R291, R299). -/
def State.dirtiedPage (s : State) (v va : Nat) : State :=
  match walk s v va with
  | .leaf p _ a => s.markUsed a p 2
  | _ => s

/-- ATA: one atomic, the old value returned through the interlock (04 R138), or an operation of the frame window. -/
def execAta (op : BitVec 4) (d : BitVec 6) (k : BitVec 5) (ai x y : BitVec 6) (ord : BitVec 2) (scope : BitVec 3) :
    State → Out :=
  aIssue (.ata op d k ai x y ord scope) fun g s =>
    withB g s k.toNat fun b =>
      match scalarSize b true 11 with
      | some c => .trap c s
      | none =>
        let w := scalarWindow s g b (g.ra ai.toNat)
        let go := fun (s : State) (ps : List (Nat × Loc)) (win : Option Nat) =>
          whenFree (.ata op d k ai x y ord scope) s g (ps.map (·.2)) fun s =>
            let (id, s) := s.newId
            let kind : MemKind := .ata d.toNat op.toNat (g.ra x.toNat) (g.ra y.toNat) win
            .done (s.putG ((g.addPend (aOp id g.apc kind ps (atomAcq ord scope) (atomRel ord scope))).adv 8))
        match w.2.filter fun off => windowOp op.toNat off with
        | some off => go (w.1.dirtiedPage (s.lau g).qd.vf (b.addr (g.ra ai.toNat).toNat)) [] (some off)
        | none =>
          onChecked (checkElems w.1 g { code := 1 } 2 b true (scalarEl (g.ra ai.toNat))) fun s ps => go s ps none

end Sys2Proof.Machine
end

