-- ==== Sys2Proof/Machine/RecordA.lean ====
section
/-! DEFINITION. Record loads, record fields and copies at issue (04 R123-R125, R139-R141). -/

namespace Sys2Proof.Machine

/-- Whether a traversal of the group is in flight: it reads B registers while it runs (13 R347). One that has stopped at a fault has let
go of its flag (08 R256 step 3). -/
def Group.tracing (g : Group) : Bool :=
  g.lane.any fun o => o.faults.isEmpty && !g.laneAside o && match o.instr with
    | .trace .. => true
    | .tresume .. => true
    | _ => false

/-- Issue a record load of `n` bytes at the record table (04 R125): its checks at issue, then in flight. -/
def loadRecord (instr : Instr) (s : State) (g : Group) (n : Nat) (i : Word) (kind : MemKind) (mark : Group → Group) : Res :=
  let va := ((s.pk g).rtbase + n * i.toNat) % 2 ^ 64
  match globalAt s (s.lau g).qd.vf g.sys.priv (g.agent { code := 1 }) 0 va with
  | (s, .error (.hole a)) => let _ := s; .stop (.noSuchAddress a)
  | (s, .error e) => .trap (e.cause' 1 0 1) s
  | (s, .ok l) =>
    whenFree instr s g [l] fun s =>
      let (id, s) := s.newId
      .done (s.putG (((mark g).addPend (aOp id g.apc kind [(0, l)] 0 0)).adv))

/-- BLD: 32 bytes into a B register; it waits for a load of the register and for a traversal in flight (04 R125, 08 R245). -/
def execBld (r : BitVec 5) (a : BitVec 6) (imm : BitVec 14) : State → Out :=
  aIssue (.bld r a imm) fun g s =>
    let x := g.rb r.toNat
    if x.busy ≠ 0 ∨ g.tracing then .wait .other s
    else loadRecord (.bld r a imm) s g 32 (g.ra a.toNat + sext32 imm) (.bld r.toNat) fun g =>
      { g with b := g.b.set r.toNat { x with busy := 1 } }

/-- TLD: 64 bytes into a T register. -/
def execTld (r : BitVec 4) (a : BitVec 6) (imm : BitVec 14) : State → Out :=
  aIssue (.tld r a imm) fun g s =>
    let x := g.rt r.toNat
    if x.busy ≠ 0 then .wait .other s
    else loadRecord (.tld r a imm) s g 64 (g.ra a.toNat + sext32 imm) (.tld r.toNat) fun g =>
      { g with t := g.t.set r.toNat { x with busy := 1 } }

/-- The place of a BSET field in a record: lowest bit and width (02 R51, 04 R123). -/
def bsetField (fn : Nat) : Nat × Nat :=
  [(0, 32), (32, 16), (64, 32), (96, 24), (120, 3), (123, 2), (48, 16), (125, 3), (128, 2), (130, 1), (131, 1),
   (132, 1)].getD fn (0, 0)

/-- A record image with one field replaced. -/
def setField (x : BitVec 512) (lo w : Nat) (v : Nat) : BitVec 512 :=
  let m : BitVec 512 := BitVec.ofNat 512 ((2 ^ w - 1) * 2 ^ lo)
  (x &&& ~~~m) ||| (BitVec.ofNat 512 (v % 2 ^ w * 2 ^ lo))

/-- BSET: one field of a loaded record, valid or not (04 R125). -/
def execBset (r : BitVec 5) (a : BitVec 6) (fn : BitVec 8) : State → Out :=
  aIssue (.bset r a fn) fun g s =>
    let x := g.rb r.toNat
    if x.busy ≠ 0 ∨ g.tracing then .wait .other s
    else if !x.loaded then .trap (Cause.mk' 8 1) s
    else
      let f := bsetField fn.toNat
      .done (s.putG ({ g with b := g.b.set r.toNat { x with img := setField x.img f.1 f.2 (g.ra a.toNat).toNat } }.adv))

/-- Free copy slots: 96 per core (04 R141). -/
def State.copySlots (s : State) (core : Nat) : Nat :=
  96 - (s.eng.filter fun o => match o.kind with
    | .copy .. => (s.groups.get? o.gid).any fun g => g.who.core == core
    | _ => false).length

/-- The signed coordinates in consecutive A registers. -/
def Group.coords (g : Group) (c n : Nat) : List Int := (List.range n).map fun i => (g.ra (c + i)).toInt

/-- The check of a barrier number at issue (04 R146). -/
def barCheck (s : State) (g : Group) (nb : Nat) : Option Cause :=
  if (s.pk g).bars ≤ nb then some (Cause.mk' 14 1 nb) else none

/-- The operations of a group that an engine operation's accesses follow (09 R287). -/
def Group.engNeed (g : Group) : List Nat := g.aPend

/-- While a save is asked for, the A-stream issues no engine or record form (08 R263). -/
def notWhileSaving (g : Group) (s : State) (f : Unit → Res) : Res :=
  if g.saveReq.isSome then .wait .other s else f ()

/-- The coordinate registers of a copy, where its source record says how many there are (04 R141). -/
def Group.copyRegs (g : Group) (src : BitVec 4) (c : BitVec 6) : List Nat :=
  let r := g.rt src.toNat
  match if r.busy = 0 then r.ten? else none with
  | some t => if t.kind = 2 then [] else (List.range (2 * t.ndim)).map fun j => c.toNat + j
  | none => []

/-- Elements of a 4 KiB chunk (04 R141). -/
def chunkElems (t : Ten) : Nat := max 1 (4096 * 8 / fmtBits t.fmt)

/-- The lines that a copy writes, each with the last chunk that writes it (09 R286). -/
def copyLines (s : State) (g : Group) (ts td : Ten) (dc : List Int) : List (Loc × Nat) :=
  (List.range (boxCount ts.box)).reverse.foldl (fun (ls : List (Loc × Nat)) n =>
    let cd := addC dc (boxAt ts.box n)
    if td.inside cd then
      (tenLines s g td cd).foldl (fun ls l => if ls.any fun x => x.1 == l then ls else ls ++ [(l, n / chunkElems ts)]) ls
    else ls) []

/-- The checks of CPY in the order of R73: its registers and their declared count, its records, then those of its own in the order of
R141; then a slot, and ownership of the destination lines. -/
def issueCopy (i : Instr) (src dst : BitVec 4) (c : BitVec 6) (opt scope : BitVec 3) (bar : Option Nat)
    (cnt : Option (BitVec 6)) (g : Group) (s : State) : Res :=
  notWhileSaving g s fun _ =>
  let regs := g.copyRegs src c
  if regs.any fun r => decide (63 < r) then .trap (Cause.mk' 1 3 8) s
  else if regs.any fun r => decide ((s.pk g).aregs ≤ r ∧ r < 61) then .trap (Cause.mk' 1 5 8) s
  else if g.lockedAt regs then .wait .other s
  else
  withT g s src.toNat fun ts => withT g s dst.toNat fun td =>
    match bar.bind (barCheck s g) with
    | some e => .trap e s
    | none =>
      if ts.kind = 2 ∨ td.kind = 2 ∨ ts.ndim ≠ td.ndim ∨ fmtBits ts.fmt ≠ fmtBits td.fmt then
        .trap (Cause.mk' 9 2 1) s
      else
        let sc := g.coords c.toNat ts.ndim
        let dc := g.coords (c.toNat + ts.ndim) ts.ndim
        let go := fun (s : State) (ctr : Option (Nat × Loc)) =>
          if s.copySlots g.who.core = 0 then .wait .other s
          else
            let (id, s) := s.newId
            let lines := copyLines s g ts td dc
            let kind : EngKind := .copy (g.rt src.toNat).img (g.rt dst.toNat).img sc dc opt.toNat scope.toNat ctr
            let o : EngOp := { id, gid := g.who.gid, pc := g.apc, instr := i, kind, bar, at_ := 0, fault := none,
                               told := false, need := g.engNeed, lines, got := [], cells := [], coarse := false }
            Res.done ({ s with eng := s.eng ++ [o] }.putG (g.adv 8))
        match cnt with
        | none => go s none
        | some k =>
          let a := (g.ra k.toNat).toNat
          if a % 4 ≠ 0 then .trap (Cause.mk' 6 1 (a + 2 * 2 ^ 32) a 1) s
          else
            match globalAt s (s.lau g).qd.vf g.sys.priv (g.agent { code := 1 }) 2 a with
            | (s, .ok l) => go s (some (a, l))
            | (s, .error (.hole h)) => let _ := s; .stop (.noSuchAddress h)
            | (s, .error e) => .trap (e.cause' 1 2 1) s

/-- CPY with completion on a barrier. -/
def execCpyBar (src dst : BitVec 4) (c : BitVec 6) (nb : BitVec 10) (scope opt : BitVec 3) : State → Out :=
  aIssue (.cpyBar src dst c nb scope opt)
    (issueCopy (.cpyBar src dst c nb scope opt) src dst c opt scope (some nb.toNat) none)

/-- CPY with completion on a counter. -/
def execCpyCnt (src dst : BitVec 4) (c k : BitVec 6) (scope opt : BitVec 3) : State → Out :=
  aIssue (.cpyCnt src dst c k scope opt)
    (issueCopy (.cpyCnt src dst c k scope opt) src dst c opt scope none (some k))

end Sys2Proof.Machine
end

