-- ==== Sys2Proof/Machine/SyncA.lean ====
section
/-! DEFINITION. Waiting in the A-stream: faults delivered at a wait (04 R115, 07 R215), counters, flags, named barriers and
fences (04 R142-R147). -/

namespace Sys2Proof.Machine

/-- Where a wait may take faults that agents of the group have left: at a barrier, at a copy's counter, at every engine
operation (EXIT), at MXREL, or nowhere. -/
inductive Waits where
  | bar (nb : Nat)
  | counter (va : Nat)
  | all
  | session
  | none
  deriving DecidableEq, Repr

/-- Whether an engine operation's fault is delivered at a wait (04 R141, 07 R215). -/
def Waits.takes (w : Waits) (o : EngOp) : Bool :=
  match w with
  | .bar nb => o.bar == some nb
  | .counter va => match o.kind with
    | .copy _ _ _ _ _ _ (some (a, _)) => a == va
    | _ => false
  | .all => true
  | .session => false
  | .none => false

/-- A pending trap of the A-stream whose faulting instruction is another one (08 R252: offsets 0x24 and 0x40). -/
def deliveredAt (g : Group) (i : Instr) (c : Cause) (pc : Nat) : Pending :=
  { aPending g i c with fpc := pc }

/-- The store or atomic without return that the memory unit holds at a fault (04 R115). -/
def Group.heldStore (g : Group) : Option (MuOp × Cause) :=
  g.mu.findSome? fun o => if o.resultQ.isSome then none else o.held.map fun c => (o, c)

/-- The machine with the fault that a wait of the A-stream takes, if there is one: an operation held by the memory unit, an
engine operation suspended at a fault, a pass of the session that the group leads, or a cause that its session left. -/
def deliver (s : State) (g : Group) (mu : Bool) (w : Waits) : Option State :=
  let gid := g.who.gid
  match if mu then g.heldStore else none with
  | some (o, c) => some (raise (s.putG (g.endHeld o.id c)) gid (deliveredAt g o.instr c o.pc))
  | none =>
    match s.eng.find? fun o => o.gid == gid && o.fault.isSome && !o.told && w.takes o with
    | some o =>
      let c := o.fault.getD (Cause.mk' 0 0)
      some (raise (s.deliverEng (some o.id) none c) gid (deliveredAt g o.instr c o.pc))
    | none =>
      let led : Option (Nat × Pass) := match g.session with
        | some (k, 0) => (s.sessions.get? k).bind fun (ss : Session) =>
          let here : Bool := match w with
            | .bar nb => (ss.parts[0]?.map (·.nb)) == some nb
            | .all => true
            | .session => true
            | _ => false
          if here then (ss.passes.find? fun (p : Pass) => p.fault.isSome && !p.told).map fun p => (k, p) else none
        | _ => none
      match led with
      | some (k, p) =>
        let c := p.fault.getD (Cause.mk' 0 0)
        some (raise (s.deliverEng none (some (k, p.id)) c) gid (deliveredAt g p.instr c p.pc))
      | none =>
        match g.due.find? fun (d : Nat × Cause × Nat) => match w with
          | .bar nb => d.1 == nb
          | .session => true
          | _ => false with
        | some d =>
          some (raise (s.putG { g with due := g.due.erase d }) gid { aPending g .mxrel d.2.1 with fpc := d.2.2, word := 0 })
        | none =>
          match w with
          | .bar nb =>
            let b := s.bar g.who.tid nb
            if b.engZero.contains gid then
              let s := s.setBar g.who.tid nb { b with engZero := b.engZero.erase gid }
              some (raise s gid { aPending g (.bwaita (BitVec.ofNat 10 nb)) (Cause.mk' 14 6 nb) with fpc := g.apc })
            else none
          | _ => none

/-- Whether an earlier operation of the A-stream still in flight is a load or an atomic (04 R147). -/
def Group.loadsPending (g : Group) : Bool :=
  (g.pend.any fun o => o.who == 4 && match o.kind with
    | .sta .. => false
    | _ => true) ||
  g.mu.any fun o => match o.instr with
    | .ldg .. => true
    | .atv .. => true
    | _ => false

/-- Whether any earlier memory operation of the A-stream has still to be performed. -/
def Group.opsPending (g : Group) : Bool := (g.pend.any fun o => o.who == 4) || !g.mu.isEmpty

/-- The counter that CWAIT and YIELDC test: its checks, then its value (04 R114, R142). -/
def counterTest (instr : Instr) (g : Group) (s : State) (a b : BitVec 6) (hit : State → Res) (miss : State → Loc → Res) : Res :=
  let va := (g.ra a.toNat).toNat
  if va % 4 ≠ 0 then .trap (Cause.mk' 6 1 (va + 2 * 2 ^ 32) va 1) s
  else
    match globalAt s (s.lau g).qd.vf g.sys.priv (g.agent { code := 1 }) 0 va with
    | (s, .error (.hole h)) => let _ := s; .stop (.noSuchAddress h)
    | (s, .error e) => .trap (e.cause' 1 0 1) s
    | (s, .ok l) =>
      match deliver s g true (.counter va) with
      | some s => .done s
      | none =>
        let mine := aOp s.nextId g.apc (.lda 0 4 false) [(0, l)] 0 0
        if g.acqBefore s.nextId || g.pend.any fun o => overlap o mine then .wait .other s
        else
          whenFree instr s g [l] fun s =>
            let r := s.readPast (s.user g) l 4
            if 0 ≤ (BitVec.ofNat 32 (leNat r.2) - g.ra b.toNat).toInt then hit (r.1.acquire g 4) else miss r.1 l

/-- CWAIT: waits until the counter has reached the value, then acquires at dev. -/
def execCwait (a b : BitVec 6) : State → Out :=
  aIssue (.cwait a b) fun g s =>
    counterTest (.cwait a b) g s a b (fun s => .done (s.updG Group.adv)) fun s _ => .wait .other s

/-- YIELDC: tests once; otherwise the group sleeps until the counter's line is written or 10 µs have passed. -/
def execYieldc (a b : BitVec 6) : State → Out :=
  aIssue (.yieldc a b) fun g s =>
    counterTest (.yieldc a b) g s a b (fun s => .done (s.updG Group.adv)) fun s l =>
      let w : Watch := { gid := g.who.gid, line := l.line, hit := false }
      .wait .other (({ s with watch := w :: s.watch.filter fun x => x.gid != w.gid } : State).updG fun g =>
        { g with stop := .sleep (s.tick + 10000 * nsT) })

/-- WAITF: waits until every named flag is clear at once (04 R143). -/
def execWaitf (mask : BitVec 12) : State → Out :=
  aIssue (.waitf mask) fun g s =>
    match deliver s g true .none with
    | some s => .done s
    | none =>
      if (List.range 12).all fun n => !mask.getLsbD n || g.cfn n == 0 then .done (s.putG g.adv) else .wait .flag s

/-- Use a barrier of the team: its number must be below the launch's count (04 R146). -/
def withBar (s : State) (g : Group) (nb : Nat) (f : Bar → Res) : Res :=
  match barCheck s g nb with
  | some c => .trap c s
  | none => f (s.bar g.who.tid nb)

/-- BINIT: expected and initial counts, no arrivals; one of the stream's own that waits for earlier operations counts as made
(notes/assumptions/69.md). -/
def execBinit (a : BitVec 6) (nb : BitVec 10) : State → Out :=
  aIssue (.binit a nb) fun g s =>
    withBar s g nb.toNat fun b =>
      let n := (g.ra a.toNat).toNat
      if n = 0 ∨ 65535 < n then .trap (Cause.mk' 14 2 nb.toNat) s
      else if 0 < b.cnt ∨ g.arriving nb.toNat 4 then .trap (Cause.mk' 14 3 nb.toNat) s
      else .done ((s.setBar g.who.tid nb.toNat { b with exp := n, init := n, cnt := 0 }).putG g.adv)

/-- An arrival by a stream of the group (4 the A-stream) that releases the operations named: it takes place at once when they are
performed, and otherwise once they are, while the stream goes on (04 R145, 06 R207; 08 R245; 09 R282; notes/assumptions/69.md). -/
def barArrive (s : State) (g : Group) (nb stream : Nat) (need : List Nat) (b : Bar) (f : State → Group → Res) : Res :=
  if b.exp = 0 then .trap (Cause.mk' 14 4 nb) s
  else if g.performed need && !g.arriving nb stream then f ((s.publish g 2).setBar g.who.tid nb (b.arrive g.who.gid)) g
  else f s { g with arrivals := g.arrivals ++ [{ nb, stream, need }] }

/-- BARV. -/
def execBarv (nb : BitVec 10) : State → Out :=
  aIssue (.barv nb) fun g s =>
    withBar s g nb.toNat fun b => barArrive s g nb.toNat 4 g.aPend b fun s g => .done (s.putG g.adv)

/-- A wait of a stream (4 the A-stream, 0-3 a split) on a barrier: released, let go, or still waiting; `before` says that it
was waiting for its released bit already (04 R145). -/
def Bar.waitStep (b : Bar) (gid stream : Nat) (before : Bool) : Bar × Bool :=
  if b.go.contains (gid, stream) then ({ b with go := b.go.erase (gid, stream) }, true)
  else if b.wait.contains (gid, stream) then (b, false)
  else if b.rel.contains gid then ({ b with rel := delNat b.rel gid, owed := delNat b.owed gid }, true)
  else if b.owed.contains gid ∨ before then (b, false)
  else ({ b with wait := b.wait ++ [(gid, stream)] }, false)

/-- The wait of BWAITA and of the second half of BARVW; an arrival of the stream that has still to take place comes first. -/
def barWaitA (s : State) (g : Group) (nb : Nat) : Res :=
  if g.arriving nb 4 then .wait .barrier (s.putG g)
  else
  let r := (s.bar g.who.tid nb).waitStep g.who.gid 4 (g.ablk == some .barrier)
  let s := s.setBar g.who.tid nb r.1
  if r.2 then .done ((s.acquire g 2).putG { g.adv with arrived := none }) else .wait .barrier s

/-- BWAITA. -/
def execBwaita (nb : BitVec 10) : State → Out :=
  aIssue (.bwaita nb) fun g s =>
    withBar s g nb.toNat fun _ =>
      match deliver s g true (.bar nb.toNat) with
      | some s => .done s
      | none => barWaitA s g nb.toNat

/-- BARVW: one arrival, then the wait; the arrival is not made again when the instruction is met again. -/
def execBarvw (nb : BitVec 10) : State → Out :=
  aIssue (.barvw nb) fun g s =>
    withBar s g nb.toNat fun b =>
      match deliver s g true (.bar nb.toNat) with
      | some s => .done s
      | none =>
        if g.arrived = some g.apc then barWaitA s g nb.toNat
        else barArrive s g nb.toNat 4 g.aPend b fun s g =>
          let g := { g with arrived := some g.apc }
          barWaitA (s.putG g) g nb.toNat

/-- BEXP: raises the expected count of the current phase. -/
def execBexp (a : BitVec 6) (nb : BitVec 10) : State → Out :=
  aIssue (.bexp a nb) fun g s =>
    withBar s g nb.toNat fun b =>
      let n := b.exp + (g.ra a.toNat).toNat
      if b.exp = 0 then .trap (Cause.mk' 14 4 nb.toNat) s
      else if 65535 < n then .trap (Cause.mk' 14 5 nb.toNat) s
      else .done ((s.setBar g.who.tid nb.toNat ({ b with exp := n }.settle)).putG g.adv)

/-- BTRY: takes the released bit if it is set. -/
def execBtry (d : BitVec 6) (nb : BitVec 10) : State → Out :=
  aIssue (.btry d nb) fun g s =>
    withBar s g nb.toNat fun b =>
      match deliver s g false (.bar nb.toNat) with
      | some s => .done s
      | none =>
        if b.exp = 0 then .trap (Cause.mk' 14 4 nb.toNat) s
        else if b.rel.contains g.who.gid then
          let b := { b with rel := delNat b.rel g.who.gid, owed := delNat b.owed g.who.gid }
          .done (((s.setBar g.who.tid nb.toNat b).acquire g 2).putG ((g.wa d.toNat 1).adv))
        else .done (s.putG ((g.wa d.toNat 0).adv))

/-- Whether a SAMPLE, GATH4, TRACE or TRESUME of the group that was issued before a name has still to complete: in a handler those that
have stopped at a fault wait for TRET (07 R215, R216; 08 R256). -/
def Group.lanesBusy (g : Group) (id : Nat) : Bool :=
  g.lane.any fun o => decide (o.id < id) && (o.faults.isEmpty || !(g.sys.frame || o.done))

/-- Whether an engine operation of the group is in progress (04 R147, R150). -/
def State.engBusy (s : State) (g : Group) : Bool :=
  (s.eng.any fun o => o.gid == g.who.gid) ||
    match g.session with
    | some (k, 0) => (s.sessions.get? k).any fun ss => !ss.passes.isEmpty
    | _ => false

/-- A fence (04 R147): a release waits for every earlier operation, an acquire for every earlier load and atomic of either stream, `.a`
for the group's engine operations as well; a release performs at its scope what the group has written or read (R282, R283), and an acquire
at clu or wider drops the core's L1 (09 R276). -/
def fence (rel acq : Bool) (scope : BitVec 3) (eng : BitVec 1) (g : Group) (s : State) : Res :=
  match deliver s g true .none with
  | some s => .done s
  | none =>
    let from_ := g.fenced.getD s.nextId
    if (rel && g.opsPending) || (acq && (g.loadsPending || g.cLoads from_)) || (eng == 1 && (s.engBusy g || g.lanesBusy from_)) then
      .wait .other (s.putG { g with fenced := some from_ })
    else
      let s := if rel then s.publish g scope.toNat else s
      .done ((if acq then s.acquire g scope.toNat else s).putG { g.adv with fenced := none })

/-- FENCE.acq. -/
def execFenceAcq (scope : BitVec 3) (eng : BitVec 1) : State → Out :=
  aIssue (.fenceAcq scope eng) (fence false true scope eng)

/-- FENCE.rel. -/
def execFenceRel (scope : BitVec 3) (eng : BitVec 1) : State → Out :=
  aIssue (.fenceRel scope eng) (fence true false scope eng)

/-- FENCE.acqrel. -/
def execFenceAcqrel (scope : BitVec 3) (eng : BitVec 1) : State → Out :=
  aIssue (.fenceAcqrel scope eng) (fence true true scope eng)

end Sys2Proof.Machine
end

