-- ==== Sys2Proof/Machine/MatrixA.lean ====
section
/-! DEFINITION. The matrix instructions at issue (07 R218-R232; 12 R331, R332; 16 R386): binding, passes, feeds, status and
release. The engine's steps are in MatrixEv. -/

namespace Sys2Proof.Machine

/-- Group 9 of the matrix engine (08 R254). -/
def mxTrap (code : Nat) : Cause := Cause.mk' 9 code 2

/-- The session of a group with its participant's quarter. -/
def State.mySession (s : State) (g : Group) : Option (Nat × Session × Nat) :=
  g.session.bind fun x => (s.sessions.get? x.1).map fun ss => (x.1, ss, x.2)

/-- A cluster made of whole quads (07 R221, 11 R319). -/
def quadAligned (pk : Packet) : Bool := pk.w % 2 == 0 && pk.h % 2 == 0

/-- Bytes of a matrix area (12 R331). -/
def areaBytes : Nat := 49408

/-- Whether a group's spilled stack entries leave its matrix area free (12 R332). -/
def stackClear (s : State) (g : Group) : Bool :=
  let top := g.slotBase + 65536 * (s.lau g).qd.slot64 - areaBytes
  g.cs.splits.all fun e => (List.range e.2.stack.length).all fun i =>
    decide (i < 32) || decide (stackVa g (s.pk g).vregs e.1 i + 16 ≤ top)

/-- The MXBINDs that wait for the session of a group: those of its launch, cluster, GROUP and quad. -/
def State.mates (s : State) (g : Group) : List Bind :=
  s.binds.filter fun b => match s.groups.get? b.gid with
    | some h => h.who.lid == g.who.lid && h.who.cid == g.who.cid && h.who.groupIx == g.who.groupIx &&
        quadOf h.who.core == quadOf g.who.core
    | none => false

/-- What four MXBINDs must agree on (07 R221). -/
def Bind.terms (b : Bind) : Nat × Nat × Nat × Bool × Nat × Nat := (b.fa, b.fb, b.fo, b.dist, b.tiles, b.prio)

/-- The trap of every waiting MXBIND of a list. -/
def trapBinds (s : State) (c : Cause) (bs : List Bind) : State :=
  bs.foldl (fun (s : State) b =>
    match s.groups.get? b.gid with
    | some h => raise s b.gid { aPending h .nop c with word := BitVec.ofNat 96 b.word }
    | none => s) s

/-- MXBIND: its own checks, then a wait until the session forms (07 R218-R221). What concerns all four is examined when the
fourth is issued (notes/assumptions/24.md). -/
def execMxbind (vb : BitVec 9) (fa fb : BitVec 5) (dist : BitVec 1) (fo : BitVec 5) (tiles : BitVec 2) (prio : BitVec 3)
    (q : BitVec 2) (nb : BitVec 10) : State → Out :=
  let i : Instr := .mxbind vb fa fb dist fo tiles prio q nb
  aIssue i fun g s =>
    let pk := s.pk g
    if g.stop = .bind then .wait .barrier s
    else notWhileSaving g s fun _ =>
      if pk.vregs < vb.toNat + 2 * bankRegs fb.toNat then .trap (Cause.mk' 1 5 13) s
      else if g.session.isSome || !quadAligned pk then .trap (mxTrap 1) s
      else match barCheck s g nb.toNat with
      | some c => .trap c s
      | none =>
        if 65536 * (s.lau g).qd.slot64 < spillOff pk.vregs + areaBytes then .trap (mxTrap 5) s
        else
          let ms := s.mates g
          let twice := ms.filter fun b => b.q == q.toNat
          if !twice.isEmpty then .trap (mxTrap 1) (trapBinds s (mxTrap 1) twice)
          else
            let me : Bind := { gid := g.who.gid, q := q.toNat, word := (aWords i).toNat, vb := vb.toNat, fa := fa.toNat,
                               fb := fb.toNat, fo := fo.toNat, dist := dist == 1, tiles := tiles.toNat + 1,
                               prio := prio.toNat, nb := nb.toNat }
            let clear := ((me :: ms).all fun b => (s.groups.get? b.gid).all fun h => stackClear s h)
            if ms.length = 3 && !(ms.all fun b => b.terms == me.terms) then .trap (mxTrap 1) (trapBinds s (mxTrap 1) ms)
            else if ms.length = 3 && !clear then .trap (mxTrap 5) (trapBinds s (mxTrap 5) ms)
            else .wait .barrier ({ s with binds := s.binds ++ [me] }.putG { g with stop := .bind })

/-! ## Passes -/

/-- The fields of a pass's instruction. -/
structure MxArgs where
  conv : Bool
  z : Nat
  ks : Nat
  mr : Nat
  o : Nat
  acc : Bool
  epi : Nat
  deriving DecidableEq, Repr

/-- The fields of MXLOOP and MXCONV. -/
def mxArgs : Instr → MxArgs
  | .mxloop _ _ z ks mr o _ acc epi =>
    { conv := false, z := z.toNat, ks := ks.toNat, mr := mr.toNat, o := o.toNat, acc := acc == 1, epi := epi.toNat }
  | .mxconv _ _ _ z ks mr o _ acc epi =>
    { conv := true, z := z.toNat, ks := ks.toNat, mr := mr.toNat, o := o.toNat, acc := acc == 1, epi := epi.toNat }
  | .mxsel z _ _ o _ => { conv := false, z := z.toNat, ks := 0, mr := 0, o := o.toNat, acc := true, epi := 0 }
  | _ => { conv := false, z := 0, ks := 0, mr := 0, o := 15, acc := true, epi := 0 }

/-- A coordinate register captured at issue. -/
def Pass.val (p : Pass) (j : Nat) : Int := (p.vals.getD j 0).toInt

/-- The A or input record, and the output record. -/
def Pass.aRec (p : Pass) : Ten := Ten.of (p.recs.getD 0 0).toNat

/-- The conv record. -/
def Pass.cRec (p : Pass) : Conv := Conv.of (p.recs.getD 1 0).toNat

/-- The output record. -/
def Pass.oRec (p : Pass) : Ten := Ten.of (p.recs.getD 2 0).toNat

/-- Extent of a dimension. -/
def Ten.ext (t : Ten) (d : Nat) : Int := ((t.dims.getD d ⟨0, 0, 0⟩).ext : Int)

/-- Output height and width of a conv pass (07 R231). -/
def convSize (t : Ten) (c : Conv) : Int × Int :=
  ((t.ext 2 + c.pt + c.pb - c.dh * (c.fh - 1 : Int) - 1) / c.sh + 1,
   (t.ext 1 + c.pl + c.pr - c.dw * (c.fw - 1 : Int) - 1) / c.sw + 1)

/-- Whether a conv pass produces no rows. -/
def convEmpty (t : Ten) (c : Conv) : Bool := decide ((convSize t c).1 ≤ 0) || decide ((convSize t c).2 ≤ 0)

/-- Channels that a depthwise step can hold (07 R231). -/
def convG (c : Conv) (slab : Nat) : Nat := slab / (c.fh * c.fw)

/-- The output position number of row `m` of array `i`. -/
def Pass.rowNo (p : Pass) (i m : Nat) : Int :=
  let a := mxArgs p.instr
  p.val 1 * (convSize p.aRec p.cRec).2 + p.val 2 + ((i * a.mr + m : Nat) : Int)

/-- Rows that an array takes in a step: all MROWS, or those of a conv pass that lie in the computed range (12 R334). -/
def Pass.rowsOf (p : Pass) (i : Nat) : Nat :=
  let a := mxArgs p.instr
  if !a.conv then a.mr
  else if p.empty then 0
  else
    let sz := convSize p.aRec p.cRec
    min a.mr (sz.1 * sz.2 - p.rowNo i 0).toNat

/-- The output coordinates of an element of a computed row, whatever its column (07 R227, R231). -/
def Pass.coordOf (p : Pass) (i m n : Nat) : List Int :=
  let a := mxArgs p.instr
  if !a.conv then [p.val 5 + (n : Int), p.val 4 + ((i * a.mr + m : Nat) : Int)]
  else
    let no := p.rowNo i m
    let w := (convSize p.aRec p.cRec).2
    [p.val 5 + (n : Int), no % w, no / w, p.val 4]

/-- The output coordinates of an element that a pass writes; none for a column that it does not (07 R231). -/
def Pass.outCoord (p : Pass) (slab i m n : Nat) : Option (List Int) :=
  let c := p.cRec
  if (mxArgs p.instr).conv ∧ (c.cout ≤ n ∨ (c.dw1 ∧ convG c slab ≤ n)) then none else some (p.coordOf i m n)

/-- The rows that a pass writes to its output record, in order. -/
def Pass.outRows (p : Pass) : List (Nat × Nat) :=
  if (mxArgs p.instr).o = 15 then []
  else ((List.range 4).map fun i => (List.range (p.rowsOf i)).map fun m => (i, m)).flatten

/-- Lines that are written row by row, each with the last row that writes it: `rows` gives the coordinates that each row writes. -/
def rowLines (s : State) (g : Group) (t : Ten) (rows : List (List (List Int))) : List (Loc × Nat) :=
  rows.zipIdx.reverse.foldl (fun ls r =>
    r.1.foldl (fun ls cs =>
      if t.inside cs then
        (tenLines s g t cs).foldl (fun (ls : List (Loc × Nat)) l => if ls.any fun x => x.1 == l then ls else ls ++ [(l, r.2)]) ls
      else ls) ls) []

/-- The lines that a pass will write. -/
def Pass.outLines (s : State) (g : Group) (p : Pass) (slab : Nat) : List (Loc × Nat) :=
  rowLines s g p.oRec (p.outRows.map fun im => (List.range 96).filterMap fun n => p.outCoord slab im.1 im.2 n)

/-- Consecutive registers from a base, those above A63 as 0. -/
def Group.regsFrom (g : Group) (c n : Nat) : List Word := (List.range n).map fun j => if c + j < 64 then g.ra (c + j) else 0

/-- Whether the group may issue a pass of its session on a tile (07 R25, R223, R230). -/
def mayPass (ss : Session) (q z : Nat) : Bool := q == 0 && decide (z < ss.tiles) && ss.parts.all fun p => !p.left

/-- A pass joins its session's passes, four at most (07 R222); while the session is saved it waits for its restore (12 R341). -/
def issuePass (s : State) (g : Group) (k : Nat) (ss : Session) (p : Pass) (lines : Pass → List (Loc × Nat)) : Res :=
  if ss.saved || decide (4 ≤ ss.passes.length) then .wait .other s
  else
    let (id, s) := s.newId
    let p := { p with id, pc := g.apc, need := g.engNeed }
    let p := { p with lines := lines p }
    .done ({ s with sessions := s.sessions.set k { ss with passes := ss.passes ++ [p] } }.putG (g.adv 8))

/-- A pass not yet in a session. -/
def Pass.new (i : Instr) (vals : List Word) (recs : List (BitVec 512)) : Pass :=
  { id := 0, instr := i, pc := 0, vals, recs, step := 0, started := false, granted := false, surge := none, inStep := false,
    rows := [0, 0, 0, 0], panel := [], fault := none, told := false, empty := false, need := [], lines := [],
    ahead := [] }

/-- Use an output record unless the code is 15 (keep). -/
def withOut (g : Group) (s : State) (o : BitVec 4) (f : Option Ten → Res) : Res :=
  if o = 15 then f none else withT g s o.toNat fun t => f (some t)

/-- Whether a record is plain with a dimension count and a format. -/
def Ten.is (t : Ten) (nd fmt : Nat) : Bool := t.kind == 0 && t.ndim == nd && t.fmt == fmt

/-- MXLOOP (07 R227, R228, R230). -/
def execMxloop (ta : BitVec 4) (c : BitVec 6) (z : BitVec 2) (ks : BitVec 12) (mr : BitVec 5) (o : BitVec 4)
    (ob : BitVec 6) (acc : BitVec 1) (epi : BitVec 4) : State → Out :=
  let i : Instr := .mxloop ta c z ks mr o ob acc epi
  aIssue i fun g s =>
    notWhileSaving g s fun _ =>
    withT g s ta.toNat fun t => withOut g s o fun to_ =>
      match s.mySession g with
      | none => .trap (mxTrap 1) s
      | some (k, ss, q) =>
        if !mayPass ss q z.toNat then .trap (mxTrap 1) s
        else if !t.is 2 ss.fa || !(to_.all fun t => t.is 2 ss.fo) || (epi == 9 && !accinOk ss.fa ss.fo) then
          .trap (mxTrap 2) s
        else
          let p := Pass.new i (g.regsFrom c.toNat 4 ++ g.regsFrom ob.toNat 3)
            [(g.rt ta.toNat).img, 0, (g.rt o.toNat).img]
          issuePass s g k ss p fun p => p.outLines s g (slabOf ss.fa)

/-- MXCONV (07 R231). -/
def execMxconv (ti tc : BitVec 4) (c : BitVec 6) (z : BitVec 2) (ks : BitVec 12) (mr : BitVec 5) (o : BitVec 4)
    (ob : BitVec 6) (acc : BitVec 1) (epi : BitVec 4) : State → Out :=
  let i : Instr := .mxconv ti tc c z ks mr o ob acc epi
  aIssue i fun g s =>
    notWhileSaving g s fun _ =>
    withT g s ti.toNat fun t => withT g s tc.toNat fun tcv => withOut g s o fun to_ =>
      match s.mySession g with
      | none => .trap (mxTrap 1) s
      | some (k, ss, q) =>
        let cv := Conv.of (g.rt tc.toNat).img.toNat
        if !mayPass ss q z.toNat then .trap (mxTrap 1) s
        else if isBq ss.fa || !t.is 4 ss.fa || tcv.kind != 2 || !(to_.all fun t => t.is 4 ss.fo) ||
            (epi == 9 && !accinOk ss.fa ss.fo) then .trap (mxTrap 2) s
        else if cv.dw1 && (convG cv (slabOf ss.fa) == 0 || ks != 1) then .trap (mxTrap 5) s
        else
          let p := Pass.new i (g.regsFrom c.toNat 4 ++ g.regsFrom ob.toNat 3)
            [(g.rt ti.toNat).img, (g.rt tc.toNat).img, (g.rt o.toNat).img]
          issuePass s g k ss { p with empty := convEmpty t cv } fun p => p.outLines s g (slabOf ss.fa)

/-- Rows of a tile that its last pass wrote, as (array, row). -/
def Session.wrote (ss : Session) (z : Nat) : List (Nat × Nat) :=
  ((List.range 4).map fun i => (List.range (ss.lastCnt.getD (4 * z + i) 0)).map fun m => (i, m)).flatten

/-- The output coordinates of pair `j` of a row that MXSEL ranks (07 R232): of the index and of the tile word. -/
def selCoord (p : Pass) (mr i m j : Nat) : List Int × List Int :=
  let row := p.val 4 + ((i * mr + m : Nat) : Int)
  ([p.val 5 + (2 * j : Nat), row], [p.val 5 + (2 * j + 1 : Nat), row])

/-- Pairs that MXSEL writes for each row. -/
def selK : Instr → Nat
  | .mxsel _ k _ _ _ => k.toNat
  | _ => 0

/-- The lines that an MXSEL will write, by the rows that the passes before it leave. -/
def selLines (s : State) (g : Group) (ss : Session) (p : Pass) : List (Loc × Nat) :=
  let z := (mxArgs p.instr).z
  let before := ss.passes.filter fun q => (mxArgs q.instr).z == z && (mxArgs q.instr).ks != 0
  let rows := match before.getLast? with
    | some q => ((mxArgs q.instr).mr,
        ((List.range 4).map fun i => (List.range (q.rowsOf i)).map fun m => (i, m)).flatten)
    | none => (ss.lastRows.getD z 0, ss.wrote z)
  rowLines s g p.oRec (rows.2.map fun im => ((List.range (selK p.instr)).map fun j =>
    let c := selCoord p rows.1 im.1 im.2 j
    [c.1, c.2]).flatten)

/-- MXSEL (07 R232). -/
def execMxsel (z : BitVec 2) (kk : BitVec 5) (big : BitVec 1) (o : BitVec 4) (ob : BitVec 6) : State → Out :=
  let i : Instr := .mxsel z kk big o ob
  aIssue i fun g s =>
    notWhileSaving g s fun _ =>
    withT g s o.toNat fun t =>
      match s.mySession g with
      | none => .trap (mxTrap 1) s
      | some (k, ss, q) =>
        if !mayPass ss q z.toNat then .trap (mxTrap 1) s
        else if !t.is 2 8 then .trap (mxTrap 2) s
        else
          let p := Pass.new i ([0, 0, 0, 0] ++ g.regsFrom ob.toNat 3) [0, 0, (g.rt o.toNat).img]
          issuePass s g k ss p (selLines s g ss)

/-- MXREL (07 R223); while the session is saved it waits for its restore (12 R341). -/
def execMxrel : State → Out :=
  aIssue .mxrel fun g s =>
    notWhileSaving g s fun _ =>
    match deliver s g false .session with
    | some s => .done s
    | none =>
      match s.mySession g with
      | none => .trap (mxTrap 1) s
      | some (k, ss, q) =>
        if ss.saved || !(ss.passes.all (·.told)) then .wait .barrier s
        else
          let r := leaveSession s g k ss q
          .done (r.1.putG (r.2.adv 8))

/-- The snapshot of MXSTAT (07 R224). -/
def mxStat (ss : Session) (q : Nat) : Word :=
  let f := (ss.parts[q]?.map fun p => p.feeds - p.latched).getD 0
  BitVec.ofNat 32 (2 ^ 20 * ss.entry + 2 ^ 14 * (f % 8) + 2 ^ 12 * (q % 4) + 2 ^ 9 * (ss.passes.length % 8) +
    (if ss.empty then 2 ^ 8 else 0) + ss.doneN % 256)

/-- MXSTAT. -/
def execMxstat (d : BitVec 6) : State → Out :=
  aIssue (.mxstat d) fun g s =>
    notWhileSaving g s fun _ =>
    match s.mySession g with
    | none => .trap (mxTrap 1) s
    | some (_, ss, q) => .done (s.putG ((g.wa d.toNat (mxStat ss q)).adv 8))

/-- Whether a register of a run is still to be written by an operation of the C-stream in flight (16 R386); what a trap has set aside is no
instruction of the handler. -/
def Group.writesPending (g : Group) (lo n : Nat) : Bool :=
  let mine := fun (r : Nat) => decide (lo ≤ r ∧ r < lo + n)
  (g.pend.any fun o => match o.kind with
    | .near d sz _ _ => (List.range (max 1 (sz / 4))).any fun j => mine (d + j)
    | .nearAtom d _ true _ _ _ => mine d
    | _ => false) ||
    g.lane.any fun o => !g.laneAside o && o.regs.any mine

/-- MXFEED: the participant's next bank is full (07 R225, R226; 16 R386); while the session is saved it waits for its restore (12 R341). -/
def execMxfeed (fl : BitVec 1) (x : Ctl) (s : State) : Out :=
  cIssue (.mxfeed fl x) (fun e g s =>
    match g.due.head? with
    | some d => .done (trapHere s { g with due := g.due.erase d } e ((encodeC (.mxfeed fl x)).getD 0) d.2.1
        (some d.2.2))
    | none =>
      match s.mySession g with
      | none => .trap (mxTrap 1) s
      | some (k, ss, q) =>
        match ss.parts[q]? with
        | none => .trap (mxTrap 1) s
        | some p =>
          if 1 < g.cs.splits.length then .trap (Cause.mk' 8 6) s
          else if ss.saved || decide (p.latched + 2 ≤ p.feeds) then .wait .other s
          else
            let n := bankRegs ss.fb
            let lo := p.vb + n * (p.feeds % 2)
            if g.writesPending lo n then .wait .other s
            else
              withFlag e g s fl fun f =>
                let p := { p with feeds := p.feeds + 1, flags := p.flags ++ [f] }
                let s := { s with sessions := s.sessions.set k { ss with parts := setAt ss.parts q p } }
                .done (s.putG (g.attach f))) s

end Sys2Proof.Machine
end

