-- ==== Sys2Proof/Machine/MatrixEv.lean ====
section
/-! DEFINITION. The steps of the matrix engines (12 R327-R343; 07 R221-R232; 11 R326; 19 R387): sessions form, passes are
granted, steps latch and decode, outputs are written, and what a session leaves in its matrix areas. -/

namespace Sys2Proof.Machine

/-- The sessions of a quad that are not saved, in the order in which they formed. -/
def State.sessionsOf (s : State) (quad : Nat) : List (Nat × Session) :=
  sortBy (fun (a b : Nat × Session) => decide (a.2.order ≤ b.2.order)) (s.sessions.filter fun e => e.2.quad == quad && !e.2.saved)

/-- Replace a session. -/
def State.setSession (s : State) (k : Nat) (ss : Session) : State := { s with sessions := s.sessions.set k ss }

/-- The state of a reservation entry (12 R329). -/
inductive SessSt where
  | bound
  | pending
  | running
  | saved
  deriving DecidableEq, Repr

/-- The state of a session's entry. -/
def Session.st (ss : Session) : SessSt :=
  if ss.saved then .saved
  else if ss.passes.any (·.granted) then .running
  else if ss.passes.isEmpty then .bound else .pending

/-! ## Formation -/

/-- The four waiting MXBINDs of quarters 0 to 3 that a bind belongs to, if all are there and agree. -/
def State.fullSet (s : State) (b : Bind) : Option (List Bind) :=
  match s.groups.get? b.gid with
  | none => none
  | some g =>
    let ms := s.mates g
    let qs := (List.range 4).filterMap fun q => ms.find? fun m => m.q == q
    if qs.length = 4 ∧ qs.all fun m => m.terms == b.terms then some qs else none

/-- A participant as it joins. -/
def partOf (s : State) (b : Bind) : Part :=
  { gid := b.gid, tid := ((s.groups.get? b.gid).map (·.who.tid)).getD 0, nb := b.nb, left := false, vb := b.vb, feeds := 0,
    latched := 0, flags := [] }

/-- SESSION_FORM: four MXBINDs that belong together complete, if the quad has a free entry (07 R221). -/
def execSessionForm (quad : Nat) (s : State) : Out :=
  let mine := s.binds.filter fun b => (s.groups.get? b.gid).any fun g => quadOf g.who.core == quad
  match mine.findSome? s.fullSet with
  | none => .next s
  | some bs =>
    let usedE := ((s.sessions.filter fun e => e.2.quad == quad).map fun e => e.2.entry)
    match (List.range 16).find? fun n => !usedE.contains n with
    | none => .next s
    | some entry =>
      match bs with
      | b :: _ =>
        let (k, s) := s.newId
        let ss : Session :=
          { quad, entry, formed := s.time, order := k, lid := ((s.groups.get? b.gid).map (·.who.lid)).getD 0, words := b.word,
            fa := b.fa, fb := b.fb, fo := b.fo, dist := b.dist, tiles := b.tiles, prio := b.prio,
            parts := bs.map (partOf s), steps := 0, lastRows := List.replicate 4 0, lastCnt := List.replicate 16 0,
            resident := false, zero := List.range b.tiles, z := [], saved := false, passes := [], doneN := 0,
            empty := false, lastGrant := 0 }
        let s := s.setSession k ss
        let s := bs.zipIdx.foldl (fun (s : State) e =>
          { s with groups := s.groups.upd e.1.gid fun g =>
              { g.adv 8 with stop := .run, ablk := none, session := some (k, e.2) } }) s
        .next { s with binds := s.binds.filter fun x => !(bs.any fun y => y.gid == x.gid) }
      | [] => .next s

/-! ## Matrix areas -/

/-- The end of a participant's save slot. -/
def slotEnd (s : State) (g : Group) : Nat := g.slotBase + 65536 * (s.lau g).qd.slot64

/-- The place of tile `t` in a participant's matrix area (12 R331). -/
def tileVa (s : State) (g : Group) (t : Nat) : Nat := slotEnd s g - 49152 + 12288 * t

/-- Row `m` of a tile in an array. -/
def Session.row (ss : Session) (t i m : Nat) : Lanes := ss.z.getD ((4 * t + i) * 32 + m) zeroLanes

/-- Set a row. -/
def Session.setRow (ss : Session) (t i m : Nat) (x : Lanes) : Session := { ss with z := ss.z.set ((4 * t + i) * 32 + m) x }

/-- Dissolve a session and leave a cause with each participant that has not left (07 R222; 12 R343; 19 R387). -/
def State.breakUp (s : State) (k : Nat) (c : Cause) (pc : Nat) : State :=
  match s.sessions.get? k with
  | none => s
  | some ss =>
    let s := s.dissolve k
    ss.parts.foldl (fun (s : State) p =>
      if p.left then s
      else { s with groups := s.groups.upd p.gid fun g => { g with due := g.due ++ [(p.nb, c, pc)] } }) s

/-- Write every tile of a session to the matrix areas of its participants; a failure dissolves it (12 R330, R331, R343). The rows of one that
has left have no area any more, and stay. -/
def evict (s : State) (k : Nat) : State :=
  match s.sessions.get? k with
  | none => s
  | some ss =>
    let r := (List.range ss.tiles).foldl (fun (acc : State × Bool) t =>
      ss.parts.zipIdx.foldl (fun (acc : State × Bool) p =>
        if acc.2 || p.1.left then acc
        else match acc.1.groups.get? p.1.gid with
        | none => acc
        | some g =>
          let bytes := ((List.range 32).map fun m => lanesBytes (ss.row t p.2 m)).flatten
          match acc.1.writeVaBlk (acc.1.lau g).qd.vf true (some (s.user g)) (tileVa acc.1 g t) bytes with
          | (s, none) => (s, false)
          | (s, some _) => (s, true)) acc) (s, false)
    if r.2 then r.1.breakUp k (Cause.mk' 9 1 2) 0
    else
      let left := ss.z.filter fun e => (ss.parts[e.1 / 32 % 4]?).any (·.left)
      r.1.setSession k { ss with resident := false, zero := [], z := left }

/-- The rows of one tile in one array read back. -/
def readTile (s : State) (g : Group) (t : Nat) : State × Except AFault (List Lanes) :=
  match s.readVa (s.lau g).qd.vf true (tileVa s g t) 12288 (some (s.user g)) with
  | (s, .ok b) => (s, .ok ((List.range 32).map fun m => bytesLanes ((b.drop (384 * m)).take 384)))
  | (s, .error e) => (s, .error e)

/-- Make a session's tiles resident: those marked zero without a read, the others from the matrix areas (12 R330). -/
def reload (s : State) (k : Nat) : State :=
  match s.sessions.get? k with
  | none => s
  | some ss =>
    if ss.resident then s
    else
      let r := ((List.range ss.tiles).filter fun t => !ss.zero.contains t).foldl (fun (acc : State × Option Session) t =>
        ss.parts.zipIdx.foldl (fun (acc : State × Option Session) p =>
          match acc.2, if p.1.left then none else acc.1.groups.get? p.1.gid with
          | some ss, some g =>
            match readTile acc.1 g t with
            | (s, .ok rows) => (s, some (rows.zipIdx.foldl (fun (ss : Session) x => ss.setRow t p.2 x.2 x.1) ss))
            | (s, .error _) => (s, none)
          | _, _ => acc) acc) (s, some ss)
      match r.2 with
      | some ss => r.1.setSession k { ss with resident := true, zero := [] }
      | none => r.1.breakUp k (Cause.mk' 9 1 2) 0

/-- The session to evict next: Bound ones least recently granted first, then Pending ones, last in arbitration order first. -/
def victim (s : State) (quad keep : Nat) : Option Nat :=
  let cand := (s.sessionsOf quad).filter fun e => e.1 != keep && e.2.resident
  match sortBy (fun (a b : Nat × Session) => decide (a.2.lastGrant ≤ b.2.lastGrant)) (cand.filter fun e => e.2.st == .bound) with
  | e :: _ => some e.1
  | [] =>
    let ps := cand.filter fun e => e.2.st == .pending
    ((sortBy (fun (a b : Nat × Session) => decide (a.2.prio < b.2.prio) || (a.2.prio == b.2.prio && decide (b.2.order ≤ a.2.order)))
      ps).map (·.1)).head?

/-- Evict until a session's tiles fit the 16 that an array stores. -/
def makeRoom (quad k : Nat) : Nat → State → State
  | 0, s => s
  | n + 1, s =>
    let need := ((s.sessions.get? k).map (·.tiles)).getD 0
    let held := (((s.sessionsOf quad).filter fun e => e.1 != k && e.2.resident).map fun e => e.2.tiles).sum
    if held + need ≤ 16 then s
    else match victim s quad k with
      | some v => makeRoom quad k n (evict s v)
      | none => s

/-! ## Grants -/

/-- Whether every participant has fed the next step (07 R226). -/
def Session.fed (ss : Session) : Bool := ss.parts.all fun p => decide (ss.steps < p.feeds)

/-- Whether a pass uses the arrays; MXSEL does not (12 R333). -/
def Pass.onArrays (p : Pass) : Bool := (mxArgs p.instr).ks != 0

/-- Whether the arrays of a quad are held by a pass. -/
def State.arraysBusy (s : State) (quad : Nat) : Bool := s.sessions.any fun e => e.2.quad == quad && e.2.passes.any (·.granted)

/-- Whether a session's oldest pass may be granted. -/
def Session.ready (ss : Session) : Bool :=
  match ss.passes with
  | p :: _ => p.onArrays && p.fault.isNone && (p.inStep || ss.fed || decide ((mxArgs p.instr).ks ≤ p.step))
  | [] => false

/-- Change the pass of a session that a number names. -/
def Session.updPass (ss : Session) (id : Nat) (f : Pass → Pass) : Session :=
  { ss with passes := ss.passes.map fun p => if p.id = id then f p else p }

/-- PASS_GRANT: the free arrays go to the session whose next step is fed, the highest priority first and then the first to have
formed; its tiles become resident; a start on an engine idle for 64 clk asks the surge arbiter (07 R222; 11 R326; 12 R333). -/
def execPassGrant (quad : Nat) (s : State) : Out :=
  let q := s.quads.getD quad Quad.reset
  if s.arraysBusy quad || q.preempt.isSome then .next s
  else
    let cand := (s.sessionsOf quad).filter fun e => e.2.ready
    match sortBy (fun (a b : Nat × Session) => decide (b.2.prio ≤ a.2.prio)) cand with
    | [] => .next s
    | (k, _) :: _ =>
      let s := reload (makeRoom quad k 17 s) k
      match s.sessions.get? k with
      | none => .next s
      | some ss =>
        match ss.passes with
        | [] => .next s
        | p :: r =>
          let fresh := match q.lastUse with
            | some t => decide (t + 64 * clkT ≤ s.tick)
            | none => true
          let p := { p with granted := true, surge := if fresh then some s.tick else none }
          .next (s.setSession k { ss with passes := p :: r, lastGrant := s.tick })

/-- The passes that wait at the surge arbiter: when they asked, the session, the pass. -/
def State.surging (s : State) : List (Nat × Nat × Nat) :=
  sortBy (fun (a b : Nat × Nat × Nat) => decide (a.1 ≤ b.1))
    ((s.sessions.map fun e => e.2.passes.filterMap fun p => p.surge.map fun t => (t, e.1, p.id)).flatten)

/-- SURGE_GRANT: one new start per 64 clk over all quads, in the order of asking; the wait counts as issue cycles of the leader
(11 R314, R326). -/
def execSurgeGrant (quad : Nat) (s : State) : Out :=
  match s.surging with
  | [] => .next s
  | (t, k, id) :: _ =>
    match s.sessions.get? k with
    | none => .next s
    | some ss =>
      let open_ := match s.surge with
        | some u => decide (u + 64 * clkT ≤ s.tick)
        | none => true
      if ss.quad ≠ quad ∨ !open_ then .next s
      else
        let s := s.setSession k (ss.updPass id fun p => { p with surge := none })
        .next ({ s with surge := some s.tick }.charge ss.lid ((s.tick - t) / clkT))

/-! ## Steps -/

/-- The granted pass of a quad, with its session and leader. -/
def State.running (s : State) (quad : Nat) : Option (Nat × Session × Pass × Group) :=
  (s.sessionsOf quad).findSome? fun e =>
    (e.2.passes.find? (·.granted)).bind fun p =>
      ((e.2.parts[0]?).bind fun x => s.groups.get? x.gid).map fun g => (e.1, e.2, p, g)

/-- Whether the operations of a group that an engine operation follows have been performed (09 R287). -/
def Group.engReady (g : Group) (need : List Nat) : Bool :=
  g.performed need && need.all fun n => !(g.mu.any fun o => o.id == n)

/-- Stop a pass at a fault (07 R216). -/
def passFault (s : State) (k : Nat) (ss : Session) (p : Pass) (c : Cause) : State :=
  s.setSession k (ss.updPass p.id fun p => { p with fault := some c, told := false })

/-- An engine fault as an event answers it: a cause, or an address that does not exist. -/
def AFault.engine (f : AFault) (acc engine : Nat) : Except Fault Cause :=
  match f with
  | .cause grp c d va => .ok (Cause.mk' grp c d va)
  | .window _ va => .ok (Cause.mk' 4 1 (tDetail acc 0 engine) va)
  | .hole a => .error (.noSuchAddress a)

/-- A source element out of bounds under PADM 2 (03 R139; 08 R254). -/
def boundsCause (t : Ten) (cs : List Int) (engine : Nat) : Cause :=
  let _ := engine
  let o := t.outAt cs
  Cause.mk' 5 3 ((o.2 % 2 ^ 32).toNat + 2 ^ 32 * o.1 + 2 ^ 64 * (t.ext o.1).toNat)

/-- Read one element as a source: from memory inside the extents, else what PADM gives; no number for a zero. -/
def srcElem (s : State) (g : Group) (engine : Nat) (t : Ten) (cs : List Int) (u : User := s.user g) :
    State × Except (Except Fault Cause) (Option Nat) :=
  if t.inside cs then
    match tenRead s g engine t cs u with
    | (s, .ok x) => (s, .ok (some x))
    | (s, .error e) => (s, .error (e.engine 0 engine))
  else if t.padm = 2 then (s, .error (.ok (boundsCause t cs engine)))
  else (s, .ok (if t.padm = 1 then some t.pad else none))

/-- The 4-byte parts of an element, which an engine reads one by one, a block's from its first byte on (09 R278, R287). -/
def Ten.parts (t : Ten) : Nat := (fmtBits t.fmt + 31) / 32

/-- Part `j` of an element's bits. -/
def Ten.part (t : Ten) (j v : Nat) : Nat := if t.parts = 1 then v else v / 2 ^ (32 * j) % 2 ^ 32

/-- Read an element of which some parts have been read already, by the number of the part. -/
def partElem (s : State) (g : Group) (engine : Nat) (t : Ten) (got : List (Nat × Nat)) (k : Nat) (cs : List Int)
    (u : User := s.user g) : State × Except (Except Fault Cause) (Option Nat) :=
  let n := t.parts
  let old := (List.range n).map fun j => (got.find? fun x => x.1 == n * k + j).map (·.2)
  let whole := fun (v : Nat) => (old.zipIdx.map fun x => x.1.getD (t.part x.2 v) * 2 ^ (32 * x.2)).sum
  if old.all (·.isSome) then (s, .ok (some (whole 0)))
  else match srcElem s g engine t cs u with
    | (s, .ok v) => (s, .ok (v.map whole))
    | r => r

/-- Read the parts of elements that a set picks, ahead of the others: what they hold, by the number of the part. -/
def readParts (s : State) (g : Group) (engine : Nat) (t : Ten) (got : List (Nat × Nat)) (pick : Nat → Bool)
    (es : List (Nat × List Int)) (u : User := s.user g) : State × Except (Except Fault Cause) (List (Nat × Nat)) :=
  let n := t.parts
  (es.map fun e => (List.range n).map fun j => (e.1, j, e.2)).flatten.foldl
    (fun (x : State × Except (Except Fault Cause) (List (Nat × Nat))) e =>
      match x with
      | (s, .error f) => (s, .error f)
      | (s, .ok vs) =>
        if !pick (n * e.1 + e.2.1) || (vs.any fun v => v.1 == n * e.1 + e.2.1) then (s, .ok vs)
        else match srcElem s g engine t e.2.2 u with
          | (s, .ok v) => (s, .ok (vs ++ [(n * e.1 + e.2.1, t.part e.2.1 (v.getD 0))]))
          | (s, .error f) => (s, .error f)) (s, .ok got)

/-- Whether elements are read in more than one step, and which of their parts in this one: a free choice where there is more than one to read
(09 R278, R287). -/
def readAhead (s : State) (t : Ten) (es : List (Nat × List Int)) : State × Option (Nat → Bool) :=
  if (es.filter fun e => t.inside e.2).length * t.parts ≤ 1 then (s, none)
  else
    let (n, s) := s.draw
    (s, if Config.freeBit n then some (Config.freeSet n) else none)

/-- An element of an A row before it is read: an element of the record, a padding tap, or nothing. -/
inductive AElem where
  | at_ (cs : List Int)
  | tap
  | zero
  deriving DecidableEq, Repr

/-- Element `kk` of step `st` of a row (07 R228, R231; 12 R336). -/
def Pass.aElem (p : Pass) (slab i m st kk : Nat) : AElem :=
  let a := mxArgs p.instr
  if !a.conv then .at_ [p.val 1 + ((st * slab + kk : Nat) : Int), p.val 0 + ((i * a.mr + m : Nat) : Int)]
  else
    let t := p.aRec
    let c := p.cRec
    let k := st * slab + kk
    let no := p.rowNo i m
    let w := (convSize t c).2
    let ch := if c.dw1 then k / (c.fh * c.fw) else k % c.cin
    let tap := if c.dw1 then k % (c.fh * c.fw) else k / c.cin
    let valid := if c.dw1 then decide (ch < convG c slab) && decide (p.val 3 + (ch : Int) < c.cin)
      else decide (k < c.fh * c.fw * c.cin)
    let ih : Int := no / w * c.sh - c.pt + (tap / c.fw : Nat) * c.dh
    let iw : Int := no % w * c.sw - c.pl + (tap % c.fw : Nat) * c.dw
    if !valid then .zero
    else if 0 ≤ ih ∧ ih < t.ext 2 ∧ 0 ≤ iw ∧ iw < t.ext 1 then .at_ [p.val 3 + (ch : Int), iw, ih, p.val 0]
    else .tap

/-- The elements of an A row of a step, in order. -/
def Pass.rowElems (ss : Session) (p : Pass) (i m : Nat) : List AElem :=
  let n := if isBq ss.fa then 4 else slabOf ss.fa
  (List.range n).map fun kk => p.aElem n i m p.step kk

/-- Those of them that stand in the record, by their place in the row. -/
def rowReads (es : List AElem) : List (Nat × List Int) :=
  es.zipIdx.filterMap fun e => match e.1 with
    | .at_ cs => some (e.2, cs)
    | _ => none

/-- Read the elements of an A row of a step, but for the parts that have been read already. -/
def readRow (s : State) (g : Group) (ss : Session) (p : Pass) (i m : Nat) (got : List (Nat × Nat)) :
    State × Except (Except Fault Cause) (List (Option Nat)) :=
  let t := p.aRec
  (p.rowElems ss i m).zipIdx.foldl (fun (acc : State × Except (Except Fault Cause) (List (Option Nat))) e =>
    match acc with
    | (s, .error e) => (s, .error e)
    | (s, .ok xs) =>
      match e.1 with
      | .zero => (s, .ok (xs ++ [none]))
      | .tap => (s, .ok (xs ++ [if ss.dist && t.padm == 1 then some t.pad else none]))
      | .at_ cs =>
        match partElem s g 2 t got e.2 cs with
        | (s, .ok x) => (s, .ok (xs ++ [x]))
        | (s, .error e) => (s, .error e)) (s, .ok [])

/-- Load a tile from the output record before step 0 (07 R229 accin). -/
def loadAccin (s : State) (g : Group) (ss : Session) (p : Pass) :
    State × Except (Except Fault Cause) (Session × Fl) :=
  let a := mxArgs p.instr
  let t := p.oRec
  ((List.range 4).map fun i => (List.range a.mr).map fun m => (i, m)).flatten.foldl
    (fun (acc : State × Except (Except Fault Cause) (Session × Fl)) im =>
      let row : State × Except (Except Fault Cause) (List Word × Fl) :=
        (List.range 96).foldl (fun (r : State × Except (Except Fault Cause) (List Word × Fl)) n =>
          match r with
          | (s, .error e) => (s, .error e)
          | (s, .ok x) =>
            match if im.2 < p.rowsOf im.1 then some (p.coordOf im.1 im.2 n) else none with
            | none => (s, .ok (x.1 ++ [0], x.2))
            | some cs =>
              if t.inside cs then
                match tenRead s g 2 t cs with
                | (s, .ok raw) =>
                  let e := accinElem ss.fo raw
                  (s, .ok (x.1 ++ [e.1], x.2 ||| e.2))
                | (s, .error e) => (s, .error (e.engine 0 2))
              else (s, .ok (x.1 ++ [0], x.2))) (acc.1, .ok ([], 0))
      match acc.2, row with
      | .error e, _ => (acc.1, .error e)
      | .ok _, (s, .error e) => (s, .error e)
      | .ok x, (s, .ok r) => (s, .ok (x.1.setRow a.z im.1 im.2 r.1, x.2 ||| r.2))) (s, .ok (ss, 0))

/-- The step in progress has ended once every array has taken its rows (12 R334). -/
def Pass.stepEnd (p : Pass) : Pass :=
  if (List.range 4).all fun i => decide (p.rowsOf i ≤ p.rows.getD i 0) then
    { p with inStep := false, step := p.step + 1, rows := [0, 0, 0, 0], panel := [] }
  else p

/-- Latch a bank of every participant: the panel, and the feeds whose flags complete (07 R226, 12 R328). -/
def latch (s : State) (ss : Session) : State × Session × List (List Lanes) :=
  let n := bankRegs ss.fb
  let panel := ss.parts.map fun p =>
    match s.groups.get? p.gid with
    | some g => (List.range n).map fun r => g.cs.rv (p.vb + n * (ss.steps % 2) + r)
    | none => []
  let s := ss.parts.foldl (fun (s : State) p =>
    { s with groups := s.groups.upd p.gid fun g => g.detach (p.flags.headD 15) }) s
  let parts := ss.parts.map fun p => { p with latched := p.latched + 1, flags := p.flags.drop 1 }
  (s, { ss with parts, steps := ss.steps + 1 }, panel)

/-- The answer of a step that may fault: suspend the pass, or stop the machine. -/
def onPassFault (s : State) (k : Nat) (ss : Session) (p : Pass) (e : Except Fault Cause) : Out :=
  match e with
  | .ok c => .next (passFault s k ss p c)
  | .error f => .fault f

/-- The tile before step 0 of a pass (07 R228): cleared, loaded, or kept. -/
def firstStep (s : State) (g : Group) (ss : Session) (p : Pass) : State × Except (Except Fault Cause) (Session × Fl) :=
  let a := mxArgs p.instr
  if p.started || p.empty then (s, .ok (ss, 0))
  else if a.epi = 9 then loadAccin s g ss p
  else if a.acc then (s, .ok (ss, 0))
  else
    (s, .ok (((List.range 4).foldl (fun (ss : Session) i =>
      (List.range a.mr).foldl (fun (ss : Session) m => ss.setRow a.z i m zeroLanes) ss) ss), 0))

/-- Raise flags on behalf of a session's leader (01 R37). -/
def State.leaderFl (s : State) (g : Group) (f : Fl) : State :=
  { s with groups := s.groups.upd g.who.gid fun g => g.raiseFl f }

/-- STEP_START: the arrays latch the fed bank and take the step (07 R226, 12 R328). -/
def execStepStart (quad : Nat) (s : State) : Out :=
  match s.running quad with
  | none => .next s
  | some (k, ss, p, g) =>
    if p.inStep || p.surge.isSome || p.fault.isSome || decide ((mxArgs p.instr).ks ≤ p.step) || !ss.fed || !g.engReady p.need ||
        (s.quads.getD quad Quad.reset).preempt.isSome then .next s
    else
      match firstStep s g ss p with
      | (s, .error e) => onPassFault s k ss p e
      | (s, .ok (ss, fl)) =>
        let (s, ss, panel) := latch (s.leaderFl g fl) ss
        .next (s.setSession k (ss.updPass p.id fun p =>
          ({ p with started := true, inStep := true, rows := [0, 0, 0, 0], panel } : Pass).stepEnd))

/-- A check that fails (03 R100; 07 R222; 14 R401): the event, and the trap left with every participant. -/
def checkFailed (s : State) (k quad array : Nat) (ss : Session) (p : Pass) : State :=
  let step := (ss.steps - 1) % 4096
  let seq := s.regs.clseq
  let l := s.launches.getD ss.lid Launch.blank
  let s := s.colophon 3 1 quad l.qd.vf (natLe 4 (array + 4096 * step) ++ l.tag)
  s.breakUp k (Cause.mk' 10 1 (quad + 256 * array + 4096 * step + 2 ^ 32 * seq)) p.pc

/-- The error that falls on a column. -/
def errAt (err : Option ResidueError) (n : Nat) : Int × Int × Int :=
  match err with
  | some e => if e.col ≠ n then (0, 0, 0)
    else if e.chan = 1 then (e.delta, 0, 0) else if e.chan = 2 then (0, e.delta, 0) else (0, 0, e.delta)
  | none => (0, 0, 0)

/-- The parts of a row that an array has read ahead: the row of array `i` in a step. -/
def Pass.aheadOf (p : Pass) (step i m : Nat) : List (Nat × Nat) :=
  ((p.ahead.find? fun x => x.1 == 4096 * step + i && x.2.1 == m).map (·.2.2)).getD []

/-- What has been read ahead, with the parts of one row replaced; none of a row that has been taken. -/
def Pass.setAhead (p : Pass) (step i m : Nat) (got : List (Nat × Nat)) : List (Nat × Nat × List (Nat × Nat)) :=
  let rest := p.ahead.filter fun x => !(x.1 == 4096 * step + i && x.2.1 == m)
  if got.isEmpty then rest else rest ++ [(4096 * step + i, m, got)]

/-- An array reads part of a row in a step of its own: the parts that it has read then, or nothing where it takes the whole row now, or
the row's data cannot be read (12 R334; 09 R278, R287). -/
def rowAhead (s : State) (g : Group) (ss : Session) (p : Pass) (i m : Nat) : State × Option (List (Nat × Nat)) :=
  let es := rowReads (p.rowElems ss i m)
  match readAhead s p.aRec es with
  | (s, none) => (s, none)
  | (s, some pick) =>
    match readParts s g 2 p.aRec (p.aheadOf p.step i m) pick es with
    | (t, .ok got) => (t, some got)
    | (_, .error _) => (s, none)

/-- A row of the step in progress: what has not been read ahead is read now (12 R334). -/
def takeRow (s : State) (g : Group) (ss : Session) (p : Pass) (i m : Nat) :
    State × Except (Except Fault Cause) (List (Option Nat)) :=
  readRow s g ss p i m (p.aheadOf p.step i m)

/-- The array may also read the same row of the next step, or part of it: a free choice (12 R334; 09 R287). -/
def readNext (s : State) (g : Group) (ss : Session) (p : Pass) (i m : Nat) : State × List (Nat × Nat × List (Nat × Nat)) :=
  let p := { p with ahead := p.setAhead p.step i m [] }
  if (mxArgs p.instr).ks ≤ p.step + 1 then (s, p.ahead)
  else
    let q := { p with step := p.step + 1 }
    match rowAhead s g ss q i m with
    | (s, some got) => (s, p.setAhead (p.step + 1) i m got)
    | (s, none) => (s, p.ahead)

/-- ROW_DECODE: an array reads part of its next row, or takes it; its sums are checked and added into the tile (12 R334). -/
def execRowDecode (quad array : Nat) (err : Option ResidueError) (s : State) : Out :=
  match s.running quad with
  | none => .next s
  | some (k, ss, p, g) =>
    let m := p.rows.getD array 0
    if !p.inStep || p.fault.isSome || decide (4 ≤ array) || decide (p.rowsOf array ≤ m) then .next s
    else
      match rowAhead s g ss p array m with
      | (s, some got) => .next (s.setSession k (ss.updPass p.id fun q => { q with ahead := p.setAhead p.step array m got }))
      | (s, none) =>
      match takeRow s g ss p array m with
      | (s, .error e) => onPassFault s k ss p e
      | (s, .ok raw) =>
        let (s, ahead) := readNext s g ss p array m
        let z := (mxArgs p.instr).z
        match rowStep ss.fa ss.fb ss.dist raw p.panel (ss.row z array m) (errAt err) with
        | none => .next (checkFailed s k quad array ss p)
        | some (row, fl, ev) =>
          let ss := ss.setRow z array m row
          let s := s.setSession k (ss.updPass p.id fun p => { p with rows := setAt p.rows array (m + 1), ahead }.stepEnd)
          .next ((s.leaderFl g fl).countEv ss.lid ev)

/-! ## Output -/

/-- Whether no earlier engine operation still owns one of the lines (07 R217, 09 R286). -/
def State.engTurn (s : State) (id : Nat) (lines : List Loc) : Bool :=
  !(s.eng.any fun o => decide (o.id < id) && lines.any o.owns) &&
    !(s.sessions.any fun e => e.2.passes.any fun p => decide (p.id < id) && lines.any p.owns)

/-- The epilogue table of a pass: 194 words of the leader's core scratchpad (07 R229). DESIGN CHOICE: an offset that is no multiple
of 4 is read as it stands (notes/assumptions/75.md). -/
def readTable (s : State) (g : Group) (p : Pass) : State × Except (Except Fault Cause) (List Nat) :=
  if epiTable (BitVec.ofNat 4 (mxArgs p.instr).epi) then
    match engRead s g 2 3 (p.vals.getD 6 0).toNat 776 with
    | (s, .ok b) => (s, .ok ((List.range 194).map fun j => numAt b (4 * j) 4))
    | (s, .error e) => (s, .error (e.engine 0 2))
  else (s, .ok [])

/-- Write one output row of a pass: its elements with flags and events; nothing of the row where an element fails. -/
def writeRow (s : State) (g : Group) (ss : Session) (p : Pass) (tab : List Nat) (i m : Nat) :
    State × Except (Except Fault Cause) (Fl × List Nat) :=
  let a := mxArgs p.instr
  let t := p.oRec
  let row := ss.row a.z i m
  let r := (List.range 96).foldl (fun (acc : State × Except (Except Fault Cause) (Fl × List Nat)) n =>
    match acc with
    | (s, .error e) => (s, .error e)
    | (s, .ok x) =>
      match p.outCoord (slabOf ss.fa) i m n with
      | none => (s, .ok x)
      | some cs =>
        if !t.inside cs then (s, .ok x)
        else
          let w := fun (j : Nat) => tab.getD j 0
          let e := outElem ss.fa ss.fo a.epi (lane row n) (w n) (w (96 + n)) (w 192) (w 193)
          match tenWrite s g 2 t cs e.1 with
          | (s, none) => (s, .ok (x.1 ||| e.2.1, x.2 ++ e.2.2))
          | (s, some f) => (s, .error (f.engine 1 2))) (s, .ok (0, []))
  match r with
  | (s', .ok x) => (s', .ok x)
  | (_, .error e) => (s, .error e)

/-- The end of a pass: one arrival on each participant's session barrier, with release at dev, DONE, EMPTY and what the tile's last pass
wrote (07 R215; 09 R282; 12 R335). -/
def endPass (s : State) (k quad : Nat) (ss : Session) (p : Pass) : State :=
  let a := mxArgs p.instr
  let s := match (ss.parts[0]?).bind fun x => s.groups.get? x.gid with
    | some g => s.publish g 4
    | none => s
  let s := ss.parts.foldl (fun (s : State) q => if q.left then s else s.engArrive q.tid q.nb q.gid) s
  let ss := { ss with passes := ss.passes.filter (fun q => q.id != p.id), doneN := (ss.doneN + 1) % 256 }
  let ss := if a.conv then { ss with empty := p.empty } else ss
  let ss := if p.onArrays then
      { ss with lastRows := setAt ss.lastRows a.z (if p.empty then 0 else a.mr),
                lastCnt := (List.range 4).foldl (fun l i => setAt l (4 * a.z + i) (p.rowsOf i)) ss.lastCnt }
    else ss
  let s := (s.setSession k ss).lateIfCut ((ss.parts[0]?.map (·.gid)).getD 0) p.pc (p.lines.map (·.1))
  if p.onArrays then { s with quads := setAt s.quads quad { (s.quads.getD quad Quad.reset) with lastUse := some s.tick } } else s

/-- Write the rows that a pass has still to write; the pass remembers how many stand when one fails. -/
def writeRows (g : Group) (ss : Session) (p : Pass) (tab : List Nat) :
    List (Nat × Nat) → Nat → State → State × Nat × Option (Except Fault Cause)
  | [], n, s => (s, n, none)
  | (i, m) :: r, n, s =>
    match writeRow s g ss p tab i m with
    | (s, .ok (fl, ev)) => writeRows g ss p tab r (n + 1) ((s.leaderFl g fl).countEv ss.lid ev)
    | (s, .error e) => (s, n, some e)

/-- PASS_COMPLETE: the tile goes through the epilogue and the output conversion to the output record, then the arrivals are
made (12 R335), unless the quad is being pre-empted: the pass has stopped at the end of its last K-step then (R340). Lines that it has
written are its own no more when it stops at a fault (09 R286). -/
def execPassComplete (quad : Nat) (s : State) : Out :=
  match s.running quad with
  | none => .next s
  | some (k, ss, p, g) =>
    if p.inStep || p.fault.isSome || decide (p.step < (mxArgs p.instr).ks) || !g.engReady p.need ||
        !s.engTurn p.id (p.lines.map (·.1)) || (s.quads.getD quad Quad.reset).preempt.isSome then
      .next s
    else
      match readTable s g p with
      | (s, .error e) => onPassFault s k ss p e
      | (s, .ok tab) =>
        let n := p.rows.getD 0 0
        match writeRows g ss p tab (p.outRows.drop n) n s with
        | (s, n, some e) =>
          let s := s.lateIfCut g.who.gid p.pc ((p.lines.filter fun l => decide (l.2 < n)).map (·.1))
          onPassFault s k (ss.updPass p.id fun p =>
            { p with rows := setAt p.rows 0 n, lines := p.lines.filter fun l => decide (n ≤ l.2) }) p e
        | (s, _, none) => .next (endPass s k quad ss p)

/-! ## Top-k selection -/

/-- The order in which MXSEL ranks tile words (07 R232): signed integers, or binary32 with NaN above everything. -/
def selKey (f : Bool) (w : Word) : Int :=
  if f then (if (f32.val w.toNat).isNan then 2 ^ 33 else f32.key w.toNat) else w.toInt

/-- The columns of a row, best first. -/
def rankRow (f big : Bool) (row : Lanes) : List Nat :=
  sortBy (fun (a b : Nat) =>
    let x := selKey f (lane row a)
    let y := selKey f (lane row b)
    if big then decide (y < x) || (x == y && decide (a ≤ b)) else decide (x < y) || (x == y && decide (a ≤ b)))
    (List.range 96)

/-- Whether a MXSEL takes the largest. -/
def selBig : Instr → Bool
  | .mxsel _ _ big _ _ => big == 1
  | _ => false

/-- A row of a tile, from its matrix area where the session has been evicted (12 R339). -/
def selRow (s : State) (ss : Session) (z i m : Nat) : State × Except AFault Lanes :=
  if ss.resident || ss.zero.contains z then (s, .ok (ss.row z i m))
  else
    match (ss.parts[i]?).bind fun p => s.groups.get? p.gid with
    | none => (s, .ok zeroLanes)
    | some g =>
      match s.readVa (s.lau g).qd.vf true (tileVa s g z + 384 * m) 384 (some (s.user g)) with
      | (s, .ok b) => (s, .ok (bytesLanes b))
      | (s, .error e) => (s, .error e)

/-- Write a list of words to elements of a record; nothing where one fails. -/
def writeElems (s : State) (g : Group) (engine : Nat) (t : Ten) (xs : List (List Int × Nat)) :
    State × Option (Except Fault Cause) :=
  let r := xs.foldl (fun (acc : State × Option (Except Fault Cause)) x =>
    match acc with
    | (s, some e) => (s, some e)
    | (s, none) =>
      if t.inside x.1 then
        match tenWrite s g engine t x.1 x.2 with
        | (s, none) => (s, none)
        | (s, some f) => (s, some (f.engine 1 engine))
      else (s, none)) (s, none)
  match r with
  | (s', none) => (s', none)
  | (_, some e) => (s, some e)

/-- TOPK_SELECT: the top-k unit ranks the next row of an MXSEL whose earlier passes have completed, or ends it (12 R333, R339). -/
def execTopkSelect (quad entry : Nat) (s : State) : Out :=
  match (s.sessionsOf quad).find? fun e => e.2.entry == entry with
  | none => .next s
  | some (k, ss) =>
    match ss.passes, (ss.parts[0]?).bind fun x => s.groups.get? x.gid with
    | p :: _, some g =>
      let a := mxArgs p.instr
      if p.onArrays || p.fault.isSome || !g.engReady p.need || !s.engTurn p.id (p.lines.map (·.1)) ||
          (s.quads.getD quad Quad.reset).preempt.isSome then .next s
      else
        match (ss.wrote a.z)[p.step]? with
        | none => .next (endPass s k quad ss p)
        | some (i, m) =>
          match selRow s ss a.z i m with
          | (s, .error _) => .next (s.breakUp k (Cause.mk' 9 1 2) 0)
          | (s, .ok row) =>
            let best := (rankRow (tileF32 ss.fa) (selBig p.instr) row).take (selK p.instr)
            let xs := (best.zipIdx.map fun b =>
              let c := selCoord p (ss.lastRows.getD a.z 0) i m b.2
              [(c.1, b.1), (c.2, (lane row b.1).toNat)]).flatten
            match writeElems s g 2 p.oRec xs with
            | (s, some e) => onPassFault s k ss p e
            | (s, none) =>
              let s := s.lateIfCut g.who.gid p.pc ((p.lines.filter fun l => decide (l.2 ≤ p.step)).map (·.1))
              .next (s.setSession k (ss.updPass p.id fun p =>
                { p with step := p.step + 1, started := true, lines := p.lines.filter fun l => decide (p.step < l.2) }))
    | _, _ => .next s

/-! ## Saving and restoring sessions -/

/-- A pass slot of the session record (12 R331). DESIGN CHOICE: that of an MXSEL, which has no A[C] and no steps, holds zeros for A[C] to
A[C+3] and the number of the next row to rank as the next step (notes/assumptions/49.md). -/
def passSlot (p : Pass) : List Byte :=
  natLe 8 (aWords p.instr).toNat ++ ((List.range 7).map fun j => wBytes (p.vals.getD j 0)).flatten ++
    natLe 4 (p.step % 4096 + (if p.started then 2 ^ 31 else 0)) ++ natLe 8 0

/-- The session record, 256 bytes (12 R331). -/
def Session.image (ss : Session) : List Byte :=
  natLe 8 ss.formed ++ natLe 8 ss.words ++ natLe 4 ss.steps ++
    natLe 4 (ss.passes.length % 8 + (if ss.empty then 8 else 0) + 16 * (ss.doneN % 256)) ++
    ((List.range 4).map fun t => natLe 1 (ss.lastRows.getD t 0)).flatten ++ natLe 4 0 ++
    ((List.range 4).map fun q => natLe 4 ((ss.parts[q]?.map (·.feeds)).getD 0)).flatten ++ natLe 16 0 ++
    ((List.range 4).map fun j => ((ss.passes[j]?).map passSlot).getD (natLe 48 0)).flatten

/-- Save a session at a pre-emption: tiles and record go to the matrix areas (12 R340), again with each participant that is saved, whose
feeds until then the record counts. -/
def saveSession (s : State) (k : Nat) : State :=
  match s.sessions.get? k with
  | none => s
  | some ss =>
    let s := if ss.resident then evict s k else s
    match s.sessions.get? k with
    | none => s
    | some ss =>
      let s := s.offArrays ss
      let r := ss.parts.zipIdx.foldl (fun (acc : State × Bool) p =>
        if acc.2 || p.1.left then acc
        else match acc.1.groups.get? p.1.gid with
        | none => acc
        | some g =>
          let b := if p.2 = 0 then ss.image else natLe 256 0
          match acc.1.writeVaBlk (acc.1.lau g).qd.vf true (some (s.user g)) (slotEnd acc.1 g - areaBytes) b with
          | (s, none) => (s, false)
          | (s, some _) => (s, true)) (s, false)
      if r.2 then r.1.breakUp k (Cause.mk' 9 1 2) 0
      else r.1.setSession k { ss with saved := true, passes := ss.passes.map fun p =>
        { p with granted := false, surge := none, ahead := [] } }

/-- A saved session takes an entry of the quad on which its participants come back, where one is free: its own, if it stands there
already (12 R329, R341). -/
def State.reEntry (s : State) (k quad : Nat) : Option State :=
  match s.sessions.get? k with
  | none => some s
  | some ss =>
    let usedE := ((s.sessions.filter fun e => e.1 != k && e.2.quad == quad).map fun e => e.2.entry)
    if ss.quad = quad then some s
    else ((List.range 16).find? fun n => !usedE.contains n).map fun entry => s.setSession k { ss with quad, entry }

/-- A pass as its slot of the session record gives it (12 R331). -/
def Pass.reloaded (p : Pass) (b : List Byte) (o : Nat) : Pass :=
  let pr := numAt b (o + 36) 4
  { p with instr := match decodeA (wordAt b o) (wordAt b (o + 4)) with
             | .ok i => i
             | .error _ => p.instr,
           vals := (List.range 7).map fun j => wordAt b (o + 8 + 4 * j), step := pr % 4096, started := decide (2 ^ 31 ≤ pr) }

/-- A saved session comes back: the leader's record is read again (12 R341); a leader that has left has none. -/
def restoreSession (s : State) (k : Nat) : State :=
  match s.sessions.get? k with
  | none => s
  | some ss =>
    match (ss.parts[0]?).bind fun p => if p.left then none else s.groups.get? p.gid with
    | none => s.setSession k { ss with saved := false }
    | some g =>
      match s.readVa (s.lau g).qd.vf true (slotEnd s g - areaBytes) 256 (some (s.user g)) with
      | (s, .error _) => s.breakUp k (Cause.mk' 9 1 2) 0
      | (s, .ok b) =>
        let w := numAt b 0x14 4
        let rows := (List.range 4).map fun t => numAt b (0x18 + t) 1
        let parts := ss.parts.zipIdx.map fun p => { p.1 with feeds := numAt b (0x20 + 4 * p.2) 4 }
        let passes := (ss.passes.take (w % 8)).zipIdx.map fun p => p.1.reloaded b (0x40 + 48 * p.2)
        s.setSession k { ss with saved := false, formed := numAt b 0 8, words := numAt b 8 8, steps := numAt b 0x10 4,
                                 empty := w / 8 % 2 == 1, doneN := w / 16 % 256, lastRows := rows, parts, passes }

end Sys2Proof.Machine
end

