-- ==== Sys2Proof/Machine/Surface.lean ====
section
/-! DEFINITION. The fields of a surface descriptor (14 R360). -/

namespace Sys2Proof.Machine

/-- A layer entry. -/
structure Layer where
  base : Nat
  sigbase : Nat
  sdelta : Nat
  bdelta : Nat
  x : Int
  y : Int
  w : Nat
  h : Nat
  pitch : Nat
  ilvl : Nat
  en : Bool
  profile : Nat
  deriving DecidableEq, Repr

/-- A descriptor's header. -/
structure SurfHdr where
  outva : Nat
  w : Nat
  h : Nat
  en : Bool
  dp : Bool
  output : Nat
  mst : Nat
  warp : Bool
  period : Nat
  lines : Nat
  first : Nat
  vf : Nat
  port : Nat
  warpva : Nat
  mailva : Nat
  latch : Nat
  plead : Nat
  deriving DecidableEq, Repr

/-- A 16-bit field as a signed number. -/
def s16 (n : Nat) : Int := if n % 65536 < 32768 then (n % 65536 : Nat) else ((n % 65536 : Nat) : Int) - 65536

/-- The header of a descriptor: LATCH 0 means 1,500 µs, PLEAD 0 means 1,000 µs. -/
def surfHdr (d : List Byte) : SurfHdr :=
  let n := fun o k => numAt d o k
  { outva := n 0 8, w := n 8 2, h := n 10 2, en := n 12 1 % 2 == 1, dp := n 12 1 / 2 % 2 == 1, output := n 12 1 / 4 % 4,
    mst := n 12 1 / 16 % 4, warp := n 12 1 / 64 % 2 == 1, period := n 16 4, lines := n 20 2, first := n 22 2,
    vf := n 24 1 % 64, port := n 24 1 / 64 % 2, warpva := n 32 8, mailva := n 40 8,
    latch := if n 48 4 = 0 then 1500 else n 48 4, plead := if n 52 4 = 0 then 1000 else n 52 4 }

/-- Layer entry `i` of a descriptor. -/
def surfLayer (d : List Byte) (i : Nat) : Layer :=
  let n := fun o k => numAt d (64 + 48 * i + o) k
  { base := n 0 8, sigbase := n 8 8, sdelta := n 16 8, bdelta := n 24 8, x := s16 (n 32 2), y := s16 (n 34 2), w := n 36 2,
    h := n 38 2, pitch := n 40 4, ilvl := n 44 1 % 8, en := n 44 1 / 8 % 2 == 1, profile := n 45 1 }

/-- Whether bytes of a record are zero. -/
def zerosAt (d : List Byte) (o k : Nat) : Bool := numAt d o k == 0

/-- Whether a layer entry keeps the rules of R360; a layer that is not enabled only keeps its reserved bits. -/
def layerOk (d : List Byte) (i : Nat) : Bool :=
  let l := surfLayer d i
  let o := 64 + 48 * i
  decide (numAt d (o + 44) 1 < 16) && zerosAt d (o + 46) 2 &&
    (!l.en || (l.base % 64 == 0 && l.sigbase % 64 == 0 && decide (1 ≤ l.w ∧ l.w ≤ 4096) && decide (1 ≤ l.h ∧ l.h ≤ 4096) &&
      decide (l.ilvl ≤ 4) && decide (l.profile ≤ 63)))

/-- Whether a descriptor keeps every rule of R360. -/
def surfOk (d : List Byte) : Bool :=
  let h := surfHdr d
  let pl := numAt d 52 4
  h.outva % 64 == 0 && decide (1 ≤ h.w ∧ h.w ≤ 8192) && decide (1 ≤ h.h ∧ h.h ≤ 8192) && numAt d 12 1 / 128 == 0 &&
    zerosAt d 13 3 && h.period != 0 && h.lines != 0 && decide (h.first < h.lines) && decide (h.h ≤ h.lines - h.first) &&
    numAt d 24 1 / 128 == 0 && zerosAt d 25 7 && h.mailva % 64 == 0 && (pl == 0 || decide (1000 ≤ pl ∧ pl ≤ 16000)) &&
    zerosAt d 56 8 && (List.range 8).all fun i => layerOk d i

/-- Tiles across and down a layer (14 R362). -/
def Layer.tiles (l : Layer) : Nat × Nat := ((l.w + 31) / 32, (l.h + 31) / 32)

/-- The layer of a surface that the display engine has found enabled. -/
def State.layer? (s : State) (surf i : Nat) : Option Layer :=
  match s.disp.surfs.get? surf with
  | some x => if x.bad then none else some (surfLayer x.desc i)
  | none => none

/-- When line `j` of a frame starts, in ns after the frame's start (14 R403). -/
def SurfHdr.lineNs (h : SurfHdr) (j : Nat) : Nat := j * h.period / h.lines

/-- Whether a frame that shows a buffer of a layer is being scanned out at a time: from its first visible line to the end of its
last (14 R364; 21 R397). -/
def Surf.scanning (x : Surf) (layer buf t : Nat) : Bool :=
  let h := surfHdr x.desc
  let f := t / h.period
  let r := t % h.period
  !x.bad && x.frame == some f && x.proofs.get? (8 * f + layer) == some (.proved buf) &&
    decide (h.lineNs h.first ≤ r ∧ r < h.lineNs (h.first + h.h))

/-- Whether a buffer of a layer of a surface is being scanned out now. -/
def State.scanning (s : State) (surf layer buf : Nat) : Bool :=
  (s.disp.surfs.get? surf).any fun x => x.scanning layer buf s.time

/-- A 64-bit address plus a signed distance. -/
def addDelta (a d : Nat) : Nat := (a + d) % 2 ^ 64

end Sys2Proof.Machine
end

