-- ==== Sys2Proof/Machine/Engines.lean ====
section
/-! DEFINITION. The copy unit, the rasteriser and the tile store: COVER and TSTORE at issue, and the completion and the faults of
copies, coverage and tile stores (04 R141; 07 R215-R217, R233-R237; 13 R354-R357; 14 R364). -/

namespace Sys2Proof.Machine

/-! ## Issue -/

/-- The lines of a list of elements of a record, each once. -/
def elemsLines (s : State) (g : Group) (t : Ten) (es : List (List Int)) : List Loc :=
  es.foldl (fun ls cs =>
    if t.inside cs then (tenLines s g t cs).foldl (fun ls l => if l ∈ ls then ls else ls ++ [l]) ls else ls) []

/-- Put an engine operation of the current group in progress. -/
def addEng (s : State) (g : Group) (i : Instr) (kind : EngKind) (bar : Option Nat) (lines : List Loc) : Res :=
  let (id, s) := s.newId
  let o : EngOp := { id, gid := g.who.gid, pc := g.apc, instr := i, kind, bar, at_ := 0, fault := none, told := false,
                     need := g.engNeed, lines := lines.map fun l => (l, 0), got := [], cells := [], coarse := false }
  .done ({ s with eng := s.eng ++ [o] }.putG (g.adv 8))

/-- The 32 × 32 offsets of a tile, row by row. -/
def tilePixels : List (Nat × Nat) := ((List.range 32).map fun y => (List.range 32).map fun x => (x, y)).flatten

/-- The elements that COVER writes: the tile and, where the record has it, the status word (07 R235). -/
def coverElems (t : Ten) : List (List Int) :=
  (tilePixels.map fun p => [(p.1 : Int), (p.2 : Int)]) ++ if 33 ≤ t.ext 1 then [[0, 32]] else []

/-- A buffer record as COVER takes it: the element size may be 32 bytes (13 R394). -/
def Buf.okSeg (b : Buf) : Bool := ({ b with esz := min b.esz 4 } : Buf).ok && decide (b.esz ≤ 5)

/-- The checks of COVER on its records and count, in the order of R73: the barrier, the count, the records (07 R233). -/
def coverCheck (s : State) (g : Group) (b : Buf) (t : Ten) (nb k : Nat) : Option Cause :=
  (barCheck s g nb).or
    (if 1048575 < k then some (Cause.mk' 9 5 3)
     else if b.esz ≠ 5 ∨ b.level = 4 ∨ !t.is 2 7 then some (Cause.mk' 9 2 3) else none)

/-- The lines that a COVER writes (09 R286). -/
def coverLines (s : State) (g : Group) (t : Ten) : List Loc := elemsLines s g t (coverElems t)

/-- COVER (07 R233). -/
def execCover (eo : BitVec 1) (bs : BitVec 5) (f k : BitVec 6) (t : BitVec 4) (o : BitVec 6) (nb : BitVec 10) :
    State → Out :=
  aIssue (.cover eo bs f k t o nb) fun g s =>
    notWhileSaving g s fun _ =>
      let r := g.rb bs.toNat
      if r.busy ≠ 0 then .wait .other s
      else
        let b := Buf.of (r.img.toNat % 2 ^ 256)
        if !r.loaded || !b.okSeg then .trap (Cause.mk' 8 1) s
        else withT g s t.toNat fun tt =>
          let n := (g.ra k.toNat).toNat
          match coverCheck s g b tt nb.toNat n with
          | some c => .trap c s
          | none =>
            let kind : EngKind := .cover (r.img.setWidth 256) (g.rt t.toNat).img (g.ra f.toNat).toNat n
              (g.ra o.toNat).toInt (g.ra (o.toNat + 1)).toInt (eo == 1)
            addEng s g (.cover eo bs f k t o nb) kind (some nb.toNat) (coverLines s g tt)

/-- Channels of a tile in a record: dimension 0 where there are three (07 R236). -/
def Ten.chans (t : Ten) : Nat := if t.ndim = 3 then (t.ext 0).toNat else 1

/-- Coordinates of a pixel and channel in a record. -/
def Ten.pixel (t : Ten) (x y : Int) (c : Nat) : List Int := if t.ndim = 3 then [(c : Int), x, y] else [x, y]

/-- The pixels and channels of a source tile in the order of R237. -/
def tileElems (t : Ten) : List (Nat × Nat × Nat) :=
  (tilePixels.map fun p => (List.range t.chans).map fun c => (p.1, p.2, c)).flatten

/-- Whether a source and a surface go together (07 R236). -/
def tstoreOk (ts td : Ten) : Bool :=
  td.kind == 1 && ts.kind != 2 && ts.ndim == td.ndim && (ts.ndim == 2 || ts.ndim == 3) && ts.fmt == td.fmt &&
    fmtBits ts.fmt % 8 == 0 && decide (ts.chans ≤ 4 ∧ td.chans ≤ 4)

/-- What a DIVERSE launch adds to a surface's addresses (14 R364). -/
def diverseDelta (s : State) (g : Group) : Nat :=
  let l := s.lau g
  if l.pk.diverse then
    match s.layer? l.pk.surface l.pk.layer with
    | some y => (if l.pk.buf = 1 then y.bdelta else 0) + (if l.inst = 1 then y.sdelta else 0)
    | none => 0
  else 0

/-- The lines that a TSTORE writes: those of the tile's elements in the surface `u`, and that of its signature entry (07 R237; 09 R286). -/
def tstoreLines (s : State) (g : Group) (t u : Ten) (tx ty : Int) (sigVa : Nat) : List Loc :=
  let dst := (tileElems t).map fun e => u.pixel (32 * tx + (e.1 : Int)) (32 * ty + (e.2.1 : Int)) e.2.2
  let entry := match (levelAt s g { code := 3, engine := 6 } 1 0 0 sigVa 8).2 with
    | .ok l => [l.line]
    | .error _ => []
  dedup (elemsLines s g u dst ++ entry)

/-- TSTORE (07 R236). -/
def execTstore (ts td : BitVec 4) (p : BitVec 6) (nb : BitVec 10) (sig : BitVec 14) : State → Out :=
  aIssue (.tstore ts td p nb sig) fun g s =>
    notWhileSaving g s fun _ =>
    withT g s ts.toNat fun t => withT g s td.toNat fun u =>
      match barCheck s g nb.toNat with
      | some c => .trap c s
      | none =>
        if !tstoreOk t u then .trap (Cause.mk' 9 2 6) s
        else
          let d := diverseDelta s g
          let base := addDelta u.base d
          let sigb := addDelta u.sigbase d
          let tx := (g.ra p.toNat).toInt
          let ty := (g.ra (p.toNat + 1)).toInt
          let kind : EngKind := .tstore (g.rt ts.toNat).img (g.rt td.toNat).img tx ty sig.toNat base sigb
          addEng s g (.tstore ts td p nb sig) kind (some nb.toNat)
            (tstoreLines s g t { u with base } tx ty ((sigb + 8 * sig.toNat) % 2 ^ 64))

/-! ## Ownership at a resume -/

/-- The lines that an operation will write, as its pages translate now, each with the last unit that writes it (09 R286). -/
def EngKind.lines (s : State) (g : Group) : EngKind → List (Loc × Nat)
  | .copy src dst _ dc _ _ _ => copyLines s g (Ten.of src.toNat) (Ten.of dst.toNat) dc
  | .cover _ t .. => (coverLines s g (Ten.of t.toNat)).map fun l => (l, 0)
  | .tstore src dst tx ty sig base sigb =>
    (tstoreLines s g (Ten.of src.toNat) { Ten.of dst.toNat with base } tx ty ((sigb + 8 * sig) % 2 ^ 64)).map fun l => (l, 0)

/-- An operation that resumes takes ownership of the lines that it has still to write and that did not translate when it was issued: the
handler has mapped their pages (09 R286). -/
def EngOp.retake (s : State) (g : Group) (o : EngOp) : EngOp :=
  let left := fun (l : Loc × Nat) => match o.kind with
    | .copy .. => decide (o.at_ ≤ l.2)
    | _ => true
  { o with lines := o.lines ++ (o.kind.lines s g).filter fun l => left l && !o.owns l.1 }

/-- The same of a pass: by the rows that it has still to write, or to rank. -/
def Pass.retake (s : State) (g : Group) (ss : Session) (p : Pass) : Pass :=
  let a := mxArgs p.instr
  let all := if p.onArrays then p.outLines s g (slabOf ss.fa)
    else selLines s g { ss with passes := ss.passes.takeWhile fun q => q.id != p.id } p
  let from_ := if !p.onArrays then p.step else if p.step < a.ks then 0 else p.rows.getD 0 0
  { p with lines := p.lines ++ all.filter fun l => decide (from_ ≤ l.2) && !p.owns l.1 }

/-- A group's suspended operations that resume in `t`, having been delivered in `s`, take ownership of the lines that they lack. -/
def State.retake (s t : State) (gid : Nat) : State :=
  match t.groups.get? gid with
  | none => t
  | some g =>
    let eng := t.eng.map fun o =>
      if o.gid = gid ∧ (s.eng.any fun x => x.id == o.id && x.told) then o.retake t g else o
    let sessions := t.sessions.mapV fun k ss =>
      let was := fun (p : Pass) => (s.sessions.get? k).any fun x => x.passes.any fun q => q.id == p.id && q.told
      if (ss.parts[0]?.map (·.gid)) = some gid then
        { ss with passes := ss.passes.map fun p => if was p then p.retake t g ss else p }
      else ss
    { t with eng, sessions }

/-! ## Units of work -/

/-- Why a unit stops: a cause, or an address that does not exist. -/
abbrev Stop := Except Fault Cause

/-- Whether the writes of an engine operation are performed for agents beyond its group only by its completion's scope (04 R141). -/
def EngOp.scope (o : EngOp) : Nat :=
  match o.kind with
  | .copy _ _ _ _ _ sc _ => sc
  | _ => 4

/-- An engine operation as a user of memory: an agent of its own on its group's core (09 R277). -/
def State.engUser (s : State) (g : Group) (o : EngOp) : User := { s.user g with agent := o.id, narrow := decide (o.scope < 4) }

/-- An engine operation that has read nothing yet begins with what its group sees (09 R287). -/
def State.engBegin (s : State) (g : Group) (o : EngOp) : State :=
  if o.at_ = 0 ∧ o.got = [] ∧ o.cells = [] then s.inherit g.who.gid o.id else s

/-- Read one source element of a unit, but for the parts that the unit has read already: zero under option 1, else the element or its
padding (04 R141; 09 R287). -/
def unitElem (s : State) (g : Group) (o : EngOp) (engine : Nat) (t : Ten) (zero : Bool) (k : Nat) (cs : List Int) :
    State × Except Stop Nat :=
  if zero then (s, .ok 0)
  else
    match partElem s g engine t o.got k cs (s.engUser g o) with
    | (s, .ok v) => (s, .ok (v.getD 0))
    | (s, .error e) => (s, .error e)

/-- Read source elements of a unit, by number and coordinates: their values by number, or the failure of one. -/
def unitElems (s : State) (g : Group) (o : EngOp) (engine : Nat) (t : Ten) (zero : Bool) (es : List (Nat × List Int)) :
    State × Except Stop (List (Nat × Nat)) :=
  es.foldl (fun (x : State × Except Stop (List (Nat × Nat))) e =>
    match x with
    | (s, .error f) => (s, .error f)
    | (s, .ok vs) =>
      match unitElem s g o engine t zero e.1 e.2 with
      | (s, .ok v) => (s, .ok (vs ++ [(e.1, v)]))
      | (s, .error f) => (s, .error f)) (s, .ok [])

/-- How a run of an engine operation ends: at its end, between units or within one, or at a failure. -/
inductive RunEnd where
  | done
  | pause
  | fail (e : Stop)

/-- Whether the device goes on to the next unit in the same step: a free choice. -/
def State.goesOn (s : State) : State × Bool :=
  let (n, s) := s.draw
  (s, !Config.freeBit n)

/-- The chunks of a copy. -/
def chunksOf (t : Ten) : Nat := (boxCount t.box + chunkElems t - 1) / chunkElems t

/-- The source elements of chunk `j` of a copy, by their number in the box. -/
def chunkSrc (t : Ten) (sc : List Int) (j : Nat) : List (Nat × List Int) :=
  let n := chunkElems t
  (List.range (min n (boxCount t.box - n * j))).map fun e => (n * j + e, addC sc (boxAt t.box (n * j + e)))

/-- Copy one chunk, its elements one after the other in the order of their box offsets (04 R141 leaves the order to the unit, and what
has been read ahead of it is another order: notes/assumptions/68.md); nothing of it is written where an element fails. -/
def copyChunk (s : State) (g : Group) (o : EngOp) (ts td : Ten) (zero : Bool) (sc dc : List Int) : State × Option Stop :=
  let r := (chunkSrc ts sc o.at_).foldl (fun (x : State × Option Stop) e =>
    match x with
    | (s, some f) => (s, some f)
    | (s, none) =>
      match unitElem s g o 1 ts zero e.1 e.2 with
      | (s, .error f) => (s, some f)
      | (s, .ok v) =>
        let cd := addC dc (boxAt ts.box e.1)
        if td.inside cd then
          match tenWrite s g 1 td cd v (s.engUser g o) with
          | (s, none) => (s, none)
          | (s, some f) => (s, some (f.engine 1 1))
        else (s, none)) (s, none)
  match r with
  | (s', none) => (s', none)
  | (_, some f) => (s, some f)

/-- Copy chunk by chunk (11 R321): a chunk that is written, and performed at the copy's scope, releases the lines that no later one writes
(09 R286). -/
def copyUnits (g : Group) (ts td : Ten) (zero : Bool) (sc dc : List Int) : Nat → EngOp → State → State × EngOp × RunEnd
  | 0, o, s => (s, o, .done)
  | n + 1, o, s =>
    match if zero then (s, none) else readAhead s ts (chunkSrc ts sc o.at_) with
    | (s, some pick) =>
      match readParts s g 1 ts o.got pick (chunkSrc ts sc o.at_) (s.engUser g o) with
      | (s, .ok got) => (s, { o with got }, .pause)
      | (s, .error e) => (s, { o with got := [] }, .fail e)
    | (s, none) =>
      match copyChunk s g o ts td zero sc dc with
      | (s, some e) => (s, { o with got := [] }, .fail e)
      | (s, none) =>
        let s := s.lateIfCut o.gid o.pc ((o.lines.filter fun l => decide (l.2 ≤ o.at_)).map (·.1))
        let s := if o.scope < 4 then s.publishBy o.id g o.scope else s
        let o := { o with at_ := o.at_ + 1, got := [], lines := o.lines.filter fun l => decide (o.at_ < l.2) }
        if n = 0 then (s, o, .done)
        else match s.goesOn with
          | (s, true) => copyUnits g ts td zero sc dc n o s
          | (s, false) => (s, o, .pause)

/-! ## Coverage -/

/-- An integer division rounded to nearest, ties to even. -/
def rneDiv (n : Int) (d : Nat) : Int :=
  let q := n / (d : Int)
  let r := 2 * (n % (d : Int))
  if r < d then q else if (d : Int) < r then q + 1 else if q % 2 = 0 then q else q + 1

/-- A point in 1/256 px. -/
abbrev Pt := Int × Int

/-- What a list of records draws: control points of a line, a quadratic or a cubic. -/
abbrev Curve := List Pt

/-- The largest coordinate of a vector. -/
def normInf (p : Pt) : Nat := max p.1.natAbs p.2.natAbs

/-- P − 2Q + R. -/
def bend (p q r : Pt) : Pt := (p.1 - 2 * q.1 + r.1, p.2 - 2 * q.2 + r.2)

/-- The least d up to a cap with D ≤ 8·4^(d+1), and whether the cap was met without it (13 R354). -/
def flatD (dd cap : Nat) : Nat × Bool :=
  match (List.range (cap + 1)).find? fun d => decide (dd ≤ 8 * 4 ^ (d + 1)) with
  | some d => (d, false)
  | none => (cap, true)

/-- The endpoints of a curve's pieces along one axis, by forward differences in 2^−24 px (13 R355). -/
def forward (p0 c1 c2 c3 last : Int) (d : Nat) : List Int :=
  let n : Int := 2 ^ d
  let den := 2 ^ (3 * d)
  let d1 := rneDiv ((c1 * n * n + c2 * n + c3) * 2 ^ 16) den
  let d2 := rneDiv ((2 * c2 * n + 6 * c3) * 2 ^ 16) den
  let d3 := rneDiv (6 * c3 * 2 ^ 16) den
  let r := (List.range (2 ^ d - 1)).foldl (fun (x : List Int × Int × Int × Int) _ =>
    let v := x.2.1 + x.2.2.1
    (x.1 ++ [rneDiv v (2 ^ 16)], v, x.2.2.1 + x.2.2.2, x.2.2.2 + d3)) ([p0], p0 * 2 ^ 16, d1, d2)
  r.1 ++ [last]

/-- The pieces' endpoints of a curve, and COARSE. -/
def flatten (c : Curve) : List Pt × Bool :=
  match c with
  | [p0, p1, p2] =>
    let b := bend p0 p1 p2
    let (d, co) := flatD (normInf b) 8
    let ax := fun (a b c : Int) => forward a (2 * (b - a)) (a - 2 * b + c) 0 c d
    ((ax p0.1 p1.1 p2.1).zip (ax p0.2 p1.2 p2.2), co)
  | [p0, p1, p2, p3] =>
    let (d, co) := flatD (3 * max (normInf (bend p0 p1 p2)) (normInf (bend p1 p2 p3))) 9
    let ax := fun (a b c e : Int) => forward a (3 * (b - a)) (3 * (a - 2 * b + c)) (e - 3 * c + 3 * b - a) e d
    ((ax p0.1 p1.1 p2.1 p3.1).zip (ax p0.2 p1.2 p2.2 p3.2), co)
  | _ => (c, false)

/-- Add to a cell, modulo 2^32 as a signed number (13 R356). -/
def addCell (cells : List Int) (i j : Nat) (v : Int) : List Int :=
  let n := 32 * j + i
  setAt cells n ((cells.getD n 0 + v).bmod (2 ^ 32))

/-- What a piece keeps along its portions: the row, S (as a sum of parameter lengths) and R. -/
structure RowSum where
  row : Int
  t : Int
  r : Int
  deriving DecidableEq, Repr

/-- One piece adds to the cells (13 R356). A point of the piece is named by T, 0 to D = |dx|·|dy|, at which every crossing of a
row or a column is an integer. -/
def addPiece (cells : List Int) (a b : Pt) : List Int :=
  let dx := b.1 - a.1
  let dy := b.2 - a.2
  if dy = 0 then cells
  else
    let dd : Int := dy.natAbs * max 1 dx.natAbs
    let rows := (List.range 33).map fun (j : Nat) => (256 * (j : Int) - a.2) * (max 1 dx.natAbs : Int) * dy.sign
    let cols := if dx = 0 then [] else (List.range 33).map fun (i : Nat) => (256 * (i : Int) - a.1) * (dy.natAbs : Int) * dx.sign
    let cuts := dedup (sortBy (fun (x y : Int) => decide (x ≤ y))
      (([0, dd] ++ rows ++ cols).filter fun t => decide (0 ≤ t ∧ t ≤ dd)))
    let r := (cuts.zip (cuts.drop 1)).foldl (fun (x : List Int × RowSum) c =>
      let ym := (2 * a.2 * dd + dy * (c.1 + c.2)) / (512 * dd)
      let xm := 2 * a.1 * dd + dx * (c.1 + c.2)
      let i := xm / (512 * dd)
      if ym < 0 ∨ 32 ≤ ym ∨ 32 ≤ i then x
      else
        let rs : RowSum := if x.2.row = ym then x.2 else { row := ym, t := 0, r := 0 }
        let t := rs.t + (c.2 - c.1)
        let r := rneDiv (dy * t * 256) dd.toNat
        let d := r - rs.r
        let j := ym.toNat
        let cells :=
          if xm ≤ 0 then addCell x.1 0 j d
          else
            let g := rneDiv (d * (xm - 512 * dd * i)) (512 * dd).toNat
            let cs := addCell x.1 i.toNat j (d - g)
            if i < 31 then addCell cs (i.toNat + 1) j g else cs
        (cells, { row := ym, t, r })) (cells, { row := -1, t := 0, r := 0 })
    r.1

/-- A curve adds to the cells. -/
def addCurve (cells : List Int) (c : Curve) : List Int × Bool :=
  let f := flatten c
  ((f.1.zip (f.1.drop 1)).foldl (fun cs p => addPiece cs p.1 p.2) cells, f.2)

/-- Bytes of which some words have been read before, word `j` under the number `from_ + j`. -/
def patchWords (got : List (Nat × Nat)) (from_ : Nat) (bs : List Byte) : List Byte :=
  ((List.range (bs.length / 4)).map fun j => match got.find? fun x => x.1 == from_ + j with
    | some x => natLe 4 x.2
    | none => (bs.drop (4 * j)).take 4).flatten

/-- Read segment record `n`: 32 bytes, zeros beyond the extent unless the record traps (07 R234); the words that the unit has read already
are those of then, from a number on (09 R287). -/
def readSeg (s : State) (g : Group) (b : Buf) (n : Nat) (u : User) (got : List (Nat × Nat)) (from_ : Nat) :
    State × Except Stop (List Byte) :=
  if b.extent ≤ n then
    (s, if b.oob then .error (.ok { grp := 5, code := 3, detail := BitVec.ofNat 96 (n + b.extent * 2 ^ 64), va := 0, lanes := 0 })
        else .ok (List.replicate 32 0))
  else
    let a := b.addr n
    if a % 4 ≠ 0 then (s, .error (.ok (Cause.mk' 6 1 (a % 2 ^ 32 + 2 * 2 ^ 32) a)))
    else
      match engRead s g 3 b.level a 32 b.l2cls u with
      | (s, .ok bs) => (s, .ok (patchWords got from_ bs))
      | (s, .error e) => (s, .error (e.engine 0 3))

/-- A point of a segment record, relative to the tile (13 R354). -/
def segPt (bs : List Byte) (o : Nat) (ox oy : Int) : Pt :=
  (signed32 (numAt bs o 4) - 256 * ox, signed32 (numAt bs (o + 4) 4) - 256 * oy)

/-- The curve of the segment at position `k` of the count, and how many records it takes; none for the breaches of R234. -/
def segCurve (s : State) (g : Group) (b : Buf) (f k count : Nat) (ox oy : Int) (u : User) (got : List (Nat × Nat)) :
    State × Except Stop (Curve × Nat) :=
  let bad : Stop := .ok (Cause.mk' 9 3 3)
  match readSeg s g b ((f + k) % 2 ^ 32) u got 0 with
  | (s, .error e) => (s, .error e)
  | (s, .ok bs) =>
    let h := numAt bs 0 4
    let p := fun o => segPt bs o ox oy
    match h with
    | 0 => (s, .ok ([p 4, p 12], 1))
    | 1 => (s, .ok ([p 4, p 12, p 20], 1))
    | 2 =>
      if count ≤ k + 1 then (s, .error bad)
      else
        match readSeg s g b ((f + k + 1) % 2 ^ 32) u got 8 with
        | (s, .error e) => (s, .error e)
        | (s, .ok ts) =>
          if numAt ts 0 4 = 3 then (s, .ok ([p 4, p 12, p 20, segPt ts 4 ox oy], 2)) else (s, .error bad)
    | _ => (s, .error bad)

/-- The words of the next segment's record, and of the second record of a cubic, that are read in a step of their own: those read then,
or nothing where the segment is read as a whole (09 R278, R287). -/
def segAhead (s : State) (g : Group) (b : Buf) (f k count : Nat) (u : User) (got : List (Nat × Nat)) :
    State × Option (Except Stop (List (Nat × Nat))) :=
  let (n, s) := s.draw
  if !Config.freeBit n then (s, none)
  else
    let add := fun (got : List (Nat × Nat)) (from_ : Nat) (bs : List Byte) =>
      got ++ ((List.range 8).filter fun j => Config.freeSet n (from_ + j) && !(got.any fun x => x.1 == from_ + j)).map fun j =>
        (from_ + j, numAt bs (4 * j) 4)
    match readSeg s g b ((f + k) % 2 ^ 32) u got 0 with
    | (s, .error e) => (s, some (.error e))
    | (s, .ok bs) =>
      let got := add got 0 bs
      if count ≤ k + 1 ∨ !(got.contains (0, 2)) then (s, some (.ok got))
      else match readSeg s g b ((f + k + 1) % 2 ^ 32) u got 8 with
        | (s, .error e) => (s, some (.error e))
        | (s, .ok ts) => (s, some (.ok (add got 8 ts)))

/-- Add segments one after the other: the operation as it stands, and how the run ends. -/
def coverSegs (g : Group) (b : Buf) (f count : Nat) (ox oy : Int) : Nat → EngOp → State → State × EngOp × RunEnd
  | 0, o, s => (s, o, .done)
  | n + 1, o, s =>
    if count ≤ o.at_ then (s, o, .done)
    else
      match segAhead s g b f o.at_ count (s.engUser g o) o.got with
      | (s, some (.error e)) => (s, { o with got := [] }, .fail e)
      | (s, some (.ok got)) => (s, { o with got }, .pause)
      | (s, none) =>
      match segCurve s g b f o.at_ count ox oy (s.engUser g o) o.got with
      | (s, .error e) => (s, { o with got := [] }, .fail e)
      | (s, .ok (c, m)) =>
        let r := addCurve (if o.cells.isEmpty then List.replicate 1024 0 else o.cells) c
        let o := { o with at_ := o.at_ + m, got := [], cells := r.1, coarse := o.coarse || r.2 }
        match s.goesOn with
        | (s, true) => coverSegs g b f count ox oy n o s
        | (s, false) => (s, o, .pause)

/-- Clamp to −128 … 128 − 2^−16, in 2^−16 px, with whether it clamped (13 R357). -/
def clamp128 (x : Int) : Int × Bool :=
  if x < -2 ^ 23 then (-2 ^ 23, true) else if 2 ^ 23 - 1 < x then (2 ^ 23 - 1, true) else (x, false)

/-- Coverage of a resolved sum, in 2^−16 (13 R357). -/
def coverageOf (eo : Bool) (a : Int) : Int :=
  if eo then 65536 - ((65536 - (a.natAbs % 131072 : Nat) : Int).natAbs : Int) else min a.natAbs 65536

/-- Resolve the cells: the UNORM16 tile, row by row, and SAT. -/
def resolveCells (eo : Bool) (cells : List Int) : List Nat × Bool :=
  (List.range 32).foldl (fun (x : List Nat × Bool) j =>
    let r := (List.range 32).foldl (fun (y : List Nat × Bool × Int) i =>
      let c := clamp128 (cells.getD (32 * j + i) 0)
      let a := clamp128 (y.2.2 + c.1)
      (y.1 ++ [(rneDiv (coverageOf eo a.1 * 65535) 65536).toNat], y.2.1 || c.2 || a.2, a.1)) (x.1, x.2, 0)
    (r.1, r.2.1)) ([], false)

/-- The tile and status word of a finished COVER, with their elements. -/
def coverOut (t : Ten) (eo : Bool) (cells : List Int) (co : Bool) : List (List Int × Nat) :=
  let r := resolveCells eo cells
  (coverElems t).zip (r.1 ++ [(if co then 1 else 0) + if r.2 then 2 else 0])

/-! ## Tile store -/

/-- CRC-32C over bytes, before the final inversion (07 R237). -/
def crcStep (c : BitVec 32) (b : Byte) : BitVec 32 :=
  (List.range 8).foldl (fun (c : BitVec 32) _ => if c.getLsbD 0 then (c >>> 1) ^^^ 0x82F63B78 else c >>> 1)
    (c ^^^ b.setWidth 32)

/-- CRC-32C of bytes. -/
def crc32c (bs : List Byte) : BitVec 32 := ~~~bs.foldl crcStep 0xFFFFFFFF

/-- The signature entry of a tile (07 R237). -/
def sigEntry (s : State) (g : Group) (bs : List Byte) : Nat :=
  let l := s.lau g
  (crc32c bs).toNat + 2 ^ 32 + 2 ^ 33 * (l.qslot % 128) + 2 ^ 40 * (l.serial % 65536)

/-- Write an 8-byte signature entry and remember the quad that wrote it (14 R364); SIGBASE is a virtual address, whatever the level of the
surface (04 R139). -/
def writeSig (s : State) (g : Group) (va v : Nat) : State × Option Stop :=
  match engPlaces s g 6 1 0 va 8 with
  | (s, .error e) => (s, some (e.engine 1 6))
  | (s, .ok ls) =>
    let s := writePlaces s (s.user g) ls (natLe 8 v)
    match ls with
    | (l, _) :: _ =>
      let s := { s with disp.sigQuad := (l, quadOf g.who.core) :: s.disp.sigQuad.filter fun e => !e.1.same l }
      (s, none)
    | [] => (s, none)

/-- The destination record of a copy under its option: options 2 and 3 name the classes activations and KV cache, option 4 the general class,
whatever the page's class is (04 R128, R141). -/
def Ten.option (t : Ten) (opt : Nat) : Ten :=
  if opt < 2 then t else { t with l2cls := if opt = 4 then 4 else opt - 1 }

/-- The source elements of a tile, by their number in the order of R237. -/
def tileSrc (t : Ten) : List (Nat × List Int) := (tileElems t).zipIdx.map fun e => (e.2, t.pixel e.1.1 e.1.2.1 e.1.2.2)

/-- A whole tile store: the tile, then its signature; nothing where an element fails. -/
def storeTile (s : State) (g : Group) (o : EngOp) (t u : Ten) (tx ty : Int) (sigVa : Nat) : State × Option Stop :=
  match unitElems s g o 6 t false (tileSrc t) with
  | (_, .error f) => (s, some f)
  | (s', .ok vs) =>
    let out := ((tileElems t).zip vs).map fun v =>
      (u.pixel (32 * tx + (v.1.1 : Int)) (32 * ty + (v.1.2.1 : Int)) v.1.2.2, v.2.2)
    let bytes := (vs.map fun v => natLe (fmtBits t.fmt / 8) v.2).flatten
    match writeElems s' g 6 u out with
    | (_, some f) => (s, some f)
    | (s', none) =>
      match writeSig s' g sigVa (sigEntry s g bytes) with
      | (_, some f) => (s, some f)
      | (s', none) => (s', none)

/-! ## Completion and faults -/

/-- The end of an operation whose last unit has been written, or has met a fault. -/
def EngOp.wrote (o : EngOp) : State × Option Stop → State × EngOp × RunEnd
  | (s, none) => (s, o, .done)
  | (s, some e) => (s, { o with got := [] }, .fail e)

/-- The end of a COVER, once its segments are accumulated: the coverage of its cells is written (13 R357). -/
def endCover (g : Group) (t : Ten) (eo : Bool) (o : EngOp) (s : State) : State × EngOp × RunEnd :=
  o.wrote (writeElems s g 3 t (coverOut t eo (if o.cells.isEmpty then List.replicate 1024 0 else o.cells) o.coarse))

/-- Run an engine operation from the unit it has reached, as far as it gets in a step: the state, the operation there, and how the run
ends. -/
def runEng (s : State) (g : Group) (o : EngOp) : State × EngOp × RunEnd :=
  match o.kind with
  | .copy src dst sc dc opt _ _ =>
    let ts := Ten.of src.toNat
    copyUnits g ts ((Ten.of dst.toNat).option opt) (opt == 1) sc dc (chunksOf ts - o.at_) o s
  | .cover seg t f count ox oy eo =>
    match coverSegs g (Buf.of seg.toNat) f count ox oy (count - o.at_) o s with
    | (s, o, .done) => endCover g (Ten.of t.toNat) eo o s
    | r => r
  | .tstore src dst tx ty sig base sigb =>
    let ts := Ten.of src.toNat
    match readAhead s ts (tileSrc ts) with
    | (s, some pick) =>
      match readParts s g 6 ts o.got pick (tileSrc ts) (s.engUser g o) with
      | (s, .ok got) => (s, { o with got }, .pause)
      | (s, .error e) => (s, { o with got := [] }, .fail e)
    | (s, none) =>
      o.wrote (storeTile s g o ts { Ten.of dst.toNat with base } tx ty ((sigb + 8 * sig) % 2 ^ 64))

/-- An engine operation that may run now, with its group: not suspended, its group resident, what it follows performed and its
lines its own (07 R217, 09 R287). -/
def State.engLive (s : State) (id : Nat) : Option (EngOp × Group) :=
  match s.eng.find? fun o => o.id == id with
  | none => none
  | some o =>
    match s.groups.get? o.gid with
    | none => none
    | some g =>
      if g.saved || o.fault.isSome || !g.engReady o.need || !s.engTurn o.id (o.lines.map (·.1)) then none else some (o, g)

/-- The end of an engine operation: its lines are released, and its barrier or counter learns of it, with release at dev or at the copy's
scope (07 R215, 04 R141). -/
def endEng (s : State) (g : Group) (o : EngOp) (ctr : Option Loc) (lines : List Loc) : State :=
  let s := (({ s with eng := s.eng.filter fun x => x.id != o.id } : State).lateIfCut o.gid o.pc lines).publishBy o.id g o.scope
  match o.bar, ctr with
  | some nb, _ => s.engArrive g.who.tid nb g.who.gid
  | none, some l =>
    (s.engineWrite (s.engUser g o) l (natLe 4 ((s.readLoc l 4 + 1) % 2 ^ 32))).publishBy o.id g o.scope
  | none, none => s

/-- The place of a copy's counter when the copy completes: its access begins then, and is translated then (10 R296); no place where it
completes on a barrier. -/
def counterAt (s : State) (g : Group) (o : EngOp) : State × Except Stop (Option Loc) :=
  match o.kind with
  | .copy _ _ _ _ _ _ (some (a, _)) =>
    match globalAt s (s.lau g).qd.vf g.sys.priv (g.agent { code := 3, engine := 1 }) 2 a with
    | (s, .ok l) => (s, .ok (some l))
    | (s, .error e) => (s, .error (e.engine 2 1))
  | _ => (s, .ok none)

/-- Replace an engine operation in progress. -/
def State.putEng (s : State) (o : EngOp) : State := { s with eng := s.eng.map fun x => if x.id = o.id then o else x }

/-- Run an engine operation of a kind, unless it fails there: it completes, or it has come to a later unit. -/
def completeEng (s : State) (op : Nat) (is : EngKind → Bool) : Out :=
  match s.engLive op with
  | none => .next s
  | some (o, g) =>
    if !is o.kind then .next s
    else
      match runEng (s.engBegin g o) g o with
      | (s', o', .done) =>
        match counterAt s' g o with
        | (s'', .ok ctr) =>
          if ctr.all fun l => s''.owner o.gid (o.id - 1) l == .free then .next (endEng s'' g o ctr (o'.lines.map (·.1)))
          else .next (s'.putEng o')
        | (_, .error _) => .next (s'.putEng o')
      | (s', o', .pause) => .next (s'.putEng o')
      | (_, _, .fail _) => .next s

/-- COPY_COMPLETE (04 R141). -/
def execCopyComplete (op : Nat) (s : State) : Out :=
  completeEng s op fun k => match k with
    | .copy .. => true
    | _ => false

/-- COVER_COMPLETE (07 R235). -/
def execCoverComplete (op : Nat) (s : State) : Out :=
  completeEng s op fun k => match k with
    | .cover .. => true
    | _ => false

/-- TSTORE_COMPLETE (07 R237). -/
def execTstoreComplete (op : Nat) (s : State) : Out :=
  completeEng s op fun k => match k with
    | .tstore .. => true
    | _ => false

/-- An engine operation that meets a fault is suspended at its unit, the units before it done (07 R216). -/
def faultEng (s : State) (o : EngOp) (g : Group) : Out :=
  match runEng (s.engBegin g o) g o with
  | (s', o', .fail (.ok c)) => .next (s'.putEng { o' with fault := some c, told := false })
  | (_, _, .fail (.error f)) => .fault f
  | (s', o', .done) =>
    match counterAt s' g o with
    | (s'', .error (.ok c)) => .next (s''.putEng { o' with fault := some c, told := false })
    | (_, .error (.error f)) => .fault f
    | (_, .ok _) => .next s
  | (_, _, .pause) => .next s

end Sys2Proof.Machine
end

