-- ==== Sys2Proof/Machine/Frames.lean ====
section
/-! DEFINITION. Physical frames: the frame window's operations, the page-request queue, reclaiming a freed frame, and the
steps that walk, invalidate and splinter translations (10 R293-R303). -/

namespace Sys2Proof.Machine

/-- The frames of the pool that are held or being reclaimed, ascending (10 R298, R300). -/
def State.framesUsed (s : State) : List Nat :=
  (s.frames.keys ++ s.reclaim).foldl (fun l f =>
    if s.regs.fpbase ≤ f ∧ f < s.regs.fpbase + s.regs.fpcount then insertNat l f else l) []

/-- Free frames of the pool. -/
def State.framesFree (s : State) : Nat := s.regs.fpcount - s.framesUsed.length

/-- The `k`-th free frame of the pool in ascending order. -/
def State.freeFrame (s : State) (k : Nat) : Nat :=
  s.framesUsed.foldl (fun f u => if u ≤ f then f + 1 else f) (s.regs.fpbase + k)

/-- The frames that guarantees still claim (10 R298). -/
def State.claims (s : State) : Nat := (s.vfs.map fun v => v.g - v.held).sum

/-- Whether a frame is granted to a VF (10 R298). -/
def State.grants (s : State) (v : Nat) : Bool :=
  let x := s.vf v
  (decide (x.held < x.g) && decide (0 < s.framesFree)) ||
    (decide (x.g ≤ x.held) && decide (x.held < x.b) && decide (s.claims < s.framesFree))

/-- FRAME_ALLOCATE at offset 0 (10 R299): which free frame is granted is a free choice (R298). -/
def allocFrame (s : State) (v : Nat) : State × Word :=
  if s.grants v then
    let (n, s) := s.draw
    let f := s.freeFrame (Config.freeNat n % s.framesFree)
    let x := s.vf v
    ({ s with frames := s.frames.set f v }.setVf v { x with held := x.held + 1 }, BitVec.ofNat 32 f)
  else (s, 0xFFFFFFFF)

/-- FRAME_FREE at offset 4 (10 R299, R300): the frame leaves the VF at once and is reclaimed later. -/
def freeFrameOf (s : State) (v f : Nat) : State × Word :=
  if s.frames.get? f = some v then
    let x := s.vf v
    ({ s with frames := s.frames.del f, reclaim := s.reclaim ++ [f] }.setVf v { x with held := x.held - 1 }, 0)
  else (s, 0xFFFFFFFF)

/-- The 32 bytes of a page request (10 R301). -/
def requestBytes (l : Launch) (lin page acc ticket : Nat) : List Byte :=
  natLe 8 page ++ natLe 4 acc ++
    natLe 4 (l.qd.vf % 64 + (if l.qd.pf then 64 else 0) + 128 * (l.qd.port % 2)) ++
    natLe 4 ticket ++ natLe 4 (l.qslot % 128) ++ natLe 4 lin ++ natLe 4 0

/-- The ring entry that the device writes next (15 R378). -/
def State.ringAt (s : State) : Nat := s.regs.prqbase.toNat / 2 ^ 17 % 2 ^ 35 * 2 ^ 17 + 32 * (s.regs.prqtail % 4096)

/-- PAGE_REQUEST_POST at offset 8 (10 R301, 15 R378): 16 entries of a VF's own and 3,072 shared; a page that is outstanding
answers its ticket. Without an enabled ring no request can be posted (notes/assumptions/33.md). -/
def postRequest (s : State) (l : Launch) (lin page acc : Nat) : State × Word :=
  let v := l.qd.vf
  let mine := s.prq.filter fun e => e.vf == v
  match mine.find? fun e => e.page == page with
  | some e => (s, BitVec.ofNat 32 e.ticket)
  | none =>
    let shared := ((List.range 64).map fun u => (s.prq.filter fun e => e.vf == u).length - 16).sum
    if !s.regs.prqbase.getLsbD 0 || (decide (16 ≤ mine.length) && decide (3072 ≤ shared)) then (s, 0xFFFFFFFF)
    else
      let x := s.vf v
      let t := (x.ticket + 1) % 2 ^ 32
      let e : PrqEnt := { vf := v, page, ticket := t, count := s.regs.prqtail }
      let s := s.writeBytes { space := .dev, addr := s.ringAt } (requestBytes l lin page acc t)
      let s : State := { s with prq := s.prq ++ [e], regs.prqtail := (s.regs.prqtail + 1) % 8192 }
      let port := if s.regs.vfmap.getLsbD v then 1 else 0
      ((s.setVf v { x with ticket := t }).irq port none 2, BitVec.ofNat 32 t)

/-- An operation of the frame window (10 R299): the value returned. -/
def windowRun (s : State) (g : Group) (off : Nat) (x y : Word) : State × Word :=
  let l := s.lau g
  match off with
  | 0 => allocFrame s l.qd.vf
  | 4 => freeFrameOf s l.qd.vf x.toNat
  | _ => postRequest s l g.who.lin ((y.toNat % 2 ^ 15 * 2 ^ 32 + x.toNat) / 2 ^ 14) (y.toNat / 2 ^ 16 % 4)

/-- The VF that VICTIM names: the largest count above its guarantee, the lower number first; 0xFF when there is none
(10 R303). DESIGN CHOICE: it is named anew at each read, from the counts of then (notes/assumptions/33.md). -/
def State.victimVf (s : State) : Nat :=
  let above := s.vfs.zipIdx.map fun (e : VfSt × Nat) => (e.2, e.1.held - e.1.g)
  let best := above.foldl (fun (m : Nat × Nat) e => if m.2 < e.2 then e else m) (0xFF, 0)
  best.1

/-- Whether a cached translation maps a frame. -/
def TlbEnt.maps (e : TlbEnt) (f : Nat) : Bool :=
  e.pte.getLsbD 1 && pteTgt e.pte == 0 &&
    (if e.level = 2 then ptePa e.pte / 2 ^ 25 == f * 2 ^ 14 / 2 ^ 25 else ptePa e.pte / 2 ^ 14 == f)

/-- Drop the lines of a range of device memory from every L1. -/
def State.purgeL1 (s : State) (a n : Nat) : State :=
  { s with rely.l1 := s.rely.l1.mapV fun _ ls => ls.filter fun (x : L1Line) =>
      !(x.space == .dev && decide (a < 64 * x.line + 64) && decide (64 * x.line < a + n)) }

/-- Drop the lines of a range of device memory from the L2, without a write back: nothing reads what they hold any more. -/
def State.purgeL2 (s : State) (a n : Nat) : State :=
  { s with rely.l2 := s.rely.l2.mapV fun _ ls => ls.filter fun (x : L2Line) =>
      !(decide (a < 64 * x.line + 64) && decide (64 * x.line < a + n)) }

/-- A frame on its way back to the pool (10 R300): translations that map it are dropped, it is zero-filled and purged from the caches. -/
def State.cleanFrame (s : State) (f : Nat) : State :=
  ((({ s with tlb := s.tlb.filter (fun e => !e.maps f), reclaim := s.reclaim.filter fun x => x != f } : State).zeroFill
    { space := .dev, addr := f * 2 ^ 14 } (2 ^ 14)).purgeL1 (f * 2 ^ 14) (2 ^ 14)).purgeL2 (f * 2 ^ 14) (2 ^ 14)

/-- FRAME_RECLAIM (10 R300): the frame is free again. -/
def execFrameReclaim (f : Nat) (s : State) : Out :=
  if s.reclaim.contains f then .next (s.cleanFrame f) else .next s

/-- TRANSLATION_WALK (10 R293, R295): a walk for an access of the current group whose page its TLBs do not hold; the entry's A is set and
the translation is kept, D only with the write itself. A walk that fails changes nothing: the access takes its fault itself. -/
def execTranslationWalk (v va acc : Nat) (sup : Bool) (s : State) : Out :=
  match s.grp? with
  | none => .next s
  | some g =>
    let tlbs := some (g.who.core, g.who.slot)
    if (s.lau g).qd.vf != v || g.sys.priv != sup || (s.tlb.any fun e => e.serves v va tlbs && e.pte.getLsbD 1) then .next s
    else match walk s v va with
      | .leaf p l a => if pteAllows p acc sup then .next (s.walked v tlbs va 0 l a p (s.root v)) else .next s
      | _ => .next s

/-- The operations of a VF in flight whose places have been translated: those that an invalidation waits for (10 R296). -/
def State.translated (s : State) (v : Nat) : List Nat :=
  let gs := s.groups.filter fun e => (s.lau e.2).qd.vf == v
  (gs.map fun e => e.2.pend.map (·.id) ++ (e.2.mu.filter fun o => o.places.isSome).map (·.id)).flatten ++
    ((s.eng.filter fun o => o.fault.isNone && gs.any fun e => e.1 == o.gid).map (·.id))

/-- Whether an operation is still in flight. -/
def State.inFlight (s : State) (id : Nat) : Bool :=
  (s.groups.any fun e => e.2.pend.any (fun o => o.id == id) || e.2.mu.any fun o => o.id == id) ||
    s.eng.any fun o => o.id == id && o.fault.isNone

/-- Perform every write that the agents of a VF have made or seen, for all agents (10 R296: at scope sys). -/
def State.performVf (s : State) (v : Nat) : State :=
  s.groups.foldl (fun (s : State) e =>
    if (s.lau e.2).qd.vf = v then
      (s.eng.filter fun o => o.gid == e.1).foldl (fun (s : State) o => s.publishBy o.id e.2 4) (s.publish e.2 4)
    else s) s

/-- Drop the cached translations of a VF that a test names, and note what was in flight (10 R296). -/
def State.dropTlb (s : State) (v : Nat) (f : TlbEnt → Bool) : State :=
  let x := s.vf v
  { s with tlb := s.tlb.filter fun e => !(e.vf == v && f e) }.setVf v
    { x with purged := true, busyOps := s.translated v }

/-- TLB_INVALIDATION_COMPLETE (10 R296): the translations are dropped, and BUSY clears once every access that was in flight then has been
performed at scope sys: the VF's writes are performed for all agents then. Until they are dropped an access uses either translation
(`translate`). -/
def execTlbInvalidationComplete (v : Nat) (s : State) : Out :=
  match (s.vf v).inval with
  | none => .next s
  | some tgt =>
    let s := if (s.vf v).purged then s
      else s.dropTlb v fun e => match tgt with
        | none => true
        | some q => e.page == q * 2 ^ 14 / 2 ^ entryBits e.level
    if (s.vf v).busyOps.any s.inFlight then .next s
    else
      let s := s.performVf v
      .next (s.setVf v { s.vf v with inval := none, purged := false, busyOps := [] })

/-- The level-2 entry of an address that is a valid large page: where it lies and what it holds (10 R297). -/
def largeEntry (s : State) (v va : Nat) : Option (Nat × BitVec 64) :=
  match walk s v va with
  | .leaf p 2 a => some (a, p)
  | _ => none

/-- The 2,048 leaf entries of a splintered large page (10 R297). -/
def splinterBytes (p : BitVec 64) : List Byte :=
  ((List.range 2048).map fun i =>
    natLe 8 ((ptePa p / 2 ^ 14 + i) % 2 ^ 38 * 2 ^ 14 + p.toNat % 2 ^ 13)).flatten

/-- SPLINTER_COMPLETE (10 R297): the frame that SFRAME named at the write becomes the table of the large page's small pages, the level-2
entry its pointer, the page's translations are dropped, and BUSY clears once the accesses in flight then have been performed at scope sys
(R296). An entry that is no valid large page sets ERR. DESIGN CHOICE: a later splinter that succeeds leaves ERR as it is, until it is
written 1 (notes/assumptions/80.md). -/
def execSplinterComplete (v : Nat) (s : State) : Out :=
  match (s.vf v).splint with
  | none => .next s
  | some (va, f) =>
    let x := s.vf v
    if x.purged then
      if x.busyOps.any s.inFlight then .next s
      else .next ((s.performVf v).setVf v { x with splint := none, purged := false, busyOps := [] })
    else
      match largeEntry s v va with
      | none => .next (s.setVf v { x with splint := none, err := true })
      | some (a, p) =>
        if usable < f + 2 ^ 14 then .fault (.noSuchAddress f)
        else
        let s := s.writeBytes { space := .dev, addr := f } (splinterBytes p)
        let s := s.writeLoc { space := .dev, addr := a } 8 (f + 1)
        .next (s.dropTlb v fun e => e.page == va / 2 ^ entryBits e.level || (e.level == 3 && e.base / 2 ^ 25 == va / 2 ^ 25))

end Sys2Proof.Machine
end

