-- ==== Sys2Proof/Machine/NearC.lean ====
section
/-! DEFINITION. Near-memory loads, stores and atomics of the C-stream at issue (06 R209-R214). Their performance is
NEAR_MEMORY_COMPLETE and WRITE_PERFORMED. -/

namespace Sys2Proof.Machine

/-- Integer operands. -/
def intSrcs (l : List Src) : List (OpTy × Src) := l.map fun x => (.int, x)

/-- Bytes and sign of a size code (06 R210). -/
def nearSize (size : BitVec 3) : Nat × Bool :=
  match size.toNat with
  | 0 => (1, false)
  | 1 => (1, true)
  | 2 => (2, false)
  | 3 => (2, true)
  | 4 => (4, false)
  | 5 => (8, false)
  | _ => (16, false)

/-- The checks of R213 over the enabled lanes and their offsets: alignment, then the allotment. -/
def nearCheck (s : State) (g : Group) (level acc sz : Nat) (els : List (Nat × Nat)) : Option Cause :=
  let al := min sz 4
  let lanes := fun (l : List (Nat × Nat)) => mkMask fun n => l.any fun e => e.1 == n
  let bad := els.filter fun e => e.2 % al != 0
  let out := els.filter fun e => decide (s.allot g level < e.2 + sz)
  match bad, out with
  | (_, o) :: _, _ => some (Cause.mk' 6 3 (o + al.log2 * 2 ^ 32) o (lanes bad))
  | [], (_, o) :: _ => some (Cause.mk' 4 6 (acc + 256 * level) o (lanes out))
  | [], [] => none

/-- The pieces of an access, keyed by four times the lane plus the word of the element (06 R210, R212). -/
def nearPieces (s : State) (g : Group) (level sz : Nat) (els : List (Nat × Nat)) : List (Nat × Loc) :=
  (els.map fun e => (List.range (max 1 (sz / 4))).map fun j =>
    (4 * e.1 + j, s.nearLoc g level e.1 (e.2 + 4 * j))).flatten

/-- The places of a near access of the enabled lanes, after its checks; a line that an operation of the group itself owns is waited for
at issue, and a suspended one's fault is taken (09 R286, R288; notes/assumptions/57.md). -/
def nearAccess (s : State) (g : Group) (e : CEnv) (i : Instr) (level acc sz : Nat) (a b : Lanes)
    (f : State → List (Nat × Loc) → Res) : Res :=
  let els := (lanesOf e.en).map fun l => (l, (lane a l + lane b l).toNat)
  match nearCheck s g level acc sz els with
  | some c => .trap c s
  | none =>
    let ps := nearPieces s g level sz els
    match s.firstOwn g.who.gid s.nextId (ps.map (·.2)) with
    | .free => f s ps
    | .busy _ => .wait .other s
    | .faulted x =>
      .done (trapHere (s.deliverEng x.eng x.pass x.cause) (x.mark g) e ((encodeC i).getD 0) x.cause (some x.pc))

/-- An operation of a split in flight. -/
def cOp (id : Nat) (e : CEnv) (kind : MemKind) (els : List (Nat × Loc)) (acq rel : Nat) : MemOp :=
  { id, who := e.k, pc := e.p.idx, kind, els, got := [], acq, rel }

/-- The scope of a near level: a lane's slice the group, the core scratchpad the core, cluster memory the cluster (06 R209). -/
def nearScope (level : Nat) : Nat := if level = 4 then 1 else if level = 3 then 2 else 3

/-- The number of a vector destination. -/
def dstV (d : Dst) : Nat :=
  match d with
  | .v n => n.toNat
  | _ => 0

/-- A near load: its operation in flight, attached to a flag. -/
def nearLoad (i : Instr) (level : Nat) (size : BitVec 3) (acq fl : BitVec 1) (d : Dst) (a b : Src) : State → Out :=
  cIssue i fun e g s =>
    let vs := e.vals g.cs (intSrcs [a, b]) e.es
    withFlag e g s fl fun n =>
      let z := nearSize size
      nearAccess s g e i level 0 z.1 (vs.getD 0 []) (vs.getD 1 []) fun s ps =>
        let (id, s) := s.newId
        let regs := (List.range (sizeWords size)).map fun j => dstV d + j
        .done (s.putG (((g.addPend (cOp id e (.near (dstV d) z.1 z.2 n) ps
          (if acq = 1 then nearScope level else 0) 0)).attach n).await e.k regs n))

/-- The words of a store's data, lowest first: registers from S3 on, or one operand. -/
def storeData (e : CEnv) (c : CSide) (size : BitVec 3) (x : Src) (v : Lanes) : List Lanes :=
  match x with
  | .v n => (List.range (sizeWords size)).map fun j => c.rv (n.toNat + j)
  | _ => let _ := e; [v]

/-- A near store: its operation in flight, with its data. -/
def nearStore (i : Instr) (level : Nat) (size : BitVec 3) (rel : BitVec 1) (a b c : Src) : State → Out :=
  cIssue i fun e g s =>
    let vs := e.vals g.cs (intSrcs [a, b, c]) e.es
    let z := nearSize size
    nearAccess s g e i level 1 z.1 (vs.getD 0 []) (vs.getD 1 []) fun s ps =>
      let (id, s) := s.newId
      .done (s.putG (g.addPend (cOp id e (.nearStore z.1 (storeData e g.cs size c (vs.getD 2 []))) ps 0
        (if rel = 1 then nearScope level else 0))))

/-- A near atomic: with a return it attaches to a flag (06 R211). -/
def nearAtomic (i : Instr) (level : Nat) (op : BitVec 4) (ret : BitVec 1) (ord : BitVec 2) (fl : BitVec 1) (d : Dst) (a b x y : Src) : State → Out :=
  cIssue i fun e g s =>
    let ty : OpTy := if 12 ≤ op.toNat then .f32 else .int
    let vs := e.vals g.cs (intSrcs [a, b] ++ [(ty, x)] ++ if op = 9 then [(ty, y)] else []) e.es
    let go := fun (n : Nat) =>
      nearAccess s g e i level 2 4 (vs.getD 0 []) (vs.getD 1 []) fun s ps =>
        let (id, s) := s.newId
        let o := cOp id e (.nearAtom (dstV d) op.toNat (ret == 1) n (vs.getD 2 []) (vs.getD 3 [])) ps
          (if ord = 1 ∨ ord = 3 then nearScope level else 0) (if ord = 2 ∨ ord = 3 then nearScope level else 0)
        .done (s.putG (if ret = 1 then ((g.addPend o).attach n).await e.k [dstV d] n else g.addPend o))
    if ret = 1 then withFlag e g s fl go else go 15

/-- LDL: a load from the lane slices. -/
def execLdl (size : BitVec 3) (acq : BitVec 1) (fl : BitVec 1) (d : Dst) (a b : Src) (x : Ctl) (s : State) : Out :=
  nearLoad (.ldl size acq fl d a b x) 4 size acq fl d a b s

/-- STL: a store to the lane slices. -/
def execStl (size : BitVec 3) (rel : BitVec 1) (a b c : Src) (x : Ctl) (s : State) : Out :=
  nearStore (.stl size rel a b c x) 4 size rel a b c s

/-- LDS: a load from the core scratchpad. -/
def execLds (size : BitVec 3) (acq : BitVec 1) (fl : BitVec 1) (d : Dst) (a b : Src) (x : Ctl) (s : State) : Out :=
  nearLoad (.lds size acq fl d a b x) 3 size acq fl d a b s

/-- STS: a store to the core scratchpad. -/
def execSts (size : BitVec 3) (rel : BitVec 1) (a b c : Src) (x : Ctl) (s : State) : Out :=
  nearStore (.sts size rel a b c x) 3 size rel a b c s

/-- ATOMS: an atomic in the core scratchpad. -/
def execAtoms (op : BitVec 4) (ret : BitVec 1) (ord : BitVec 2) (fl : BitVec 1) (d : Dst) (a b c e : Src) (x : Ctl)
    (s : State) : Out :=
  nearAtomic (.atoms op ret ord fl d a b c e x) 3 op ret ord fl d a b c e s

/-- LDC: a load from cluster memory. -/
def execLdc (size : BitVec 3) (acq : BitVec 1) (fl : BitVec 1) (d : Dst) (a b : Src) (x : Ctl) (s : State) : Out :=
  nearLoad (.ldc size acq fl d a b x) 2 size acq fl d a b s

/-- STC: a store to cluster memory. -/
def execStc (size : BitVec 3) (rel : BitVec 1) (a b c : Src) (x : Ctl) (s : State) : Out :=
  nearStore (.stc size rel a b c x) 2 size rel a b c s

/-- ATOMC: an atomic in cluster memory. -/
def execAtomc (op : BitVec 4) (ret : BitVec 1) (ord : BitVec 2) (fl : BitVec 1) (d : Dst) (a b c e : Src) (x : Ctl)
    (s : State) : Out :=
  nearAtomic (.atomc op ret ord fl d a b c e x) 2 op ret ord fl d a b c e s

end Sys2Proof.Machine
end

