-- ==== Sys2Proof/Machine/MemEvents.lean ====
section
/-! DEFINITION. The steps in which memory operations in flight are performed: loads, stores, atomics, record loads, and the
operations of the memory unit (04 R113-R115, R130-R138; 06 R212, R214; 09 R278-R285; 20 R390). -/

namespace Sys2Proof.Machine

/-- An operation in flight that may be performed now, with its group: the order of R279-R283 allows it and no other operation
owns a line that it touches (R286). -/
def State.memLive (s : State) (id : Nat) : Option (MemOp × Group) :=
  (s.groups.findSome? fun e => (e.2.pend.find? fun o => o.id == id).map fun o => (o, e.2)).filter fun x =>
    x.2.mayPerform x.1 && s.allFree x.2.who.gid id (x.1.els.map (·.2))

/-- The places that an operation touches. -/
def MemOp.locs (o : MemOp) : List Loc := o.els.map (·.2)

/-- The end of an operation: it is in flight no more, and an acquire takes effect (09 R276). -/
def State.endOp (s : State) (g : Group) (o : MemOp) : State := (s.dropPend g.who.gid o.id).acquire g o.acq

/-- A read in flight that fails: the entry of an LDV takes a token (08 R249), any other read traps its group, at the instruction
that issued it. -/
def failRead (s : State) (g : Group) (o : MemOp) (code : Nat) : State :=
  let d := lostDetail s (quadOf g.who.core)
  let s := d.1.dropPend g.who.gid o.id
  match s.groups.get? g.who.gid with
  | none => s
  | some h =>
    match o.kind with
    | .ldv q _ _ =>
      let c := Cause.mk' 10 code d.2 0 (mkMask fun l => o.els.any fun e => e.1 / 4 == l)
      if h.cEnded then bareToken s h c o.id
      else s.setG g.who.gid { h.updEntry q o.id (fun e => { e with fill := .token c }) with lastQ := s.tick }
    | _ =>
      let c := Cause.mk' 10 code d.2 0 (if o.who < 4 then mkMask fun l => o.els.any fun e => e.1 / 4 == l else 1)
      raise s g.who.gid (if o.who < 4 then { cPending h o.who 0 c with fpc := o.pc }
                         else { aPending h .nop c with word := 0, fpc := o.pc })

/-- Whether a read in flight meets a peer that no link reaches (15 R382). -/
def State.readCut (s : State) (o : MemOp) : Bool :=
  s.peerCut && o.reads && o.locs.any fun l => l.space == .peer

/-- Words of lanes from pieces: (byte offset in the entry, bytes read there). -/
def lanesOfPieces (ps : List (Nat × Nat)) : Lanes :=
  mkLanes fun l => BitVec.ofNat 32 ((ps.filter fun p => p.1 / 4 == l).map fun p => p.2 * 2 ^ (8 * (p.1 % 4))).sum

/-- Read pieces of `n` bytes as an agent of a core, through its L1 where the load may use it (09 R275, R281, R284). -/
def readPieces (s : State) (u : User) (l1 : Bool) (n : Nat) (els : List (Nat × Loc)) : State × List (Nat × Nat) :=
  els.foldl (fun (x : State × List (Nat × Nat)) e =>
    let r := if l1 then (x.1.touchL1 u e.2 0).readL1 u e.2 n else x.1.readPast u e.2 n
    (r.1, x.2 ++ [(e.1, leNat r.2)])) (s, [])

/-- Perform an atomic at a place: the old value, the last in its modification order whatever its agent has seen, and memory with the new
one (04 R135, R136; 09 R285). -/
def atomicAt (s : State) (u : User) (l : Loc) (op : Nat) (x y : Word) : State × Word :=
  let old := s.readPiece l 4
  (s.writeThrough u l (natLe 4 (rmw op old x y).toNat), old)

/-- Write pieces: the number of each and its bytes are a function of its key. -/
def writePieces (s : State) (u : User) (n : Nat) (f : Nat → Nat) (els : List (Nat × Loc)) : State :=
  els.foldl (fun (s : State) e => s.writeThrough u e.2 (natLe n (f e.1))) s

/-- Perform the atomics of lanes in order: the old values by key. -/
def atomPieces (s : State) (u : User) (op : Nat) (x y : Lanes) (els : List (Nat × Loc)) : State × List (Nat × Nat) :=
  els.foldl (fun (a : State × List (Nat × Nat)) e =>
    let b := atomicAt a.1 u e.2 op (lane x (e.1 / 4)) (lane y (e.1 / 4))
    (b.1, a.2 ++ [(e.1, b.2.toNat)])) (s, [])

/-- Whether the parts of an operation go in ascending lane order (06 R212). -/
def MemOp.ordered (o : MemOp) : Bool :=
  match o.kind with
  | .nearStore .. => true
  | .nearAtom .. => true
  | _ => false

/-- The accesses of an operation to some of its parts: the machine after them and what they returned. -/
def MemOp.access (o : MemOp) (s : State) (u : User) (els : List (Nat × Loc)) : State × List (Nat × Nat) :=
  match o.kind with
  | .lda _ n _ => readPieces s u false n els
  | .sta v n => (writePieces s u n (fun _ => v.toNat) els, [])
  | .ata _ op x y _ => atomPieces s u op (splat x) (splat y) els
  | .ldv _ n l1 => readPieces s u l1 (min n 4) els
  | .bld _ => readPieces s u false 32 els
  | .tld _ => readPieces s u false 64 els
  | .near _ n _ _ => readPieces s u false (min n 4) els
  | .nearStore n data => (writePieces s u (min n 4) (fun k => (lane (data.getD (k % 4) []) (k / 4)).toNat) els, [])
  | .nearAtom _ op _ _ x y => atomPieces s u op x y els

/-- Perform an operation in flight: its release first (09 R282), then the parts of it that are accessed in this step (R278). The
machine, the operation with what it has read, and whether all of it has been accessed. An access of the A-stream passes the LDGs before
it (R281). A write that no link to a peer acknowledges is a late store error, one in each step (15 R382; notes/assumptions/37.md). -/
def State.perform (s : State) (g : Group) (o : MemOp) : State × MemOp :=
  let s := s.publish g o.rel
  let x := s.partsOf o.ordered o.rel o.els
  let was := x.2.1.map fun e => (e.2, (s.memOf e.2.space).bytes e.2.key o.pieceLen)
  let r := o.access x.1 (s.user g) x.2.1
  let reads := if r.2.isEmpty then was else x.2.1.map fun e =>
    (e.2, natLe o.pieceLen (((r.2.find? fun v => v.1 == e.1).map (·.2)).getD 0))
  let o' := { o with els := x.2.2, got := o.got ++ r.2 }
  let f := fun (h : Group) =>
    let h := { h with pend := h.pend.map fun (p : MemOp) => if p.id = o.id then o' else p }
    if o.who = 4 then h.pass o.id reads else h
  let s : State := { r.1 with groups := r.1.groups.upd g.who.gid f }
  (if o.reads then s else s.lateIfCut g.who.gid o.pc (x.2.1.map (·.2)), o')

/-- LOAD_COMPLETE: the data of an LDV is written and its entry can be popped (04 R130). -/
def execLoadComplete (op : Nat) (s : State) : Out :=
  match s.memLive op with
  | none => .next s
  | some (o, g) =>
    if s.readCut o then .next (failRead s g o 3) else
    match o.kind with
    | .ldv q _ _ =>
      let r := s.perform g o
      if !r.2.els.isEmpty then .next r.1
      else
        let f := fun (h : Group) => h.updEntry q op fun e => { e with data := lanesOfPieces r.2.got, fill := .filled }
        .next (({ r.1 with groups := r.1.groups.upd g.who.gid f } : State).endOp g o)
    | _ => .next s

/-- What an operation has read for a key. -/
def MemOp.value (o : MemOp) (k : Nat) : Word := BitVec.ofNat 32 (((o.got.find? fun v => v.1 == k).map (·.2)).getD 0)

/-- SCALAR_ACCESS_RETURN: an LDA or ATA value returns to its register, 0 for an element out of bounds (04 R113, R134, R138; 10 R299). -/
def execScalarAccessReturn (op : Nat) (s : State) : Out :=
  match s.memLive op with
  | none => .next s
  | some (o, g) =>
    let put := fun (s : State) (d : Nat) (w : Word) =>
      Host.Outcome.next (({ s with groups := s.groups.upd g.who.gid fun h => h.wa d w } : State).endOp g o)
    if s.readCut o then .next (failRead s g o 3) else
    match o.kind with
    | .lda d sz sgn =>
      let r := s.perform g o
      put r.1 d (if o.els.isEmpty then 0 else extend sgn sz (r.2.value 0))
    | .ata d _ x y win =>
      match win with
      | some off =>
        if off = 8 ∧ s.regs.prqbase.getLsbD 0 ∧ usable ≤ s.ringAt then .fault (.noSuchAddress s.ringAt)
        else
          let r := windowRun (s.publish g o.rel) g off x y
          put r.1 d r.2
      | none =>
        let r := s.perform g o
        put r.1 d (r.2.value 0)
    | _ => .next s

/-- RECORD_LOAD_COMPLETE: a BLD or TLD completes and sets LOADED (04 R124, R125; 01 R24). -/
def execRecordLoadComplete (op : Nat) (s : State) : Out :=
  match s.memLive op with
  | none => .next s
  | some (o, g) =>
    if s.readCut o then .next (failRead s g o 3) else
    let r := s.perform g o
    let rec_ : Rec := { img := BitVec.ofNat 512 (((r.2.got.head?).map (·.2)).getD 0), loaded := true, busy := 0 }
    match o.kind with
    | .bld n => .next (({ r.1 with groups := r.1.groups.upd g.who.gid fun h => { h with b := h.b.set n rec_ } } : State).endOp g o)
    | .tld n => .next (({ r.1 with groups := r.1.groups.upd g.who.gid fun h => { h with t := h.t.set n rec_ } } : State).endOp g o)
    | _ => .next s

/-- WRITE_PERFORMED: the write of an STA, a near store or an atomic that returns nothing (04 R114, R134; 06 R210-R214). -/
def execWritePerformed (op : Nat) (s : State) : Out :=
  match s.memLive op with
  | none => .next s
  | some (o, g) =>
    let run := fun (_ : Unit) =>
      let r := s.perform g o
      Host.Outcome.next (if r.2.els.isEmpty then r.1.endOp g o else r.1)
    match o.kind with
    | .sta .. => run ()
    | .nearStore .. => run ()
    | .nearAtom _ _ false .. => run ()
    | _ => .next s

/-- The registers of a near access that has returned: written, its flag's count falls, and the shadow takes them from the
leader (06 R212, 01 R22, 08 R267). -/
def endNear (s : State) (g : Group) (o : MemOp) (flag : Nat) (ws : List (Nat × Mask × Lanes)) : State :=
  let f := fun (h : Group) =>
    let h := ws.foldl (fun (h : Group) w => { h with cs := h.cs.wv w.1 w.2.1 w.2.2 }) h
    (h.detach flag).log { split := o.who, at_ := [], instr := none, pops := [], writes := ws, ctl := none, cmp := false, op := o.id }
  ({ s with groups := s.groups.upd g.who.gid f } : State).endOp g o

/-- NEAR_MEMORY_COMPLETE: a near-memory load or returning atomic completes (06 R210-R214). -/
def execNearMemoryComplete (op : Nat) (s : State) : Out :=
  match s.memLive op with
  | none => .next s
  | some (o, g) =>
    let run := fun (flag words : Nat) (reg : Nat) (f : Word → Word) =>
      let r := s.perform g o
      if !r.2.els.isEmpty then Host.Outcome.next r.1
      else
        let m := mkMask fun l => r.2.got.any fun e => e.1 / 4 == l
        .next (endNear r.1 g o flag ((List.range words).map fun j =>
          (reg + j, m, mkLanes fun l => if m.getLsbD l then f (r.2.value (4 * l + j)) else 0)))
    match o.kind with
    | .near d sz sgn flag => run flag (max 1 (sz / 4)) d (extend sgn sz)
    | .nearAtom d _ true flag _ _ => run flag 1 d id
    | _ => .next s

/-! ## The memory unit -/

/-- Whether the order of R279-R283 lets an operation of the memory unit be performed: no earlier acquire of the stream waits, a
release waits for every earlier operation, no earlier one in flight touches the same bytes, and an acquire ATV in which no lane
operates waits as FENCE.acq for the earlier loads and atomics of the group (04 R147; 20 R390). -/
def Group.muOrder (g : Group) (o : MuOp) (ps : List (Nat × Loc)) : Bool :=
  let before := g.pend.filter fun p => p.who == 4 && decide (p.id < o.id)
  let mu := g.mu.takeWhile fun x => x.id != o.id
  !g.acqBefore o.id && before.all (fun p => !overlap p (o.asMem o.pieceLen ps)) &&
    (o.rel == 0 || (before.isEmpty && mu.isEmpty)) &&
    (o.acq == 0 || !ps.isEmpty || ((before.all fun p => match p.kind with
        | .sta .. => true
        | _ => false) && mu.all (fun m => m.access == 1) && !g.cLoads o.id))

/-- An operation has ended: its entries are taken, and its acquire takes effect. -/
def endMu (s : State) (gid : Nat) (o : MuOp) : State :=
  match s.groups.get? gid with
  | none => s
  | some g =>
    let g := { g.dropMu o with lastQ := s.tick }
    ((s.setG gid g).acquire g o.acq).arriveReady gid

/-- A check that fails holds the operation with its entries (04 R115); a result entry takes a token (08 R249), and once the
C-stream has ended its fault is taken at once (R402). -/
def holdMu (s : State) (g : Group) (o : MuOp) (c : Cause) : State :=
  let g := o.takes.foldl (fun (g : Group) q => g.updHead o q fun e => some { e with held := true }) g
  let g := { g with mu := g.mu.map fun (x : MuOp) => if x.id = o.id then { x with held := some c, begun := false } else x }
  match o.resultQ with
  | none => s.setG g.who.gid g
  | some q =>
    if g.cEnded then bareToken (s.setG g.who.gid g) g c o.id
    else s.setG g.who.gid { g.updEntry q o.id (fun e => { e with fill := .token c }) with lastQ := s.tick }

/-- An element of an indexed operation: its lane's key and its number (04 R130, R131, R137). -/
def indexedEls (first : Word) (m : Mask) (idx : Lanes) : List (Nat × Nat) :=
  (lanesOf m).map fun l => (4 * l, (first + lane idx l).toNat)

/-- Whether the parts of an operation go in ascending lane order (04 R131, R137). -/
def MuOp.ordered (o : MuOp) : Bool :=
  match o.instr with
  | .stx .. => true
  | .atv .. => true
  | _ => false

/-- The accesses of an operation to some of its parts, with the data of its entries: memory, and what was read (04 R130, R131, R137). -/
def MuOp.access' (o : MuOp) (s : State) (g : Group) (d0 d1 : Lanes) (els : List (Nat × Loc)) : State × List (Nat × Nat) :=
  let b := Buf.of o.buf.toNat
  let u := s.user g
  match o.instr with
  | .ldg byp ord .. =>
    let r := readPieces s u (decide (b.level = 0) && b.roc && byp == 0 && ord == 0) b.size els
    (r.1, (els.zip r.2).map fun e => (e.2.1, leNat (o.passedBytes e.1.2 (natLe b.size e.2.2))))
  | .stx .. => (writePieces s u b.size (fun k => (lane d0 (k / 4)).toNat) els, [])
  | .stv .. => (writePieces s u o.pieceLen (fun k => (lane d0 (k / 4)).toNat / 2 ^ (8 * (k % 4))) els, [])
  | .atv op .. => atomPieces s u op.toNat d0 d1 els
  | _ => (s, [])

/-- The result entry of an operation: each lane's element, extended, or the old value of its atomic; 0 in the others. -/
def MuOp.result (o : MuOp) : Lanes :=
  let b := Buf.of o.buf.toNat
  mkLanes fun l => ((o.got.find? fun p => p.1 == 4 * l).map fun p => match o.instr with
    | .ldg .. => extend b.sgn b.size (BitVec.ofNat 32 p.2)
    | _ => BitVec.ofNat 32 p.2).getD 0

/-- Perform an operation of the memory unit whose checks and order let it: its release before each of its writes, then the parts that are
accessed in this step (09 R278, R282; 20 R390); with its last part it ends. -/
def State.runMu (s : State) (g : Group) (o : MuOp) (ps : List (Nat × Loc)) (d0 d1 : Lanes) : State :=
  let s := s.publish g o.rel
  let x := s.partsOf o.ordered o.rel ps
  let was := x.2.1.map fun e => (e.2, (s.memOf e.2.space).bytes e.2.key o.pieceLen)
  let r := o.access' x.1 g d0 d1 x.2.1
  let o' := { o with places := some x.2.2, begun := true, got := o.got ++ r.2 }
  let f := fun (h : Group) =>
    let h := { h with mu := h.mu.map fun (m : MuOp) => if m.id = o.id then o' else m }
    let h := h.pass o.id was
    match o.resultQ with
    | some q => if x.2.2.isEmpty then h.updEntry q o.id (fun e => { e with data := o'.result, fill := .filled }) else h
    | none => h
  let s : State := { r.1 with groups := r.1.groups.upd g.who.gid f }
  let s := if o.access = 1 then s.lateIfCut g.who.gid o.pc (x.2.1.map (·.2)) else s
  if x.2.2.isEmpty then endMu s g.who.gid o else s

/-- The group with its A-stream back at an operation of the memory unit, whose PC a trap records as the restart point (09 R288). DESIGN
CHOICE: what the A-stream issues again from there has gone: the operation, the later ones that have not begun, and the entries and
arrivals that followed it (notes/assumptions/57.md). -/
def Group.rewind (g : Group) (o : MuOp) : Group :=
  let stays := fun (need : List Nat) => !need.contains o.id
  let clq := g.q.clq.filter fun e => stays e.need
  { g with
    apc := o.pc, mu := g.mu.filter (fun m => decide (m.id < o.id) || m.begun),
    pend := g.pend.filter (fun p => !(p.who == 4 && decide (o.id < p.id) && match p.kind with
      | .ldv .. => true
      | _ => false)),
    arrivals := g.arrivals.filter (fun a => a.stream != 4 || stays a.need),
    pushed := g.pushed - (g.q.clq.length - clq.length),
    q := { g.q with clq, svq := g.q.svq.filter (fun e => stays e.need),
                    ldq := g.q.ldq.map fun l => l.filter fun e => e.op != o.id && stays e.need } }

/-- The checks and the order of a memory-unit operation over its elements, then its effect. An access to a line of the group's own suspended
operation takes that operation's fault at once, with its own PC as the restart point (09 R288; notes/assumptions/57.md). -/
def performMu (s : State) (g : Group) (o : MuOp) (checked : State × Checked) (d0 d1 : Lanes) : Out :=
  match (if o.begun then (s, .ok (o.places.getD [])) else checked) with
  | (_, .hole a) => .fault (.noSuchAddress a)
  | (s', .trap c) => .next (holdMu s' g o c)
  | (s', .ok ps) =>
    if !(o.begun || g.muOrder o ps) then .next s
    else match s'.firstOwned g.who.gid o.id (ps.map (·.2)) with
      | .busy _ => .next s
      | .faulted x =>
        let h := (x.mark g).rewind o
        .next (raise ((s'.deliverEng x.eng x.pass x.cause).setG g.who.gid h) g.who.gid
          { aPending h o.instr x.cause with fpc := x.pc })
      | .free =>
        if s'.peerCut && o.access != 1 && ps.any fun p => p.2.space == .peer then
          let d := lostDetail s' (quadOf g.who.core)
          .next (holdMu d.1 g { o with begun := false } (Cause.mk' 10 3 d.2 0 (mkMask fun l => ps.any fun p => p.1 / 4 == l)))
        else .next (s'.runMu g o ps d0 d1)

/-- The operation of the memory unit with a number, with its group, when its turn has come. -/
def State.muLive (s : State) (id : Nat) : Option (MuOp × Group) :=
  (s.groups.findSome? fun e => (e.2.mu.find? fun o => o.id == id).map fun o => (o, e.2)).filter fun x =>
    !x.2.saved && (x.2.trap.isNone || x.1.begun) && x.1.held.isNone && x.2.muTurn x.1

/-- Discard an operation that lacks an entry once the C-stream has ended, with the entries that it has (08 R402). -/
def dropMu (s : State) (g : Group) (o : MuOp) : State := (s.setG g.who.gid (g.dropMu o)).arriveReady g.who.gid

/-- Whether an entry that an operation takes is not there (04 R132). -/
def Group.lacks (g : Group) (o : MuOp) : Bool := o.takes.any fun q => decide ((g.vq q).length ≤ g.placeOf o q)

/-- The parts of an STV that its entry's mask lets be written (04 R131). -/
def maskedParts (m : Mask) (ps : List (Nat × Loc)) : List (Nat × Loc) := ps.filter fun p => m.getLsbD (p.1 / 4)

/-- The checks of an operation of the memory unit once its entries have arrived, and the data that it takes: an indexed one over the
lanes that all its entries hold (04 R115, R130, R131, R137); an STV has passed them at issue (R131), but for one that comes back from
an image, which is checked again (notes/assumptions/34.md). -/
def State.muCheck (s : State) (g : Group) (o : MuOp) : Option ((State × Checked) × Lanes × Lanes) :=
  let b := Buf.of o.buf.toNat
  if o.indexed then
    (o.takes.mapM (g.vHead o)).map fun es =>
      let m := es.foldl (fun (m : Mask) e => m &&& e.mask) allLanes
      let d := fun (n : Nat) => ((es[n]?).map (·.data)).getD zeroLanes
      (checkElems s g { code := 2 } o.access b false (indexedEls o.first m (d 0)), d 1, d 2)
  else
    (o.sdqs.head?.bind fun q => g.vHead o (q + 1)).map fun e =>
      let chk : State × Checked := match o.places with
        | some ps => (s, .ok ps)
        | none => checkElems s g { code := 1 } 1 b false (packedEls b o.first)
      (match chk with
        | (s, .ok ps) => (s, Checked.ok (maskedParts e.mask ps))
        | r => r, e.data, zeroLanes)

/-- The places that an operation of the memory unit has still to access, as far as they are known. -/
def State.muPlaces (s : State) (g : Group) (o : MuOp) : List (Nat × Loc) :=
  if o.begun then o.places.getD []
  else match s.muCheck g o with
    | some ((_, .ok ps), _, _) => ps
    | _ => []

/-- The numbers of the A-stream's operations that stand while both streams do: those that lack an entry or come after one that does, and
those that they hold back (08 R259, R264). -/
def State.stands (s : State) (g : Group) : List Nat :=
  (g.standing (s.muPlaces g) fun o => g.muReady o && g.muTurn o).map (·.id)

/-- XQ_OPERATION_PERFORM: an LDG, STX or ATV whose entries have arrived (04 R115, R130-R132, R137; 20 R390). -/
def execXqOperationPerform (op : Nat) (s : State) : Out :=
  match s.muLive op with
  | none => .next s
  | some (o, g) =>
    if !o.indexed then .next s
    else
      match s.muCheck g o with
      | none => if g.cEnded && g.lacks o then .next (dropMu s g o) else .next s
      | some (chk, d0, d1) => performMu s g o chk d0 d1

/-- STORE_PERFORM: an STV whose data has arrived (04 R131, R132). A check that fails in one that comes back from an image is a late store
error, since its checks had passed at issue (08 R262; notes/assumptions/34.md). -/
def execStorePerform (op : Nat) (s : State) : Out :=
  match s.muLive op with
  | none => .next s
  | some (o, g) =>
    if o.indexed then .next s
    else
      match s.muCheck g o with
      | none => if g.cEnded && g.lacks o then .next (dropMu s g o) else .next s
      | some ((s', .trap _), _, _) => .next ((endMu s' g.who.gid o).lateError g o.pc)
      | some (chk, d0, d1) => performMu s g o chk d0 d1

end Sys2Proof.Machine
end

