-- ==== Sys2Proof/Machine/SysA.lean ====
section
/-! DEFINITION. The system forms of the A-stream: special registers (01 R34-R41), traps and the return from them, the waits for
the C-stream, the end of a group (04 R149, R150; 08 R259). -/

namespace Sys2Proof.Machine

/-- NOP. -/
def execNop : State → Out := aIssue .nop fun g s => .done (s.putG g.adv)

/-- YIELD changes no state (04 R149). -/
def execYield : State → Out := aIssue .yield fun g s => .done (s.putG g.adv)

/-- The completion flags as CFLAGS shows them (01 R34). -/
def Group.cflags (g : Group) : Word :=
  BitVec.ofNat 32 ((List.range 12).foldl (fun a n => if g.cfn n = 0 then a else a + 2 ^ n) 0)

/-- The low and high words of TIME. -/
def State.timeW (s : State) : Word × Word := (BitVec.ofNat 32 s.time, BitVec.ofNat 32 (s.time / 2 ^ 32))

/-- LAUNCH, VF and TILEIX (01 R40, R41). -/
def Launch.idWord (l : Launch) : Word := BitVec.ofNat 32 (l.serial % 65536 + 65536 * (l.qslot % 128))

/-- VF: the port that owns the function (15 R380), PF and VF number. -/
def State.vfWord (s : State) (d : QDesc) : Word :=
  BitVec.ofNat 32 (128 * (s.portOf d % 2) + (if d.pf then 64 else d.vf % 64))

/-- TILEIX: 0 outside a DIVERSE launch. -/
def tileWord (pk : Packet) (w : Ident) : Word :=
  if pk.diverse then BitVec.ofNat 32 (2 ^ 31 + 2 ^ 30 * (w.inst % 2) + 2 ^ 16 * (w.ty % 4096) + w.tx % 4096) else 0

/-- The value of a special register (01 R34-R41). -/
def readSr (s : State) (g : Group) (idx : Nat) : Word :=
  let l := s.lau g
  let n := fun (x : Nat) => BitVec.ofNat 32 x
  match idx with
  | 0x000 => s.gstat g
  | 0x001 => g.sys.gten.setWidth 32
  | 0x002 => g.cflags
  | 0x003 => g.qocc
  | 0x004 => g.qoccb
  | 0x005 => l.idWord
  | 0x006 => s.vfWord l.qd
  | 0x008 => n g.who.groupIx
  | 0x009 => n g.who.teamPos
  | 0x00A => n g.who.clux
  | 0x00B => n g.who.cluy
  | 0x00C => n g.who.cluz
  | 0x00D => n l.pk.gx
  | 0x00E => n l.pk.gy
  | 0x00F => n l.pk.gz
  | 0x010 => n g.who.core
  | 0x011 => n g.who.slot
  | 0x012 => n (quadOf g.who.core)
  | 0x014 => s.timeW.1
  | 0x015 => g.sys.timeHi
  | 0x018 => tileWord l.pk g.who
  | 0x100 => g.sys.tframe
  | 0x101 => g.sys.tveca
  | 0x102 => g.sys.tvecc
  | 0x103 => g.sys.save
  | 0x104 => g.sys.tcg
  | 0x105 => g.sys.tdx0
  | 0x106 => g.sys.tdx1
  | 0x107 => g.sys.tdx2
  | _ => 0

/-- RDSR: a read of TIME latches its high word for TIMEHI. -/
def execRdsr (d : BitVec 6) (idx : BitVec 10) : State → Out :=
  aIssue (.rdsr d idx) fun g s =>
    let x := readSr s g idx.toNat
    let g := if idx = 0x014 then { g with sys.timeHi := s.timeW.2 } else g
    .done (s.putG ((g.wa d.toNat x).adv))

/-- Write a special register: only the RW ones change, and their reserved bits stay 0 (01 R34, R36, R38). -/
def writeSr (g : Group) (idx : Nat) (x : Word) : Group :=
  match idx with
  | 0x000 => { g with sys.sticky := x.setWidth 5 }
  | 0x001 => { g with sys.gten := x.setWidth 5 }
  | 0x100 => { g with sys.tframe := x }
  | 0x101 => { g with sys.tveca := x &&& 0xFFFFFFFC, sys.wroteTvec := true }
  | 0x102 => { g with sys.tvecc := x &&& 0x3FFFFF }
  | 0x103 => { g with sys.save := x &&& 0x7FFFFFFF }
  | _ => g

/-- WRSR: a write of a read-only register is ignored. -/
def execWrsr (a : BitVec 6) (idx : BitVec 10) : State → Out :=
  aIssue (.wrsr a idx) fun g s => .done (s.putG ((writeSr g idx.toNat (g.ra a.toNat)).adv))

/-- RDTIME: both words of one reading; the latch of TIMEHI does not change. -/
def execRdtime (d : BitVec 6) : State → Out :=
  aIssue (.rdtime d) fun g s =>
    .done (s.putG (((g.wa d.toNat s.timeW.1).wa (d.toNat + 1) s.timeW.2).adv))

/-- TRAP: cause group 13 with the code, restarting after itself. -/
def execTrap (code : BitVec 10) : State → Out :=
  aIssue (.trap code) fun g s =>
    let pc := (g.apc + 4) % 2 ^ 32
    let c := Cause.mk' 13 (code.toNat % 256) code.toNat
    .done (raise s g.who.gid { aPending g (.trap code) c with apc := pc, fpc := pc })

/-- Whether the C-stream has ended every region pushed so far, and the memory operations of those regions are performed
(04 R149, 09 R280). -/
def Group.cQuiet (g : Group) : Bool :=
  decide (g.pushed ≤ g.ended) && (g.pend.all fun o => o.who == 4) && g.lane.all fun o => !o.faults.isEmpty

/-- CSYNC. -/
def execCsync : State → Out :=
  aIssue .csync fun g s =>
    match deliver s g true .none with
    | some s => .done s
    | none => if g.cQuiet then .done (s.putG g.adv) else .wait .other s

/-- Attachments of a flag by feeds whose banks have not latched (08 R259, 12 R340). -/
def State.feedCount (s : State) (g : Group) (n : Nat) : Nat :=
  match g.session with
  | some (k, q) => (((s.sessions.get? k).bind fun (ss : Session) => ss.parts[q]?).map fun (p : Part) =>
      (p.flags.filter fun f => f == n).length).getD 0
  | none => 0

/-- The handler's operations that TRET waits for: those in flight whose registers and records it writes (01 R24; 04 R113) or whose bytes
it reads (09 R281), and stores whose data has come (04 R132). One that cannot be performed goes with the handler's list. -/
def State.tretWaits (s : State) (g : Group) : Bool :=
  let st := s.stands g
  (g.pend.any fun o => decide (g.sys.asideId ≤ o.id) && !st.contains o.id && match o.kind with
    | .ldv .. => false
    | _ => true) || g.mu.any fun o => !st.contains o.id

/-- TRET: waits as CSYNC and for the flags, with the interlock of its own operations; then it returns from the frame. Without a frame it
traps (08 R259). -/
def execTret : State → Out :=
  aIssue .tret fun g s =>
    if !g.sys.frame then .trap (Cause.mk' 8 7) s
    else
      match deliver s g true .none with
      | some s => .done s
      | none =>
        if !g.cQuiet then .wait .other s
        else if (List.range 12).any fun n => decide (s.feedCount g n < g.cfn n) then .wait .flag s
        else if s.tretWaits g then .wait .other s
        else
          let st := s.stands g
          match returnTrap (s.putG { g with pend := g.pend.filter fun o => !(o.reads && st.contains o.id) }) g.who.gid with
          | (t, none) => .done ((s.retake t g.who.gid).afterReturn g.who.gid)
          | (_, some (.hole a)) => .stop (.noSuchAddress a)
          | (s, some e) => .trap (e.cause' 1 0 0) s

/-- Stores and atomics that EXIT waits for: those that have still to pass their checks, and stores whose data stand in their
queue (04 R150). -/
def Group.storesLeft (g : Group) : Bool :=
  g.mu.any fun o => match o.instr with
    | .ldg .. => false
    | .stv _ q _ _ _ => (g.vHead o (q.toNat + 1)).isSome
    | _ => true

/-- Whether an engine operation of the group has neither completed nor delivered its fault (04 R150). -/
def State.engLeft (s : State) (g : Group) : Bool :=
  (s.eng.any fun o => o.gid == g.who.gid && !o.told) ||
    match g.session with
    | some (k, 0) => (s.sessions.get? k).any fun ss => ss.passes.any fun p => !p.told
    | _ => false

/-- EXIT ends the group (04 R150). -/
def execExit : State → Out :=
  aIssue .exit fun g s =>
    if g.ended < g.pushed ∨ !(g.pend.all fun o => o.who == 4) then .wait .other s
    else
      match deliver s g true .all with
      | some s => .done s
      | none =>
        if g.storesLeft || s.engLeft g || !(g.lane.all fun o => !o.faults.isEmpty) ||
            !(g.shadow.all fun x => x.log.isEmpty) then .wait .other s
        else if g.session.isSome then .trap (Cause.mk' 9 1 2) s
        else .done (s.endGroup g.who.gid)

/-- Whether the C-stream stands at a clause boundary: no split is within a clause, or the C-stream has ended. -/
def Group.atBoundary (g : Group) : Bool :=
  g.cEnded || g.cs.splits.all fun e => e.2.st != .running || (e.2.slot == 0 && !e.2.cmp)

/-- HALTD: the A-stream waits at it, and at the C-stream's next clause boundary both streams stop and a debug event goes to the
host port of the group's VF (04 R149). -/
def execHaltd : State → Out :=
  aIssue .haltd fun g s =>
    if g.atBoundary then
      .done ({ s with debug := s.debug ++ [(s.portOf (s.lau g).qd, g.who.gid)] }.putG { g with stop := .halt })
    else .wait .other (s.putG { g with stop := .halting })

end Sys2Proof.Machine
end

