-- ==== Sys2Proof/Machine/FlowC.lean ====
section
/-! DEFINITION. Control of the C-stream, its fences, barriers and traps (06 R196-R208; 02 R70). -/

namespace Sys2Proof.Machine

/-- Whether a word of the C-section is a header, with JOINPT where asked; a word that cannot be fetched is left to the fetch
itself (02 R70). DESIGN CHOICE: a word of OP 0xFF whose header fields are illegal is no header, so a branch to it traps at the
branch (notes/assumptions/72.md). -/
def isHeader (s : State) (g : Group) (idx : Nat) (joinpt : Bool) : State × Bool :=
  match fetchC s g idx with
  | (s, .ok w) =>
    match decodeHeader w with
    | .ok h => (s, !joinpt || h.joinpt)
    | .error _ => (s, false)
  | (s, .error _) => (s, true)

/-- The breaches of R70 by a flow instruction: its place in the clause, its target, its join. -/
def flowCheck (s : State) (g : Group) (p : Split) (target join : Option Nat) : State × Option Cause :=
  if p.slot ≠ p.cnt then (s, some (Cause.mk' 1 7 88))
  else
    let (s, okT) := match target with
      | some t => isHeader s g t false
      | none => (s, true)
    let (s, okJ) := match join with
      | some j => isHeader s g j true
      | none => (s, true)
    (s, if !okT then some (Cause.mk' 1 7 25) else if !okJ then some (Cause.mk' 1 7 47) else none)

/-- A change of the C side with its spills, and what follows from it. -/
def putFlow (s : State) (g : Group) (c : CSide) : Res :=
  if s.cur.mode = 1 then .done (s.putG { g with cs := c.closeRegion.1 })
  else
    match stackIo s g c with
    | (s, some (.ok e)) => .trap e s
    | (_, some (.error f)) => .stop f
    | (s, none) => .done (afterFlow s g c)

/-- How many of its topmost stack entries a flow instruction uses: a JOIN or RETC that pops one, an ENDC, a KILL or a division all
(06 R197-R204). -/
def CSide.usesStack (c : CSide) (k : Nat) (i : Instr) (gm : Mask) (stackMode : Bool) : Nat :=
  match c.sp k with
  | none => 0
  | some p =>
    match i with
    | .join _ => if c.base p.tag < p.stack.length then 1 else 0
    | .retc _ => if c.base p.tag < p.stack.length then 1 else 0
    | .endc _ => p.stack.length
    | .kill _ => if p.act &&& gm = 0 then 0 else p.stack.length
    | .brd .. => if stackMode ∨ p.act &&& gm = 0 ∨ p.act &&& ~~~gm = 0 then 0 else p.stack.length
    | _ => 0

/-- The group with the spilled entries that a flow instruction uses filled back, then its effect; the shadow's side is in no save
slot. -/
def withFill (i : Instr) (x : Ctl) (e : CEnv) (g : Group) (s : State) (f : Group → State → Res) : Res :=
  if s.cur.mode = 1 then f g s
  else
    match fillStack s g e.k (g.cs.usesStack e.k i (guardMask g.cs x) (s.pk g).stack) with
    | (s, .ok g) => f g s
    | (s, .error (.ok c)) => .trap c s
    | (_, .error (.error f)) => .stop f

/-- A flow instruction: the structure of its clause, which the shadow takes from the leader, then its effect on the C side. -/
def flow (i : Instr) (x : Ctl) (target join : Option Nat) (f : State → Group → CEnv → Except Cause CSide) : State → Out :=
  cIssue i fun e g s =>
    match if s.cur.mode = 1 then (s, none) else flowCheck s g e.p target join with
    | (s, some c) => .trap c s
    | (s, none) =>
      withFill i x e g s fun g s =>
        match f s g e with
        | .error c => .trap c s
        | .ok c => putFlow s g c

/-- BRD (06 R197, R198). -/
def execBrd (join target : BitVec 22) (x : Ctl) (s : State) : Out :=
  flow (.brd join target x) x (some target.toNat) (some join.toNat) (fun s g e =>
    .ok (g.cs.brd e.k (guardMask g.cs x) join.toNat target.toNat (s.pk g).stack)) s

/-- JMP (06 R203). -/
def execJmp (target : BitVec 22) (x : Ctl) (s : State) : Out :=
  flow (.jmp target x) x (some target.toNat) none (fun _ g e => .ok (g.cs.jmp e.k target.toNat)) s

/-- JOIN (06 R199). -/
def execJoin (x : Ctl) (s : State) : Out :=
  flow (.join x) x none none (fun _ g e =>
    match g.cs.join e.k with
    | some c => .ok c
    | none => .error (Cause.mk' 8 5)) s

/-- ENDC (06 R202). -/
def execEndc (x : Ctl) (s : State) : Out :=
  flow (.endc x) x none none (fun _ g e => .ok (g.cs.endc e.k)) s

/-- CALLC (06 R203). -/
def execCallc (target : BitVec 22) (x : Ctl) (s : State) : Out :=
  flow (.callc target x) x (some target.toNat) none (fun _ g e => .ok (g.cs.callc e.k target.toNat)) s

/-- RETC (06 R203). -/
def execRetc (x : Ctl) (s : State) : Out :=
  flow (.retc x) x none none (fun _ g e =>
    match g.cs.retc e.k with
    | some c => .ok c
    | none => .error (Cause.mk' 8 5)) s

/-- KILL (06 R204). -/
def execKill (x : Ctl) (s : State) : Out :=
  cIssue (.kill x) (fun e g s => withFill (.kill x) x e g s fun g s => putFlow s g (g.cs.kill e.k e.en)) s

/-- NOPC. -/
def execNopc (x : Ctl) (s : State) : Out := cIssue (.nopc x) (fun _ g s => .done (s.putG g)) s

/-- Whether a group leads a session with passes that have not ended. -/
def State.leadsPass (s : State) (g : Group) : Bool :=
  match g.session with
  | some (k, 0) => (s.sessions.get? k).any fun ss => !ss.passes.isEmpty
  | _ => false

/-- TFENCE (06 R206): waits for everything of the C-stream, takes the faults of lane operations, then tests the flags; its trap restarts
behind it, so what it has waited for needs no wait any more (05 R154). -/
def execTfence (x : Ctl) (s : State) : Out :=
  cIssue (.tfence x) (fun e g s =>
    match laneFaultAt s { g with cs := g.cs.updSp e.k fun _ => e.p } e.k (fun _ => true) with
    | some s => .done s
    | none =>
    let busy := (g.pend.any fun o => o.who != 4) || (g.lane.any fun o => o.faults.isEmpty && !g.laneAside o) ||
      (List.range 12).any (fun n => g.cfn n != 0) || s.leadsPass g
    if busy then .wait .flag s
    else
      let g := { g with unwaited := [] }
      let hit := g.sys.sticky &&& g.sys.gten
      if hit = 0 then .done (s.putG g)
      else
        let c := Cause.mk' 7 1 (hit.toNat + 32 * g.sys.sticky.toNat) 0 e.p.act
        let g := if s.shadowed g then g.log (.of e.k e.p (.tfence x) []) else g
        .done (raise (s.putG g) g.who.gid (cPending g e.k ((encodeC (.tfence x)).getD 0) c))) s

/-- The barrier that an operand names (06 R207). -/
def barNo (g : Group) (e : CEnv) (a : Src) : Nat := (lane ((e.vals g.cs (ints [a]) e.es).getD 0 []) 0).toNat % 1024

/-- BWAIT (06 R207); on its session barrier it takes a cause that the session left (07 R222). -/
def execBwait (a : Src) (x : Ctl) (s : State) : Out :=
  cIssue (.bwait a x) (fun e g s =>
    let nb := barNo g e a
    match barCheck s g nb with
    | some c => .trap c s
    | none =>
      let b := s.bar g.who.tid nb
      match g.due.find? fun (d : Nat × Cause × Nat) => d.1 == nb with
      | some d =>
        .done (trapHere s { g with due := g.due.erase d } e ((encodeC (.bwait a x)).getD 0) d.2.1
          (some d.2.2))
      | none =>
      if b.engZero.contains g.who.gid then
        .done (trapHere (s.setBar g.who.tid nb { b with engZero := b.engZero.erase g.who.gid }) g e
          ((encodeC (.bwait a x)).getD 0) (Cause.mk' 14 6 nb))
      else if g.arriving nb e.k then .done (stay s g e e.es .barrier)
      else
        let r := b.waitStep g.who.gid e.k (e.p.blk == some .barrier)
        let s := s.setBar g.who.tid nb r.1
        if r.2 then .done ((s.acquire g 2).putG g) else .done (stay s g e e.es .barrier)) s

/-- BARVC (06 R207): an arrival that releases the group's near-memory operations. -/
def execBarvc (a : Src) (x : Ctl) (s : State) : Out :=
  cIssue (.barvc a x) (fun e g s =>
    let nb := barNo g e a
    match barCheck s g nb with
    | some c => .trap c s
    | none =>
      barArrive s g nb e.k ((g.pend.filter fun o => o.who != 4).map (·.id)) (s.bar g.who.tid nb) fun s g => .done (s.putG g)) s

/-- CTRAP (06 R208). -/
def execCtrap (code : BitVec 8) (x : Ctl) (s : State) : Out :=
  cIssue (.ctrap code x) (fun e g s =>
    if e.en = 0 then .done (s.putG g)
    else .trap (Cause.mk' 13 code.toNat code.toNat 0 e.en) s) s

end Sys2Proof.Machine
end

