-- ==== Sys2Proof/Machine/Control.lean ====
section
/-! DEFINITION. The steps of the C-stream's control and the steps that take the place of an instruction at issue: clause starts,
region entries and parked splits (01 R23; 02 R69-R71; 06 R199-R202), illegal words, fetch faults, the host's debug steps
(02 R72, R73; 04 R149; 08 R254). -/

namespace Sys2Proof.Machine

/-! ## Headers -/

/-- A split that meets a header parks, fuses or goes on, again for each record whose join it is (06 R199-R201): the side, and the
split that goes on. -/
def CSide.settleAt (joinpt : Bool) : Nat → Nat → CSide → CSide × Option Nat
  | 0, k, c => (c, some k)
  | n + 1, k, c =>
    match c.sp k with
    | none => (c, none)
    | some p =>
      if (c.parksAt p joinpt).isSome then
        match c.arrive k joinpt with
        | (c, none) => (c, none)
        | (c, some k') => CSide.settleAt joinpt n k' c
      else
        match c.meets k p with
        | some (j, q) => CSide.settleAt joinpt n (min k j) ((c.fuse k j p q p.tag).tidy)
        | none => (c, some k)

/-- Whether a word is a header that has JOINPT. -/
def joinBit (w : BitVec 96) : Bool := w.getLsbD 62

/-- A split that goes on into the clause of a header (02 R69). -/
def Split.enter (p : Split) (h : Header) : Split :=
  { p.withHeader h with hdr := p.idx, idx := (p.idx + 1) % 2 ^ 22, slot := 1, noWait := false, held := [], blk := none, owed := 0,
                        dropN := none }

/-- A side whose split starts the clause of a header. -/
def CSide.enter (c : CSide) (k : Nat) (h : Header) : CSide := c.updSp k fun p => p.enter h

/-- A side that enters a region (06 R202): one split with the lanes that have not exited. -/
def CSide.region (c : CSide) (idx : Nat) : CSide :=
  { c with splits := [(0, Split.fresh (idx % 2 ^ 22) c.alive .running)], tags := [] }

/-- What has become of a split: operations in flight of a split that fused go on under the fused one's id (06 R200). -/
def Group.rename (g : Group) (old new : Nat) : Group :=
  if old = new then g
  else { g with pend := g.pend.map fun o => if o.who = old then { o with who := new } else o,
                lane := g.lane.map fun o => if o.split = old then { o with split := new } else o,
                unwaited := g.unwaited.map fun u => if u.1 = old then (new, u.2) else u }

/-- The splits that a change of the table has removed are now the one that goes on. -/
def Group.renameAll (g : Group) (old new : CSide) (k : Nat) : Group :=
  old.splits.foldl (fun (g : Group) e => if (new.sp e.1).isNone then g.rename e.1 k else g) g

/-- A step of control in the replay log, with the positions of the leader's splits before it. -/
def LogItem.control (k : Nat) (c : CSide) (x : Ctl') : LogItem :=
  { split := k, at_ := c.splits.map fun e => (e.1, e.2.idx, e.2.slot), instr := none, pops := [], writes := [], ctl := some x, cmp := false }

/-- Raise the trap of a split at its next word. -/
def trapAtWord (s : State) (g : Group) (k : Nat) (w : BitVec 96) (c : Cause) : State :=
  raise s g.who.gid (cPending g k w c)

/-- The cause of a fetch that fails (08 R254). -/
def fetchCause : AFault → Cause
  | .cause grp _ d va => Cause.mk' grp 4 d va
  | .window _ va => Cause.mk' 4 1 (tDetail 3 0 0) va
  | .hole a => Cause.mk' 3 4 (tDetail 3 0 0) a

/-- Start a clause whose header has been read, once the split goes on there: the faults of lane operations that the WAIT mask
names are taken, its flags must be clear (01 R23; 02 R71; 07 R215). -/
def startClause (s : State) (g : Group) (k : Nat) (w : BitVec 96) (h : Header) : State :=
  match g.cs.sp k with
  | none => s.putG g
  | some p =>
    let names := fun n => h.wait.getLsbD n
    match if p.noWait then none else laneFaultAt (s.putG g) g k names with
    | some s => s
    | none =>
      if !p.noWait && (List.range 12).any fun n => names n && g.cfn n != 0 then s.waitC g k [] .flag
      else
        let g := if p.noWait then g else { g with unwaited := g.unwaited.filter fun u => !(u.1 == k && names u.2.2) }
        s.putG (({ g with cs := g.cs.enter k h } : Group).log (LogItem.control k g.cs (.start w)))

/-- CLAUSE_START: the current split meets the header of its next clause; it parks or fuses there, or starts the clause. -/
def execClauseStart (s : State) : Out :=
  match s.grp? with
  | none => .next s
  | some g =>
    let k := s.cur.split
    match g.cs.sp k with
    | none => .next s
    | some p =>
      if !g.cRuns || p.st != .running || p.slot ≠ 0 || g.halts || p.cmp then .next s
      else
        match fetchC s g p.idx with
        | (_, .error (.hole a)) => .fault (.noSuchAddress a)
        | (s, .error e) => .next (trapAtWord s g k 0 (fetchCause e))
        | (s, .ok w) =>
          if w.extractLsb' 88 8 ≠ 0xFF then .next (trapAtWord s g k w (Cause.mk' 1 7 88))
          else
            match decodeHeader w with
            | .error b => .next (trapAtWord s g k w (Cause.mk' 1 b.code b.bit))
            | .ok h =>
              let r := CSide.settleAt (joinBit w) 16 k g.cs
              let moved := r.1 != g.cs
              let k' := r.2.getD k
              let cs := if r.2.isNone then r.1.updSp k fun p => { p with since := s.tick } else r.1
              let g' := ({ g with cs } : Group).renameAll g.cs r.1 k'
              let g' := if moved then g'.log (LogItem.control k g.cs (.arrive w)) else g'
              match stackIo s g r.1 with
              | (_, some (.error f)) => .fault f
              | (s, some (.ok c)) => .next (trapAtWord s g k w c)
              | (s, none) =>
                match r.2 with
                | none => .next (s.putG g')
                | some k' => .next (startClause s g' k' w h)

/-- REGION_ENTRY: with every split at its end, the C-stream pops the next region index, or takes a pending token, also one that keeps
the index from being popped (06 R202; 08 R250; 09 R280). -/
def execRegionEntry (s : State) : Out :=
  match s.grp? with
  | none => .next s
  | some g =>
    match g.cs.sp 0 with
    | none => .next s
    | some p =>
      if !g.cRuns || g.halts || p.st != .parkedEnd || g.cs.splits.length ≠ 1 then .next s
      else
        match g.q.clq with
        | [] =>
          match g.firstToken with
          | some (c, op) => .next (bareToken s g c op)
          | none => .next s
        | e :: r =>
          if !g.performed e.need then
            match g.firstToken.filter fun t => e.need.contains t.2 with
            | some (c, op) => .next (bareToken s g c op)
            | none => .next s
          else
            let idx := e.val.toNat % 2 ^ 22
            let g := { g with q := { g.q with clq := r }, lastQ := s.tick, cs := g.cs.region idx }
            .next (s.putG (g.log (LogItem.control 0 g.cs (.region idx))))

/-- Whether a split counts as waiting for the third case of R200: parked at a join, or blocked on a queue, a flag or a barrier
for 256 clk. -/
def Split.longIdle (p : Split) (now : Nat) : Bool :=
  let old := decide (p.since + 256 * clkT ≤ now)
  p.st == .parkedJoin && old ||
    match p.blk with
    | some (.queue _) => old
    | some .flag => old
    | some .barrier => old
    | _ => false

/-- Whether a parked split may resume alone (06 R200). -/
def CSide.mayResume (c : CSide) (now k : Nat) (p : Split) : Bool :=
  let left := c.splits.filter fun e => e.1 != k && e.2.st != .parkedEnd && (c.chain 8 e.2.tag).contains p.tag
  p.st == .parkedJoin && ((left.all fun e => e.2.st == .parkedJoin) || left.all fun e => e.2.longIdle now)

/-- PARKED_JOIN_TIMEOUT: every parked split that qualifies in this clk resumes alone (06 R200). -/
def execParkedJoinTimeout (s : State) : Out :=
  match s.grp? with
  | none => .next s
  | some g =>
    if !g.cRuns then .next s
    else
      let ks := (g.cs.splits.filter fun e => g.cs.mayResume s.tick e.1 e.2).map (·.1)
      .next (s.putG (ks.foldl (fun (g : Group) k =>
        ({ g with cs := g.cs.resume k } : Group).log (LogItem.control k g.cs .alone)) g))

/-! ## In the place of an instruction -/

/-- ILLEGAL_INSTRUCTION: a word that encodes none traps with cause group 1 where it stands (02 R70, R72, R73). -/
def execIllegalInstruction (cside : Bool) (code bit : Nat) (word : BitVec 96) (s : State) : Out :=
  match s.grp? with
  | none => .next s
  | some g =>
    let c := Cause.mk' 1 code bit
    if cside then .next (trapAtWord s g s.cur.split word c)
    else .next (raise s g.who.gid { aPending g .nop c with word })

/-- FETCH_FAULT: a word that cannot be fetched traps with cause group 3 or 4, code 4 (02 R59, R70; 04 R120; 08 R254). -/
def execFetchFault (cside : Bool) (va level : Nat) (perm : Bool) (s : State) : Out :=
  match s.grp? with
  | none => .next s
  | some g =>
    let c := Cause.mk' (if perm then 4 else 3) 4 (tDetail 3 level 0) va
    if cside then .next (trapAtWord s g s.cur.split 0 c)
    else .next (raise s g.who.gid { aPending g .nop c with word := 0 })

/-- HOST_BREAK: the host breaks into a running group (08 R254: cause group 12, code 2). -/
def execHostBreak (s : State) : Out :=
  match s.grp? with
  | none => .next s
  | some g =>
    if g.saved || g.stop == .gone || g.stop == .halt then .next s
    else .next (raise s g.who.gid { aPending g .nop (Cause.mk' 12 2) with word := 0 })

/-- HOST_DEBUG_CONTROL: the host resumes a group that HALTD has stopped, behind the HALTD (04 R149). -/
def execHostDebugControl (s : State) : Out :=
  match s.grp? with
  | none => .next s
  | some g =>
    if g.stop = .halt then
      let h := ({ g with stop := .run, ablk := none } : Group).adv
      .next (s.putG { h with trap := g.trap.map fun p => if p.apc = g.apc then { p with apc := h.apc } else p })
    else .next s

end Sys2Proof.Machine
end

