-- ==== Sys2Proof/Machine/Approx.lean ====
section
/-! DEFINITION. FRCP, FRSQ, FEXP2, FLOG2, FSIN, FCOS (03 R93): special values exact, other results a free choice among the
binary32 values within the stated bound (notes/assumptions/12.md). References are fixed-point numbers. -/

namespace Sys2Proof.Machine

/-- The binary32 value `k` places above a finite pattern, along the order of the values; a zero keeps the pattern's sign. -/
def stepF (x : Nat) (k : Int) : Nat :=
  let o : Int := if f32.neg x then -((x % 2 ^ 31 : Nat) : Int) else ((x % 2 ^ 31 : Nat) : Int)
  let r := o + k
  if r < 0 ∨ (r = 0 ∧ f32.neg x) then 2 ^ 31 + (-r).toNat else r.toNat

/-- A free choice among candidates, by function and operand. -/
def choose (op : Nat) (x : Word) (cands : List Nat) : Nat :=
  cands.getD (Config.approx op x % cands.length) 0

/-- Whether a pattern lies within `k` units in the last place of ±m·2^e, a reference known to `margin`·2^e: a unit is that of
the binade of the reference, whose truncated pattern is `lo` (03 R93). -/
def within (lo k : Nat) (neg : Bool) (m : Nat) (e : Int) (margin c : Nat) : Bool :=
  match f32.val c with
  | .num n mc ec =>
    let u : Int := (max (lo % 2 ^ 31 / 2 ^ 23) 1 : Nat) - 150
    let b := min (min e ec) u
    let at' := fun (n : Bool) (m : Nat) (e : Int) => (if n then -1 else 1) * ((m * 2 ^ (e - b).toNat : Nat) : Int)
    decide ((at' n mc ec - at' neg m e).natAbs + margin * 2 ^ (e - b).toNat ≤ k * 2 ^ (u - b).toNat)
  | _ => false

/-- The binary32 values within `k` ≤ 2 units in the last place of ±m·2^e, known to `margin`·2^e. -/
def near (k : Nat) (neg : Bool) (m : Nat) (e : Int) (margin : Nat) : List Nat :=
  let lo := (f32.round .rz false neg m e false).1
  (([0, 1, -1, 2, -2, 3, -3, 4, -4] : List Int).map (stepF lo)).filter (within lo k neg m e margin)

/-- The values within one unit of n/d·2^e, whose quotient is taken to 150 bits (exact where d divides). -/
def oneUlp (neg : Bool) (n d : Nat) (e : Int) (margin : Nat) : List Nat :=
  near 1 neg (n * 2 ^ 150 / d) (e - 150) (if n * 2 ^ 150 % d = 0 then margin else margin + 1)

/-- The values within two units of a fixed-point reference m·2^e, whose error is below 2^30 in its last place. -/
def twoUlp (neg : Bool) (m : Nat) (e : Int) : List Nat := near 2 neg m e (2 ^ 30)

/-- FRCP (03 R93). -/
def aRcp (x : Word) : FRes :=
  let a := f32.val x.toNat
  let r : Nat × Fl :=
    match a with
    | .nan _ => (f32.nanB, 0)
    | .inf n => (f32.mk' n 0 0, 0)
    | .num n m e =>
      if m = 0 then (f32.infB n, flDZ)
      else if (f32.roundQ .rz false n 1 m (-e)).2 &&& flOF != 0 then (f32.infB n, flOF)
      else (choose 0 x ((oneUlp n 1 m (-e) 0).filter fun c => (f32.val c).isFin), 0)
  fres f32 [a] r.1 r.2

/-- FRSQ (03 R93): 1/√(m·2^e) as a fixed-point quotient. -/
def aRsq (x : Word) : FRes :=
  let a := f32.val x.toNat
  let r : Nat × Fl :=
    match a with
    | .nan _ => (f32.nanB, 0)
    | .inf n => if n then (f32.nanB, flIV) else (0, 0)
    | .num n m e =>
      if m = 0 then (f32.infB n, flDZ)
      else if n then (f32.nanB, flIV)
      else
        let k := 120 + (e % 2).toNat
        let q := isqrt (m * 2 ^ k)
        -- `q` truncates the root to 60 bits and more: exact, or 2^112 covers its effect on the quotient
        (choose 1 x (oneUlp false (2 ^ 80) q ((k - e) / 2 - 80) (if q * q = m * 2 ^ k then 0 else 2 ^ 112)), 0)
  fres f32 [a] r.1 r.2

/-- Fixed-point precision of the references, in bits. -/
def fxP : Nat := 160

/-- ln 2 in fixed point, by 2·atanh(1/3) = 2·Σ (1/3)^(2k+1)/(2k+1). -/
def fxLn2 : Nat :=
  (List.range 60).foldl (fun a k => a + 2 ^ (fxP + 1) / (3 ^ (2 * k + 1) * (2 * k + 1))) 0

/-- e^x of a fixed-point x in [0, 1), by its series. -/
def fxExp (x : Nat) : Nat :=
  ((List.range 50).foldl (fun (acc : Nat × Nat) k => (acc.1 + acc.2, acc.2 * x / 2 ^ fxP / (k + 1))) (0, 2 ^ fxP)).1

/-- FEXP2 (03 R93): 2^(i+f) from e^(f·ln 2). -/
def aExp2 (x : Word) : FRes :=
  let a := f32.val x.toNat
  let r : Nat × Fl :=
    match a with
    | .nan _ => (f32.nanB, 0)
    | .inf n => (if n then 0 else f32.infB false, 0)
    | .num n m e =>
      let fx : Int := (if n then -1 else 1) * (if e + fxP ≥ 0 then (m * 2 ^ (e + fxP).toNat : Nat)
        else (m / 2 ^ (-(e + fxP)).toNat : Nat) : Nat)
      let i := fx / 2 ^ fxP
      let fr := (fx % 2 ^ fxP).toNat
      if i ≥ 128 then (f32.infB false, flOF)
      else if i < -200 then (choose 2 x [0, 1, 2], 0)
      else if m = 0 then (one32, 0)
      else if e + (Nat.log2 m : Int) < -100 then  -- 1 + δ with 0 < |δ| < 2^-100
        (choose 2 x (near 2 false (if n then 2 ^ 100 - 1 else 2 ^ 100 + 1) (-100) 1), 0)
      else if fr = 0 ∧ i ≥ -149 then ((f32.round .rn false false 1 i false).1, 0)
      else (choose 2 x ((twoUlp false (fxExp (fr * fxLn2 / 2 ^ fxP)) (i - fxP)).filter fun c =>
        decide (c < 2 ^ 31) && (f32.val c).isFin), 0)
  fres f32 [a] r.1 r.2

/-- log2 of m/2^(log2 m) in fixed point, by 2·atanh((m−1)/(m+1))/ln 2. -/
def fxLog2 (m : Nat) : Nat :=
  let o := 2 ^ Nat.log2 m
  let z := (m - o) * 2 ^ fxP / (m + o)
  let z2 := z * z / 2 ^ fxP
  let s := ((List.range 55).foldl (fun (acc : Nat × Nat) k => (acc.1 + acc.2 / (2 * k + 1), acc.2 * z2 / 2 ^ fxP)) (0, z)).1
  2 * s * 2 ^ fxP / fxLn2

/-- log2 of m·2^e as a signed fixed-point number. -/
def fxLog (m : Nat) (e : Int) : Int := ((Nat.log2 m : Int) + e) * 2 ^ fxP + (fxLog2 m : Int)

/-- FLOG2 (03 R93). -/
def aLog2 (x : Word) : FRes :=
  let a := f32.val x.toNat
  let r : Nat × Fl :=
    match a with
    | .nan _ => (f32.nanB, 0)
    | .inf n => if n then (f32.nanB, flIV) else (f32.infB false, 0)
    | .num n m e =>
      if m = 0 then (f32.infB true, flDZ)
      else if n then (f32.nanB, flIV)
      else if m = 2 ^ Nat.log2 m then (intToF f32 .rn false ((Nat.log2 m : Int) + e))
      else
        let v := fxLog m e
        (choose 3 x (twoUlp (decide (v < 0)) v.natAbs (-(fxP : Int))), 0)
  fres f32 [a] r.1 r.2

/-- arctan(1/n) in fixed point of `p` bits. -/
def fxAtanInv (p n : Nat) : Int :=
  (List.range 120).foldl (fun (a : Int) k =>
    let t : Int := ((2 ^ p / (n ^ (2 * k + 1) * (2 * k + 1)) : Nat) : Int)
    if k % 2 = 0 then a + t else a - t) 0

/-- π in fixed point: 16·arctan(1/5) − 4·arctan(1/239). -/
def fxPi : Nat := (16 * fxAtanInv 240 5 - 4 * fxAtanInv 240 239).toNat / 2 ^ (240 - fxP)

/-- Σ (−1)^k x^(2k+j)/(2k+j)! in fixed point: sine for j = 1, cosine for j = 0. -/
def fxTrig (j : Nat) (x : Int) : Int :=
  let x2 := x * x / 2 ^ fxP
  ((List.range 30).foldl (fun (acc : Int × Int) k =>
    (acc.1 + acc.2, -(acc.2 * x2 / 2 ^ fxP) / (((2 * k + j + 1) * (2 * k + j + 2) : Nat) : Int)))
    ((0 : Int), if j = 1 then x else 2 ^ fxP)).1

/-- Sine or cosine of m·2^e in fixed point, reduced by multiples of π/2. -/
def fxSinCos (cos : Bool) (neg : Bool) (m : Nat) (e : Int) : Int :=
  let x : Int := (if neg then -1 else 1) *
    ((if e + fxP ≥ 0 then m * 2 ^ (e + fxP).toNat else m / 2 ^ (-(e + fxP)).toNat : Nat) : Int)
  let h : Int := (fxPi : Int) / 2
  let q := (x + h / 2) / h
  let r := x - q * (fxPi : Int) / 2
  match ((q + (if cos then 1 else 0)) % 4).toNat with
  | 0 => fxTrig 1 r
  | 1 => fxTrig 0 r
  | 2 => -fxTrig 1 r
  | _ => -fxTrig 0 r

/-- Whether |m·2^e| exceeds 2^15·π (03 R93). -/
def beyondTrig (m : Nat) (e : Int) : Bool :=
  decide ((m : Int) * 2 ^ (e + 200).toNat > (fxPi : Int) * 2 ^ (200 + 15 - fxP))

/-- FSIN and FCOS (03 R93). -/
def aTrig (cos : Bool) (x : Word) : FRes :=
  let a := f32.val x.toNat
  let r : Nat × Fl :=
    match a with
    | .nan _ => (f32.nanB, 0)
    | .inf _ => (f32.nanB, flIV)
    | .num n m e =>
      if m = 0 then (if cos then one32 else f32.mk' n 0 0, 0)
      else if beyondTrig m e then (f32.nanB, flIV)
      else
        let v := fxSinCos cos n m e
        let c :=
          if e + (Nat.log2 m : Int) < -60 then  -- |sin x| and cos x lie below |x| and 1 by less than 2^-121 of them
            (if cos then near 2 false (2 ^ 121 - 1) (-121) 1 else near 2 n (m * 2 ^ 97 - 1) (e - 97) 1)
          else twoUlp (decide (v < 0)) v.natAbs (-(fxP : Int))
        (choose (if cos then 5 else 4) x (c.filter fun c => (f32.val c).isFin), 0)
  fres f32 [a] r.1 r.2

end Sys2Proof.Machine
end

