-- ==== Sys2Proof/Machine/FloatC.lean ====
section
/-! DEFINITION. Binary32 instructions of the C-stream (05 R156-R160). -/

namespace Sys2Proof.Machine

/-- Operand `j` of a lane as a pattern. -/
def argN (v : List Word) (j : Nat) : Nat := (v.getD j 0).toNat

/-- Binary32 sources. -/
def f32s (l : List Src) : List (OpTy × Src) := l.map fun x => (.f32, x)

/-- A binary32 instruction: each lane's result, flags and counts in class 0 (05 R151, R153). -/
def f32Op (i : Instr) (d : Dst) (ss : List Src) (f : List Nat → FRes) : State → Out :=
  cLanes i d (f32s ss) fun _ v => (f (v.map BitVec.toNat)).lane 0

/-- The j-th of a list of patterns. -/
def nth (v : List Nat) (j : Nat) : Nat := v.getD j 0

/-- FADD (05 R157). -/
def execFadd (rm : BitVec 2) (ftz : BitVec 1) (d : Dst) (a b : Src) (x : Ctl) (s : State) : Out :=
  f32Op (.fadd rm ftz d a b x) d [a, b]
    (fun v => fAdd f32 (.of rm) (ftz == 1) (nth v 0) (nth v 1)) s

/-- FSUB (05 R157). -/
def execFsub (rm : BitVec 2) (ftz : BitVec 1) (d : Dst) (a b : Src) (x : Ctl) (s : State) : Out :=
  f32Op (.fsub rm ftz d a b x) d [a, b]
    (fun v => fSub f32 (.of rm) (ftz == 1) (nth v 0) (nth v 1)) s

/-- FMUL (05 R157). -/
def execFmul (rm : BitVec 2) (ftz : BitVec 1) (d : Dst) (a b : Src) (x : Ctl) (s : State) : Out :=
  f32Op (.fmul rm ftz d a b x) d [a, b]
    (fun v => fMul f32 (.of rm) (ftz == 1) (nth v 0) (nth v 1)) s

/-- FFMA, one rounding (05 R157). -/
def execFfma (rm : BitVec 2) (ftz : BitVec 1) (d : Dst) (a b c : Src) (x : Ctl) (s : State) : Out :=
  f32Op (.ffma rm ftz d a b c x) d [a, b, c]
    (fun v => fFma f32 (.of rm) (ftz == 1) (nth v 0) (nth v 1) (nth v 2)) s

/-- FMIN, IEEE minimum (03 R92). -/
def execFmin (ftz : BitVec 1) (d : Dst) (a b : Src) (x : Ctl) (s : State) : Out :=
  f32Op (.fmin ftz d a b x) d [a, b] (fun v => fMinMax f32 false false (ftz == 1) (nth v 0) (nth v 1)) s

/-- FMAX, IEEE maximum (03 R92). -/
def execFmax (ftz : BitVec 1) (d : Dst) (a b : Src) (x : Ctl) (s : State) : Out :=
  f32Op (.fmax ftz d a b x) d [a, b] (fun v => fMinMax f32 true false (ftz == 1) (nth v 0) (nth v 1)) s

/-- FMINN, minimumNumber (03 R92). -/
def execFminn (ftz : BitVec 1) (d : Dst) (a b : Src) (x : Ctl) (s : State) : Out :=
  f32Op (.fminn ftz d a b x) d [a, b] (fun v => fMinMax f32 false true (ftz == 1) (nth v 0) (nth v 1)) s

/-- FMAXN, maximumNumber (03 R92). -/
def execFmaxn (ftz : BitVec 1) (d : Dst) (a b : Src) (x : Ctl) (s : State) : Out :=
  f32Op (.fmaxn ftz d a b x) d [a, b] (fun v => fMinMax f32 true true (ftz == 1) (nth v 0) (nth v 1)) s

/-- FSET (05 R158). -/
def execFset (cnd : BitVec 4) (ftz : BitVec 1) (d : Dst) (a b : Src) (x : Ctl) (s : State) : Out :=
  cPred (.fset cnd ftz d a b x) d (f32s [a, b])
    (fun _ v => fSet f32 cnd.toNat (ftz == 1) (argN v 0) (argN v 1)) s

/-- FCLAMP (05 R159). -/
def execFclamp (ftz : BitVec 1) (d : Dst) (a lo hi : Src) (x : Ctl) (s : State) : Out :=
  f32Op (.fclamp ftz d a lo hi x) d [a, lo, hi] (fun v => fClamp (ftz == 1) (nth v 0) (nth v 1) (nth v 2)) s

/-- FRND (05 R157). -/
def execFrnd (rm : BitVec 2) (ftz : BitVec 1) (d : Dst) (a : Src) (x : Ctl) (s : State) : Out :=
  f32Op (.frnd rm ftz d a x) d [a] (fun v => fRnd f32 (.of rm) (ftz == 1) (nth v 0)) s

/-- FCLASS (05 R159): it sets no flag. -/
def execFclass (d : Dst) (a : Src) (x : Ctl) (s : State) : Out :=
  cLanes (.fclass d a x) d (f32s [a]) (fun _ v => .pure (fClass (argN v 0))) s

/-- FLDEXP (05 R157, R159): S2 is a signed integer. -/
def execFldexp (rm : BitVec 2) (ftz : BitVec 1) (d : Dst) (a n : Src) (x : Ctl) (s : State) : Out :=
  cLanes (.fldexp rm ftz d a n x) d [(.f32, a), (.int, n)]
    (fun _ v => (fLdexp f32 (.of rm) (ftz == 1) (argN v 0) (v.getD 1 0).toInt).lane 0) s

/-- FEXPO (05 R159): an integer result, which counts nothing. -/
def execFexpo (ftz : BitVec 1) (d : Dst) (a : Src) (x : Ctl) (s : State) : Out :=
  cLanes (.fexpo ftz d a x) d (f32s [a])
    (fun _ v => let r := fExpo (ftz == 1) (argN v 0); { w := r.1, fl := r.2 }) s

/-- FDIV, correctly rounded (03 R94). -/
def execFdiv (rm : BitVec 2) (ftz : BitVec 1) (d : Dst) (a b : Src) (x : Ctl) (s : State) : Out :=
  f32Op (.fdiv rm ftz d a b x) d [a, b]
    (fun v => fDiv f32 (.of rm) (ftz == 1) (nth v 0) (nth v 1)) s

/-- FSQRT, correctly rounded (03 R94). -/
def execFsqrt (rm : BitVec 2) (ftz : BitVec 1) (d : Dst) (a : Src) (x : Ctl) (s : State) : Out :=
  f32Op (.fsqrt rm ftz d a x) d [a] (fun v => fSqrt f32 (.of rm) (ftz == 1) (nth v 0)) s

/-- FRCP, within the bound of 03 R93. -/
def execFrcp (d : Dst) (a : Src) (x : Ctl) (s : State) : Out :=
  cLanes (.frcp d a x) d (f32s [a]) (fun _ v => (aRcp (v.getD 0 0)).lane 0) s

/-- FRSQ, within the bound of 03 R93. -/
def execFrsq (d : Dst) (a : Src) (x : Ctl) (s : State) : Out :=
  cLanes (.frsq d a x) d (f32s [a]) (fun _ v => (aRsq (v.getD 0 0)).lane 0) s

/-- FEXP2, within the bound of 03 R93. -/
def execFexp2 (d : Dst) (a : Src) (x : Ctl) (s : State) : Out :=
  cLanes (.fexp2 d a x) d (f32s [a]) (fun _ v => (aExp2 (v.getD 0 0)).lane 0) s

/-- FLOG2, within the bound of 03 R93. -/
def execFlog2 (d : Dst) (a : Src) (x : Ctl) (s : State) : Out :=
  cLanes (.flog2 d a x) d (f32s [a]) (fun _ v => (aLog2 (v.getD 0 0)).lane 0) s

/-- FSIN, within the bound of 03 R93. -/
def execFsin (d : Dst) (a : Src) (x : Ctl) (s : State) : Out :=
  cLanes (.fsin d a x) d (f32s [a]) (fun _ v => (aTrig false (v.getD 0 0)).lane 0) s

/-- FCOS, within the bound of 03 R93. -/
def execFcos (d : Dst) (a : Src) (x : Ctl) (s : State) : Out :=
  cLanes (.fcos d a x) d (f32s [a]) (fun _ v => (aTrig true (v.getD 0 0)).lane 0) s

/-- FLERP (03 R94). -/
def execFlerp (rm : BitVec 2) (ftz : BitVec 1) (d : Dst) (a b t : Src) (x : Ctl) (s : State) : Out :=
  f32Op (.flerp rm ftz d a b t x) d [a, b, t] (fun v => fLerp (.of rm) (ftz == 1) (nth v 0) (nth v 1) (nth v 2)) s

/-- The register `j` places after a vector source. -/
def srcPlus (x : Src) (j : Nat) : Src :=
  match x with
  | .v n => .v (n + BitVec.ofNat 9 j)
  | y => y

/-- FDOT3 on register triples (05 R160). -/
def execFdot3 (rm : BitVec 2) (ftz : BitVec 1) (d : Dst) (a b : Src) (x : Ctl) (s : State) : Out :=
  f32Op (.fdot3 rm ftz d a b x) d [a, srcPlus a 1, srcPlus a 2, b, srcPlus b 1, srcPlus b 2]
    (fun v => fDot3 (.of rm) (ftz == 1) (nth v 0) (nth v 1) (nth v 2) (nth v 3) (nth v 4) (nth v 5)) s

end Sys2Proof.Machine
end

