-- ==== Sys2Proof/Machine/PackedC.lean ====
section
/-! DEFINITION. Packed F16 and BF16 instructions of the C-stream (05 R161-R163). -/

namespace Sys2Proof.Machine

/-- The element format that HF selects (05 R161). -/
def halfFmt (bf : BitVec 1) : Fmt := if bf = 1 then bf16 else f16

/-- Sources in both halves. -/
def halves (bf : BitVec 1) (l : List Src) : List (OpTy × Src) := l.map fun x => (.half (bf == 1), x)

/-- Element `e` of a packed pattern. -/
def half (w : Word) (e : Nat) : Nat := w.toNat / 2 ^ (16 * e) % 65536

/-- A lane's two element results, each counted in class 1 (05 R153). -/
def packed (r0 r1 : FRes) : LRes :=
  { w := BitVec.ofNat 32 (r0.bits + 65536 * r1.bits), fl := r0.fl ||| r1.fl,
    ev := (r0.events ++ r1.events).map fun e => 4 + e }

/-- A packed instruction: the same element operation on both halves (05 R161). -/
def packedOp (i : Instr) (bf : BitVec 1) (d : Dst) (ss : List Src) (f : List Nat → FRes) : State → Out :=
  cLanes i d (halves bf ss) fun _ v =>
    packed (f (v.map fun w => half w 0)) (f (v.map fun w => half w 1))

/-- HADD2 (05 R161). -/
def execHadd2 (bf : BitVec 1) (rm : BitVec 2) (ftz : BitVec 1) (d : Dst) (a b : Src) (x : Ctl) (s : State) : Out :=
  packedOp (.hadd2 bf rm ftz d a b x) bf d [a, b]
    (fun v => fAdd (halfFmt bf) (.of rm) (ftz == 1) (nth v 0) (nth v 1)) s

/-- HMUL2 (05 R161). -/
def execHmul2 (bf : BitVec 1) (rm : BitVec 2) (ftz : BitVec 1) (d : Dst) (a b : Src) (x : Ctl) (s : State) : Out :=
  packedOp (.hmul2 bf rm ftz d a b x) bf d [a, b]
    (fun v => fMul (halfFmt bf) (.of rm) (ftz == 1) (nth v 0) (nth v 1)) s

/-- HFMA2 (05 R161). -/
def execHfma2 (bf : BitVec 1) (rm : BitVec 2) (ftz : BitVec 1) (d : Dst) (a b c : Src) (x : Ctl) (s : State) : Out :=
  packedOp (.hfma2 bf rm ftz d a b c x) bf d [a, b, c]
    (fun v => fFma (halfFmt bf) (.of rm) (ftz == 1) (nth v 0) (nth v 1) (nth v 2)) s

/-- HMIN2 (05 R161). -/
def execHmin2 (bf : BitVec 1) (ftz : BitVec 1) (d : Dst) (a b : Src) (x : Ctl) (s : State) : Out :=
  packedOp (.hmin2 bf ftz d a b x) bf d [a, b]
    (fun v => fMinMax (halfFmt bf) false false (ftz == 1) (nth v 0) (nth v 1)) s

/-- HMAX2 (05 R161). -/
def execHmax2 (bf : BitVec 1) (ftz : BitVec 1) (d : Dst) (a b : Src) (x : Ctl) (s : State) : Out :=
  packedOp (.hmax2 bf ftz d a b x) bf d [a, b]
    (fun v => fMinMax (halfFmt bf) true false (ftz == 1) (nth v 0) (nth v 1)) s

/-- HSET2 (05 R162): the two comparisons combined, flags of both. -/
def execHset2 (cnd : BitVec 4) (bf : BitVec 1) (ftz : BitVec 1) (comb : BitVec 2) (d : Dst) (a b : Src) (x : Ctl)
    (s : State) : Out :=
  cPred (.hset2 cnd bf ftz comb d a b x) d (halves bf [a, b]) (fun _ v =>
    let r := fun e => fSet (halfFmt bf) cnd.toNat (ftz == 1) (half (v.getD 0 0) e) (half (v.getD 1 0) e)
    let p := match comb.toNat with
      | 0 => (r 0).1 && (r 1).1
      | 1 => (r 0).1 || (r 1).1
      | 2 => (r 0).1
      | _ => (r 1).1
    (p, (r 0).2 ||| (r 1).2)) s

/-- HDOT2 (05 R163): a binary32 result, counted once a lane in class 0. -/
def execHdot2 (bf : BitVec 1) (rm : BitVec 2) (ftz : BitVec 1) (d : Dst) (a b c : Src) (x : Ctl) (s : State) : Out :=
  cLanes (.hdot2 bf rm ftz d a b c x) d (halves bf [a, b] ++ f32s [c]) (fun _ v =>
    let a := v.getD 0 0
    let b := v.getD 1 0
    (hDot2 (halfFmt bf) (.of rm) (ftz == 1) (half a 0) (half a 1) (half b 0) (half b 1) (argN v 2)).lane 0) s

end Sys2Proof.Machine
end

