-- ==== Sys2Proof/Machine/LaneC.lean ====
section
/-! DEFINITION. Lane instructions of the C-stream (06 R176-R189; 03 R108, R109): moves, shuffles, votes, matches, tree
reductions and scans, identifiers, and REGROUP. -/

namespace Sys2Proof.Machine

/-- A lane instruction without flags: each enabled lane's word. -/
def laneOp (i : Instr) (d : Dst) (ops : List (OpTy × Src)) (f : CEnv → CSide → List Lanes → Nat → Word) : State → Out :=
  cIssue i fun e g s =>
    let vs := e.vals g.cs ops e.es
    .done (putLanes s g e d (f e g.cs vs) 0 [])

/-- A lane instruction that writes a predicate. -/
def lanePred (i : Instr) (d : Dst) (ops : List (OpTy × Src)) (f : CEnv → CSide → List Lanes → Nat → Bool) : State → Out :=
  cIssue i fun e g s =>
    let vs := e.vals g.cs ops e.es
    .done (s.putG (g.writePred d e.en (f e g.cs vs)))

/-- The value that a lane reads from another (06 R176); no source lane is one outside the segment. -/
def fromLane (c : CSide) (en : Mask) (a : Src) (act : Bool) (fill : Word) (src : Option Nat) : Word :=
  match src, a with
  | some l, .v n =>
    if 96 ≤ l ∨ !c.present.getLsbD l ∨ (act && !en.getLsbD l) then fill else lane (c.raw n.toNat) l
  | _, _ => fill

/-- MOV (06 R179). -/
def execMov (d : Dst) (a : Src) (x : Ctl) (s : State) : Out :=
  intOp (.mov d a x) d [a] (fun v => arg v 0) s

/-- A predicate of the split, negated where the instruction says so. -/
def predOf (c : CSide) (pr : BitVec 3) (neg : BitVec 1) : Mask := if neg = 1 then ~~~(c.rp pr.toNat) else c.rp pr.toNat

/-- SEL (06 R179). -/
def execSel (pr : BitVec 3) (neg : BitVec 1) (d : Dst) (a b : Src) (x : Ctl) (s : State) : Out :=
  laneOp (.sel pr neg d a b x) d (ints [a, b])
    (fun _ c vs l => lane (vs.getD (if (predOf c pr neg).getLsbD l then 0 else 1) []) l) s

/-- PERM (06 R180). -/
def execPerm (act : BitVec 1) (d : Dst) (a i f : Src) (x : Ctl) (s : State) : Out :=
  laneOp (.perm act d a i f x) d (ints [i, f])
    (fun e c vs l => fromLane c e.en a (act == 1) (lane (vs.getD 1 []) l) (some (lane (vs.getD 0 []) l).toNat)) s

/-- Segment width of SHFL (06 R181). -/
def segWidth (w : BitVec 3) : Nat := [96, 32, 16, 8, 4, 2].getD w.toNat 96

/-- SHFL: the place in the segment comes from the lane's own and the uniform amount; outside the segment there is no source
lane (06 R181). -/
def shfl (i : Instr) (w : BitVec 3) (act : BitVec 1) (d : Dst) (a n f : Src) (t : Nat → Nat → Nat → Int) : State → Out :=
  laneOp i d (ints [n, f]) fun e c vs l =>
    let w := segWidth w
    let q := l % w
    let t := t q (lane (vs.getD 0 []) 0).toNat w
    let src := if 0 ≤ t ∧ t < w then some (l - q + t.toNat) else none
    fromLane c e.en a (act == 1) (lane (vs.getD 1 []) l) src

/-- SHFLUP. -/
def execShflup (w : BitVec 3) (act : BitVec 1) (d : Dst) (a n f : Src) (x : Ctl) (s : State) : Out :=
  shfl (.shflup w act d a n f x) w act d a n f (fun q n _ => (q : Int) - n) s

/-- SHFLDN. -/
def execShfldn (w : BitVec 3) (act : BitVec 1) (d : Dst) (a n f : Src) (x : Ctl) (s : State) : Out :=
  shfl (.shfldn w act d a n f x) w act d a n f (fun q n _ => (q : Int) + n) s

/-- SHFLX. -/
def execShflx (w : BitVec 3) (act : BitVec 1) (d : Dst) (a n f : Src) (x : Ctl) (s : State) : Out :=
  shfl (.shflx w act d a n f x) w act d a n f (fun q n _ => ((q ^^^ n : Nat) : Int)) s

/-- SHFLR. -/
def execShflr (w : BitVec 3) (act : BitVec 1) (d : Dst) (a n f : Src) (x : Ctl) (s : State) : Out :=
  shfl (.shflr w act d a n f x) w act d a n f (fun q n w => (((q + n) % w : Nat) : Int)) s

/-- BCAST: a uniform source lane (06 R182). -/
def execBcast (d : Dst) (a i : Src) (x : Ctl) (s : State) : Out :=
  laneOp (.bcast d a i x) d (ints [i])
    (fun e c vs _ => fromLane c e.en a false 0 (some (lane (vs.getD 0 []) 0).toNat)) s

/-- BCASTF: the lowest enabled lane (06 R182). -/
def execBcastf (d : Dst) (a : Src) (x : Ctl) (s : State) : Out :=
  laneOp (.bcastf d a x) d [] (fun e c _ _ => fromLane c e.en a false 0 (lowLane e.en)) s

/-- VOTEALL (06 R183). -/
def execVoteall (pr : BitVec 3) (neg : BitVec 1) (d : Dst) (x : Ctl) (s : State) : Out :=
  lanePred (.voteall pr neg d x) d [] (fun e c _ _ => predOf c pr neg &&& e.en == e.en) s

/-- VOTEANY (06 R183). -/
def execVoteany (pr : BitVec 3) (neg : BitVec 1) (d : Dst) (x : Ctl) (s : State) : Out :=
  lanePred (.voteany pr neg d x) d [] (fun e c _ _ => predOf c pr neg &&& e.en != 0) s

/-- VOTESAME (06 R183). -/
def execVotesame (pr : BitVec 3) (neg : BitVec 1) (d : Dst) (x : Ctl) (s : State) : Out :=
  lanePred (.votesame pr neg d x) d []
    (fun e c _ _ => predOf c pr neg &&& e.en == e.en || predOf c pr neg &&& e.en == 0) s

/-- VOTEBALLOT (06 R183). -/
def execVoteballot (pr : BitVec 3) (neg : BitVec 1) (w : BitVec 2) (d : Dst) (x : Ctl) (s : State) : Out :=
  laneOp (.voteballot pr neg w d x) d [] (fun e c _ _ => maskWord (predOf c pr neg &&& e.en) w.toNat) s

/-- The enabled lanes whose pattern equals a lane's (06 R184). -/
def matching (en : Mask) (v : Lanes) (l : Nat) : Mask := mkMask fun m => en.getLsbD m && lane v m == lane v l

/-- MATCHANY (06 R184). -/
def execMatchany (w : BitVec 2) (d : Dst) (a : Src) (x : Ctl) (s : State) : Out :=
  laneOp (.matchany w d a x) d (ints [a]) (fun e _ vs l => maskWord (matching e.en (vs.getD 0 []) l) w.toNat) s

/-- MATCHLEAD (06 R184). -/
def execMatchlead (d : Dst) (a : Src) (x : Ctl) (s : State) : Out :=
  laneOp (.matchlead d a x) d (ints [a])
    (fun e _ vs l => BitVec.ofNat 32 ((lowLane (matching e.en (vs.getD 0 []) l)).getD 0)) s

/-- MATCHALL (06 R184). -/
def execMatchall (d : Dst) (a : Src) (x : Ctl) (s : State) : Out :=
  lanePred (.matchall d a x) d (ints [a]) (fun e _ vs l => matching e.en (vs.getD 0 []) l == e.en) s

/-- The operation ⊕ of a code of 06 R185: its result, flags and events. -/
def redOp (op : BitVec 4) (ftz : Bool) (rm : RM) (x y : Word) : LRes :=
  match op.toNat with
  | 0 => (fAdd f32 rm ftz x.toNat y.toNat).lane 0
  | 1 => (fMinMax f32 false false ftz x.toNat y.toNat).lane 0
  | 2 => (fMinMax f32 true false ftz x.toNat y.toNat).lane 0
  | 3 => (fMinMax f32 false true ftz x.toNat y.toNat).lane 0
  | 4 => (fMinMax f32 true true ftz x.toNat y.toNat).lane 0
  | 5 => .pure (x + y)
  | 6 => .pure (mins x y)
  | 7 => .pure (maxs x y)
  | 8 => .pure (minu x y)
  | 9 => .pure (maxu x y)
  | 10 => .pure (x &&& y)
  | 11 => .pure (x ||| y)
  | _ => .pure (x ^^^ y)

/-- The identity of ⊕ (03 R108). -/
def redId (op : BitVec 4) : Word :=
  match op.toNat with
  | 0 => 0x80000000
  | 1 | 3 => 0x7F800000
  | 2 | 4 => 0xFF800000
  | 6 => 0x7FFFFFFF
  | 7 => 0x80000000
  | 8 | 10 => 0xFFFFFFFF
  | _ => 0

/-- The next level of the tree (03 R108). -/
def pairUp (f : Word → Word → LRes) : List Word → List LRes
  | a :: b :: r => f a b :: pairUp f r
  | [a] => [.pure a]
  | [] => []

/-- The words of a level. -/
def lvWords (l : List LRes) : List Word := l.map (·.w)

/-- The levels of the tree, the lanes first, five levels above them (03 R108), with every ⊕ that was made. -/
def treeLevels (f : Word → Word → LRes) (lanes : List Word) : List (List Word) × List LRes :=
  (List.range 5).foldl (fun (acc : List (List Word) × List LRes) _ =>
    let up := pairUp f (acc.1.getLastD [])
    (acc.1 ++ [lvWords up], acc.2 ++ up)) ([lanes], [])

/-- The two ⊕ at the top: N(5,0) ⊕ N(5,1), and that ⊕ N(5,2). -/
def treeTop (f : Word → Word → LRes) (top : List Word) : LRes × LRes :=
  let a := f (top.getD 0 0) (top.getD 1 0)
  (a, f a.w (top.getD 2 0))

/-- The operand of REDUCE and SCAN: disabled lanes enter as the identity. -/
def redLanes (op : BitVec 4) (en : Mask) (v : Lanes) : List Word :=
  (List.range 96).map fun l => if en.getLsbD l then lane v l else redId op

/-- How an inline integer reaches REDUCE and SCAN: as binary32 for a floating-point ⊕ (02 R63). -/
def redTy (op : BitVec 4) : OpTy := if op.toNat ≤ 4 then .f32 else .int

/-- The flags of a list of operations, and their counts. -/
def allFl (l : List LRes) : Fl × List Nat := (flOr l, (l.map (·.ev)).flatten)

/-- REDUCE (06 R185, 03 R108). -/
def execReduce (op : BitVec 4) (ftz : BitVec 1) (rm : BitVec 2) (d : Dst) (a : Src) (x : Ctl) (s : State) : Out :=
  cIssue (.reduce op ftz rm d a x) (fun e g s =>
    let v := (e.vals g.cs [(redTy op, a)] e.es).getD 0 []
    let f := redOp op (ftz == 1) (.of rm)
    let t := treeLevels f (redLanes op e.en v)
    let top := treeTop f (t.1.getLastD [])
    let fe := allFl (t.2 ++ [top.1, top.2])
    .done (putLanes s g e d (fun _ => top.2.w) fe.1 fe.2)) s

/-- One level down of the prefix: from P(h) and N(h − 1) to P(h − 1), with the ⊕ made (03 R109). -/
def prefixDown (f : Word → Word → LRes) (p n : List Word) : List Word × List LRes :=
  let r := (List.range n.length).map fun j =>
    if j % 2 = 1 then (p.getD (j / 2) 0, ([] : List LRes))
    else if j = 0 then (n.getD 0 0, [])
    else
      let y := f (p.getD (j / 2 - 1) 0) (n.getD j 0)
      (y.w, [y])
  (r.map (·.1), (r.map (·.2)).flatten)

/-- The inclusive prefix of the 96 lanes, with every ⊕ made (03 R109). -/
def prefixOf (f : Word → Word → LRes) (lanes : List Word) : List Word × List LRes :=
  let t := treeLevels f lanes
  let top := t.1.getLastD []
  let tt := treeTop f top
  (t.1.dropLast.reverse).foldl (fun (acc : List Word × List LRes) n =>
    let r := prefixDown f acc.1 n
    (r.1, acc.2 ++ r.2)) ([top.getD 0 0, tt.1.w, tt.2.w], t.2 ++ [tt.1, tt.2])

/-- SCAN (06 R185, 03 R109). -/
def execScan (op : BitVec 4) (ftz : BitVec 1) (rm : BitVec 2) (ex : BitVec 1) (d : Dst) (a : Src) (x : Ctl)
    (s : State) : Out :=
  cIssue (.scan op ftz rm ex d a x) (fun e g s =>
    let v := (e.vals g.cs [(redTy op, a)] e.es).getD 0 []
    let r := prefixOf (redOp op (ftz == 1) (.of rm)) (redLanes op e.en v)
    let fe := allFl r.2
    .done (putLanes s g e d
      (fun l => if ex = 1 then (if l = 0 then redId op else r.1.getD (l - 1) 0) else r.1.getD l 0) fe.1 fe.2)) s

/-- SREG (06 R186, 01 R42): TIMEL latches the high word for the group's next TIMEH. -/
def execSreg (sel : BitVec 3) (d : Dst) (x : Ctl) (s : State) : Out :=
  cIssue (.sreg sel d x) (fun e g s =>
    let f : Nat → Word := fun l =>
      match sel.toNat with
      | 0 => BitVec.ofNat 32 l
      | 1 => lane g.cs.threadId l
      | 2 => BitVec.ofNat 32 e.k
      | 3 => BitVec.ofNat 32 s.time
      | _ => g.sys.timeH
    let g := if sel = 3 then { g with sys.timeH := BitVec.ofNat 32 (s.time / 2 ^ 32) } else g
    .done (putLanes s g e d f 0 [])) s

/-! ## REGROUP -/

/-- A position of the new arrangement: key and THREADID of what stands there, whether it is active and exited, and its words
of the range. -/
structure Placed where
  key : Nat
  tid : Word
  act : Bool
  gone : Bool
  words : List Word
  deriving DecidableEq, Repr

/-- What stands at a present position of a member (06 R188). -/
def placedAt (c : CSide) (act : Mask) (keys : Lanes) (base cnt l : Nat) : Placed :=
  { key := (lane keys l).toNat % 65536, tid := lane c.threadId l, act := act.getLsbD l, gone := c.exited.getLsbD l,
    words := (List.range cnt).map fun j => lane (c.raw (base + j)) l }

/-- The order of the arrangement: active lanes by key then THREADID, then the others by THREADID (06 R188). -/
def placedLe (a b : Placed) : Bool :=
  if a.act && b.act then decide (a.key < b.key) || (a.key == b.key && decide (a.tid.toNat ≤ b.tid.toNat))
  else if a.act then true
  else if b.act then false
  else decide (a.tid.toNat ≤ b.tid.toNat)

/-- The members' C sides sorted as one: each side with its keys, present positions in ascending order (06 R188). -/
def regroupSides (base cnt : Nat) (sides : List (CSide × Mask × Lanes)) : List CSide :=
  let all := (sides.map fun m => (lanesOf m.1.present).map fun l => placedAt m.1 m.2.1 m.2.2 base cnt l).flatten
  let sorted := sortBy placedLe all
  (sides.foldl (fun (acc : List CSide × List Placed) m =>
    let c := m.1
    let ls := lanesOf c.present
    let here := acc.2.take ls.length
    let at_ := fun (l : Nat) => (ls.idxOf? l).bind fun (i : Nat) => here[i]?
    let vs := (List.range cnt).foldl (fun (v : Tbl Lanes) j =>
      v.set (base + j) (mkLanes fun l => ((at_ l).bind fun p => p.words[j]?).getD (lane (c.v.getD (base + j) zeroLanes) l)))
      c.v
    let exited := mkMask fun l => ((at_ l).map (·.gone)).getD false
    let own := c.present &&& ~~~exited
    let act := mkMask fun l => ((at_ l).map (·.act)).getD false
    let c := { c with v := vs, exited, threadId := mkLanes fun l => ((at_ l).map (·.tid)).getD (lane c.threadId l),
                      splits := c.splits.mapV fun _ p => { p with own, act := act &&& own } }
    (acc.1 ++ [c], acc.2.drop ls.length)) ([], sorted)).1

/-- The activity mask of a group's only split. -/
def CSide.act0 (c : CSide) : Mask := ((c.splits.head?).map (·.2.act)).getD 0

/-- A member past its REGROUP, with its new C side; a shadow takes the same arrangement, and issues the instruction too (06 R188,
08 R266). -/
def Group.regrouped (g : Group) (wasHere : Bool) (c : CSide) (sh : Option CSide) : Group :=
  let word := g.regroup.bind fun r => match decodeC r.word with
    | .ok i => some i
    | .error _ => none
  let it : LogItem := { split := 0, at_ := [], instr := word, pops := [], writes := [], ctl := none, cmp := false }
  let h := { g with cs := if wasHere then c else { c with splits := c.splits.mapV fun _ p => p.past },
                    regroup := none, shadow := g.shadow.map fun x => { x with cs := (sh.getD x.cs) } }
  if wasHere then h else h.log it

/-- Every member of the set has arrived: sort them as one. A member left with exited lanes alone has ended its C-stream (01 R45);
the beats of those that waited count now (06 R178). -/
def regroupAll (s : State) (gid : Nat) (ms : List (Nat × Group × Lanes)) (base cnt : Nat) : State :=
  let cs := regroupSides base cnt (ms.map fun m => (m.2.1.cs, m.2.1.cs.act0, m.2.2))
  let sh := regroupSides base cnt (ms.map fun m =>
    (((m.2.1.shadow.map (·.cs)).getD m.2.1.cs), m.2.1.cs.act0, m.2.2))
  (ms.zip (cs.zip sh)).foldl (fun (s : State) m =>
    let g := m.1.2.1.regrouped (m.1.1 == gid) m.2.1 (some m.2.2)
    let s := if g.cs.alive = 0 then endCStream s { g with cs := { g.cs with splits := [] } } else s.setG m.1.1 g
    if m.1.1 = gid then s else s.countClk m.1.1 (s.tick / clkT) (3 * cnt)) s

/-- REGROUP (06 R187-R189). A member that waits traps when a partner of its own set reaches a REGROUP of another shape, and so
does the one that reaches it where the waiter is its partner. -/
def execRegroup (c : BitVec 5) (n : BitVec 2) (d : Dst) (key : Src) (x : Ctl) (s : State) : Out :=
  let i := Instr.regroup c n d key x
  cIssue i (fun e g s =>
    let base := match d with
      | .v b => b.toNat
      | _ => 0
    let cnt := c.toNat + 1
    let bad := Cause.mk' 8 4
    let set := match g.regroup with
      | some r => some r.set
      | none => regroupSet s g (n.toNat + 1)
    match set with
    | none => .trap bad s
    | some set =>
      let ms := set.filterMap fun k => (s.groups.get? k).map fun h => (k, h)
      let others := ms.filter fun m => m.1 != g.who.gid
      if ms.length < set.length ∨ others.any fun m => m.2.cEnded then .trap bad s
      else
        let w := (encodeC i).getD 0
        let me : Regroup := { set, base, cnt, keys := (e.vals g.cs [(.int, key)] e.es).getD 0 [], word := w }
        let differs := fun (h : Group) => match h.regroup with
          | some r => r.set.length != set.length || r.base != base || r.cnt != cnt
          | none => false
        let hit := s.groups.filter fun m => m.1 != g.who.gid && differs m.2 &&
          m.2.regroup.any fun r => r.set.contains g.who.gid
        let s := hit.foldl (fun (s : State) m =>
          raise s m.1 (cPending m.2 ((m.2.cs.splits.head?.map (·.1)).getD 0) ((m.2.regroup.map (·.word)).getD 0) bad)) s
        if others.any fun m => differs m.2 then .done (trapHere s g e w bad)
        else if others.all (fun m => m.2.regroup.isSome && m.2.trap.isNone) && ms.all fun m => m.2.shadow.all fun x => x.log.isEmpty then
          .done (regroupAll s g.who.gid
            (ms.map fun m => (m.1, if m.1 = g.who.gid then g else m.2,
              if m.1 = g.who.gid then me.keys else ((m.2.regroup.map (·.keys)).getD []))) base cnt)
        else .done (stay s { g with regroup := some me } e e.es .barrier)) s

end Sys2Proof.Machine
end

