-- ==== Sys2Proof/Machine/QueueC.lean ====
section
/-! DEFINITION. Queue and predicate instructions of the C-stream (06 R190-R195). -/

namespace Sys2Proof.Machine

/-- Take up to `n` entries from a queue: those taken, how many are still owed, and the token met, if any. -/
def takeN : Nat → Group → Nat → List VEntry → Group × Nat × List VEntry × Option (Cause × Nat)
  | 0, g, _, es => (g, 0, es, none)
  | n + 1, g, q, es =>
    match g.head q with
    | .ready e => takeN n (g.popHead q) q (es ++ [e])
    | .token c op => (g, n + 1, es, some (c, op))
    | .empty => (g, n + 1, es, none)

/-- The number of a queue operand. -/
def queueNo (q : Src) : Nat :=
  match q with
  | .queue n => n.toNat % 8
  | _ => 0

/-- Entries removed by POP or DROP, as an item of the replay log. -/
def LogItem.popped (k q : Nat) (es : List VEntry) : LogItem :=
  { split := k, at_ := [], instr := none, pops := es.map fun e => (q, e), writes := [], ctl := none, cmp := false }

/-- POP (06 R190): entries removed before a wait or a token stay removed, and the split keeps the number it still owes. -/
def execPop (n : BitVec 4) (q : Src) (x : Ctl) (s : State) : Out :=
  let i := Instr.pop n q x
  cIssue i (fun e g s =>
    let q := queueNo q
    let w := (encodeC i).getD 0
    let r := takeN (if e.p.owed = 0 then n.toNat + 1 else e.p.owed) g q []
    let g := if r.2.2.1.isEmpty then r.1 else { r.1 with lastQ := s.tick }
    let g := if s.shadowed g ∧ !r.2.2.1.isEmpty then g.log (.popped e.k q r.2.2.1) else g
    let p := { e.p with owed := r.2.1 }
    let owing := { g with cs := g.cs.updSp e.k fun _ => p }
    match r.2.2.2 with
    | some (c, op) =>
      .done (raise (s.putG (owing.endHeld op c)) s.cur.gid (tokenPending owing e.k w c op))
    | none => if r.2.1 = 0 then .done (s.putG g) else .done (queueWait s owing e.k [] w q)) s

/-- The entries of a queue that stand before a count: all filled, a token among them, or not all there. -/
def Group.firstN (g : Group) (q n : Nat) : List Head :=
  if q = 4 then (g.q.svq.take n).map fun e =>
    if g.performed e.need then
      .ready { data := splat e.val, mask := allLanes, fill := .filled, held := false, op := 0, need := [] }
    else .empty
  else ((g.q.ldq.getD q []).take n).map fun e =>
    match e.fill with
    | .reserved => .empty
    | .filled => if g.performed e.need then .ready e else .empty
    | .token c => .token c e.op

/-- How many entries a queue holds. -/
def Group.held (g : Group) (q : Nat) : Nat := if q = 4 then g.q.svq.length else (g.q.ldq.getD q []).length

/-- DROP (06 R191): every entry filled or reserved at issue, once they are all filled; a token among them traps instead. -/
def execDrop (d : Dst) (q : Src) (x : Ctl) (s : State) : Out :=
  let i := Instr.drop d q x
  cIssue i (fun e g s =>
    let q := queueNo q
    let w := (encodeC i).getD 0
    let n := match e.p.dropN with
      | some r => r.2
      | none => g.held q
    let hs := g.firstN q n
    if hs.contains .empty then
      let p := { e.p with dropN := some (q, n) }
      .done (queueWait s { g with cs := g.cs.updSp e.k fun _ => p } e.k [] w q)
    else
      match hs.findSome? fun h => match h with
        | .token c op => some (c, op)
        | _ => none with
      | some (c, op) =>
        let g := { g with cs := g.cs.updSp e.k fun _ => { e.p with dropN := none } }
        .done (raise (s.putG (g.endHeld op c)) s.cur.gid (tokenPending g e.k w c op))
      | none =>
        let g' := (List.range n).foldl (fun (g : Group) _ => g.popHead q) g
        let g' := if n = 0 then g' else { g' with lastQ := s.tick }
        let g' := if s.shadowed g ∧ n ≠ 0 then g'.log (.popped e.k q (hs.filterMap fun h => match h with
          | .ready v => some v
          | _ => none)) else g'
        .done (putLanes s g' e d (fun _ => BitVec.ofNat 32 n) 0 [])) s

/-- Push up to `n` entries with no lane, zeros into the BQ: the group, and how many are still owed for want of room. -/
def pushN (s : State) (d : Dst) (q k : Nat) : Nat → Group → Group × Nat
  | 0, g => (g, 0)
  | n + 1, g =>
    if (roomFor s g d 1).isSome then (g, n + 1) else pushN s d q k n (g.pushC q k 0 (fun _ => 0) s.tick)

/-- PUSH (06 R192): entries with no lane, or zeros into the BQ. It waits at the push that finds the queue full, the entries pushed
before it pushed (08 R245), and keeps the number still owed as POP does (notes/assumptions/65.md). -/
def execPush (n : BitVec 2) (d : Dst) (x : Ctl) (s : State) : Out :=
  let i := Instr.push n d x
  cIssue i (fun e g s =>
    match d with
    | .queue q =>
      let r := pushN s d q.toNat e.k (if e.p.owed = 0 then n.toNat + 1 else e.p.owed) g
      if r.2 = 0 then .done (s.putG r.1)
      else
        let owing := { r.1 with cs := r.1.cs.updSp e.k fun _ => { e.p with owed := r.2, cmp := false } }
        .done (queueWait s owing e.k [] ((encodeC i).getD 0) ([6, 7, 8, 9].getD q.toNat 9))
    | _ => .done s) s

/-- A predicate operand of PLTAB. -/
def predSrc (c : CSide) (a : Src) : Mask :=
  match a with
  | .v n => c.rp (n.toNat % 8)
  | _ => 0

/-- PLTAB (06 R194). -/
def execPltab (tbl : BitVec 8) (d : Dst) (a b c : Src) (x : Ctl) (s : State) : Out :=
  lanePred (.pltab tbl d a b c x) d [] (fun _ cs _ l =>
    tbl.getLsbD (((predSrc cs a).getLsbD l).toNat + 2 * ((predSrc cs b).getLsbD l).toNat +
      4 * ((predSrc cs c).getLsbD l).toNat)) s

/-- PMOV (06 R195): a predicate to a destination, or non-zero words to a predicate. -/
def execPmov (toPred : BitVec 1) (pr : BitVec 3) (d : Dst) (a : Src) (x : Ctl) (s : State) : Out :=
  if toPred = 1 then lanePred (.pmov toPred pr d a x) d (ints [a]) (fun _ _ vs l => lane (vs.getD 0 []) l != 0) s
  else laneOp (.pmov toPred pr d a x) d [] (fun _ c _ l => boolWord ((c.rp pr.toNat).getLsbD l)) s

/-- PMOVW (06 R195): 32 bits of a predicate to a destination, or a uniform's bits to 32 lanes of a predicate. -/
def execPmovw (toPred : BitVec 1) (w : BitVec 2) (pr : BitVec 3) (d : Dst) (a : Src) (x : Ctl) (s : State) : Out :=
  if toPred = 1 then
    cIssue (.pmovw toPred w pr d a x) (fun e g s =>
      let v := lane ((e.vals g.cs (ints [a]) e.es).getD 0 []) 0
      let m := e.en &&& mkMask fun l => l / 32 == w.toNat
      .done (s.putG (g.writePred d m fun l => v.getLsbD (l % 32)))) s
  else laneOp (.pmovw toPred w pr d a x) d [] (fun _ c _ _ => maskWord (c.rp pr.toNat) w.toNat) s

end Sys2Proof.Machine
end

