-- ==== Sys2Proof/Machine/Sampler.lean ====
section
/-! DEFINITION. The texture sampler: SAMPLE and GATH4 at issue, and SAMPLE_COMPLETE (07 R238, R239; 13 R358; 19 R391). -/

namespace Sys2Proof.Machine

/-! ## What lane operations share -/

/-- The cache hint of a lane operation (02 R66). -/
def LaneOp.hint (o : LaneOp) : Nat :=
  match o.instr with
  | .sample _ _ _ _ _ _ _ x => x.ch.toNat
  | .gath4 _ _ _ _ _ _ _ x => x.ch.toNat
  | .trace _ _ _ _ _ _ _ _ x => x.ch.toNat
  | .tresume _ _ _ _ _ x => x.ch.toNat
  | _ => 0

/-- A group as one of its lane operations runs: that operation alone in flight. -/
def Group.running (g : Group) (o : LaneOp) : Group := { g with lane := [o] }

/-- Bytes of a place read through a core's L1, line by line (09 R275), with a cache hint. -/
def l1Bytes (u : User) (hint : Nat) : Nat → Loc → Nat → State → State × List Byte
  | 0, _, _, s => (s, [])
  | k + 1, l, n, s =>
    if n = 0 then (s, [])
    else
      let m := min n (64 - l.addr % 64)
      let x := (s.touchL1 u l hint).readL1 u l m
      let r := l1Bytes u hint k (l.add m) (n - m) x.1
      (r.1, x.2 ++ r.2)

/-- Read `n` bytes for the sampler or the traversal unit: global data through the core's L1, with the hint of the operation that runs
(02 R66; 09 R275), under a record's L2 class (04 R128). -/
def laneRead (s : State) (g : Group) (engine level va n cls : Nat) : State × Except AFault (List Byte) :=
  match engPlaces s g engine 0 level va n cls with
  | (s, .error e) => (s, .error e)
  | (s, .ok ls) =>
    let r := if level = 0 then
        ls.foldl (fun (x : State × List Byte) p =>
          let y := l1Bytes (s.user g) ((g.lane.head?.map LaneOp.hint).getD 0) 3 p.1 p.2 x.1
          (y.1, x.2 ++ y.2)) (s, [])
      else readPlaces s (s.user g) ls
    (r.1, .ok r.2)

/-- Put a lane operation of the current split in flight: attached to its flag, its registers awaited (02 R68, 05 R154). -/
def addLane (s : State) (g : Group) (e : CEnv) (i : Instr) (flag d : Nat) (vals : List Lanes) (img : BitVec 512) : State :=
  let (id, s) := s.newId
  let o : LaneOp := { id, split := e.k, instr := i, cpc := e.p.idx, flag, lanes := e.en, left := e.en, vals, img, resume := false,
                      faults := [], done := false }
  let g := (({ g with lane := g.lane ++ [o] } : Group).attach flag).await e.k ((List.range 4).map fun j => d + j) flag
  s.putG g

/-- A lane operation that may run now, with its group: not stopped at a fault, its group resident, the earlier accesses of its
split performed (09 R287). -/
def State.laneLive (s : State) (id : Nat) : Option (LaneOp × Group) :=
  (s.groups.findSome? fun e => (e.2.lane.find? fun o => o.id == id).map fun o => (o, e.2)).filter fun x =>
    !x.2.saved && x.1.faults.isEmpty && x.2.pend.all fun p => p.who != x.1.split || decide (x.1.id < p.id)

/-- The results of a lane operation: words by lane and register, the faults of the lanes that stopped, and the lanes that go on in
another step. -/
structure LaneRun where
  s : State
  out : List (Nat × List Nat)
  faults : List (Nat × Cause)
  stop : Option Fault
  later : List Nat

/-- Run a lane operation's lanes in ascending order. -/
def runLanes (o : LaneOp) (f : State → Nat → State × Except Stop (List Nat)) (s : State) : LaneRun :=
  (lanesOf o.left).foldl (fun (r : LaneRun) l =>
    match f r.s l with
    | (s, .ok ws) => { r with s, out := r.out ++ [(l, ws)] }
    | (s, .error (.ok c)) => { r with s, faults := r.faults ++ [(l, c)] }
    | (s, .error (.error e)) => { r with s, stop := r.stop.or (some e) }) { s, out := [], faults := [], stop := none, later := [] }

/-- Write the results of a lane operation: the four registers of the lanes that have one; the operation ends and its flag clears, it stops
at the faults and lets go of its flag (07 R215, R216; 08 R256 step 3), or it goes on with the lanes that are left. Which of the two the
step asks for is `faulty`; the other answers with the machine as it was. The shadow takes the results from the leader (08 R267). -/
def finishLanes (s0 : State) (faulty : Bool) (o : LaneOp) (d : Nat) (r : LaneRun) : Out :=
  match r.stop with
  | some f => if faulty then .fault f else .next s0
  | none =>
    if r.faults.isEmpty == faulty then .next s0
    else
    match r.s.groups.findSome? fun e => if e.2.lane.any fun x => x.id == o.id then some e.2 else none with
    | none => .next r.s
    | some g =>
      let m := mkMask fun l => r.out.any fun x => x.1 == l
      let ws := (List.range 4).map fun j => (d + j, m, mkLanes fun l =>
        BitVec.ofNat 32 (((r.out.find? fun x => x.1 == l).map fun x => x.2.getD j 0).getD 0))
      let g := ws.foldl (fun (g : Group) w => { g with cs := g.cs.wv w.1 m w.2.2 }) g
      let g := g.log { split := o.split, at_ := [], instr := none, pops := [], writes := ws, ctl := none, cmp := false, op := o.id }
      let left := mkMask fun l => r.later.contains l
      let o' := { o with faults := r.faults, left, resume := o.resume || !r.later.isEmpty }
      let g := if r.faults.isEmpty && r.later.isEmpty then { g.detach o.flag with lane := g.lane.filter fun x => x.id != o.id }
        else
          let g := if r.faults.isEmpty then g else g.detach o.flag
          { g with lane := g.lane.map fun x => if x.id = o.id then o' else x }
      .next (r.s.setG g.who.gid g)

/-! ## Texels -/

/-- A texel as binary32 (07 R238); its NaN is the canonical one (03 R91, R96). -/
def texelF32 (fmt raw : Nat) : Nat :=
  match fmt with
  | 11 => (fToF f32 .rn false (f32.val raw)).1
  | 9 => (fToF f32 .rn false (f16.val raw)).1
  | 10 => (fToF f32 .rn false (bf16.val raw)).1
  | 1 => (f32.roundQ .rn false false raw 255 0).1
  | 7 => (f32.roundQ .rn false false raw 65535 0).1
  | _ =>
    let v : Int := max (if raw < 128 then (raw : Int) else (raw : Int) - 256) (-127)
    (f32.roundQ .rn false (decide (v < 0)) v.natAbs 127 0).1

/-- Levels of a texture. -/
def Ten.levels (t : Ten) : Nat := if t.ndim = 4 then (t.ext 3).toNat else 1

/-- The size of a level. -/
def Ten.size (t : Ten) (l : Nat) : Nat × Nat := (max 1 ((t.ext 1).toNat >>> l), max 1 ((t.ext 2).toNat >>> l))

/-- Addressing of a texel index (13 R358). -/
def mapIdx (mode : Nat) (i : Int) (n : Nat) : Nat :=
  match mode with
  | 0 => (i % (n : Int)).toNat
  | 1 => (min (max i 0) ((n : Int) - 1)).toNat
  | _ =>
    let m := (i % (2 * (n : Int))).toNat
    if m < n then m else 2 * n - 1 - m

/-- Floor of a finite binary32 as a 32-bit integer, clamped (13 R358). -/
def floor32 (x : Nat) : Int := (fToInt .rd (f32.val x) (-2 ^ 31) (2 ^ 31 - 1)).1

/-- A size as binary32. -/
def natF32 (n : Nat) : Nat := (intToF f32 .rn false n).1

/-- Whether a binary32 is finite. -/
def fin32 (x : Nat) : Bool := (f32.val x).isFin

/-- A difference x − i rounded to binary32, then to a multiple of 2^−8 with ties to even, in 1/256. -/
def frac256 (x : Nat) (i : Int) : Int :=
  let v := (sumRound f32 .rn false [f32.val x, .num (decide (0 < i)) i.natAbs 0]).1
  match f32.val v with
  | .num n m e => (roundInt .rn n m (e + 8)).1
  | _ => 0

/-- A count of 1/256 as binary32. -/
def frac32 (k : Int) : Nat := (f32.round .rn false (decide (k < 0)) k.natAbs (-8) false).1

/-- A texel of a channel; a channel at or beyond EXT0 reads 0, or 1.0 for channel 3 (07 R239). -/
def fetchTexel (s : State) (g : Group) (t : Ten) (l x y c : Nat) : State × Except Stop Nat :=
  if t.ext 0 ≤ c then (s, .ok (if c = 3 then one32 else 0))
  else
    let cs : List Int := ([c, x, y, l].take t.ndim).map fun (n : Nat) => (n : Int)
    let (va, bit) := t.addr cs
    match laneRead s g 5 t.level va (t.span bit) t.l2cls with
    | (s, .ok bs) => (s, .ok (texelF32 t.fmt (leNat bs / 2 ^ bit % 2 ^ fmtBits t.fmt)))
    | (s, .error e) => (s, .error (e.engine 0 5))

/-- Texels of channels at points. -/
def fetchAll (s : State) (g : Group) (t : Ten) (l : Nat) (ps : List (Nat × Nat)) (chans : List Nat) :
    State × Except Stop (List (List Nat)) :=
  ps.foldl (fun (x : State × Except Stop (List (List Nat))) p =>
    match x with
    | (s, .error e) => (s, .error e)
    | (s, .ok rows) =>
      let r := chans.foldl (fun (y : State × Except Stop (List Nat)) c =>
        match y with
        | (s, .error e) => (s, .error e)
        | (s, .ok vs) =>
          match fetchTexel s g t l p.1 p.2 c with
          | (s, .ok v) => (s, .ok (vs ++ [v]))
          | (s, .error e) => (s, .error e)) (s, .ok [])
      match r with
      | (s, .ok vs) => (s, .ok (rows ++ [vs]))
      | (s, .error e) => (s, .error e)) (s, .ok [])

/-! ## Filters -/

/-- The footprint of a bilinear sample at a level: the four points and the weights in 1/256; none where addressing meets a value
that is not finite. -/
def footprint (t : Ten) (mode l u v : Nat) : Option (List (Nat × Nat) × Int × Int) :=
  let z := t.size l
  let half := 0x3F000000
  let x := rnSub (rnMul u (natF32 z.1)) half
  let y := rnSub (rnMul v (natF32 z.2)) half
  if !fin32 x || !fin32 y then none
  else
    let i := floor32 x
    let j := floor32 y
    let ps := [(i, j), (i + 1, j), (i, j + 1), (i + 1, j + 1)].map fun (p : Int × Int) =>
      (mapIdx mode p.1 z.1, mapIdx mode p.2 z.2)
    some (ps, frac256 x i, frac256 y j)

/-- The bilinear mix of four texels, in the order written in R358. -/
def bilMix (ts : List Nat) (fx fy : Int) : Nat :=
  let a := frac32 fx
  let b := frac32 fy
  let na := rnSub one32 a
  let nb := rnSub one32 b
  let t := fun k => ts.getD k 0
  rnAdd (rnMul (rnAdd (rnMul na (t 0)) (rnMul a (t 1))) nb) (rnMul (rnAdd (rnMul na (t 2)) (rnMul a (t 3))) b)

/-- A bilinear sample: four channels; none where addressing meets a value that is not finite. -/
def bilinear (s : State) (g : Group) (t : Ten) (mode l u v : Nat) : State × Except Stop (Option (List Nat)) :=
  match footprint t mode l u v with
  | none => (s, .ok none)
  | some (ps, fx, fy) =>
    match fetchAll s g t l ps [0, 1, 2, 3] with
    | (s, .error e) => (s, .error e)
    | (s, .ok rows) =>
      (s, .ok (some ((List.range 4).map fun c => bilMix (rows.map fun r => r.getD c 0) fx fy)))

/-- 256·λ of a positive finite length m·2^e and a finite bias n·2^k, rounded down: exact where 256 times the bias is an integer or
the length is a power of two, else by 160-bit logarithms. -/
def lamFloor (m : Nat) (e n k : Int) : Int :=
  let t : Int := n * 2 ^ (k + 168).toNat
  if t % 2 ^ 160 = 0 then 256 * e + (Nat.log2 (m ^ 256) : Int) + t / 2 ^ 160
  else if m = 2 ^ Nat.log2 m then 256 * (e + (Nat.log2 m : Int)) + t / 2 ^ 160
  else 256 * e + (256 * fxLog m 0 + t) / 2 ^ 160

/-- 256·λ clamped to the levels; none for a NaN (13 R358). -/
def sampleLam (t : Ten) (d : List Nat) (bias : Nat) : Option Nat :=
  let top : Int := 256 * ((t.levels : Int) - 1)
  let z := t.size 0
  let len := fun (p q : Nat) =>
    let a := rnMul p (natF32 z.1)
    let b := rnMul q (natF32 z.2)
    (fSqrt f32 .rn false (rnAdd (rnMul a a) (rnMul b b))).bits
  let lx := f32.val (len (d.getD 0 0) (d.getD 1 0))
  let ly := f32.val (len (d.getD 2 0) (d.getD 3 0))
  let b := f32.val bias
  let clamp := fun (x : Int) => some (min (max x 0) top).toNat
  if lx.isNan || ly.isNan || b.isNan then none
  else if lx.isInf || ly.isInf then (if b == .inf true then none else clamp top)
  else
    let big := if f32.key (len (d.getD 0 0) (d.getD 1 0)) < f32.key (len (d.getD 2 0) (d.getD 3 0)) then ly else lx
    match big, b with
    | .num _ m e, .num n bm be =>
      if m = 0 then clamp 0 else clamp (lamFloor m e (if n then -(bm : Int) else bm) be)
    | .num _ m _, .inf n => if m = 0 ∧ !n then none else clamp (if n then 0 else top)
    | _, _ => none

/-- The level that S2 names (07 R239). -/
def sampleLevel (t : Ten) (lod : Nat) : Nat :=
  let f : Int := match f32.val lod with
    | .nan _ => 0
    | .inf n => if n then 0 else (t.levels : Int) - 1
    | _ => floor32 lod
  (min (max f 0) ((t.levels : Int) - 1)).toNat

/-- One lane of a SAMPLE: filter 0 nearest, 1 bilinear, 2 trilinear. -/
def sampleLane (s : State) (g : Group) (t : Ten) (mode filt : Nat) (v : List Nat) (lod : Nat) :
    State × Except Stop (List Nat) :=
  let zero := List.replicate 4 0
  let u0 := v.getD 0 0
  let v0 := v.getD 1 0
  if !fin32 u0 || !fin32 v0 then (s, .ok zero)
  else
    match filt with
    | 0 =>
      let l := sampleLevel t lod
      let z := t.size l
      let x := rnMul u0 (natF32 z.1)
      let y := rnMul v0 (natF32 z.2)
      if !fin32 x || !fin32 y then (s, .ok zero)
      else
        match fetchAll s g t l [(mapIdx mode (floor32 x) z.1, mapIdx mode (floor32 y) z.2)] [0, 1, 2, 3] with
        | (s, .ok r) => (s, .ok (r.headD zero))
        | (s, .error e) => (s, .error e)
    | 1 =>
      match bilinear s g t mode (sampleLevel t lod) u0 v0 with
      | (s, .ok r) => (s, .ok (r.getD zero))
      | (s, .error e) => (s, .error e)
    | _ =>
      match sampleLam t (v.drop 2) lod with
      | none => (s, .ok zero)
      | some lam =>
        let l0 := lam / 256
        let l1 := min (l0 + 1) (t.levels - 1)
        let w := frac32 (lam % 256 : Nat)
        let nw := rnSub one32 w
        match bilinear s g t mode l0 u0 v0 with
        | (s, .error e) => (s, .error e)
        | (s, .ok a) =>
          match if l1 = l0 then (s, .ok a) else bilinear s g t mode l1 u0 v0 with
          | (s, .error e) => (s, .error e)
          | (s, .ok b) =>
            match a, b with
            | some a, some b =>
              (s, .ok ((List.range 4).map fun c => rnAdd (rnMul nw (a.getD c 0)) (rnMul w (b.getD c 0))))
            | _, _ => (s, .ok zero)

/-- One lane of a GATH4: a channel of the four footprint texels. -/
def gatherLane (s : State) (g : Group) (t : Ten) (mode chan : Nat) (v : List Nat) (lod : Nat) :
    State × Except Stop (List Nat) :=
  let zero := List.replicate 4 0
  let l := sampleLevel t lod
  if !fin32 (v.getD 0 0) || !fin32 (v.getD 1 0) then (s, .ok zero)
  else
    match footprint t mode l (v.getD 0 0) (v.getD 1 0) with
    | none => (s, .ok zero)
    | some (ps, _, _) =>
      match fetchAll s g t l ps [chan] with
      | (s, .ok rows) => (s, .ok (rows.map fun r => r.getD 0 0))
      | (s, .error e) => (s, .error e)

/-! ## Instructions -/

/-- Issue a sampling instruction: its flag and record, then its operands as they stand (07 R238, R239). -/
def issueSample (i : Instr) (n : Nat) (t : BitVec 4) (fl : BitVec 1) (d : Dst) (a lod : Src) : State → Out :=
  cIssue i fun e g s =>
    let lods := e.vals g.cs [(.f32, lod)] e.es
    withFlag e g s fl fun f =>
      withT g s t.toNat fun _ =>
        let base := match a with
          | .v m => m.toNat
          | _ => 0
        let vals := ((List.range n).map fun j => g.cs.rv (base + j)) ++ lods
        .done (addLane s g e i f (dstV d) vals (g.rt t.toNat).img)

/-- SAMPLE (07 R239). -/
def execSample (addr filt : BitVec 2) (t : BitVec 4) (fl : BitVec 1) (d : Dst) (a lod : Src) (x : Ctl) (s : State) : Out :=
  issueSample (.sample addr filt t fl d a lod x) (if filt = 2 then 6 else 2) t fl d a lod s

/-- GATH4 (07 R239). -/
def execGath4 (addr chan : BitVec 2) (t : BitVec 4) (fl : BitVec 1) (d : Dst) (a lod : Src) (x : Ctl) (s : State) : Out :=
  issueSample (.gath4 addr chan t fl d a lod x) 2 t fl d a lod s

/-- The operands of a lane, as patterns. -/
def LaneOp.words (o : LaneOp) (l : Nat) : List Nat := o.vals.map fun v => (lane v l).toNat

/-- Run a sampling operation: every enabled lane is fetched and filtered. -/
def runSample (s : State) (faulty : Bool) (o : LaneOp) (g : Group) : Out :=
  let t := Ten.of o.img.toNat
  let g := g.running o
  match o.instr with
  | .sample addr filt _ _ d _ _ _ =>
    let n := if filt = 2 then 6 else 2
    finishLanes s faulty o (dstV d) (runLanes o (fun s l =>
      sampleLane s g t addr.toNat filt.toNat ((o.words l).take n) ((o.words l).getD n 0)) s)
  | .gath4 addr chan _ _ d _ _ _ =>
    finishLanes s faulty o (dstV d) (runLanes o (fun s l =>
      gatherLane s g t addr.toNat chan.toNat ((o.words l).take 2) ((o.words l).getD 2 0)) s)
  | _ => .next s

/-- SAMPLE_COMPLETE (07 R216, R239; 13 R358). -/
def execSampleComplete (op : Nat) (s : State) : Out :=
  match s.laneLive op with
  | none => .next s
  | some (o, g) => runSample s false o g

end Sys2Proof.Machine
end

