-- ==== Sys2Proof/Machine/Trace.lean ====
section
/-! DEFINITION. The ray traversal unit: TRACE to TABORT, and TRAVERSAL_COMPLETE (07 R240-R244; 13 R344-R353; 17 R389). -/

namespace Sys2Proof.Machine

/-! ## The ray state (13 R351) -/

/-- The 64-byte ray state of a lane. -/
structure RayState where
  stk : List Nat
  cur : Nat
  cj : Nat
  pos : Nat
  lip : Bool
  ci : Bool
  ldone : Nat
  iret : Nat
  sp : Nat
  idepth : Nat
  drop : Bool
  inst : Bool
  hit : Bool
  done : Bool
  cand : Bool
  modf : Nat
  rmask : Nat
  tmax : Nat
  cprim : Nat
  cinst : Nat
  cgeom : Nat
  hword : Nat
  kprim : Nat
  kgeom : Nat
  kinst : Nat
  ken : Nat
  deriving DecidableEq, Repr

/-- The state that 64 bytes hold. -/
def RayState.of (b : List Byte) : RayState :=
  let w := fun o => numAt b o 4
  let f := fun o lo n => w o / 2 ^ lo % 2 ^ n
  let t := fun o lo => w o / 2 ^ lo % 2 == 1
  { stk := (List.range 8).map fun i => numAt b (2 * i) 2, cur := f 0x10 0 16, cj := f 0x10 16 2, pos := f 0x10 18 4,
    lip := t 0x10 22, ci := t 0x10 23, ldone := f 0x10 24 4, iret := f 0x14 0 22, sp := f 0x18 0 4, idepth := f 0x18 4 4,
    drop := t 0x18 8, inst := t 0x18 9, hit := t 0x18 10, done := t 0x18 11, cand := t 0x18 12, modf := f 0x18 13 3,
    rmask := f 0x18 16 8, tmax := w 0x1C, cprim := w 0x20, cinst := w 0x24, cgeom := f 0x28 0 16, hword := w 0x2C,
    kprim := w 0x30, kgeom := w 0x34, kinst := w 0x38, ken := w 0x3C }

/-- One bit at a place. -/
def bitAt (b : Bool) (n : Nat) : Nat := if b then 2 ^ n else 0

/-- The 64 bytes of a state. -/
def RayState.bytes (r : RayState) : List Byte :=
  ((List.range 8).map fun i => natLe 2 (r.stk.getD i 0)).flatten ++
    natLe 4 (r.cur % 2 ^ 16 + 2 ^ 16 * (r.cj % 4) + 2 ^ 18 * (r.pos % 16) + bitAt r.lip 22 + bitAt r.ci 23 +
      2 ^ 24 * (r.ldone % 16)) ++
    natLe 4 (r.iret % 2 ^ 22) ++
    natLe 4 (r.sp % 16 + 16 * (r.idepth % 16) + bitAt r.drop 8 + bitAt r.inst 9 + bitAt r.hit 10 + bitAt r.done 11 +
      bitAt r.cand 12 + 2 ^ 13 * (r.modf % 8) + 2 ^ 16 * (r.rmask % 256)) ++
    natLe 4 r.tmax ++ natLe 4 r.cprim ++ natLe 4 r.cinst ++ natLe 4 (r.cgeom % 2 ^ 16) ++ natLe 4 r.hword ++
    natLe 4 r.kprim ++ natLe 4 r.kgeom ++ natLe 4 r.kinst ++ natLe 4 r.ken

/-- No index. -/
def noIdx : Nat := 0xFFFFFFFF

/-- +∞. -/
def inf32 : Nat := f32.infB false

/-- a ≤ b in binary32; false with a NaN. -/
def le32 (a b : Nat) : Bool := fCmp f32 false a b == some .lt || fCmp f32 false a b == some .eq

/-- a < b in binary32; false with a NaN. -/
def lt32 (a b : Nat) : Bool := fCmp f32 false a b == some .lt

/-- Lexicographic order of (instance, geometry, primitive). -/
def keyLess (a b : Nat × Nat × Nat) : Bool :=
  decide (a.1 < b.1) || (a.1 == b.1 && (decide (a.2.1 < b.2.1) || (a.2.1 == b.2.1 && decide (a.2.2 < b.2.2))))

/-- Commit a hit where it wins over the committed one, with the lower bound of its distance (07 R242); whether it was taken. -/
def RayState.commit (r : RayState) (low t : Nat) (key : Nat × Nat × Nat) (word : Nat) : RayState × Bool :=
  let eq := le32 t r.tmax && le32 r.tmax t
  if (le32 low t && lt32 t r.tmax) || (eq && r.hit && keyLess key (r.cinst, r.cgeom, r.cprim)) then
    ({ r with tmax := t, cinst := key.1, cgeom := key.2.1, cprim := key.2.2, hit := true, hword := word }, true)
  else (r, false)

/-- What the four result registers hold when a lane finishes or suspends (07 R241). -/
def RayState.result (r : RayState) : List Nat :=
  if r.cand && !r.done then [2, r.ken, r.kprim, r.kinst]
  else if r.hit then [1, r.tmax, r.cprim, r.cinst]
  else [0, inf32, noIdx, noIdx]

/-! ## Tests -/

/-- A ray at one level: origin, direction, tmin, the BVH it meets and the instance index there. -/
structure RayCtx where
  o : List Nat
  d : List Nat
  tmin : Nat
  bvh : Buf
  inst : Nat
  root : Nat
  deriving DecidableEq, Repr

/-- The exact sum of a value and q·2^e. -/
def FVal.plus (a : FVal) (q : Nat) (e : Int) : FVal :=
  match a with
  | .num n m e' =>
    let k := min e' e
    let v := FVal.scaled k (.num n m e') + ((q * 2 ^ (e - k).toNat : Nat) : Int)
    .num (decide (v < 0)) v.natAbs k
  | x => x

/-- a ≤ b in the extended reals. -/
def FVal.le (a b : FVal) : Bool :=
  match a, b with
  | .nan _, _ => false
  | _, .nan _ => false
  | .inf n, .inf m => n || !m
  | .inf n, _ => n
  | _, .inf m => !m
  | x, y => let k := minExp [x, y]; decide (x.scaled k ≤ y.scaled k)

/-- The slab distance (b − o)/d rounded to binary32; o and d finite, d not zero (13 R348). -/
def slab (b o d : FVal) (rm : RM) : Nat :=
  match b, d with
  | .inf n, d => f32.infB (n != d.sgn)
  | b, .num dn dm de =>
    let k := minExp [b, o]
    let n := b.scaled k - o.scaled k
    if n = 0 then 0 else (f32.roundQ rm false (decide (n < 0) != dn) n.natAbs dm (k - de)).1
  | _, _ => f32.nanB

/-- A box test: the entry distance where the box is met (13 R348). -/
def boxTest (c : RayCtx) (lo hi : List FVal) : Option Nat :=
  let r := (List.range 3).foldl (fun (x : Option (Nat × Nat)) a =>
    x.bind fun (en, ex) =>
      let l := lo.getD a (.nan false)
      let h := hi.getD a (.nan false)
      let o := f32.val (c.o.getD a 0)
      let d := f32.val (c.d.getD a 0)
      if !l.le h then none
      else if d.isZero then (if l.le o && o.le h then some (en, ex) else none)
      else
        let near := slab (if d.sgn then h else l) o d .rd
        let far := slab (if d.sgn then l else h) o d .ru
        some (if lt32 en near then near else en, if lt32 far ex then far else ex)) (some (c.tmin, inf32))
  r.bind fun (en, ex) => if le32 en ex then some en else none

/-- a·b − c·e with one rounding. -/
def mulSub (a b c e : Nat) : Nat :=
  (sumRound f32 .rn false [((f32.val a).mul (f32.val b)).1, ((f32.val (f32.flip c)).mul (f32.val e)).1]).1

/-- A cross product (13 R349). -/
def cross (a b : List Nat) : List Nat :=
  let x := fun k => a.getD k 0
  let y := fun k => b.getD k 0
  [mulSub (x 1) (y 2) (x 2) (y 1), mulSub (x 2) (y 0) (x 0) (y 2), mulSub (x 0) (y 1) (x 1) (y 0)]

/-- A dot product as FDOT3 rounds it. -/
def dot3 (a b : List Nat) : Nat :=
  (fDot3 .rn false (a.getD 0 0) (a.getD 1 0) (a.getD 2 0) (b.getD 0 0) (b.getD 1 0) (b.getD 2 0)).bits

/-- A difference of vectors. -/
def vsub (a b : List Nat) : List Nat := (a.zip b).map fun p => rnSub p.1 p.2

/-- A triangle test: the distance of a hit (13 R349). -/
def triTest (c : RayCtx) (cull : Bool) (b : List Byte) : Option Nat :=
  let v := fun k => (List.range 3).map fun a => numAt b (12 * k + 4 * a) 4
  let e1 := vsub (v 1) (v 0)
  let e2 := vsub (v 2) (v 0)
  let s := vsub c.o (v 0)
  let p := cross c.d e2
  let det := dot3 e1 p
  let neg := lt32 det 0
  if (f32.val det).isZero then none
  else if neg && cull && numAt b 44 4 % 2 == 0 then none
  else
    let u := dot3 s p
    let q := cross s e1
    let w := dot3 c.d q
    let tn := dot3 e2 q
    let u := if neg then f32.flip u else u
    let w := if neg then f32.flip w else w
    let ab := if neg then f32.flip det else det
    if lt32 u 0 || lt32 w 0 || lt32 ab (rnAdd u w) then none else some (rnDiv tn det)

/-! ## The BVH (13 R344-R347) -/

/-- An index or value that the chapter marks invalid. -/
def badBvh : Stop := .ok (Cause.mk' 9 5 4)

/-- Fetch `n` units of 16 bytes. -/
def fetchUnits (s : State) (g : Group) (b : Buf) (u n : Nat) : State × Except Stop (List Byte) :=
  if b.extent < u + n then
    (s, .error (.ok { grp := 5, code := 3, detail := BitVec.ofNat 96 (max u b.extent % 2 ^ 32 + b.extent * 2 ^ 64), va := 0,
                      lanes := 0 }))
  else
    match laneRead s g 4 0 ((b.base + 16 * u) % 2 ^ 64) (16 * n) b.l2cls with
    | (s, .ok bs) => (s, .ok bs)
    | (s, .error e) => (s, .error (e.engine 0 4))

/-- Fetch a node. -/
def fetchNode (s : State) (g : Group) (b : Buf) (i : Nat) : State × Except Stop (List Byte) :=
  if 65535 < i then (s, .error badBvh) else fetchUnits s g b (4 * i) 4

/-- Whether child `j` of a node is valid, and whether it is a leaf. -/
def childValid (nd : List Byte) (j : Nat) : Bool := numAt nd 15 1 / 2 ^ j % 2 == 1
def childLeaf (nd : List Byte) (j : Nat) : Bool := numAt nd 15 1 / 2 ^ (4 + j) % 2 == 1

/-- The index of internal child `j`. -/
def childIdx (nd : List Byte) (j : Nat) : Nat :=
  numAt nd 16 4 + ((List.range j).filter fun k => childValid nd k && !childLeaf nd k).length

/-- The exact bound of a child's box on an axis: `o` is 0 for lo and 3 for hi. -/
def childBound (nd : List Byte) (j o a : Nat) : FVal :=
  let e := numAt nd (12 + a) 1
  (f32.val (numAt nd (4 * a) 4)).plus (numAt nd (24 + 6 * j + o + a) 1) (if e < 128 then (e : Int) else (e : Int) - 256)

/-- The valid children whose boxes are met, by (entry distance, j) (13 R350). -/
def metChildren (c : RayCtx) (nd : List Byte) : List (Nat × Nat) :=
  let met := (List.range 4).filterMap fun j =>
    if childValid nd j then
      (boxTest c ((List.range 3).map (childBound nd j 0)) ((List.range 3).map (childBound nd j 3))).map fun en => (en, j)
    else none
  sortBy (fun (a b : Nat × Nat) => le32 a.1 b.1) met

/-- Leaf info of child `j`: count, kind and first unit. -/
def leafInfo (nd : List Byte) (j : Nat) : Nat × Nat × Nat :=
  let x := numAt nd (48 + 2 * j) 2
  (x % 16, x / 16 % 4, numAt nd 20 4 + x / 64)

/-- Units of a record by its kind. -/
def leafUnits (kind : Nat) : Nat := if kind = 0 then 3 else if kind = 1 then 2 else 4

/-- The ray inside an instance, by the instance record (13 R347): none where it is not entered. -/
def enterRay (g : Group) (c : RayCtx) (b : List Byte) (rmask : Nat) : Except Stop (Option RayCtx) :=
  let m := fun r k => numAt b (16 * r + 4 * k) 4
  if Nat.land (numAt b 56 1) rmask = 0 then .ok none
  else
    let w := numAt b 48 4
    let x := (g.rb (w / 2 ^ 16 % 32)).buf?
    match x with
    | none => .error (.ok (Cause.mk' 9 2 4))
    | some y =>
      if y.level ≠ 0 ∨ y.esz ≠ 4 ∨ y.swz ≠ 0 ∨ y.stride ≠ 16 then .error (.ok (Cause.mk' 9 2 4))
      else
        let row := fun (v : List Nat) r =>
          let p := fun k => (f32.val (m r k)).mul (f32.val (v.getD k 0)) |>.1
          rnFma (m r 2) (v.getD 2 0) (sumRound f32 .rn false [p 0, p 1]).1
        let o := (List.range 3).map fun r => rnAdd (row c.o r) (m r 3)
        let d := (List.range 3).map (row c.d)
        if (o ++ d).all fin32 then
          .ok (some { o, d, tmin := c.tmin, bvh := y, inst := numAt b 52 4, root := w % 2 ^ 16 })
        else .ok none

/-! ## The walk (13 R350, R352) -/

/-- What a step of a walk answers: go on, stop at a node visit to go on in another step, the lane has finished or suspended, a fault, or a
walk that never ends. -/
inductive Walk where
  | more
  | paused
  | ended
  | fault (e : Stop)
  | never

/-- A walk: the machine, the ray state and, inside an instance, the ray there and the LDONE of the node that it was entered from. -/
structure WalkSt where
  s : State
  r : RayState
  ic : Option RayCtx
  out : Option Nat

/-- What a record of a leaf answers: go on, suspend at it, enter an instance, or a fault. -/
inductive RecRes where
  | cont
  | susp
  | enter
  | fault (e : Stop)

/-- Process record `k` of leaf child `j` and the `n − 1` after it. -/
def leafRecords (g : Group) (c : RayCtx) (j kind u0 : Nat) : Nat → Nat → WalkSt → WalkSt × RecRes
  | 0, _, w => (w, .cont)
  | n + 1, k, w =>
    let w := { w with r := { w.r with cj := j, pos := k } }
    match fetchUnits w.s g c.bvh (u0 + leafUnits kind * k) (leafUnits kind) with
    | (s, .error e) => ({ w with s }, .fault e)
    | (s, .ok b) =>
      let w := { w with s }
      match kind with
      | 0 =>
        let r := match triTest c (w.r.modf % 2 == 1) b with
          | some t => (w.r.commit c.tmin t (c.inst, numAt b 36 4 % 2 ^ 16, numAt b 40 4) 0).1
          | none => w.r
        leafRecords g c j kind u0 n (k + 1) { w with r }
      | 1 =>
        let bound := fun o => (List.range 3).map fun a => f32.val (numAt b (o + 4 * a) 4)
        match (boxTest c (bound 0) (bound 12)).filter fun en => le32 en w.r.tmax with
        | some en =>
          ({ w with r := { w.r with cand := true, kprim := numAt b 24 4, kgeom := numAt b 28 4, kinst := c.inst, ken := en } },
            .susp)
        | none => leafRecords g c j kind u0 n (k + 1) w
      | _ =>
        if w.r.inst then (w, .fault badBvh)
        else
          match enterRay g c b w.r.rmask with
          | .error e => (w, .fault e)
          | .ok none => leafRecords g c j kind u0 n (k + 1) w
          | .ok (some ic) =>
            ({ w with ic := some ic, out := some w.r.ldone,
                      r := { w.r with inst := true, ci := false, idepth := w.r.sp, iret := w.r.cur + 2 ^ 16 * j + 2 ^ 18 * k } },
              .enter)

/-- Process leaf children: (child, first record, entry distance or none for the child being resumed). -/
def leafList (g : Group) (c : RayCtx) (nd : List Byte) : List (Nat × Nat × Option Nat) → WalkSt → WalkSt × RecRes
  | [], w => (w, .cont)
  | (j, k0, en) :: rest, w =>
    if !(en.all fun e => le32 e w.r.tmax) then leafList g c nd rest w
    else
      let (cnt, kind, u0) := leafInfo nd j
      if kind = 3 then (w, .fault badBvh)
      else
        let skip := (kind == 0 && w.r.modf / 2 % 2 == 1) || (kind == 1 && w.r.modf / 4 % 2 == 1)
        match if skip then (w, .cont) else leafRecords g c j kind u0 (cnt - k0) k0 w with
        | (w, .cont) => leafList g c nd rest { w with r := { w.r with ldone := Nat.lor w.r.ldone (2 ^ j) } }
        | x => x

/-- Push an internal child; a full stack drops its bottom entry (13 R350). -/
def RayState.push (r : RayState) (i : Nat) : RayState :=
  let r := if 8 ≤ r.sp then
      { r with stk := r.stk.drop 1 ++ [0], sp := 7, drop := true, idepth := r.idepth - 1 }
    else r
  { r with stk := setAt r.stk r.sp i, sp := r.sp + 1 }

/-- Process a node that has been fetched: its leaf children, then its internal ones. `from_` is the leaf child and record that a
resumed node goes on with. -/
def processNode (g : Group) (c : RayCtx) (nd : List Byte) (from_ : Option (Nat × Nat)) (w : WalkSt) : WalkSt × Walk :=
  let order := metChildren c nd
  let todo : List (Nat × Nat × Option Nat) := match from_ with
    | none => (order.filter fun e => childLeaf nd e.2).map fun e => (e.2, 0, some e.1)
    | some (cj, pos) =>
      (if childValid nd cj && childLeaf nd cj && w.r.ldone / 2 ^ cj % 2 == 0 then [(cj, pos, none)] else []) ++
        ((order.filter fun e => childLeaf nd e.2 && e.2 != cj && w.r.ldone / 2 ^ e.2 % 2 == 0).map fun e => (e.2, 0, some e.1))
  match leafList g c nd todo w with
  | (w, .susp) => (w, .ended)
  | (w, .enter) => (w, .more)
  | (w, .fault e) => (w, .fault e)
  | (w, .cont) =>
    let r := { w.r with lip := false, ldone := 0, cj := 0, pos := 0 }
    let kids := ((order.filter fun e => !childLeaf nd e.2 && le32 e.1 r.tmax).map fun e => childIdx nd e.2).reverse
    if kids.any fun i => decide (65535 < i) then ({ w with r }, .fault badBvh)
    else ({ w with r := kids.foldl RayState.push r }, .more)

/-- Visit a node: fetched, it becomes CUR; `pop` takes it from the stack. -/
def visitNode (g : Group) (c : RayCtx) (i : Nat) (pop : Bool) (w : WalkSt) : WalkSt × Walk :=
  match fetchNode w.s g c.bvh i with
  | (s, .error e) => ({ w with s }, .fault e)
  | (s, .ok nd) =>
    let r := { w.r with cur := i, ci := w.r.inst, lip := true, cj := 0, pos := 0, ldone := 0,
                        sp := if pop then w.r.sp - 1 else w.r.sp }
    processNode g c nd none { w with s, r }

/-- The node that backtracking visits next from a node; none at the end of the level. -/
def backtrack (g : Group) (c : RayCtx) (tmax : Nat) : Nat → Nat → State → State × Except (Option Stop) (Option Nat)
  | 0, _, s => (s, .error none)
  | n + 1, cur, s =>
    match fetchNode s g c.bvh cur with
    | (s, .error e) => (s, .error (some e))
    | (s, .ok nd) =>
      let p := numAt nd 56 4
      if p = noIdx then (s, .ok none)
      else
        match fetchNode s g c.bvh p with
        | (s, .error e) => (s, .error (some e))
        | (s, .ok pn) =>
          let kids := ((metChildren c pn).filter fun e => !childLeaf pn e.2).map fun e => (e.1, childIdx pn e.2)
          let after := if kids.any fun e => e.2 == cur then (kids.dropWhile fun e => e.2 != cur).drop 1 else []
          match after.find? fun e => le32 e.1 tmax with
          | some e => (s, .ok (some e.2))
          | none => backtrack g c tmax n p s

/-- The end of a level: the walk ends, or goes on after the instance record that was entered; its node's LDONE comes back. Of a state that
a program has written the unit knows none: the leaf children before the record's in the order have been processed (13 R350, R351;
notes/assumptions/78.md). -/
def endLevel (g : Group) (c : RayCtx) (w : WalkSt) : WalkSt × Walk :=
  if w.r.inst then
    let node := w.r.iret % 2 ^ 16
    let cj := w.r.iret / 2 ^ 16 % 4
    match fetchNode w.s g c.bvh node with
    | (s, .error e) => ({ w with s }, .fault e)
    | (s, .ok nd) =>
      let order := metChildren c nd
      let before := if order.any fun e => e.2 == cj then order.takeWhile fun e => e.2 != cj else []
      let ldone := ((before.filter fun e => childLeaf nd e.2).map fun e => 2 ^ e.2).sum
      let ldone := w.out.getD ldone
      ({ s, ic := none, out := none, r := { w.r with inst := false, ci := false, cur := node, cj, pos := w.r.iret / 2 ^ 18 % 16 + 1,
                                                     lip := true, ldone } }, .more)
  else ({ w with r := { w.r with done := true, cand := false } }, .ended)

/-- The ray inside the instance that a state names, read again (13 R347, R351). -/
def reenter (g : Group) (c : RayCtx) (w : WalkSt) : WalkSt × Except Stop (Option RayCtx) :=
  match fetchNode w.s g c.bvh (w.r.iret % 2 ^ 16) with
  | (s, .error e) => ({ w with s }, .error e)
  | (s, .ok nd) =>
    match fetchUnits s g c.bvh ((leafInfo nd (w.r.iret / 2 ^ 16 % 4)).2.2 + 4 * (w.r.iret / 2 ^ 18 % 16)) 4 with
    | (s, .error e) => ({ w with s }, .error e)
    | (s, .ok b) =>
      match enterRay g c b 255 with
      | .error e => ({ w with s }, .error e)
      | .ok ic => ({ w with s, ic }, .ok ic)

/-- One step of a walk at a level, with the ray there. -/
def levelStep (g : Group) (world c : RayCtx) (w : WalkSt) : WalkSt × Walk :=
  let r := w.r
  if r.inst && !r.ci then visitNode g c c.root false w
  else if r.lip then
    match fetchNode w.s g c.bvh r.cur with
    | (s, .error e) => ({ w with s }, .fault e)
    | (s, .ok nd) => processNode g c nd (some (r.cj, r.pos)) { w with s }
  else if (if r.inst then r.idepth else 0) < r.sp then visitNode g c (r.stk.getD (r.sp - 1) 0) true w
  else if r.drop then
    match backtrack g c r.tmax 65537 r.cur w.s with
    | (s, .error (some e)) => ({ w with s }, .fault e)
    | (s, .error none) => ({ w with s }, .never)
    | (s, .ok (some i)) => visitNode g c i false { w with s }
    | (s, .ok none) => endLevel g world { w with s }
  else endLevel g world w

/-- A step of a walk. A state inside an instance whose record is no longer entered goes on after that record. -/
def walkStep (g : Group) (world : RayCtx) (w : WalkSt) : WalkSt × Walk :=
  if w.r.inst then
    match w.ic with
    | some c => levelStep g world c w
    | none =>
      match reenter g world w with
      | (w, .error e) => (w, .fault e)
      | (w, .ok (some c)) => levelStep g world c w
      | (w, .ok none) => endLevel g world w
  else levelStep g world world w

/-- A walk to its end, a suspension or a fault, or where `stops` to the end of a node visit of the device's choice (11 R321; 13 R353).
More than 2^64 steps never end. -/
def walkRay (g : Group) (world : RayCtx) (stops : Bool) : Nat → WalkSt → WalkSt × Walk
  | 0, w => (w, .never)
  | n + 1, w =>
    match walkStep g world w with
    | (w, .more) =>
      if stops then
        match w.s.goesOn with
        | (s, true) => walkRay g world stops n { w with s }
        | (s, false) => ({ w with s }, .paused)
      else walkRay g world stops n w
    | x => x

/-! ## A lane -/

/-- The state that TRACE writes (13 R351): candidate fields are whatever the device leaves there. -/
def RayState.init (root mask modf tmax k0 k1 k2 k3 : Nat) : RayState :=
  { stk := root % 2 ^ 16 :: List.replicate 7 0, cur := 0, cj := 0, pos := 0, lip := false, ci := false, ldone := 0,
    iret := 0, sp := 1, idepth := 0, drop := false, inst := false, hit := false, done := false, cand := false, modf,
    rmask := mask % 256, tmax, cprim := noIdx, cinst := noIdx, cgeom := 0xFFFF, hword := 0, kprim := k0, kgeom := k1,
    kinst := k2, ken := k3 }

/-- Whether a ray ends at once (13 R348). -/
def rayDead (ray : List Nat) : Bool :=
  (ray.any fun x => (f32.val x).isNan) || (ray.take 7).any (fun x => (f32.val x).isInf) ||
    lt32 (ray.getD 7 0) (ray.getD 6 0)

/-- The place of a lane's ray state. -/
def rayLoc (g : Group) (l off : Nat) : Loc := { space := .lane g.who.gid l, addr := off }

/-- The ray state of a lane. -/
def State.rayState (s : State) (g : Group) (l off : Nat) : RayState :=
  let x := rayLoc g l off
  RayState.of ((s.memOf x.space).bytes x.key 64)

/-- Store a lane's ray state. -/
def State.putRay (s : State) (g : Group) (l off : Nat) (r : RayState) : State := s.putBytes (rayLoc g l off) r.bytes

/-- The LDONE that the unit keeps of a lane whose state stands inside an instance. -/
def Group.outerOf (g : Group) (l off : Nat) (r : RayState) : Option Nat :=
  (g.outer.find? fun x => r.inst && x.1 == l && x.2.1 == off && x.2.2.1 == r.iret).map fun x => x.2.2.2

/-- Keep it, or nothing once the walk stands at the top level. -/
def State.putOuter (s : State) (g : Group) (l off : Nat) (r : RayState) (out : Option Nat) : State :=
  let new := (out.map fun d => (l, off, r.iret, d)).toList
  if new.isEmpty && g.outer.isEmpty then s
  else { s with groups := s.groups.upd g.who.gid fun h =>
    { h with outer := (h.outer.filter fun x => !(x.1 == l && x.2.1 == off)) ++ new } }

/-- Four free words, for the candidate fields of a fresh state. -/
def State.draw4 (s : State) : State × List Nat :=
  ({ s with fresh := s.fresh + 4 }, (List.range 4).map fun k => (Config.freeWord (s.fresh + k)).toNat)

/-- A suspended state that goes on after the record at which it stopped: its candidate is dropped, and the record is passed over before
anything is fetched, so that no fault brings it back (13 R350, R352); position 15 is the last of a leaf child. -/
def RayState.resumed (r : RayState) : RayState :=
  if r.cand && r.lip then
    if r.pos < 15 then { r with cand := false, pos := r.pos + 1 }
    else { r with cand := false, ldone := Nat.lor r.ldone (2 ^ r.cj) }
  else { r with cand := false }

/-- One lane of a TRACE, or of a TRESUME: its state is left in its slice, whatever it answers. -/
def traceLane (g : Group) (stops : Bool) (bvh : Buf) (init : Option Nat) (v : List Nat) (l : Nat) (s : State) :
    State × Walk × List Nat :=
  let ray := v.take 8
  let off := v.getD 8 0
  let dead := fun (s : State) (r : RayState) =>
    let r := { r with done := true, cand := false }
    (s.putRay g l off r, Walk.ended, r.result)
  let go := fun (s : State) (r : RayState) =>
    let c : RayCtx := { o := ray.take 3, d := (ray.drop 3).take 3, tmin := ray.getD 6 0, bvh, inst := noIdx, root := 0 }
    let x := walkRay g c stops (2 ^ 64) { s, r, ic := none, out := g.outerOf l off r }
    ((x.1.s.putRay g l off x.1.r).putOuter g l off x.1.r x.1.out, x.2, x.1.r.result)
  match init with
  | some modf =>
    let k := s.draw4
    let r := RayState.init (v.getD 9 0) (v.getD 10 0) modf (ray.getD 7 0) (k.2.getD 0 0) (k.2.getD 1 0) (k.2.getD 2 0)
      (k.2.getD 3 0)
    if rayDead ray then dead k.1 r
    else if 65535 < v.getD 9 0 then (k.1.putRay g l off r, .fault badBvh, [])
    else go k.1 r
  | none =>
    let r := s.rayState g l off
    if r.done then
      let r := { r with cand := false }
      (s.putRay g l off r, .ended, r.result)
    else
      let r := { r.resumed with tmax := if lt32 (ray.getD 7 0) r.tmax then ray.getD 7 0 else r.tmax }
      if rayDead ray then dead s r else go s r

/-- The lanes of a traversal: as runLanes, and whether a walk never ends. -/
def runRays (o : LaneOp) (g : Group) (stops : Bool) (bvh : Buf) (init : Option Nat) (s : State) : LaneRun × Bool :=
  (lanesOf o.left).foldl (fun (r : LaneRun × Bool) l =>
    match traceLane g stops bvh init (o.words l) l r.1.s with
    | (s, .paused, _) => ({ r.1 with s, later := r.1.later ++ [l] }, r.2)
    | (s, .ended, ws) => ({ r.1 with s, out := r.1.out ++ [(l, ws)] }, r.2)
    | (s, .fault (.ok c), _) => ({ r.1 with s, faults := r.1.faults ++ [(l, c)] }, r.2)
    | (s, .fault (.error e), _) => ({ r.1 with s, stop := r.1.stop.or (some e) }, r.2)
    | (s, _, _) => ({ r.1 with s }, true)) ({ s, out := [], faults := [], stop := none, later := [] }, false)

/-- Run a traversal: every enabled lane is traced to its end, a candidate or a fault, or stops at a node visit (07 R241, R244; 11 R321). -/
def runTrace (s : State) (faulty : Bool) (o : LaneOp) (g : Group) : Out :=
  let bvh := Buf.of (o.img.toNat % 2 ^ 256)
  let run := fun (d : Dst) (init : Option Nat) =>
    match runRays o (g.running o) (!faulty) bvh (if o.resume then none else init) s with
    | (_, true) => Host.Outcome.next s
    | (r, false) => finishLanes s faulty o (dstV d) r
  match o.instr with
  | .trace modf _ _ d _ _ _ _ _ => run d (some modf.toNat)
  | .tresume _ _ d _ _ _ => run d none
  | _ => .next s

/-- TRAVERSAL_COMPLETE (07 R241). -/
def execTraversalComplete (op : Nat) (s : State) : Out :=
  match s.laneLive op with
  | none => .next s
  | some (o, g) => runTrace s false o g

/-- ENGINE_FAULT: an operation of an engine meets a fault: a copy, COVER or tile store is suspended at its unit, the units before
it done; a lane operation keeps the results of its other lanes (07 R216, R244; 19 R391). -/
def execEngineFault (op : Nat) (s : State) : Out :=
  match s.engLive op, s.laneLive op with
  | some (o, g), _ => faultEng s o g
  | none, some (o, g) =>
    match o.instr with
    | .trace .. => runTrace s true o g
    | .tresume .. => runTrace s true o g
    | _ => runSample s true o g
  | none, none => .next s

/-! ## Issue -/

/-- The checks of ray-state offsets over the enabled lanes (07 R240): alignment, then the allotment. -/
def rayCheck (s : State) (g : Group) (acc : Nat) (els : List (Nat × Nat)) : Option Cause :=
  let lanes := fun (l : List (Nat × Nat)) => mkMask fun n => l.any fun e => e.1 == n
  let bad := els.filter fun e => e.2 % 64 != 0
  let out := els.filter fun e => decide (s.allot g 4 < e.2 + 64)
  match bad, out with
  | (_, o) :: _, _ => some (Cause.mk' 6 4 (o + 6 * 2 ^ 32) o (lanes bad))
  | [], (_, o) :: _ => some (Cause.mk' 4 6 (acc + 256 * 4) o (lanes out))
  | [], [] => none

/-- Use the ray states of the enabled lanes: the checks, any recall, and the earlier near accesses of the split first (07 R241,
R243; 06 R214). -/
def withRays (s : State) (g : Group) (e : CEnv) (i : Instr) (acc : Nat) (off : Lanes) (f : State → List (Nat × Nat) → Res) :
    Res :=
  let els := (lanesOf e.en).map fun l => (l, (lane off l).toNat)
  match rayCheck s g acc els with
  | some c => .trap c s
  | none =>
    match s.firstOwned g.who.gid s.nextId (els.map fun x => rayLoc g x.1 x.2) with
    | .busy _ => .wait .other s
    | .faulted x =>
      .done (trapHere (s.deliverEng x.eng x.pass x.cause) (x.mark g) e ((encodeC i).getD 0) x.cause (some x.pc))
    | .free => if g.pend.any fun p => p.who == e.k then .wait .other s else f s els

/-- Issue a traversal: the flag, the record, the states, then its operands as they stand. -/
def issueTrace (i : Instr) (b : BitVec 5) (fl : BitVec 1) (d : Dst) (ray s0 : Src) (more : List Src) : State → Out :=
  cIssue i fun e g s =>
    let vs := e.vals g.cs (intSrcs (s0 :: more)) e.es
    withFlag e g s fl fun f =>
      withB g s b.toNat fun _ =>
        withRays s g e i 1 (vs.getD 0 []) fun s _ =>
          let vals := ((List.range 8).map fun j => g.cs.rv (srcV ray + j)) ++ vs
          .done (addLane s g e i f (dstV d) vals (g.rb b.toNat).img)
where
  /-- The number of a vector source. -/
  srcV : Src → Nat
    | .v n => n.toNat
    | _ => 0

/-- TRACE (07 R240, R241). -/
def execTrace (modf : BitVec 3) (b : BitVec 5) (fl : BitVec 1) (d : Dst) (ray s0 root mask : Src) (x : Ctl) (s : State) :
    Out :=
  issueTrace (.trace modf b fl d ray s0 root mask x) b fl d ray s0 [root, mask] s

/-- TRESUME (07 R241; 13 R352). -/
def execTresume (b : BitVec 5) (fl : BitVec 1) (d : Dst) (ray s0 : Src) (x : Ctl) (s : State) : Out :=
  issueTrace (.tresume b fl d ray s0 x) b fl d ray s0 [] s

/-- TREPORT (07 R242). -/
def execTreport (d : Dst) (s0 t w : Src) (x : Ctl) (s : State) : Out :=
  cIssue (.treport d s0 t w x) (fun e g s =>
    let vs := e.vals g.cs [(.int, s0), (.f32, t), (.int, w)] e.es
    withRays s g e (.treport d s0 t w x) 1 (vs.getD 0 []) fun s els =>
      let r := els.foldl (fun (a : State × List Nat) x =>
        let st := a.1.rayState g x.1 x.2
        if st.cand then
          let c := st.commit st.ken (lane (vs.getD 1 []) x.1).toNat (st.kinst, st.kgeom % 2 ^ 16, st.kprim)
            (lane (vs.getD 2 []) x.1).toNat
          if c.2 then (a.1.putRay g x.1 x.2 c.1, a.2 ++ [x.1]) else a
        else a) (s, [])
      .done (r.1.updG fun g => g.writePred d e.en fun l => r.2.contains l)) s

/-- Four result registers of the enabled lanes, from their ray states. -/
def rayQuery (i : Instr) (d : Dst) (s0 : Src) (f : RayState → List Nat) : State → Out :=
  cIssue i fun e g s =>
    let vs := e.vals g.cs (intSrcs [s0]) e.es
    withRays s g e i 0 (vs.getD 0 []) fun s els =>
      let rows := els.map fun x => (x.1, f (s.rayState g x.1 x.2))
      .done (s.updG fun g => (List.range 4).foldl (fun (g : Group) j =>
        { g with cs := g.cs.wv (dstV d + j) e.en (mkLanes fun l =>
          BitVec.ofNat 32 (((rows.find? fun r => r.1 == l).map fun r => r.2.getD j 0).getD 0)) }) g)

/-- TCAND (07 R243). -/
def execTcand (d : Dst) (s0 : Src) (x : Ctl) (s : State) : Out :=
  rayQuery (.tcand d s0 x) d s0 (fun r => [r.kprim, r.kgeom, r.kinst, r.ken]) s

/-- TQUERY (07 R243). -/
def execTquery (d : Dst) (s0 : Src) (x : Ctl) (s : State) : Out :=
  rayQuery (.tquery d s0 x) d s0
    (fun r => if r.hit then [r.tmax, r.cprim, r.cgeom, r.cinst] else [inf32, noIdx, noIdx, noIdx]) s

/-- TABORT (07 R243; 17 R389). -/
def execTabort (s0 : Src) (x : Ctl) (s : State) : Out :=
  cIssue (.tabort s0 x) (fun e g s =>
    let vs := e.vals g.cs (intSrcs [s0]) e.es
    withRays s g e (.tabort s0 x) 1 (vs.getD 0 []) fun s els =>
      .done (els.foldl (fun (s : State) x =>
        s.putRay g x.1 x.2 { s.rayState g x.1 x.2 with done := true, cand := false }) s)) s

end Sys2Proof.Machine
end

