-- ==== Sys2Proof/Machine/Replay.lean ====
section
/-! DEFINITION. The trailing shadow (08 R266-R268): re-executing the leader's instructions on the shadow's side, comparing what
leaves the group, and releasing or refusing it. -/

namespace Sys2Proof.Machine

/-- Run an instruction that the shadow re-executes, or that is released once it has been compared (08 R266, R267). -/
def runC (i : Instr) (s : State) : Out :=
  match i with
  | .fadd rm ftz d a b x => execFadd rm ftz d a b x s
  | .fsub rm ftz d a b x => execFsub rm ftz d a b x s
  | .fmul rm ftz d a b x => execFmul rm ftz d a b x s
  | .ffma rm ftz d a b c x => execFfma rm ftz d a b c x s
  | .fmin ftz d a b x => execFmin ftz d a b x s
  | .fmax ftz d a b x => execFmax ftz d a b x s
  | .fminn ftz d a b x => execFminn ftz d a b x s
  | .fmaxn ftz d a b x => execFmaxn ftz d a b x s
  | .fset cnd ftz d a b x => execFset cnd ftz d a b x s
  | .fclamp ftz d a lo hi x => execFclamp ftz d a lo hi x s
  | .frnd rm ftz d a x => execFrnd rm ftz d a x s
  | .fclass d a x => execFclass d a x s
  | .fldexp rm ftz d a n x => execFldexp rm ftz d a n x s
  | .fexpo ftz d a x => execFexpo ftz d a x s
  | .fdiv rm ftz d a b x => execFdiv rm ftz d a b x s
  | .fsqrt rm ftz d a x => execFsqrt rm ftz d a x s
  | .frcp d a x => execFrcp d a x s
  | .frsq d a x => execFrsq d a x s
  | .fexp2 d a x => execFexp2 d a x s
  | .flog2 d a x => execFlog2 d a x s
  | .fsin d a x => execFsin d a x s
  | .fcos d a x => execFcos d a x s
  | .flerp rm ftz d a b t x => execFlerp rm ftz d a b t x s
  | .fdot3 rm ftz d a b x => execFdot3 rm ftz d a b x s
  | .hadd2 bf rm ftz d a b x => execHadd2 bf rm ftz d a b x s
  | .hmul2 bf rm ftz d a b x => execHmul2 bf rm ftz d a b x s
  | .hfma2 bf rm ftz d a b c x => execHfma2 bf rm ftz d a b c x s
  | .hmin2 bf ftz d a b x => execHmin2 bf ftz d a b x s
  | .hmax2 bf ftz d a b x => execHmax2 bf ftz d a b x s
  | .hset2 cnd bf ftz comb d a b x => execHset2 cnd bf ftz comb d a b x s
  | .hdot2 bf rm ftz d a b c x => execHdot2 bf rm ftz d a b c x s
  | .iadd u sat d a b x => execIadd u sat d a b x s
  | .isub u sat d a b x => execIsub u sat d a b x s
  | .imul u sat d a b x => execImul u sat d a b x s
  | .imad u sat d a b c x => execImad u sat d a b c x s
  | .imulh u d a b x => execImulh u d a b x s
  | .imin u d a b x => execImin u d a b x s
  | .imax u d a b x => execImax u d a b x s
  | .iabs sat d a x => execIabs sat d a x s
  | .iadd3 u sat d a b c x => execIadd3 u sat d a b c x s
  | .iset cnd u d a b x => execIset cnd u d a b x s
  | .ltab tbl d a b c x => execLtab tbl d a b c x s
  | .shl d a b x => execShl d a b x s
  | .shr d a b x => execShr d a b x s
  | .shra d a b x => execShra d a b x s
  | .shf d a b c x => execShf d a b c x s
  | .bfe d a b x => execBfe d a b x s
  | .bfes d a b x => execBfes d a b x s
  | .bfi d a b c x => execBfi d a b c x s
  | .popc d a x => execPopc d a x s
  | .clz d a x => execClz d a x s
  | .brev d a x => execBrev d a x s
  | .idp4 u ub sat d a b c x => execIdp4 u ub sat d a b c x s
  | .idp2 u ub sat d a b c x => execIdp2 u ub sat d a b c x s
  | .isad u sat d a b c x => execIsad u sat d a b c x s
  | .iclamp u d a lo hi x => execIclamp u d a lo hi x s
  | .cvt dt rm sat ftz st d a x => execCvt dt rm sat ftz st d a x s
  | .pack dt rm sat ftz st d a b c e x => execPack dt rm sat ftz st d a b c e x s
  | .unpk st j d a x => execUnpk st j d a x s
  | .rnenc u d a x => execRnenc u d a x s
  | .rndec u d a x => execRndec u d a x s
  | .rnmad d a b c x => execRnmad d a b c x s
  | .mov d a x => execMov d a x s
  | .sel pr neg d a b x => execSel pr neg d a b x s
  | .perm act d a i f x => execPerm act d a i f x s
  | .shflup w act d a n f x => execShflup w act d a n f x s
  | .shfldn w act d a n f x => execShfldn w act d a n f x s
  | .shflx w act d a n f x => execShflx w act d a n f x s
  | .shflr w act d a n f x => execShflr w act d a n f x s
  | .bcast d a i x => execBcast d a i x s
  | .bcastf d a x => execBcastf d a x s
  | .voteall pr neg d x => execVoteall pr neg d x s
  | .voteany pr neg d x => execVoteany pr neg d x s
  | .votesame pr neg d x => execVotesame pr neg d x s
  | .voteballot pr neg w d x => execVoteballot pr neg w d x s
  | .reduce op ftz rm d a x => execReduce op ftz rm d a x s
  | .scan op ftz rm ex d a x => execScan op ftz rm ex d a x s
  | .matchany w d a x => execMatchany w d a x s
  | .matchlead d a x => execMatchlead d a x s
  | .matchall d a x => execMatchall d a x s
  | .push n d x => execPush n d x s
  | .sreg sel d x => execSreg sel d x s
  | .drop d q x => execDrop d q x s
  | .pltab tbl d a b c x => execPltab tbl d a b c x s
  | .pmov toPred pr d a x => execPmov toPred pr d a x s
  | .pmovw toPred w pr d a x => execPmovw toPred w pr d a x s
  | .brd join target x => execBrd join target x s
  | .jmp target x => execJmp target x s
  | .join x => execJoin x s
  | .endc x => execEndc x s
  | .callc target x => execCallc target x s
  | .retc x => execRetc x s
  | .kill x => execKill x s
  | .stl size rel a b c x => execStl size rel a b c x s
  | .sts size rel a b c x => execSts size rel a b c x s
  | .atoms op ret ord fl d a b c e x => execAtoms op ret ord fl d a b c e x s
  | .stc size rel a b c x => execStc size rel a b c x s
  | .atomc op ret ord fl d a b c e x => execAtomc op ret ord fl d a b c e x s
  | _ => .next s

/-- A side whose splits stand where the leader's stood. -/
def CSide.stand (c : CSide) (at_ : List (Nat × Nat × Nat)) : CSide :=
  at_.foldl (fun (c : CSide) e => c.updSp e.1 fun p => { p with idx := e.2.1, slot := e.2.2 }) c

/-- The side after a step of control (06 R199-R202; 02 R69). -/
def CSide.follow (c : CSide) (k : Nat) (x : Ctl') : CSide :=
  match x with
  | .region idx => c.region idx
  | .arrive w => (CSide.settleAt (joinBit w) 16 k c).1
  | .start w =>
    match decodeHeader w with
    | .ok h => c.enter k h
    | .error _ => c
  | .alone => c.resume k

/-- The side with the leader's values of an item written, in the lanes in which the shadow has executed the instruction (08 R266,
R267). -/
def CSide.take (c : CSide) (k : Nat) (en : Mask) (ws : List (Nat × Mask × Lanes)) : CSide :=
  ws.foldl (fun (c : CSide) w =>
    let m := w.2.1 &&& en
    if 2000 ≤ w.1 then (if m = 0 then c else c.wc k (w.1 - 2000) (lane w.2.2 0))
    else if 1000 ≤ w.1 then c.wp (w.1 - 1000) m (mkMask fun l => lane w.2.2 l != 0)
    else c.wv w.1 m w.2.2) c

/-- The control fields of a C instruction. -/
def ctlOf (i : Instr) : Option Ctl := (cShape i).map (·.x)

/-- The lanes of a split in which an instruction is enabled. -/
def CSide.enabled (c : CSide) (k : Nat) (i : Instr) : Mask :=
  match c.sp k, ctlOf i with
  | some p, some x => p.act &&& guardMask c x
  | _, _ => 0

/-- The group as the shadow re-executes an instruction in it: its own side, the popped entries at hand, nothing in flight. -/
def Group.asShadow (g : Group) (c : CSide) (it : LogItem) : Group :=
  let c := (c.stand it.at_).updSp it.split fun p => { p with held := it.pops, cmp := false, owed := 0 }
  { g with cs := c, cf := [], q := Queues.empty, pend := [], mu := [], lane := [], unwaited := [], trap := none,
           session := none, shadow := none }

/-- The group after the shadow's re-execution of an instruction. -/
def shadowRun (s : State) (g : Group) (c : CSide) (it : LogItem) (i : Instr) : Group :=
  let h := g.asShadow c it
  let s' := { s with groups := [(g.who.gid, h)], eng := [], sessions := [],
                     cur := { gid := g.who.gid, split := it.split, mode := 1 } }
  match runC i s' with
  | .next t => (t.groups.get? g.who.gid).getD h
  | _ => h

/-- The group in which the shadow pushes what it takes from the leader, in its own lanes (08 R267). -/
def takesPush (g : Group) (k q : Nat) (en : Mask) (es : List VEntry) : Group :=
  es.foldl (fun (g : Group) e => g.pushC q k en (fun l => lane e.data l) 0) g

/-- The lanes in which two vectors differ. -/
def diffLanes (a b : Lanes) : Mask := mkMask fun l => lane a l != lane b l

/-- The entries that an instruction pushed to XQ, SDQ0 or SDQ1, or the values to the BQ, as entries. -/
def Group.pushes (g : Group) (q from_ : Nat) : List VEntry :=
  match q with
  | 0 => g.q.xq.drop from_
  | 1 => g.q.sdq0.drop from_
  | 2 => g.q.sdq1.drop from_
  | _ => (g.q.bq.drop from_).map fun e =>
    { data := splat e.val, mask := 0, fill := .filled, held := false, op := 0, need := [] }

/-- A mismatch of a push: the mask first, then the data (08 R254, R267). -/
def pushDiff (q : Nat) (en en' : Mask) (a b : List VEntry) : Option (Nat × Mask) :=
  let mk := if q = 3 then en ^^^ en' else (a.zip b).foldl (fun (m : Mask) e => m ||| (e.1.mask ^^^ e.2.mask)) 0
  let dt := (a.zip b).foldl (fun (m : Mask) e => m ||| diffLanes e.1.data e.2.data) 0
  let dt := if q = 3 ∧ dt ≠ 0 then mkMask fun l => lowLane en == some l else dt
  if mk ≠ 0 then some (2, mk) else if dt ≠ 0 then some (1, dt) else none

/-- The lanes in which two near-memory operations differ in address, data or operands. -/
def memDiff (a b : Option MemOp) : Mask :=
  match a, b with
  | some x, some y =>
    let places := mkMask fun l => (x.els.filter fun e => e.1 / 4 == l) != y.els.filter fun e => e.1 / 4 == l
    let in_ := mkMask fun l => x.els.any fun e => e.1 / 4 == l
    let data := match x.kind, y.kind with
      | .nearStore _ d, .nearStore _ d' => (d.zip d').foldl (fun (m : Mask) e => m ||| diffLanes e.1 e.2) 0
      | .nearAtom _ _ _ _ u v, .nearAtom _ _ _ _ u' v' => diffLanes u u' ||| diffLanes v v'
      | _, _ => 0
    places ||| (data &&& in_)
  | some x, none => mkMask fun l => x.els.any fun e => e.1 / 4 == l
  | none, some y => mkMask fun l => y.els.any fun e => e.1 / 4 == l
  | none, none => 0

/-- The mismatch of a compared instruction: the code of cause group 16 and the lanes (08 R254, R267). `l`, `l'` are the leader
before and after it, `c` the shadow's side before it and `h` the group after the shadow's run. -/
def mismatch (i : Instr) (k : Nat) (l l' : Group) (c : CSide) (h : Group) : Option (Nat × Nat × Mask) :=
  let en := l.cs.enabled k i
  let en' := c.enabled k i
  match i with
  | .brd .. | .kill .. => if en = en' then none else some (4, 0, en ^^^ en')
  | _ =>
    match (cShape i).bind (·.d) with
    | some (.queue n) =>
      let q := n.toNat
      let m := fun (e : Mask) => match i with
        | .push .. => (0 : Mask)
        | _ => e
      (pushDiff q (m en) (m en') (l'.pushes q (l.pushes q 0).length) (h.pushes q 0)).map fun x => (x.1, 6 + q, x.2)
    | _ =>
      let d := memDiff (l'.pend.drop l.pend.length).head? h.pend.head?
      if d = 0 then none else some (3, 0, d)

/-- The trap of a mismatch at the leader's instruction, with its Colophon event (08 R267; 14 R401); a trap that waits for entry
gives way to it. -/
def shadowTrap (s : State) (g : Group) (it : LogItem) (i : Instr) (code q : Nat) (m : Mask) : State :=
  let ln := (lowLane m).getD 0
  let c : Cause := Cause.mk' 16 code (ln + (if code ≤ 2 then 256 * q else 0)) 0 m
  let l := s.lau g
  let s := s.colophon 1 4 (quadOf g.who.core) l.qd.vf (natLe 4 (256 * code + 2 ^ 16 * ln) ++ l.tag ++ natLe 4 g.who.lin)
  let g := g.unpopAll it.pops
  let g := { g with cs := g.cs.updSp it.split fun p => { p with held := [], cmp := false } }
  let p := cPending g it.split ((encodeC i).getD 0) c
  match g.trap with
  | some t =>
    s.setG g.who.gid { g with trap := some { p with displaced := t.cause.grp % 32 + 256 * (t.cause.code % 256) } }
  | none => raise (s.setG g.who.gid g) g.who.gid p

/-- The group without the first item of its log, and with the shadow's side after it. -/
def Group.replayedTo (g : Group) (c : CSide) : Group :=
  { g with shadow := g.shadow.map fun x => { x with cs := c, log := x.log.drop 1 } }

/-- The shadow re-executes a compared instruction: with no mismatch the leader's is released (08 R267). -/
def replayCompared (s : State) (g : Group) (c : CSide) (it : LogItem) (i : Instr) : Out :=
  let at_ := c.stand it.at_
  match runC i { s with cur := { gid := g.who.gid, split := it.split, mode := 2 } } with
  | .next t =>
    let t := { t with cur := s.cur }
    match t.groups.get? g.who.gid with
    | none => .next t
    | some g' =>
      let waits := ((g'.cs.sp it.split).map (·.cmp)).getD false && g'.trap == g.trap && g'.sys.frame == g.sys.frame
      let h := match replayed i, (cShape i).bind (·.d) with
        | true, some (.queue q) =>
          takesPush (g.asShadow c it) it.split q.toNat (at_.enabled it.split i) (g'.pushes q.toNat (g.pushes q.toNat 0).length)
        | _, _ => shadowRun s g c it i
      if waits then .next s
      else
        match mismatch i it.split g g' at_ h with
        | some (code, q, m) => .next (shadowTrap s (g.replayedTo c) it i code q m)
        | none => .next (t.setG g.who.gid (g'.replayedTo h.cs))
  | e => e

/-- The lanes in which the shadow has executed the instruction whose results come with an item. -/
def Shadow.lanesOf (x : Shadow) (it : LogItem) : Mask := x.late.getD it.op allLanes

/-- The group whose shadow keeps the lanes of an operation's instruction until the operation has ended. -/
def Group.keepLate (g : Group) (f : Tbl Mask → Tbl Mask) : Group :=
  { g with shadow := g.shadow.map fun x => { x with late := (f x.late).filter fun e =>
      (g.pend.any fun o => o.id == e.1) || (g.lane.any fun o => o.id == e.1) || x.log.any fun it => it.op == e.1 } }

/-- The shadow takes an item that waits for no compare: a step of control, results that have come, or an instruction, which it
re-executes, or whose lanes alone are its own (08 R266, R267). -/
def Group.replay (g : Group) (x : Shadow) (it : LogItem) (run : Instr → CSide) : Group :=
  match it.ctl, it.instr with
  | some ct, _ => g.replayedTo ((x.cs.stand it.at_).follow it.split ct)
  | none, none => (g.replayedTo (x.cs.take it.split (x.lanesOf it) it.writes)).keepLate id
  | none, some i =>
    let en := (x.cs.stand it.at_).enabled it.split i
    if late i then (g.replayedTo x.cs).keepLate fun t => t.set it.op en
    else if replayed i then g.replayedTo (x.cs.take it.split en it.writes)
    else if inert i then g.replayedTo x.cs
    else g.replayedTo (run i)

/-- SHADOW_REPLAY: the shadow takes the next item of the leader's log, while its group receives issue (08 R266, R267; 11 R317). -/
def execShadowReplay (s : State) : Out :=
  match s.grp? with
  | none => .next s
  | some g =>
    match g.shadow.filter fun _ => s.issues g with
    | none => .next s
    | some x =>
      match x.log with
      | [] => .next s
      | it :: _ =>
        match it.instr.filter fun _ => it.cmp with
        | some i => replayCompared s g x.cs it i
        | none => .next (s.putG (g.replay x it fun i => (shadowRun s g x.cs it i).cs))

end Sys2Proof.Machine
end

