-- ==== Sys2Proof/Machine/Cycles.lean ====
section
/-! DEFINITION. Issue cycles: the clk in which a group's slot issues for it, which a launch's budget and completion record count
(11 R313, R314, R323; beats: 05 R155, 06 R178). -/

namespace Sys2Proof.Machine

/-- The beats that a C-stream instruction occupies (05 R155, 06 R178). -/
def beatsOf (i : Instr) : Nat :=
  match i with
  | .frcp .. | .frsq .. | .fexp2 .. | .flog2 .. | .fsin .. | .fcos .. => 6
  | .matchany .. | .matchlead .. | .matchall .. | .reduce .. | .scan .. => 6
  | .fdiv .. | .fsqrt .. => 12
  | .regroup c _ _ _ _ => 3 * (c.toNat + 1)
  | .brd .. | .jmp .. | .join _ | .endc _ | .callc .. | .retc _ | .kill _ | .nopc _ | .tfence _ | .bwait .. | .barvc ..
  | .ctrap .. | .pop .. | .push .. | .mxfeed .. => 1
  | i => if Instr.isEvent i then 0 else 3

/-- Whether the instruction of a turn has issued: its stream does not wait for it. -/
def Group.hasIssued (g : Group) (w : What) (split : Nat) : Bool :=
  match w with
  | .a => g.ablk.isNone
  | .c => (g.cs.sp split).all fun p => p.blk.isNone || p.blk == some .shadow
  | .ev _ => true

/-- The beats of the item that a SHADOW_REPLAY has taken from the log. -/
def replayBeats (g h : Group) : Nat :=
  match g.shadow, h.shadow with
  | some x, some y => if y.log.length < x.log.length then ((x.log.head?.bind (·.instr)).map beatsOf).getD 0 else 0
  | _, _ => 0

/-- The issue clk of a turn of a group: what it was before and what it is after. -/
def turnBeats (w : What) (i : Instr) (split : Nat) (g : Group) (h : Option Group) : Nat :=
  match w with
  | .a => if Instr.isEvent i || !(h.all fun h => h.hasIssued w split) then 0 else 1
  | .c => if !(h.all fun h => h.hasIssued w split) then 0 else beatsOf i
  | .ev .shadowReplay => (h.map fun h => replayBeats g h).getD 0
  | .ev _ => 0

/-- Count the clk of a turn once each: those that the group has not counted yet (11 R314); the first issue of a launch is kept (14 R362). -/
def State.countCycles (after before : State) (w : What) (i : Instr) : State :=
  match before.grp? with
  | none => after
  | some g =>
    let h := after.groups.get? before.cur.gid
    let n := turnBeats w i before.cur.split g h
    let c := before.tick / clkT
    if n = 0 then after
    else
      let after := after.updL g.who.lid fun l => { l with issued := l.issued.or (some before.tick) }
      if h.isSome then after.countClk before.cur.gid c n
      else after.updL g.who.lid fun l => { l with cycles := l.cycles + (c + n - max c g.upTo) }

/-- What a turn answers, its cycles counted. -/
def counted (before : State) (w : What) (i : Instr) (r : Out) : Out :=
  match r with
  | .next after => .next (after.countCycles before w i)
  | r => r

end Sys2Proof.Machine
end

