-- ==== Sys2Proof/Machine/AluA.lean ====
section
/-! DEFINITION. A-stream integer arithmetic (04 R117, R118; immediates by 02 R51). -/

namespace Sys2Proof.Machine

/-- An operation on two registers. -/
def aBin (i : Instr) (d a b : BitVec 6) (f : Word → Word → Word) : State → Out :=
  aWrite i d fun g => f (g.ra a.toNat) (g.ra b.toNat)

/-- An operation on one register. -/
def aUn (i : Instr) (d a : BitVec 6) (f : Word → Word) : State → Out := aWrite i d fun g => f (g.ra a.toNat)

/-- A quotient: a divisor of zero gives all ones. -/
def quot (x y : Word) (f : Word → Word → Word) : Word := if y = 0 then BitVec.allOnes 32 else f x y

/-- A remainder: a divisor of zero gives the dividend. -/
def remd (x y : Word) (f : Word → Word → Word) : Word := if y = 0 then x else f x y

/-- ADD: x + y. -/
def execAdd (d a b : BitVec 6) : State → Out :=
  aBin (.add d a b) d a b fun x y => x + y

/-- SUB: x - y. -/
def execSub (d a b : BitVec 6) : State → Out :=
  aBin (.sub d a b) d a b fun x y => x - y

/-- AND. -/
def execAnd (d a b : BitVec 6) : State → Out :=
  aBin (.and d a b) d a b fun x y => x &&& y

/-- OR. -/
def execOr (d a b : BitVec 6) : State → Out :=
  aBin (.or d a b) d a b fun x y => x ||| y

/-- XOR. -/
def execXor (d a b : BitVec 6) : State → Out :=
  aBin (.xor d a b) d a b fun x y => x ^^^ y

/-- ANDN: x AND NOT y. -/
def execAndn (d a b : BitVec 6) : State → Out :=
  aBin (.andn d a b) d a b fun x y => x &&& ~~~y

/-- SHL: by y[4:0]. -/
def execShlA (d a b : BitVec 6) : State → Out :=
  aBin (.shlA d a b) d a b fun x y => x <<< (y.toNat % 32)

/-- SHR: zeros shifted in. -/
def execShrA (d a b : BitVec 6) : State → Out :=
  aBin (.shrA d a b) d a b fun x y => x >>> (y.toNat % 32)

/-- SRA: copies of the sign shifted in. -/
def execSra (d a b : BitVec 6) : State → Out :=
  aBin (.sra d a b) d a b fun x y => x.sshiftRight (y.toNat % 32)

/-- ROT: rotate right. -/
def execRot (d a b : BitVec 6) : State → Out :=
  aBin (.rot d a b) d a b fun x y => x.rotateRight (y.toNat % 32)

/-- SLT: signed. -/
def execSlt (d a b : BitVec 6) : State → Out :=
  aBin (.slt d a b) d a b fun x y => boolWord (x.slt y)

/-- SLTU: unsigned. -/
def execSltu (d a b : BitVec 6) : State → Out :=
  aBin (.sltu d a b) d a b fun x y => boolWord (x.ult y)

/-- MIN: signed. -/
def execMin (d a b : BitVec 6) : State → Out :=
  aBin (.min d a b) d a b fun x y => mins x y

/-- MAX: signed. -/
def execMax (d a b : BitVec 6) : State → Out :=
  aBin (.max d a b) d a b fun x y => maxs x y

/-- MINU: unsigned. -/
def execMinu (d a b : BitVec 6) : State → Out :=
  aBin (.minu d a b) d a b fun x y => Sys2Proof.Machine.minu x y

/-- MAXU: unsigned. -/
def execMaxu (d a b : BitVec 6) : State → Out :=
  aBin (.maxu d a b) d a b fun x y => Sys2Proof.Machine.maxu x y

/-- MUL: low word of the product. -/
def execMul (d a b : BitVec 6) : State → Out :=
  aBin (.mul d a b) d a b fun x y => x * y

/-- MULH: high word of the signed product. -/
def execMulh (d a b : BitVec 6) : State → Out :=
  aBin (.mulh d a b) d a b fun x y => mulhs x y

/-- MULHU: high word of the unsigned product. -/
def execMulhu (d a b : BitVec 6) : State → Out :=
  aBin (.mulhu d a b) d a b fun x y => Sys2Proof.Machine.mulhu x y

/-- DIV: signed quotient towards zero. -/
def execDiv (d a b : BitVec 6) : State → Out :=
  aBin (.div d a b) d a b fun x y => quot x y BitVec.sdiv

/-- DIVU: unsigned quotient. -/
def execDivu (d a b : BitVec 6) : State → Out :=
  aBin (.divu d a b) d a b fun x y => quot x y BitVec.udiv

/-- REM: remainder with the sign of x. -/
def execRem (d a b : BitVec 6) : State → Out :=
  aBin (.rem d a b) d a b fun x y => remd x y BitVec.srem

/-- REMU: unsigned remainder. -/
def execRemu (d a b : BitVec 6) : State → Out :=
  aBin (.remu d a b) d a b fun x y => remd x y BitVec.umod

/-- CLZ. -/
def execClzA (d a : BitVec 6) : State → Out :=
  aUn (.clzA d a) d a fun x => BitVec.ofNat 32 (clz32 x)

/-- POPC. -/
def execPopcA (d a : BitVec 6) : State → Out :=
  aUn (.popcA d a) d a fun x => BitVec.ofNat 32 (popc32 x)

/-- BREV. -/
def execBrevA (d a : BitVec 6) : State → Out :=
  aUn (.brevA d a) d a fun x => brev32 x

/-- SEXTB. -/
def execSextb (d a : BitVec 6) : State → Out :=
  aUn (.sextb d a) d a fun x => sext32 (x.extractLsb' 0 8)

/-- SEXTH. -/
def execSexth (d a : BitVec 6) : State → Out :=
  aUn (.sexth d a) d a fun x => sext32 (x.extractLsb' 0 16)

/-- BFE (R118). -/
def execBfeA (d a b : BitVec 6) : State → Out :=
  aBin (.bfeA d a b) d a b bfe32

/-- BFI reads ad as its third source (R118). -/
def execBfiA (d a b : BitVec 6) : State → Out :=
  aWrite (.bfiA d a b) d fun g => bfi32 (g.ra d.toNat) (g.ra a.toNat) (g.ra b.toNat)

/-- ADDI. -/
def execAddi (d a : BitVec 6) (imm : BitVec 14) : State → Out :=
  aUn (.addi d a imm) d a fun x => x + sext32 imm

/-- ANDI: zero-extended. -/
def execAndi (d a : BitVec 6) (imm : BitVec 14) : State → Out :=
  aUn (.andi d a imm) d a fun x => x &&& zext32 imm

/-- ORI: zero-extended. -/
def execOri (d a : BitVec 6) (imm : BitVec 14) : State → Out :=
  aUn (.ori d a imm) d a fun x => x ||| zext32 imm

/-- XORI: zero-extended. -/
def execXori (d a : BitVec 6) (imm : BitVec 14) : State → Out :=
  aUn (.xori d a imm) d a fun x => x ^^^ zext32 imm

/-- SLTI. -/
def execSlti (d a : BitVec 6) (imm : BitVec 14) : State → Out :=
  aUn (.slti d a imm) d a fun x => boolWord (x.slt (sext32 imm))

/-- SLTIU: the extended value as unsigned. -/
def execSltiu (d a : BitVec 6) (imm : BitVec 14) : State → Out :=
  aUn (.sltiu d a imm) d a fun x => boolWord (x.ult (sext32 imm))

/-- MULI. -/
def execMuli (d a : BitVec 6) (imm : BitVec 14) : State → Out :=
  aUn (.muli d a imm) d a fun x => x * sext32 imm

/-- SHLI. -/
def execShli (d a : BitVec 6) (sh : BitVec 5) : State → Out :=
  aUn (.shli d a sh) d a fun x => x <<< sh.toNat

/-- SHRI. -/
def execShri (d a : BitVec 6) (sh : BitVec 5) : State → Out :=
  aUn (.shri d a sh) d a fun x => x >>> sh.toNat

/-- SRAI. -/
def execSrai (d a : BitVec 6) (sh : BitVec 5) : State → Out :=
  aUn (.srai d a sh) d a fun x => x.sshiftRight sh.toNat

/-- ROTI. -/
def execRoti (d a : BitVec 6) (sh : BitVec 5) : State → Out :=
  aUn (.roti d a sh) d a fun x => x.rotateRight sh.toNat

/-- LUI: imm20 << 12. -/
def execLui (d : BitVec 6) (imm : BitVec 20) : State → Out :=
  aWrite (.lui d imm) d fun _ => zext32 imm <<< 12

end Sys2Proof.Machine
end

