-- ==== Sys2Proof/Machine/BranchA.lean ====
section
/-! DEFINITION. A-stream branches and calls (04 R119, R120; targets by 02 R51). -/

namespace Sys2Proof.Machine

/-- The A-PC that a signed word offset names (02 R51). -/
def Group.target (g : Group) (off : Word) : Nat := (BitVec.ofNat 32 g.apc + off * 4).toNat

/-- A conditional branch: to the target when the comparison of two registers holds, else to the next word. -/
def aBranch (i : Instr) (a b : BitVec 6) (off : BitVec 14) (c : Word → Word → Bool) : State → Out :=
  aIssue i fun g s =>
    .done (s.putG (if c (g.ra a.toNat) (g.ra b.toNat) then { g with apc := g.target (sext32 off) } else g.adv))

/-- BEQ. -/
def execBeq (a b : BitVec 6) (off : BitVec 14) : State → Out :=
  aBranch (.beq a b off) a b off fun x y => x == y

/-- BNE. -/
def execBne (a b : BitVec 6) (off : BitVec 14) : State → Out :=
  aBranch (.bne a b off) a b off fun x y => x != y

/-- BLT: signed. -/
def execBlt (a b : BitVec 6) (off : BitVec 14) : State → Out :=
  aBranch (.blt a b off) a b off fun x y => x.slt y

/-- BGE: signed. -/
def execBge (a b : BitVec 6) (off : BitVec 14) : State → Out :=
  aBranch (.bge a b off) a b off fun x y => !(x.slt y)

/-- BLTU: unsigned. -/
def execBltu (a b : BitVec 6) (off : BitVec 14) : State → Out :=
  aBranch (.bltu a b off) a b off fun x y => x.ult y

/-- BGEU: unsigned. -/
def execBgeu (a b : BitVec 6) (off : BitVec 14) : State → Out :=
  aBranch (.bgeu a b off) a b off fun x y => !(x.ult y)

/-- DBNZ: the register less 1, and a branch while it is not zero; aa = 0 is illegal (WellFormed). -/
def execDbnz (a : BitVec 6) (off : BitVec 14) : State → Out :=
  aIssue (.dbnz a off) fun g s =>
    let x := g.ra a.toNat - 1
    let g' := g.wa a.toNat x
    .done (s.putG (if x = 0 then g'.adv else { g' with apc := g.target (sext32 off) }))

/-- JAL: the link, then the jump. -/
def execJal (d : BitVec 6) (imm : BitVec 20) : State → Out :=
  aIssue (.jal d imm) fun g s =>
    .done (s.putG { g.wa d.toNat (BitVec.ofNat 32 (g.apc + 4)) with apc := g.target (sext32 imm) })

/-- JALR: reads A[aa] before it writes ad; a target whose low bits are not zero is an alignment trap at the JALR (02 R59). -/
def execJalr (d a : BitVec 6) (imm : BitVec 14) : State → Out :=
  aIssue (.jalr d a imm) fun g s =>
    let t := g.ra a.toNat + sext32 imm
    if t.toNat % 4 ≠ 0 then .trap (Cause.mk' 6 2 (t.toNat + 2 * 2 ^ 32) ((s.pk g).abase + t.toNat)) s
    else .done (s.putG { g.wa d.toNat (BitVec.ofNat 32 (g.apc + 4)) with apc := t.toNat })

end Sys2Proof.Machine
end

