-- ==== Sys2Proof/Machine/Start.lean ====
section
/-! DEFINITION. A group as it starts (01 R11, R12, R15, R34-R38, R43, R44; 11 R310), and the placing of one instruction for
the machine's next step. -/

namespace Sys2Proof.Machine

/-- Special registers at group start: the handler of the queue, the save slot, everything else 0 (01 R34, R36, R38). -/
def Sys.start (pk : Packet) (qd : QDesc) (slotIx : Nat) : Sys :=
  { sticky := 0, gten := 0, timeHi := 0, timeH := 0, tframe := 0, tveca := BitVec.ofNat 32 qd.tveca,
    tvecc := BitVec.ofNat 32 qd.tvecc,
    save := BitVec.ofNat 32 ((qd.savebase + 65536 * qd.slot64 * slotIx) / 65536 % 2 ^ 31), tcg := 0, tdx0 := 0, tdx1 := 0,
    tdx2 := 0, priv := pk.priv, wroteTvec := false, frame := false, muAside := [], pendAside := [], qAside := Queues.empty, uwAside := [], asideId := 0 }

/-- The C side of a group at its start: registers 0, one split that owns the present lanes and waits for its first region
(01 R11, R15). -/
def CSide.start (present : Mask) (thread0 : Nat) (stuck : List (Nat × Nat × Nat × Bool)) : CSide :=
  { v := [], c := [], p := [], splits := [(0, Split.fresh 0 present .parkedEnd)], tags := [], present, exited := 0,
    threadId := mkLanes fun l => BitVec.ofNat 32 (thread0 + l), stuck }

/-- A group at its start, with the words of its argument block in A1 on (11 R310). -/
def Group.start (who : Ident) (pk : Packet) (qd : QDesc) (slotIx thread0 : Nat) (present : Mask) (args : List Word)
    (stuck shadowStuck : List (Nat × Nat × Nat × Bool)) : Group :=
  { who, a := (args.zipIdx.map fun e => (e.2 + 1, e.1)), apc := pk.aentry, stop := .run, ablk := none, asince := 0,
    cs := CSide.start present thread0 stuck, cf := [], b := [], t := [], q := Queues.empty,
    sys := Sys.start pk qd slotIx, pend := [], mu := [], lane := [], unwaited := [],
    shadow := if pk.shadow then some { cs := CSide.start present thread0 shadowStuck, log := [] } else none,
    trap := none, pushed := 0, ended := 0, cEnded := present == 0, slices := [], lastQ := 0,
    saved := false, saveReq := none, saving := false, commits := [], arrivals := [], arrived := none, fenced := none, due := [], freed := [], outer := [], session := none,
    regroup := none, upTo := 0 }

/-- The page on which the one instruction stands (physical), and the tables that map address 0 of a VF to it. -/
def placePage : Nat := 0x10000

/-- Page tables that give VF 0's first page to the placed instruction: root, second and third level, one leaf with every
permission and its A and D bits set (10 R290-R293). -/
def placeTables (s : State) : State :=
  let w := fun (s : State) (a v : Nat) => s.writeLoc { space := .dev, addr := a } 8 v
  let s := w (w (w s 0x4000 0x8001) 0x8000 0xC001) 0xC000 (placePage + 0x181F)
  s.setVf 0 { (s.vf 0) with troot := 0x4001 }

/-- The packet of the placed launch: sections at address 0, every register and queue declared, supervisor. -/
def placePacket : Packet :=
  { Packet.blank with threads := 96, gx := 1, gy := 1, gz := 1, w := 1, h := 1, team := 1, priv := true,
                      depths := [4, 4, 4, 4, 16, 4, 4, 4, 4, 8], bars := 16, laneB := 8, coreK := 4, cluK := 4 }

/-- A launch of one group placed in the machine, whose next turn runs an instruction of `n` bytes that hold `w`: the A-stream
at its first word, or the C-stream at the word after its clause header. -/
def placeInstr (s : State) (cside : Bool) (n w : Nat) : State :=
  let id := s.nextId
  let s := placeTables s
  let hdr : Nat := 255 * 2 ^ 88 + 1 * 2 ^ 68 + 1 * 2 ^ 63
  let s := if cside then
      (s.writeLoc { space := .dev, addr := placePage } 12 hdr).writeLoc { space := .dev, addr := placePage + 12 } n w
    else s.writeLoc { space := .dev, addr := placePage } n w
  let who : Ident := { gid := id, lid := id, cid := id, tid := id, groupIx := 0, teamPos := 0, clux := 0, cluy := 0,
                       cluz := 0, lin := 0, core := 0, slot := 0, res := 0, vbase := 0, start := s.tick, inst := 0, tx := 0,
                       ty := 0 }
  let g := Group.start who placePacket QDesc.blank 0 0 allLanes [] [] []
  let sp := { Split.fresh 1 allLanes .running with slot := 1, hdr := 0, cnt := 1, seta := 0, setb := 1 }
  let g := if cside then { g with cs := { g.cs with splits := [(0, sp)] }, pushed := 1 } else g
  { s with
    groups := s.groups.set id g,
    launches := s.launches.set id { Launch.blank with pk := placePacket, start := some s.tick, placedAll := true },
    clusters := s.clusters.set id { lid := id, lin := 0, origin := 0, mem := [] },
    teams := s.teams.set id { lid := id, cid := id, core := 0, pos := 0, mem := [], bars := [] },
    nextId := id + 1,
    agenda := { adv := 0, gid := id, split := 0, what := if cside then .c else .a } :: s.agenda }

end Sys2Proof.Machine
end

