-- ==== Sys2Proof/Machine/Sched.lean ====
section
/-! DEFINITION. Launches: queue descriptors and packets (11 R305, R310), refusal and admission (R311, R312), placement (R319),
completion records (R323, 14 R362) and kills (R322). -/

namespace Sys2Proof.Machine

/-! ## Queues and packets -/

/-- The bytes of queue `q`'s descriptor; none while the table is not present (11 R305, 15 R378). -/
def State.descBytes (s : State) (q : Nat) : Option (Nat × List Byte) :=
  let a := s.regs.qtbase.toNat / 2 ^ 12 % 2 ^ 40 * 2 ^ 12 + 128 * q
  if s.regs.qtbase.getLsbD 0 && decide (a + 128 ≤ usable) then some (a, s.dev.bytes a 128) else none

/-- A descriptor read, if it breaks no rule and is enabled (11 R305). -/
def parseDesc (d : List Byte) : Option QDesc :=
  let n := fun o k => numAt d o k
  let w := n 0x0C 4
  let ok := n 0 8 % 128 == 0 && decide (n 0 8 < 2 ^ 47) && decide (n 8 1 ≤ 12) && zerosAt d 9 3 &&
    decide (w < 2 ^ 19) && n 0x10 8 % 65536 == 0 && n 0x18 1 != 0 && decide (n 0x20 4 ≤ 8) && n 0x24 4 % 4 == 0 &&
    decide (n 0x28 4 < 2 ^ 22) && decide (n 0x2C 4 < 2) && zerosAt d 0x30 16 && zerosAt d 0x60 32
  if ok && w / 2 ^ 18 % 2 == 1 then
    some { ring := n 0 8, k := n 8 1, vf := w % 64, pf := w / 64 % 2 == 1, port := w / 128 % 2, part := w / 256 % 16,
           ceil := w / 4096 % 8, demote := w / 2 ^ 15 % 2 == 1, npok := w / 2 ^ 16 % 2 == 1, supok := w / 2 ^ 17 % 2 == 1,
           savebase := n 0x10 8, slot64 := n 0x18 1, saven := n 0x19 3, watchdog := n 0x1C 4,
           window := if n 0x20 4 = 0 then 8 else n 0x20 4, tveca := n 0x24 4, tvecc := n 0x28 4, hen := n 0x2C 4 == 1,
           thresh := (List.range 16).map fun i => n (0x40 + 2 * i) 2 }
  else none

/-- The descriptor of an enabled queue. -/
def State.desc? (s : State) (q : Nat) : Option QDesc := (s.descBytes q).bind fun d => parseDesc d.2

/-- A launch packet's fields (11 R310). -/
def parsePacket (d : List Byte) : Packet :=
  let n := fun o k => numAt d o k
  let b := n 0x4F 1
  let f := n 0x50 1
  let dv := n 0x68 8
  { abase := n 0 8, cbase := n 8 8, rtbase := n 0x10 8, argptr := n 0x18 8, crec := n 0x20 8, aentry := n 0x28 4,
    threads := n 0x2C 4, gx := n 0x30 2, gy := n 0x32 2, gz := n 0x34 2, w := n 0x36 1, h := n 0x37 1, team := n 0x38 1,
    aregs := n 0x39 1, vregs := 16 * n 0x3A 1, cregs := n 0x3B 1, depths := (List.range 10).map fun i => n (0x3C + i) 1,
    bars := n 0x46 2, laneB := n 0x48 2, coreK := n 0x4A 2, cluK := n 0x4C 2, argn := n 0x4E 1, prio := b % 8,
    progress := b / 8 % 4, priv := b / 32 % 2 == 1, shadow := f % 2 == 1, diverse := f / 2 % 2 == 1,
    stack := f / 4 % 2 == 1, nonpreempt := f / 8 % 2 == 1, after := f / 16 % 2 == 1, deadline := n 0x54 4,
    budget := n 0x58 6, memd := n 0x60 4, usertag := BitVec.ofNat 32 (n 0x64 4), surface := dv % 64,
    layer := dv / 64 % 8, buf := dv / 512 % 2, delay := dv / 4096 % 4096 }

/-- Groups of one instance's grid, started or not (11 R305). -/
def Packet.groups (p : Packet) : Nat := p.gx * p.gy * p.gz * p.w * p.h * p.team

/-- Vector queue entries of a group (01 R27). -/
def Packet.ventries (p : Packet) : Nat :=
  ([0, 1, 2, 3, 6, 7, 8].map fun q => p.depth q).sum

/-- The limits of 01 R26 and R27 on declared depths. -/
def depthsOk (p : Packet) : Bool :=
  let d := p.depth
  ([0, 1, 2, 3].all fun q => decide (d q ≤ 16)) && decide (d 0 + d 1 + d 2 + d 3 ≤ 32) && decide (d 4 ≤ 32) &&
    decide (1 ≤ d 5 ∧ d 5 ≤ 8) && ([6, 7, 8].all fun q => decide (d q ≤ 4)) && decide (d 9 ≤ 16) &&
    decide (p.ventries ≤ 44)

/-- Whether a packet's fields keep R310, R14, R27 and R78, and its save slot holds the image (11 R311 reason 1). DESIGN CHOICE: a misaligned
AENTRY breaks them (notes/assumptions/59.md). -/
def packetOk (d : List Byte) (p : Packet) (q : QDesc) : Bool :=
  let n := fun o k => numAt d o k
  let dv := n 0x68 8
  let regs := fun (r : Nat) => r == 16 || r == 32 || r == 48 || r == 64
  p.abase % 64 == 0 && p.cbase % 64 == 0 && p.rtbase % 64 == 0 && p.argptr % 4 == 0 && p.crec % 128 == 0 &&
    p.aentry % 4 == 0 && p.threads != 0 && p.gx != 0 && p.gy != 0 && p.gz != 0 && decide (1 ≤ p.w ∧ p.w ≤ 8) &&
    decide (1 ≤ p.h ∧ p.h ≤ 12) && decide (p.w * p.h ≤ 12) && decide (1 ≤ p.team ∧ p.team ≤ 48) && regs p.aregs &&
    regs p.cregs && decide (16 ≤ p.vregs ∧ p.vregs ≤ 512) && depthsOk p && decide (p.bars ≤ 1024) &&
    decide (p.laneB ≤ 64) && decide (p.coreK ≤ 512) && decide (p.cluK ≤ 128) && decide (p.argn ≤ 61) &&
    decide (p.progress ≤ 2) && decide (n 0x4F 1 < 64) && decide (n 0x50 4 < 32) && zerosAt d 0x5E 2 &&
    zerosAt d 0x70 16 && (if p.diverse then dv / 2 ^ 24 == 0 && dv / 1024 % 4 == 0 else dv == 0) &&
    decide (p.threads ≤ 96 * p.groups) && decide (spillOff p.vregs ≤ 65536 * q.slot64)

/-- Reason 1 for a DIVERSE launch: its delay, its layer, its clusters (14 R362). -/
def diverseOk (s : State) (p : Packet) : Bool :=
  !p.diverse ||
    (decide (250 ≤ p.delay) &&
      match s.layer? p.surface p.layer with
      | some l => l.en && l.ilvl != 0 && p.gx * p.gy * p.gz == l.tiles.1 * l.tiles.2
      | none => false)

/-! ## Partitions and windows -/

/-- Whether a partition is enabled. -/
def State.partOn (s : State) (p : Nat) : Bool := s.partW p 3 % 2 == 1

/-- Whether a quad is in service (14 R369). -/
def State.inService (s : State) (q : Nat) : Bool := (s.quads.getD q Quad.reset).st == 0

/-- Whether a quad takes new work: in service, from the clk after that in which it returned on (14 R368; 21 R400). -/
def State.takesWork (s : State) (q : Nat) : Bool :=
  s.inService q && (s.quads.getD q Quad.reset).back != some (s.tick / clkT)

/-- The quads that a launch instance may use: its partition's, taking work, and its own set of a DIVERSE launch (14 R362,
R368). -/
def State.quadsFor (s : State) (part : Nat) (diverse : Bool) (inst : Nat) : List Nat :=
  (List.range 24).filter fun q => s.partOn part && (s.partW part 0 / 2 ^ q) % 2 == 1 && s.takesWork q &&
    (!diverse || ((s.regs.safeset.getD inst 0).getLsbD q))

/-- Open ns of a partition before a time, less 20,000 ns for each window end before it. -/
def openBefore (sp : List (Nat × Nat)) (t : Nat) : Int :=
  let full := t / 1000000
  let r := t % 1000000
  let ns : Nat := (sp.map fun x => full * (x.2 - x.1) + (min r x.2 - x.1)).sum
  let ends : Nat := (sp.map fun x => if x.2 < t then (t - x.2 - 1) / 1000000 + 1 else 0).sum
  (ns : Int) - 20000 * (ends : Int)

/-- Open(a, b) of 11 R312. -/
def State.openNs (s : State) (p a b : Nat) : Int :=
  if b ≤ a then 0
  else
    let w := s.windows
    if w.isEmpty then ((b - a : Nat) : Int) else openBefore (openSpans w p) b - openBefore (openSpans w p) a

/-- The factor of the power cap, in quarters (15 R384). -/
def capQuarters (cap : Nat) : Nat := if cap = 1 then 3 else if cap = 2 then 2 else 4

/-- A deadline launch in the test of R312: partition, absolute deadline in ns, cycles and bytes left. -/
structure Demand where
  dl : Nat
  cyc : Nat
  mem : Nat
  deriving DecidableEq, Repr

/-- The demands of a partition's deadline launches: BUDGET and MEMD less what they have used (notes/assumptions/17.md). -/
def State.demands (s : State) (p : Nat) : List Demand :=
  (s.launches.filter fun e => e.2.dlLive && e.2.qd.part == p).map fun e =>
    let l := e.2
    { dl := l.due, cyc := l.pk.budget - l.cycles, mem := 4096 * l.pk.memd - l.traffic }

/-- The inequalities of R312 for the deadlines at or after `dmin`, from a start time: 0, or the refusal reason 4 or 5. -/
def State.fits (s : State) (p : Nat) (ds : List Demand) (t0 dmin cap : Nat) : Nat :=
  let q := (s.quadsFor p false 0).length
  let test := fun (d : Nat) =>
    let o := s.openNs p t0 d
    let js := ds.filter fun j => decide (j.dl ≤ d)
    let w : Int := ((js.map (·.cyc)).sum * 40960 : Nat)
    let m : Int := ((js.map (·.mem)).sum * 256 : Nat)
    if w > ((192 * q * (s.partW p 1 % 2048) * capQuarters cap : Nat) : Int) * o then 4
    else if m > ((972 * (s.partW p 1 / 65536 % 512) : Nat) : Int) * o then 5
    else 0
  let bad := ((ds.filter fun j => decide (dmin ≤ j.dl)).map fun j => test j.dl).filter fun r => r != 0
  if bad.contains 4 then 4 else bad.headD 0

/-- Λ of R312 in ns. -/
def lambdaNs : Nat := 20600

/-! ## Placement -/

/-- What a core has in use: store bytes, barriers, and registers, queue entries and residences of each slot (09 R270,
11 R319). -/
structure Usage where
  store : Nat
  bars : Nat
  slots : List (Nat × Nat × Nat)
  deriving DecidableEq, Repr

/-- Nothing in use. -/
def Usage.idle : Usage := { store := 0, bars := 0, slots := List.replicate 4 (0, 0, 0) }

/-- Registers that a group occupies (01 R15). -/
def Packet.vfile (p : Packet) : Nat := if p.shadow then 2 * p.vregs else p.vregs

/-- The groups of a team that start (01 R44). -/
def Packet.started (p : Packet) (c tm : Nat) : List Nat :=
  (List.range p.team).filter fun k => decide (96 * ((c * p.w * p.h + tm) * p.team + k) < p.threads)

/-- A core with one more team, where it fits. -/
def Usage.addTeam (u : Usage) (p : Packet) (gs : List Nat) : Option Usage :=
  let slots := (List.range 4).map fun i =>
    let k := (gs.filter fun g => g % 4 == i).length
    let x := u.slots.getD i (0, 0, 0)
    (x.1 + k * p.vfile, x.2.1 + k * p.ventries, x.2.2 + k)
  let r : Usage := { store := u.store + 1024 * (p.coreK + p.cluK) + 1536 * p.laneB * gs.length, bars := u.bars + p.bars, slots }
  if r.store ≤ 524288 ∧ r.bars ≤ 1024 ∧ slots.all fun x => decide (x.1 ≤ 512 ∧ x.2.1 ≤ 128 ∧ x.2.2 ≤ 12) then some r else none

/-- The cores of a rectangle, in TEAM order (01 R43). -/
def rectCores (o w h : Nat) : List Nat :=
  ((List.range h).map fun dy => (List.range w).map fun dx => o + 8 * dy + dx).flatten

/-- The origins at which a cluster may lie on a set of quads, lowest core id first (11 R319). -/
def origins (qs : List Nat) (w h : Nat) : List Nat :=
  (List.range 96).filter fun o =>
    !(w % 2 == 0 && h % 2 == 0 && (o % 8 % 2 != 0 || o / 8 % 2 != 0)) && decide (o % 8 + w ≤ 8) && decide (o / 8 + h ≤ 12) &&
      (rectCores o w h).all fun c => qs.contains (quadOf c)

/-- The usage table after a cluster's teams, where they all fit at an origin. -/
def tryOrigin (u : Tbl Usage) (p : Packet) (c o : Nat) : Option (Tbl Usage) :=
  (rectCores o p.w p.h).zipIdx.foldl (fun (acc : Option (Tbl Usage)) x =>
    acc.bind fun u => ((u.getD x.1 Usage.idle).addTeam p (p.started c x.2)).map fun y => u.set x.1 y) (some u)

/-- The lowest origin at which a cluster fits, with the usage then. -/
def findOrigin (u : Tbl Usage) (qs : List Nat) (p : Packet) (c : Nat) : Option (Nat × Tbl Usage) :=
  (origins qs p.w p.h).findSome? fun o => (tryOrigin u p c o).map fun v => (o, v)

/-- The clusters of a launch that have a group to start (01 R44). -/
def Packet.clusters (p : Packet) : List Nat :=
  (List.range (min (p.gx * p.gy * p.gz) ((p.threads + 96 * p.w * p.h * p.team - 1) / (96 * p.w * p.h * p.team)))).filter
    fun c => (List.range (p.w * p.h)).any fun tm => !(p.started c tm).isEmpty

/-- Origins of a list of clusters placed one after another; none where one of them does not fit. -/
def findAll (qs : List Nat) (p : Packet) : List Nat → Tbl Usage → List (Nat × Nat) → Option (List (Nat × Nat))
  | [], _, acc => some acc
  | c :: r, u, acc =>
    match findOrigin u qs p c with
    | some (o, u) => findAll qs p r u (acc ++ [(c, o)])
    | none => none

/-- Whether a launch instance could be placed on an idle quad set (11 R311 reason 3). -/
def State.idleFit (s : State) (q : QDesc) (p : Packet) (inst : Nat) : Bool :=
  let cs := if p.progress = 0 then p.clusters else p.clusters.take 1
  (findAll (s.quadsFor q.part p.diverse inst) p cs [] []).isSome

/-- What the groups, teams and clusters on the cores use now; pre-empted groups use nothing (11 R321). -/
def State.usage (s : State) : Tbl Usage :=
  let live := s.groups.filter fun e => !e.2.saved
  let teamLive := fun (t : Nat) => live.any fun e => e.2.who.tid == t
  let u : Tbl Usage := s.teams.foldl (fun (u : Tbl Usage) e =>
    if teamLive e.1 then
      let x := u.getD e.2.core Usage.idle
      let p := (s.launches.getD e.2.lid Launch.blank).pk
      u.set e.2.core { x with store := x.store + 1024 * p.coreK, bars := x.bars + p.bars }
    else u) []
  let u := s.clusters.foldl (fun (u : Tbl Usage) e =>
    if s.teams.any fun t => t.2.cid == e.1 && teamLive t.1 then
      let p := (s.launches.getD e.2.lid Launch.blank).pk
      (rectCores e.2.origin p.w p.h).foldl (fun (u : Tbl Usage) c =>
        let x := u.getD c Usage.idle
        u.set c { x with store := x.store + 1024 * p.cluK }) u
    else u) u
  live.foldl (fun (u : Tbl Usage) e =>
    let g := e.2
    let p := s.pk g
    let x := u.getD g.who.core Usage.idle
    let y := x.slots.getD g.who.slot (0, 0, 0)
    u.set g.who.core { x with store := x.store + 1536 * p.laneB,
                              slots := setAt x.slots g.who.slot (y.1 + p.vfile, y.2.1 + p.ventries, y.2.2 + 1) }) u

/-- Queue state of a queue that has none yet. -/
def QueueSt.new : QueueSt :=
  { t := 0, u := 0, slot := none, arrivals := [], serial := 0, live := false, pendSince := none, port := 0, starved := false }

/-- The state of a queue. -/
def State.qst (s : State) (q : Nat) : QueueSt := s.queues.getD q QueueSt.new

/-- Whether a launch of a Galley has groups that a pre-emption stops. -/
def State.stopped (s : State) (lid : Nat) : Bool := s.groups.any fun e => e.2.who.lid == lid && (e.2.saved || e.2.saveReq.isSome)

/-- Whether every group of a launch has ended. -/
def State.allEnded (s : State) (lid : Nat) : Bool :=
  (s.launches.get? lid).all fun l => l.placedAll && !(s.groups.any fun e => e.2.who.lid == lid)

/-- When an instance's first group issued; of one that has ended without an issue, its end (14 R362; notes/assumptions/20.md). -/
def State.issuedAt (s : State) (lid : Nat) : Option Nat :=
  let l := s.launches.getD lid Launch.blank
  l.issued.or (if s.allEnded lid then some l.endT else none)

/-- Whether an instance may start now (14 R362, R364): S the packet's delay after P's first group has issued, P not while its buffer is being
scanned out. -/
def State.mayStart (s : State) (l : Launch) : Bool :=
  !l.pk.diverse || l.start.isSome ||
    (if l.inst = 1 then
      match l.twin.bind s.issuedAt with
      | some t => decide (t + 1000 * l.pk.delay * nsT ≤ s.tick)
      | none => false
    else !s.scanning l.pk.surface l.pk.layer l.pk.buf)

/-- The clusters that a launch may place now, on quads of a list and cores in use as given, each with its origin: the next one, or all of
a concurrent launch; none where it may not place one or there is no room (11 R313, R319). -/
def State.placing (s : State) (lid : Nat) (l : Launch) (qs : List Nat) (u : Tbl Usage) : Option (List (Nat × Nat)) :=
  let here := (s.qst l.qno).slot.isSome || (l.batch.isSome && !s.stopped lid)
  if l.placedAll || l.killed || !here || !s.winOpen l.qd.part s.time || !s.mayStart l then none
  else
    let cs := l.pk.clusters.filter fun c => decide (l.nextC ≤ c)
    findAll qs l.pk (if l.pk.progress = 0 then cs else cs.take 1) u []

/-- The lowest free residence of a slot. -/
def State.freeRes (s : State) (core slot : Nat) : Nat :=
  ((List.range 12).find? fun r => !(s.groups.any fun e =>
    !e.2.saved && e.2.who.core == core && e.2.who.slot == slot && e.2.who.res == r)).getD 0

/-- The first physical register of a free run of a slot's file; register 0 where no run is free in one piece
(notes/assumptions/18.md). -/
def State.freeRegs (s : State) (core slot n : Nat) : Nat :=
  let used := (s.groups.filter fun e => !e.2.saved && e.2.who.core == core && e.2.who.slot == slot).map fun e =>
    (e.2.who.vbase, (s.pk e.2).vfile)
  let cands := sortBy (fun (a b : Nat) => decide (a ≤ b)) (0 :: used.map fun x => x.1 + x.2)
  (cands.find? fun a => decide (a + n ≤ 512) && used.all fun x => decide (a + n ≤ x.1) || decide (x.1 + x.2 ≤ a)).getD 0

/-- The stuck bits that a group at a register base meets: of the leader, or of the shadow, whose lanes lie 33 positions on
(08 R266; 14 R369). -/
def State.stuckOf (s : State) (core slot vbase n : Nat) (shadow : Bool) : List (Nat × Nat × Nat × Bool) :=
  s.rely.defects.filterMap fun d =>
    let spared := s.rely.spares.any fun x => x.core == d.core && x.slot == d.slot && x.row == d.row
    let r := d.row / 3
    let pos := 32 * (d.row % 3) + d.lane
    if d.core = core ∧ d.slot = slot ∧ !spared ∧ vbase ≤ r ∧ r < vbase + n then
      some (r - vbase, if shadow then (pos + 63) % 96 else pos, d.bit, d.val)
    else none

/-- Imposition tile of a cluster (14 R363). -/
def tileOf (inst nx ny c : Nat) : Nat × Nat :=
  if inst = 0 then (c % nx, c / nx) else (nx - 1 - c / ny, ny - 1 - c % ny)

/-- The argument words of a launch; a word that cannot be read is 0 (notes/assumptions/19.md). -/
def State.args (s : State) (l : Launch) : State × List Word :=
  match s.readVa l.qd.vf l.pk.priv l.pk.argptr (4 * l.pk.argn) with
  | (s, .ok b) => (s, (List.range l.pk.argn).map fun i => wordAt b (4 * i))
  | (s, .error _) => (s, List.replicate l.pk.argn 0)

/-- Start one group of a team (01 R11, R43, R44). -/
def startGroup (s : State) (lid cid tid core c tm k : Nat) : State :=
  match s.launches.get? lid with
  | none => s
  | some l =>
    let p := l.pk
    let lin := (c * p.w * p.h + tm) * p.team + k
    let slot := k % 4
    let vbase := s.freeRegs core slot p.vfile
    let tile := match s.layer? p.surface p.layer with
      | some y => tileOf l.inst y.tiles.1 y.tiles.2 c
      | none => (0, 0)
    let (gid, s) := s.newId
    let who : Ident :=
      { gid, lid, cid, tid, groupIx := k, teamPos := tm, clux := c % p.gx, cluy := c / p.gx % p.gy, cluz := c / p.gx / p.gy,
        lin, core, slot, res := s.freeRes core slot, vbase, start := s.tick, inst := l.inst,
        tx := if p.diverse then tile.1 else 0, ty := if p.diverse then tile.2 else 0 }
    let (s, args) := s.args l
    let present := mkMask fun ln => decide (96 * lin + ln < p.threads)
    let slotIx := lin + (if l.inst = 1 then p.groups else 0)
    let g := Group.start who p l.qd slotIx (96 * lin) present args (s.stuckOf core slot vbase p.vregs false)
      (s.stuckOf core slot (vbase + p.vregs) p.vregs true)
    let s := { s with groups := s.groups.set gid g }
    s.updL lid fun l => if l.start.isNone then { l with start := some s.tick } else l

/-- Place a cluster of a launch at an origin: its memory, its teams, and the groups that start (11 R319, 09 R271). -/
def placeCluster (s : State) (lid c o : Nat) : State :=
  match s.launches.get? lid with
  | none => s
  | some l =>
    let p := l.pk
    let (cid, s) := s.newId
    let s := { s with clusters := s.clusters.set cid { lid, lin := c, origin := o, mem := [] } }
    let s := (rectCores o p.w p.h).zipIdx.foldl (fun (s : State) x =>
      let gs := p.started c x.2
      if gs.isEmpty then s
      else
        let (tid, s) := s.newId
        let s := { s with teams := s.teams.set tid { lid, cid, core := x.1, pos := x.2, mem := [], bars := [] } }
        gs.foldl (fun (s : State) k => startGroup s lid cid tid x.1 c x.2 k) s) s
    s.updL lid fun l =>
      { l with nextC := c + 1, placedAll := !(p.clusters.any fun n => decide (c < n)) }

/-! ## Admission -/

/-- The refusal reason of a launch, 0 where it is accepted (11 R311, R312; 14 R362). The lowest number that applies is
written (notes/assumptions/20.md). DESIGN CHOICE: the cycles of R312 are scaled by the power cap in force, as R384 scales them for the test
of a PWRCAP write (notes/assumptions/20.md). -/
def State.refusal (s : State) (q : QDesc) (d : List Byte) (p : Packet) (arrival : Nat) : Nat :=
  let insts := if p.diverse then [0, 1] else [0]
  if !packetOk d p q || !diverseOk s p then 1
  else if (p.priv && !q.supok) || (p.nonpreempt && !q.npok) || decide (q.ceil < p.prio) ||
      (!q.pf && ((s.regs.sched.getD q.vf 0).toNat % 16) != q.part) then 2
  else if !(insts.all fun i => s.idleFit q p i) then 3
  else
    let me : Demand := { dl := arrival / nsT + p.deadline, cyc := p.budget, mem := 4096 * p.memd }
    let ds := s.demands q.part ++ insts.map fun _ => me
    let t0 := s.time + lambdaNs
    let r := if p.deadline = 0 then 0
      else
        let r := s.fits q.part ds t0 me.dl s.regs.pwrcap
        if r = 0 && p.diverse then s.fits q.part ds (t0 + 1000 * p.delay) me.dl s.regs.pwrcap else r
    if r ≠ 0 then r
    else if q.saven < p.groups * insts.length then 6 else 0

/-- The bytes of a completion record after its status word (11 R323). -/
def recordTail (l : Launch) (late start end_ cycles : Nat) (counters : List Nat) : List Byte :=
  natLe 4 late ++ natLe 4 l.errPc ++ natLe 4 l.errG ++ natLe 8 (l.arrival / nsT) ++ natLe 8 (start / nsT) ++
    natLe 8 (end_ / nsT) ++ natLe 8 cycles ++ wBytes l.pk.usertag ++ natLe 12 0 ++
    ((List.range 16).map fun i => natLe 4 (counters.getD i 0)).flatten

/-- Write a completion record, its status word last; one that cannot be written is lost (notes/assumptions/21.md). -/
def writeRecord (s : State) (l : Launch) (status : Nat) (tail : List Byte) : State :=
  if l.pk.crec = 0 then s
  else
    match s.writeVaBlk l.qd.vf true none (l.pk.crec + 4) tail with
    | (s, some _) => s
    | (s, none) => (s.writeVaBlk l.qd.vf true none l.pk.crec (natLe 4 (status + 256 * l.cgrp + 65536 * l.reason))).1

/-- The final status of a launch or instance. -/
def Launch.final (l : Launch) : Nat := if l.status = 0 then (if l.demoted then 6 else 1) else l.status

/-- The order of statuses from worst (14 R362). -/
def statusRank (st : Nat) : Nat := ([5, 4, 3, 2, 6, 1].idxOf? st).getD 6

/-- Records return to the pool of a VF (20 R393). -/
def State.giveBack (s : State) (v : Nat) (recs : List Nat) : State :=
  { s with galley := s.galley.upd v fun y => { y with used := y.used.filter fun u => !recs.contains u } }

/-- The records of a batch whose launch has completed or is refused return to their pool, and the rules of the Galley apply in this clk
(20 R393). -/
def State.batchBack (s : State) (v : Nat) (recs : List Nat) : State :=
  let s := s.giveBack v recs
  { s with galley := s.galley.upd v fun y => { y with due := true } }

/-- A launch read from a packet: refused, or accepted as one or two instances. DESIGN CHOICE: QSLOT of a Galley batch whose queue holds no
hardware slot reads 0 (01 R40; notes/assumptions/22.md). -/
def takePacket (s : State) (qno : Nat) (qd : QDesc) (d : List Byte) (arrival : Nat) (batch : Option (Nat × Nat × List Nat × Nat))
    (force : Nat) : State :=
  let p := parsePacket d
  let st := s.qst qno
  let reason := if force ≠ 0 then force else s.refusal qd d p arrival
  let base : Launch := { Launch.blank with pk := p, qd, qno, qslot := st.slot.getD 0, serial := st.serial, arrival, batch }
  let s := { s with queues := s.queues.set qno { st with serial := (st.serial + 1) % 65536 } }
  if reason ≠ 0 then
    let l := { base with status := 2, reason }
    let s := writeRecord s l 2 (recordTail { l with errPc := 0, errG := 0 } 0 0 0 0 [])
    let s := s.irqL l 0
    match batch with
    | none => s
    | some b => s.batchBack b.1 b.2.2.1
  else
    let (id, s) := s.newId
    if p.diverse then
      let (id2, s) := s.newId
      { s with launches := (s.launches.set id { base with twin := some id2 }).set id2 { base with twin := some id, inst := 1 } }
    else { s with launches := s.launches.set id base }

/-! ## Ending launches -/

/-- Clear EN of a queue in its descriptor (11 R322), where QTBASE says that it lies. DESIGN CHOICE: also while QTBASE.EN is 0, when the device
reads no descriptor (R305; notes/assumptions/20.md). -/
def State.clearEn (s : State) (q : Nat) : State :=
  let a := s.enAt q
  if a < usable then
    let b := s.readLoc { space := .dev, addr := a } 1
    let s := s.writeLoc { space := .dev, addr := a } 1 (b / 8 * 8 + b % 4)
    { s with queues := s.queues.upd q fun x => { x with live := false, t := 0, u := 0, arrivals := [], pendSince := none } }
  else s

/-- Kill a launch and its twin: its groups end without a save, its operations stop, EN of its queue is cleared, an event goes
to the owner's physical function (11 R322; 14 R401). -/
def killLaunch (s : State) (lid status : Nat) : State :=
  match s.launches.get? lid with
  | none => s
  | some l =>
    let ids := lid :: l.twin.toList
    let s := ids.foldl (fun (s : State) i =>
      let gs := (s.groups.filter fun e => e.2.who.lid == i).map (·.1)
      let s := s.updL i fun l => { l with status, killed := true, placedAll := true }
      gs.foldl (fun (s : State) k => s.endGroup k) s) s
    let s := s.clearEn l.qno
    let s := s.colophon 1 5 0xFF l.qd.vf (natLe 4 status ++ l.tag)
    s.irq (s.portOf l.qd) none 3

end Sys2Proof.Machine
end

