-- ==== Sys2Proof/Machine/GalleyA.lean ====
section
/-! DEFINITION. Work-graph records (04 R148; 11 R324, R325; 20 R392, R393): the REC forms of the A-stream, the grant of
records and the forming of batches. -/

namespace Sys2Proof.Machine

/-- The Galley of a VF before anything is written to its block. -/
def Galley.new : Galley :=
  { pool := 0, pooln := 0, nodetab := 0, used := [], handles := [], comm := [], waits := [], seq := 0, due := false }

/-- The Galley of a VF. -/
def State.gal (s : State) (v : Nat) : Galley := s.galley.getD v Galley.new

/-- Replace the Galley of a VF. -/
def State.setGal (s : State) (v : Nat) (y : Galley) : State := { s with galley := s.galley.set v y }

/-- Free records of a pool (15 R378 FREE). -/
def Galley.free (y : Galley) : Nat := y.pooln - (y.used.filter fun u => decide (u < y.pooln)).length

/-- The lowest run of `n` consecutive free records (20 R392). -/
def Galley.run (y : Galley) (n : Nat) : Option Nat :=
  (0 :: y.used.map (· + 1)).find? fun i =>
    decide (i + n ≤ y.pooln) && y.used.all fun u => decide (u < i) || decide (i + n ≤ u)

/-- A node's descriptor; nothing but zeros for a node beyond NODEN or a table that cannot be read (notes/assumptions/22.md). -/
def State.node (s : State) (v n : Nat) : State × List Byte :=
  if (s.regs.sched.getD v 0).toNat / 65536 ≤ n then (s, List.replicate 64 0)
  else
    match s.readVa v true ((s.gal v).nodetab + 64 * n) 64 with
    | (s, .ok d) => (s, d)
    | (s, .error _) => (s, List.replicate 64 0)

/-- Fields of a node descriptor (11 R324). -/
def nodeQid (d : List Byte) : Nat := numAt d 8 2

/-- BATCH; a descriptor that has ceased to be valid counts within 1 to 32. -/
def nodeBatch (d : List Byte) : Nat := max 1 (min 32 (numAt d 0x0A 1))

/-- TIMEOUT in ticks. -/
def nodeTimeout (d : List Byte) : Nat := nsT * numAt d 0x0C 4

/-- Whether a node's descriptor is valid (11 R324). -/
def State.nodeOk (s : State) (v : Nat) (d : List Byte) : Bool :=
  decide (1 ≤ numAt d 0x0A 1 ∧ numAt d 0x0A 1 ≤ 32) && zerosAt d 0x13 45 && decide (nodeQid d < 4096) &&
    match s.desc? (nodeQid d) with
    | some q => q.vf == v && !q.pf
    | none => false

/-- Group, code and detail of a failed work-graph check: the batch's depth (08 R254). -/
def State.recTrap (s : State) (g : Group) : Cause :=
  Cause.mk' 9 4 (256 * ((((s.lau g).batch).map fun b => b.2.2.2).getD 0 % 256))

/-- The checks of RALLOC (04 R148): count, node, depth of a self-recursive target. -/
def rallocOk (s : State) (g : Group) (v node cnt : Nat) (d : List Byte) : Bool :=
  decide (1 ≤ cnt ∧ cnt ≤ 32) && s.nodeOk v d &&
    !(numAt d 0x12 1 % 2 == 1 &&
      match (s.lau g).batch with
      | some b => b.2.1 == node && decide (numAt d 0x0B 1 ≤ b.2.2.2)
      | none => false)

/-- The handle that a RALLOC is granted, if it can be granted (20 R392). -/
def Galley.grant (y : Galley) (cnt reserve : Nat) : Option Nat :=
  if y.free < cnt + reserve then none else y.run cnt

/-- Reserve a run of records for a group. -/
def Galley.reserve (y : Galley) (gid node cnt h : Nat) : Galley :=
  { y with used := ((List.range cnt).map (h + ·)).foldl insertNat y.used,
           handles := y.handles ++ [{ idx := h, n := cnt, done := 0, gid, node, depth := 0 }] }

/-- RALLOC: its checks, then the grant at once or a wait in the order of the VF's waiting RALLOCs. -/
def execRalloc (d a b : BitVec 6) : State → Out :=
  aIssue (.ralloc d a b) fun g s =>
    if g.stop = .ralloc then .wait .barrier s
    else notWhileSaving g s fun _ =>
    match deliver s g true .none with
    | some s => .done s
    | none =>
      let v := (s.lau g).qd.vf
      let node := (g.ra a.toNat).toNat
      let cnt := (g.ra b.toNat).toNat
      let (s, ds) := s.node v node
      if !rallocOk s g v node cnt ds then .trap (s.recTrap g) s
      else
        let y := s.gal v
        match if y.waits.isEmpty then y.grant cnt (numAt ds 0x10 2) else none with
        | some h =>
          .done ((s.setGal v (y.reserve g.who.gid node cnt h)).putG ((g.wa d.toNat (BitVec.ofNat 32 h)).adv))
        | none =>
          let w : RWait := { gid := g.who.gid, d := d.toNat, node, cnt }
          .wait .barrier ((s.setGal v { y with waits := y.waits ++ [w] }).putG { g with stop := .ralloc })

/-- The live handle of a group that a register names. -/
def Galley.handle? (y : Galley) (gid h : Nat) : Option Handle := y.handles.find? fun x => x.gid == gid && x.idx == h

/-- What a node offers at a time: (time of its oldest record, records held, descriptor). -/
structure Offer where
  node : Nat
  time : Nat
  held : Nat
  desc : List Byte
  deriving DecidableEq, Repr

/-- Whether a node's launches wait: while HOT is set, no best-effort launch is admitted (15 R384). -/
def State.nodeWaits (s : State) (v : Nat) (d : List Byte) : State × Bool :=
  if s.regs.hot then
    match s.readVa v true (numAt d 0 8) 128 with
    | (s, .ok b) => (s, (parsePacket b).deadline == 0)
    | (s, .error _) => (s, false)
  else (s, false)

/-- The offers of a VF's nodes. -/
def State.offers (s : State) (v : Nat) : State × List Offer :=
  let ns := sortBy (fun (a b : Nat) => decide (a ≤ b)) (dedup ((s.gal v).comm.map (·.node)))
  ns.foldl (fun (x : State × List Offer) n =>
    let r := x.1.node v n
    let w := r.1.nodeWaits v r.2
    let cs := (s.gal v).comm.filter fun c => c.node == n
    (w.1, if w.2 then x.2
          else x.2 ++ [{ node := n, time := (cs.map (·.time)).headD 0, held := cs.length, desc := r.2 }])) (s, [])

/-- The node and the number of records of the next batch (11 R325): the oldest that has waited TIMEOUT by a time, else the
fullest that holds BATCH. -/
def pickBatch (os : List Offer) (lim : Nat) : Option (Offer × Nat) :=
  let late := os.filter fun o => decide (o.time + nodeTimeout o.desc ≤ lim)
  let full := os.filter fun o => decide (nodeBatch o.desc ≤ o.held)
  match sortBy (fun (a b : Offer) => decide (a.time ≤ b.time)) late, sortBy (fun (a b : Offer) => decide (b.held ≤ a.held)) full with
  | o :: _, _ => some (o, min (nodeBatch o.desc) o.held)
  | [], o :: _ => some (o, nodeBatch o.desc)
  | [], [] => none

/-- Launch one batch at a time: the template is admitted through the node's queue; a node or queue that is no longer valid is refused
with reason 2. -/
def launchBatch (s : State) (v now : Nat) (o : Offer) (n : Nat) : State :=
  let y := s.gal v
  let take := (y.comm.filter fun c => c.node == o.node).take n
  let recs := take.map (·.idx)
  let depth := (take.map (·.depth)).foldl max 0
  let s := s.setGal v { y with comm := y.comm.filter fun c => !(take.any fun t => t.seq == c.seq) }
  let ok := s.nodeOk v o.desc
  let qd := (s.desc? (nodeQid o.desc)).getD { QDesc.blank with vf := v }
  match s.readVa v true (numAt o.desc 0 8) 128 with
  | (s, .ok d) => takePacket s (nodeQid o.desc) qd d now (some (v, o.node, recs, depth)) (if ok then 0 else 2)
  | (s, .error _) =>
    takePacket s (nodeQid o.desc) qd (List.replicate 128 0) now (some (v, o.node, recs, depth)) (if ok then 1 else 2)

/-- Apply R325 again and again until no rule applies, to the waits of up to a time (20 R393). -/
def formBatches (v now lim : Nat) : Nat → State → State
  | 0, s => s
  | n + 1, s =>
    let r := s.offers v
    match pickBatch r.2 lim with
    | some (o, k) => formBatches v now lim n (launchBatch r.1 v now o k)
    | none => r.1

/-- The last tick of the clk of a time. -/
def clkEnd (t : Nat) : Nat := t / clkT * clkT + clkT - 1

/-- Apply the rules of R325 in the clk of a time, once everything of that clk has been counted; a batch is decided at that time. -/
def State.galleyClk (s : State) (v t : Nat) : State :=
  let r := formBatches v t (clkEnd t) (s.gal v).comm.length { s with tick := max s.tick t }
  { r.setGal v { r.gal v with due := false } with tick := s.tick }

/-- The earliest time at which a record of a VF has waited TIMEOUT. -/
def State.galleyTime (s : State) (v : Nat) : State × Option Nat :=
  let r := s.offers v
  (r.1, (r.2.map fun o => o.time + nodeTimeout o.desc).foldl (fun (x : Option Nat) t => some (min (x.getD t) t)) none)

/-- The VF whose record's wait reaches TIMEOUT first, and when. -/
def State.galleyNext (s : State) : State × Option (Nat × Nat) :=
  s.galley.keys.foldl (fun (x : State × Option (Nat × Nat)) v =>
    if (x.1.gal v).comm.isEmpty then x
    else
      let r := x.1.galleyTime v
      (r.1, match x.2, r.2 with
        | some e, some t => if t < e.2 then some (v, t) else some e
        | none, some t => some (v, t)
        | e, none => e)) (s, none)

/-- Apply the rules at every time-out before a clk, in order. -/
def State.galleyTimes (until_ : Nat) : Nat → State → State
  | 0, s => s
  | n + 1, s =>
    match s.galleyNext with
    | (s, some (v, t)) => if max s.tick t < until_ then (s.galleyClk v (max s.tick t)).galleyTimes until_ n else s
    | (s, none) => s

/-- What the Galleys do before time passes into a later clk: the commits, completions and time-outs of a clk are counted before the rules
are applied in it (20 R393). -/
def State.galleyTo (s : State) (adv : Nat) : State :=
  let next := (s.tick + adv) / clkT * clkT
  if next ≤ s.tick then s
  else
    let s := s.galley.keys.foldl (fun (s : State) v => if (s.gal v).due then s.galleyClk v s.tick else s) s
    s.galleyTimes next ((s.galley.map fun e => e.2.comm.length).sum + 1)

/-- The depth of a record committed by a group to a node (11 R324). -/
def State.recDepth (s : State) (g : Group) (node : Nat) : Nat :=
  match (s.lau g).batch with
  | some b => if b.2.1 = node then b.2.2.2 + 1 else 0
  | none => 0

/-- Take `n` records of a handle to be published; the handle dies with its last one. -/
def Galley.take (y : Galley) (h : Handle) (n : Nat) : Galley :=
  let h' := { h with done := h.done + n }
  { y with handles := if h'.done = h.n then y.handles.erase h else y.handles.map fun x => if x = h then h' else x }

/-- RCOMMIT: publishes records with release at dev, once the operations before it are performed. -/
def execRcommit (a b : BitVec 6) : State → Out :=
  aIssue (.rcommit a b) fun g s =>
    notWhileSaving g s fun _ =>
      let v := (s.lau g).qd.vf
      let n := (g.ra b.toNat).toNat
      match (s.gal v).handle? g.who.gid (g.ra a.toNat).toNat with
      | none => .trap (s.recTrap g) s
      | some h =>
        if h.n < h.done + n then .trap (s.recTrap g) s
        else if n = 0 then .done (s.putG g.adv)
        else
          let c : Commit := { vf := v, recs := (List.range n).map fun i => h.idx + h.done + i, node := h.node,
                              depth := s.recDepth g h.node, need := g.aPend }
          .done (((s.setGal v ((s.gal v).take h n)).putG { g.adv with commits := g.commits ++ [c] }).arriveReady g.who.gid)

/-- RDONE: the unpublished rest of a handle returns to the pool, and the handle dies. -/
def execRdone (a : BitVec 6) : State → Out :=
  aIssue (.rdone a) fun g s =>
    notWhileSaving g s fun _ =>
      let v := (s.lau g).qd.vf
      let y := s.gal v
      match y.handle? g.who.gid (g.ra a.toNat).toNat with
      | none => .trap (s.recTrap g) s
      | some h =>
        let rest := (List.range (h.n - h.done)).map fun i => h.idx + h.done + i
        .done (((s.setGal v { y with handles := y.handles.erase h }).giveBack v rest).putG g.adv)

/-- RINPUT: the pool index of a record of the group's batch. -/
def execRinput (d a : BitVec 6) : State → Out :=
  aIssue (.rinput d a) fun g s =>
    notWhileSaving g s fun _ =>
    let x : Word := match (s.lau g).batch with
      | some b => ((b.2.2.1)[(g.ra a.toNat).toNat]?.map fun r => BitVec.ofNat 32 r).getD 0xFFFFFFFF
      | none => 0xFFFFFFFF
    .done (s.putG ((g.wa d.toNat x).adv))

/-- RDEPTH: the depth of the batch and the number of its records. -/
def execRdepth (d : BitVec 6) : State → Out :=
  aIssue (.rdepth d) fun g s =>
    notWhileSaving g s fun _ =>
    let x : Word := match (s.lau g).batch with
      | some b => BitVec.ofNat 32 (b.2.2.2 % 256 + 256 * (b.2.2.1.length % 64))
      | none => 0
    .done (s.putG ((g.wa d.toNat x).adv))

/-- The first waiting RALLOC of a VF is granted once it can be (20 R392). -/
def execRallocGrant (v : Nat) (s : State) : Out :=
  match (s.gal v).waits with
  | [] => .next s
  | w :: r =>
    let (s, ds) := s.node v w.node
    let y := s.gal v
    match y.grant w.cnt (numAt ds 0x10 2), s.groups.get? w.gid with
    | some h, some g =>
      let s := s.setGal v ({ y with waits := r }.reserve w.gid w.node w.cnt h)
      .next (s.setG w.gid { (g.wa w.d (BitVec.ofNat 32 h)).adv with stop := .run, ablk := none })
    | _, _ => .next s

/-- A record's wait reaches TIMEOUT: the rules are applied in that clk, once its commits have been counted (20 R393). -/
def execGalleyTimeout (v : Nat) (s : State) : Out :=
  match s.galleyTime v with
  | (s, some t) => .next (if t ≤ clkEnd s.tick then s.setGal v { s.gal v with due := true } else s)
  | (s, none) => .next s

end Sys2Proof.Machine
end

