-- ==== Sys2Proof/Machine/Preempt.lean ====
section
/-! DEFINITION. Pre-emption: requests, saves and restores of groups (08 R263-R265; 11 R317, R321; 12 R340, R341; 21 R398). -/

namespace Sys2Proof.Machine

/-! ## Requests -/

/-- Ask for the save of every group that a test names and that has not been asked (08 R263). -/
def State.requestSave (s : State) (f : Group → Bool) : State :=
  { s with groups := s.groups.mapV fun _ g =>
      if g.saveReq.isNone && !g.saved && g.stop != .gone && f g then { g with saveReq := some s.tick } else g }

/-- Whether a group may be pre-empted: a NONPREEMPT launch only by quarantine (11 R321), a concurrent one as a whole (R320). -/
def State.preemptible (s : State) (g : Group) : Bool :=
  !(s.pk g).nonpreempt || !s.inService (quadOf g.who.core) ||
    ((s.pk g).progress == 0 && s.groups.any fun e => e.2.who.lid == g.who.lid && !s.inService (quadOf e.2.who.core))

/-- The groups that the pre-emption of a quad stops: those on it, and with a concurrent launch all of its groups (11 R320,
R321). -/
def State.onQuad (s : State) (quad : Nat) (g : Group) : Bool :=
  quadOf g.who.core == quad ||
    ((s.pk g).progress == 0 && s.groups.any fun e => e.2.who.lid == g.who.lid && quadOf e.2.who.core == quad)

/-- A pre-emption request goes to a quad (11 R321; 21 R398). -/
def State.askQuad (s : State) (quad : Nat) : State :=
  let q := s.quads.getD quad Quad.reset
  let s := { s with quads := setAt s.quads quad { q with preempt := some s.tick, ready := none } }
  s.requestSave fun g => s.onQuad quad g && s.preemptible g

/-- The quads of a launch. -/
def State.launchQuads (s : State) (l : Launch) : List Nat := s.quadsFor l.qd.part l.pk.diverse l.inst

/-- Whether a deadline launch waits for a quad's room and would have it once the groups there that may be pre-empted are saved. -/
def State.waitsForRoom (s : State) (quad : Nat) : Bool :=
  let freed := ({ s with groups := s.groups.mapV fun _ g => if s.preemptible g then { g with saved := true } else g } : State).usage
  s.launches.any fun e => e.2.dlLive && (s.launchQuads e.2).contains quad &&
    (s.placing e.1 e.2 (s.launchQuads e.2) s.usage).isNone && (s.placing e.1 e.2 (s.launchQuads e.2) freed).isSome

/-- Whether a quad's pre-emption is called for: it is quarantined, or a deadline launch of a partition that has it waits for the room
of groups that stand on it (11 R313, R321; 14 R368). -/
def State.wantsQuad (s : State) (quad : Nat) : Bool :=
  !s.inService quad ||
    ((s.groups.any fun e => s.onQuad quad e.2 && s.preemptible e.2 && !e.2.saved && e.2.stop != .gone) && s.waitsForRoom quad)

/-- QUAD_PREEMPT (11 R321): a pre-emption request for a quad. -/
def execQuadPreempt (quad : Nat) (s : State) : Out :=
  let q := s.quads.getD quad Quad.reset
  if q.preempt.isSome || q.ready.isSome || !s.wantsQuad quad then .next s else .next (s.askQuad quad)

/-! ## Saving -/

/-- A reconvergence point: one split, an empty stack, about to start a clause or parked at its end; a group asleep in YIELDC is
at one, and so is one without a C-stream (08 R263; 04 R142). -/
def Group.atPoint (g : Group) : Bool :=
  let sleeping := match g.stop with
    | .sleep .. => true
    | _ => false
  sleeping || match g.cs.splits with
    | [] => true
    | [(_, p)] => p.stack.isEmpty && !p.cmp && ((p.st == .running && p.slot == 0) || p.st == .parkedEnd)
    | _ => false

/-- Whether the group's part in a session lets it be saved: the session's step has ended, or stands at a fault (12 R340;
notes/assumptions/49.md). -/
def State.sessionQuiet (s : State) (g : Group) : Bool :=
  match g.session with
  | none => true
  | some (k, _) => (s.sessions.get? k).all fun ss => !(ss.passes.any fun p => p.inStep && p.fault.isNone)

/-- The session of a group is saved with its first participant, and its record again with the others (12 R340). -/
def State.saveItsSession (s : State) (g : Group) : State :=
  match g.session with
  | none => s
  | some (k, _) => saveSession s k

/-- Whether a tile store of a group has still to complete before a save: one that can run now (11 R321). -/
def State.tileLeft (s : State) (g : Group) : Bool :=
  s.eng.any fun o => o.gid == g.who.gid && o.fault.isNone && g.engReady o.need && s.engTurn o.id (o.lines.map (·.1)) &&
    match o.kind with
    | .tstore .. => true
    | _ => false

/-- A group's copies and coverage replay their chunk or segment from its beginning once they are restored (11 R321). -/
def State.engToUnit (s : State) (gid : Nat) : State :=
  { s with eng := s.eng.map fun o => if o.gid = gid then { o with got := [] } else o }

/-- Save a group whose streams have stopped and whose operations have ended (08 R264): its image is written and it is resident no
more. An image that cannot be written ends the group as a double trap does (notes/assumptions/36.md). -/
def saveGroup (s : State) (gid : Nat) : State :=
  match s.groups.get? gid with
  | none => s
  | some g =>
    let s := (s.unwait gid).saveItsSession g
    match s.groups.get? gid with
    | none => s
    | some g =>
      let g := g.settle
      let g := { g.detachLanes with ablk := none }
      match writeImage s g with
      | (s, none) =>
        let stop := match g.stop with
          | .token i => AStop.token i
          | .halt => .halt
          | _ => .run
        (s.engToUnit gid).setG gid { g with saved := true, saving := false, saveReq := none, stop }
      | (s, some e) =>
        doubleTrap (s.setG gid g) gid { aPending g .nop (e.cause' 3 1 0) with word := 0 }

/-- Whether a traversal that has not ended stands at the end of a node visit (11 R321). -/
def LaneOp.atVisit (o : LaneOp) : Bool :=
  match o.instr with
  | .trace .. => o.resume
  | .tresume .. => o.resume
  | _ => false

/-- Whether a group whose streams have stopped can be saved now: an operation of the memory unit that has its entries is performed
first (08 R264), its tile stores are complete, and a traversal stands at the end of a node visit (11 R321). -/
def State.canSave (s : State) (g : Group) : Bool :=
  !s.tileLeft g &&
  ({ g with lane := g.lane.filter fun o => !o.atVisit } : Group).drained && g.trap.isNone && s.sessionQuiet g &&
    (g.pend.all fun o => !o.reads || (s.stands g).contains o.id) && g.mu.all fun o => (s.stands g).contains o.id

/-- GROUP_SAVE (08 R263, R264): at a reconvergence point both streams stop; once the group's operations have ended its image is
saved. -/
def execGroupSave (s : State) : Out :=
  match s.grp? with
  | none => .next s
  | some g =>
    if g.saved || g.saveReq.isNone || g.stop == .gone || g.trap.isSome then .next s
    else if g.saving || g.atPoint then
      let g' := { g with saving := true }
      if s.canSave g' then .next (saveGroup (s.putG g') g.who.gid) else .next (s.putG g')
    else .next s

/-- FORCED_FULL_SAVE (08 R263): the queue's window has passed; every split stops at its next instruction boundary. -/
def execForcedFullSave (s : State) : Out :=
  match s.grp? with
  | none => .next s
  | some g =>
    match g.saveReq with
    | none => .next s
    | some t =>
      if g.saved || g.saving || g.stop == .gone || g.trap.isSome then .next s
      else if t + 1000 * (s.lau g).qd.window * nsT ≤ s.tick then
        let g' := { g with saving := true }
        if s.canSave g' then .next (saveGroup (s.putG g') g.who.gid) else .next (s.putG g')
      else .next s

/-- PREEMPT_COMPLETE (11 R321): every agent of the quad has stopped and saved. -/
def execPreemptComplete (quad : Nat) (s : State) : Out :=
  let q := s.quads.getD quad Quad.reset
  let clear := s.groups.all fun e =>
    !(s.onQuad quad e.2 && s.preemptible e.2) || e.2.saved || e.2.stop == .gone
  let quiet := (s.sessionsOf quad).all fun e => (s.launches.getD e.2.lid Launch.blank).pk.nonpreempt && s.inService quad
  if q.preempt.isSome && clear && quiet then
    let q := { q with preempt := none, ready := if s.inService quad then none else some s.tick }
    .next { s with quads := setAt s.quads quad q }
  else .next s

/-! ## Restoring -/

/-- Whether a usage table stays within what a core has (09 R270; 11 R319). -/
def Usage.fits (u : Usage) : Bool :=
  decide (u.store ≤ 524288) && decide (u.bars ≤ 1024) &&
    u.slots.all fun x => decide (x.1 ≤ 512 ∧ x.2.1 ≤ 128 ∧ x.2.2 ≤ 12)

/-- Whether every quad of a list of cores may take the group's work (14 R368; 21 R398); room that a deadline launch may be placed in
now is left to it (11 R313, R320). -/
def State.openCores (s : State) (l : Launch) (cs : List Nat) : Bool :=
  let first := fun (q : Nat) => !l.dlLive && s.launches.any fun e =>
    e.2.dlLive && (s.launchQuads e.2).contains q && (s.placing e.1 e.2 (s.launchQuads e.2) s.usage).isSome
  cs.all fun c => (s.launchQuads l).contains (quadOf c) && (s.quads.getD (quadOf c) Quad.reset).preempt.isNone &&
    !first (quadOf c)

/-- Groups go on at another core: it starts without stale lines, so that they do not go back in coherence order (09 R276, R281, R284;
notes/assumptions/66.md). -/
def State.carry (s : State) (old new : Nat) : State := if old = new then s else s.dropL1 new

/-- The machine with a cluster moved to another origin: its teams and its saved groups. -/
def State.moveCluster (s : State) (cid o : Nat) : State :=
  match s.clusters.get? cid with
  | none => s
  | some c =>
    let p := (s.launches.getD c.lid Launch.blank).pk
    let core := fun (pos : Nat) => (rectCores o p.w p.h).getD pos o
    let s := (rectCores c.origin p.w p.h).zipIdx.foldl (fun (s : State) x => s.carry x.1 (core x.2)) s
    { s with clusters := s.clusters.set cid { c with origin := o },
             teams := s.teams.mapV fun _ t => if t.cid = cid then { t with core := core t.pos } else t,
             groups := s.groups.mapV fun _ g =>
               if g.who.cid = cid then { g with who := { g.who with core := core g.who.teamPos } } else g }

/-- The machine with room for a saved group: where its cluster stands, or, when all of the cluster is saved, at the lowest origin
that fits and keeps its sessions on quads (11 R319, R321; 12 R341). -/
def makePlace (s : State) (g : Group) : Option State :=
  let gid := g.who.gid
  let l := s.lau g
  let ok := fun (s : State) =>
    match s.groups.get? gid with
    | none => false
    | some h =>
      let s' := s.setG gid { h with saved := false }
      let entry := match h.session with
        | some (k, _) => (s.reEntry k (quadOf h.who.core)).isSome
        | none => true
      s.openCores l [h.who.core] && entry && s'.usage.all fun e => e.2.fits
  if ok s then some s
  else
    let mine := s.groups.filter fun e => e.2.who.cid == g.who.cid && e.2.stop != .gone
    if !(mine.all fun e => e.2.saved) then none
    else
      let o0 := ((s.clusters.get? g.who.cid).map (·.origin)).getD 0
      let bound := mine.any fun e => e.2.session.isSome
      let cands := (origins (s.quadsFor l.qd.part l.pk.diverse l.inst) l.pk.w l.pk.h).filter fun o =>
        !bound || (o % 2 == o0 % 2 && o / 8 % 2 == o0 / 8 % 2)
      (cands.map fun o => s.moveCluster g.who.cid o).find? ok

/-- The group that a restore makes of its image: every held operation is reissued, the entry of a load that the A-stream reissues
is gone (08 R265). -/
def Group.reissued (h : Group) : Group :=
  let h := h.mu.foldl (fun (g : Group) o => if o.held.isSome then g.takeUp o else g) h
  { h with q.ldq := h.q.ldq.map fun q => q.filter fun (e : VEntry) => match e.fill with
      | .token _ => false
      | _ => true }

/-- A session comes back once none of its participants is saved (12 R341). -/
def State.restoreItsSession (s : State) (g : Group) : State :=
  match g.session with
  | none => s
  | some (k, _) =>
    match s.sessions.get? k with
    | none => s
    | some ss =>
      let back := ss.parts.all fun p => p.left || (s.groups.get? p.gid).all fun h => !h.saved
      if !ss.saved then s
      else
        let s := (s.reEntry k (quadOf g.who.core)).getD s
        if back then restoreSession s k else s

/-- Restore a saved group (08 R265, R268): its image is read back, operations with tokens and held ones are reissued, its streams
resume. An image that cannot be read ends it as a double trap does (notes/assumptions/36.md). -/
def restoreGroup (s : State) (gid : Nat) : State :=
  match s.groups.get? gid with
  | none => s
  | some g =>
    match readImage s { g with sys := { g.sys with muAside := g.mu, pendAside := [], qAside := g.q, uwAside := g.unwaited } } true with
    | (s, .error e) => doubleTrap (s.setG gid { g with saved := false }) gid { aPending g .nop (e.cause' 3 0 0) with word := 0 }
    | (s, .ok h) =>
      let p := s.pk g
      let s0 := s.setG gid g
      let vbase := s0.freeRegs g.who.core g.who.slot p.vfile
      let who := { g.who with res := s0.freeRes g.who.core g.who.slot, vbase }
      let stop := match g.stop with
        | .token _ => AStop.run
        | x => x
      let cs := { h.cs with stuck := s.stuckOf g.who.core g.who.slot vbase p.vregs false }
      let h := { h.reissued with
        who, cs, stop, saved := false,
        sys := { h.sys with muAside := g.sys.muAside, pendAside := g.sys.pendAside, qAside := g.sys.qAside,
                              uwAside := g.sys.uwAside, asideId := g.sys.asideId },
        shadow := h.shadow.map fun (x : Shadow) =>
          { late := x.late, cs := { cs with stuck := s.stuckOf g.who.core g.who.slot (vbase + p.vregs) p.vregs true }, log := [] } }
      let h := g.freed.foldl (fun (h : Group) f => h.detach f) { h with freed := [] }
      (s.setG gid h.reissueLanes).restoreItsSession g

/-- Whether a partition's window is open and ends within 20 µs (11 R317). -/
def State.windowEnds (s : State) (p : Nat) : Bool :=
  let t := s.time % 1000000
  (openSpans s.windows p).any fun x => decide (x.1 ≤ t ∧ t < x.2 ∧ x.2 ≤ t + 20000)

/-- Whether a saved group may come back: its queue is mapped, and its partition's window is open and not about to end (11 R308,
R317). -/
def State.mayRestore (s : State) (g : Group) : Bool :=
  g.saved && s.issues g && (!s.windowEnds (s.lau g).qd.part || (s.pk g).nonpreempt) && (s.qst (s.lau g).qno).slot.isSome

/-- Restore a list of groups, where there is room for all of them. -/
def restoreAll : List Nat → State → Option State
  | [], s => some s
  | k :: r, s =>
    ((s.groups.get? k).bind fun g => makePlace s g).bind fun s => restoreAll r (restoreGroup s k)

/-- Restore a group where there is room for it; the groups of a concurrent launch come back together (11 R320). -/
def State.bringBack (s : State) (gid : Nat) : State :=
  match s.groups.get? gid with
  | none => s
  | some g =>
    let mine := s.groups.filter fun e => e.1 == gid || ((s.pk g).progress == 0 && e.2.who.lid == g.who.lid && e.2.stop != .gone)
    if mine.all fun e => s.mayRestore e.2 then (restoreAll (mine.map (·.1)) s).getD s else s

/-- GROUP_RESTORE (08 R265). -/
def execGroupRestore (s : State) : Out := .next (s.bringBack s.cur.gid)

/-- WINDOW_END_PREEMPT (11 R317): the partition's groups that are not NONPREEMPT are pre-empted. -/
def execWindowEndPreempt (p : Nat) (s : State) : Out :=
  if s.windowEnds p then .next (s.requestSave fun g => (s.lau g).qd.part == p && !(s.pk g).nonpreempt) else .next s

/-- WINDOW_OPEN (11 R317): the partition's pre-empted groups are restored. -/
def execWindowOpen (p : Nat) (s : State) : Out :=
  let mine := (s.groups.filter fun e => e.2.saved && (s.lau e.2).qd.part == p).map (·.1)
  if s.winOpen p s.time && !s.windowEnds p then .next (mine.foldl (fun (s : State) k => s.bringBack k) s) else .next s

end Sys2Proof.Machine
end

