-- ==== Sys2Proof/Machine/SchedEv.lean ====
section
/-! DEFINITION. The steps of the scheduler: notifies, queue slots, packets, placement, overruns, watchdogs, kills and completion
(11 R305-R323; 14 R362-R365, R401; 20 R393). -/

namespace Sys2Proof.Machine

/-- Whether the ports are enabled: boot has reached step 6 (15 R385). -/
def State.booted (s : State) : Bool := s.regs.boot == 6

/-- One queue's state as its descriptor now stands: its counts are 0 when EN becomes 1; a disabled queue without a launch leaves its
slot (11 R305, R307, R322). -/
def State.refreshQueue (s : State) (q : Nat) : State :=
  let st := s.qst q
  match s.desc? q with
  | some _ =>
    if st.live then s
    else { s with queues := s.queues.set q { st with live := true, t := 0, u := 0, arrivals := [] } }
  | none =>
    if !s.regs.qtbase.getLsbD 0 then s
    else
      let busy := s.launches.any fun e => e.2.qno == q
      { s with queues := s.queues.upd q fun x =>
          { x with live := false, pendSince := none, slot := if busy then x.slot else none } }

/-- Every queue that the device knows. -/
def State.refreshQueues (s : State) : State := s.queues.keys.foldl (fun (s : State) q => s.refreshQueue q) s

/-- Hardware queue slots in use (11 R308). -/
def State.slotsUsed (s : State) : List Nat := s.queues.filterMap fun e => e.2.slot

/-- A free slot. -/
def State.freeSlot (s : State) : Option Nat := (List.range 128).find? fun n => !s.slotsUsed.contains n

/-- Whether a queue has a launch running: one that has started and not ended. -/
def State.hasRunning (s : State) (q : Nat) : Bool := s.launches.any fun e => e.2.qno == q && e.2.start.isSome

/-- Whether every launch of a queue can be pre-empted. -/
def State.allPreemptible (s : State) (q : Nat) : Bool :=
  s.launches.all fun e => e.2.qno != q || e.2.start.isNone || !e.2.pk.nonpreempt

/-- The queue to unmap when no slot is free (11 R308): first those with no launch running, the lowest ceiling, then the higher
number. -/
def State.unmapChoice (s : State) : Option Nat :=
  let c := s.queues.filter fun e => e.2.slot.isSome && s.allPreemptible e.1
  let idle := c.filter fun e => !s.hasRunning e.1
  let ceil : Nat → Nat := fun q => ((s.desc? q).map fun (d : QDesc) => d.ceil).getD 0
  let pool := if idle.isEmpty then c else idle
  (sortBy (fun (a b : Nat) => decide (ceil a < ceil b ∨ (ceil a = ceil b ∧ b ≤ a))) (pool.map (·.1))).head?

/-- Unmap a queue: its running launches are pre-empted and resume when it is mapped again. -/
def State.unmap (s : State) (q : Nat) : State :=
  ({ s with queues := s.queues.upd q fun x => { x with slot := none } } : State).requestSave fun g => (s.lau g).qno == q

/-- NOTIFY (11 R306, R307; 15 R377; 14 R401): `fn` is the writing VF, none the PF of the port. -/
def execNotify (port : Nat) (fn : Option Nat) (w : Word) (s : State) : Out :=
  let vfOf := fn.getD 0xFF
  let who : List Byte := natLe 1 (match fn with
    | some v => v + 128 * port
    | none => 64 + 128 * port)
  let mine : Bool := match fn with
    | some v => decide (v < 64) && (s.regs.vfmap.getLsbD v == (port == 1))
    | none => true
  if !s.booted || 2 ≤ port || !mine || w.toNat / 2 ^ 24 != 0 then .next s
  else
    let q := w.toNat % 4096
    let n' := w.toNat / 4096 % 4096
    if !s.regs.qtbase.getLsbD 0 then .next (s.colophon 2 3 0xFF vfOf (wBytes w ++ who))
    else
      let s := s.refreshQueue q
      let own : Option QDesc := (s.desc? q).filter fun d => match fn with
        | some v => !d.pf && d.vf == v
        | none => d.pf && d.port == port
      match own with
      | none => .next (s.colophon 2 1 0xFF vfOf (wBytes w ++ who))
      | some d =>
        let st := s.qst q
        let n := (n' + 4096 - st.t) % 4096
        if n = 0 then .next s
        else if 2 ^ d.k < st.u + n then
          .next (s.colophon 2 2 0xFF d.vf (wBytes w ++ natLe 2 st.t ++ natLe 2 st.u))
        else
          let stuck := st.slot.isNone && s.freeSlot.isNone && s.unmapChoice.isNone
          let st := { st with t := n', u := st.u + n, arrivals := st.arrivals ++ List.replicate n s.tick, port,
                              pendSince := if stuck && st.pendSince.isNone then some s.tick else st.pendSince,
                              starved := if st.pendSince.isNone then false else st.starved }
          .next { s with queues := s.queues.set q st }

/-- Whether a queue has work that needs a slot: packets not read, or accepted launches, which run on where the queue is disabled
(11 R305, R308). A Galley's launch needs one once it has been pre-empted. -/
def State.needsSlot (s : State) (q : Nat) : Bool :=
  let st := s.qst q
  st.slot.isNone &&
    (((s.desc? q).isSome && st.live && decide (0 < st.u)) ||
      s.launches.any fun e => e.2.qno == q && (e.2.batch.isNone || s.stopped e.1))

/-- The pending queue that comes next after the last one mapped from the map (11 R309); a disabled one is passed over. -/
def State.nextPending (s : State) : Option Nat :=
  let p := (s.queues.filter fun e => e.2.pendSince.isSome && s.needsSlot e.1).map (·.1)
  (p.find? fun q => decide (s.lastMapped < q)).or p.head?

/-- QUEUE_MAP (11 R308, R309). -/
def execQueueMap (q : Nat) (s : State) : Out :=
  if !s.needsSlot q then .next s
  else
    let pend := (s.qst q).pendSince.isSome
    let turn := if pend then s.nextPending == some q else s.nextPending.isNone
    let give := fun (s : State) (n : Nat) =>
      { s with queues := s.queues.upd q (fun x => { x with slot := some n, pendSince := none }),
               lastMapped := if pend then q else s.lastMapped }
    if !turn then .next s
    else match s.freeSlot with
      | some n => .next (give s n)
      | none =>
        match s.unmapChoice with
        | none => .next s
        | some v =>
          let n := ((s.qst v).slot).getD 0
          .next (give (s.unmap v) n)

/-- STARVATION_EVENT (11 R309): a bit of the pending map that has stood for 50 µs. -/
def execStarvationEvent (q : Nat) (s : State) : Out :=
  let st := s.qst q
  match st.pendSince with
  | some t =>
    if !st.starved && decide (t + 50000 * nsT ≤ s.tick) then
      .next ({ s with queues := s.queues.set q { st with starved := true } }.irq st.port none 3)
    else .next s
  | none => .next s

/-- LAUNCH_PACKET (11 R305-R312; 14 R362; 15 R384): the next packet of a mapped queue is read and decided. A packet with AFTER waits
for the earlier launches; while HOT is set a best-effort packet waits. DESIGN CHOICE: one that waits counts as unread, and its ring entry is
read anew at each try; an entry that cannot be read is refused with reason 1, as a packet of zeros (notes/assumptions/22.md). -/
def execLaunchPacket (q : Nat) (s : State) : Out :=
  let st := s.qst q
  match s.desc? q with
  | none => .next s
  | some d =>
    if !s.booted || !st.live || st.u = 0 || st.slot.isNone then .next s
    else
      let c := (st.t + 4096 - st.u) % 4096
      let va := (d.ring + 128 * (c % 2 ^ d.k)) % 2 ^ 47
      let arrival := st.arrivals.headD s.tick
      let r := s.readVa d.vf true va 128
      let bytes := match r.2 with
        | .ok b => b
        | .error _ => List.replicate 128 0
      let force := match r.2 with
        | .ok _ => 0
        | .error _ => 1
      let p := parsePacket bytes
      let after := p.after && s.launches.any fun e => e.2.qno == q
      if after || (s.regs.hot && p.deadline == 0) then .next s
      else
        let s := { r.1 with queues := s.queues.set q { st with u := st.u - 1, arrivals := st.arrivals.drop 1 } }
        .next (takePacket s q d bytes arrival none force)

/-- The cores whose L1 drops its lines before a launch's first group there (09 R276). -/
def State.freshL1 (s : State) (lid : Nat) (cores : List Nat) : State :=
  match s.launches.get? lid with
  | none => s
  | some l =>
    let new := (dedup cores).filter fun c => !l.l1Cores.contains c
    (new.foldl (fun (s : State) c => s.dropL1 c) s).updL lid fun l => { l with l1Cores := l.l1Cores ++ new }

/-- TEAM_PLACE (11 R313, R319; 09 R270, R271; 14 R362): the next cluster of an accepted launch, or every cluster of a concurrent
one, is placed and its groups start. -/
def execTeamPlace (lid : Nat) (s : State) : Out :=
  match s.launches.get? lid with
  | none => .next s
  | some l =>
    match s.placing lid l ((s.quadsFor l.qd.part l.pk.diverse l.inst).filter fun q => (s.quads.getD q Quad.reset).preempt.isNone)
        s.usage with
    | none => .next s
    | some os =>
      .next (os.foldl (fun (s : State) x =>
        placeCluster (s.freshL1 lid (rectCores x.2 l.pk.w l.pk.h)) lid x.1 x.2) s)

/-- When a launch's first group started, that of instance P for a DIVERSE launch (14 R362). -/
def State.startOf (s : State) (l : Launch) : Option Nat :=
  if l.inst = 1 then l.twin.bind fun t => (s.launches.getD t Launch.blank).start else l.start

/-- Whether the writes of the groups of a launch have been performed and everything of it has ended (11 R323). -/
def State.ended (s : State) (lid : Nat) : Bool :=
  s.allEnded lid && !(s.eng.any fun o => (s.groups.get? o.gid).any fun g => g.who.lid == lid)

/-- The record of a DIVERSE launch from its two instances (14 R362). -/
def mergedRecord (s : State) (a b : Launch) : State :=
  let worse := if statusRank b.final < statusRank a.final then b else a
  let sat := fun (n : Nat) => min n 0xFFFFFFFF
  let cs := (List.range 16).map fun i => sat (a.counters.getD i 0 + b.counters.getD i 0)
  writeRecord s { worse with pk := a.pk, arrival := a.arrival } worse.final
    (recordTail { worse with arrival := a.arrival } (a.late + b.late) (a.start.getD 0) (max a.endT b.endT)
      (a.cycles + b.cycles) cs)

/-- After a launch's record: the interrupt, and the batch's records back to their pool (15 R375; 20 R393). -/
def afterRecord (s : State) (l : Launch) : State :=
  let s := s.irqL l 0
  match l.batch with
  | some b => s.batchBack b.1 b.2.2.1
  | none => s

/-- LAUNCH_COMPLETE (11 R323; 14 R362, R365). -/
def execLaunchComplete (lid : Nat) (s : State) : Out :=
  match s.launches.get? lid with
  | none => .next s
  | some l =>
    if !s.ended lid then .next s
    else match l.twin with
      | none =>
        let s := writeRecord s l l.final (recordTail l l.late (l.start.getD 0) l.endT l.cycles l.counters)
        .next (afterRecord { s with launches := s.launches.del lid } l)
      | some t =>
        if !s.ended t || l.inst = 1 then .next s
        else
          let m := s.launches.getD t Launch.blank
          let s := mergedRecord s l m
          let fin := if statusRank m.final < statusRank l.final then m.final else l.final
          let r : Render := { surface := l.pk.surface, layer := l.pk.layer, buf := l.pk.buf, qslot := l.qslot,
                              serial := l.serial, time := s.tick }
          let s := { s with launches := (s.launches.del lid).del t,
                            disp.renders := if fin = 1 ∨ fin = 6 then s.disp.renders ++ [r] else s.disp.renders }
          .next (afterRecord s l)

/-- Whether a deadline launch has passed its budget or its deadline (11 R313). -/
def State.overran (s : State) (l : Launch) : Bool :=
  l.dlLive && (decide (l.pk.budget < l.cycles) || decide (l.due < s.time))

/-- LAUNCH_OVERRUN (11 R313): handled by the queue's policy. -/
def execLaunchOverrun (lid : Nat) (s : State) : Out :=
  match s.launches.get? lid with
  | none => .next s
  | some l =>
    if !s.overran l then .next s
    else if l.qd.demote then .next (s.updL lid fun l => { l with demoted := true })
    else .next (killLaunch s lid 4)

/-- The cause of the queue watchdog, with the µs since a group's start (08 R254). -/
def watchdogCause (s : State) (g : Group) : Cause := Cause.mk' 11 1 ((s.tick - g.who.start) / (1000 * nsT) % 2 ^ 32)

/-- LAUNCH_WATCHDOG (11 R322): every live group of a launch that has run WATCHDOG µs traps. -/
def execLaunchWatchdog (lid : Nat) (s : State) : Out :=
  match s.launches.get? lid with
  | none => .next s
  | some l =>
    match s.startOf l with
    | none => .next s
    | some t =>
      if l.qd.watchdog = 0 || l.watched || l.killed || decide (s.tick < t + 1000 * l.qd.watchdog * nsT) then .next s
      else
        let gs := (s.groups.filter fun e => e.2.who.lid == lid && e.2.stop != .gone).map (·.2)
        let s := s.updL lid fun l => { l with watched := true }
        .next (gs.foldl (fun (s : State) g =>
          raise s g.who.gid { aPending g .nop (watchdogCause s g) with word := 0 }) s)

/-- LAUNCH_KILL (11 R322): a launch unfinished at twice WATCHDOG, or with a group that has not entered its trap within 20 µs. -/
def execLaunchKill (lid : Nat) (s : State) : Out :=
  match s.launches.get? lid with
  | none => .next s
  | some l =>
    let late := match s.startOf l with
      | some t => l.qd.watchdog != 0 && decide (t + 2000 * l.qd.watchdog * nsT ≤ s.tick)
      | none => false
    let stuck := s.groups.any fun e => e.2.who.lid == lid && !e.2.saved && match e.2.trap with
      | some p => decide (p.since + 20000 * nsT ≤ s.tick)
      | none => false
    if l.killed || !(late || stuck) then .next s else .next (killLaunch s lid 5)

end Sys2Proof.Machine
end

