-- ==== Sys2Proof/Machine/Regs.lean ====
section
/-! DEFINITION. The register space of the ports: the configuration semaphore and every register that a port writes (15
R376-R380, R384; 10 R298, R304; 11 R315-R318; 14 R364, R369, R374). -/

namespace Sys2Proof.Machine

/-! ## The semaphore -/

/-- Whether a port owns the semaphore: the grant of port 1 stands once its clk is over, since port 0 wins where both read it in one
(15 R379). -/
def State.semOwns (s : State) (port : Nat) : Bool :=
  s.regs.sem == port + 1 && !(port == 1 && s.regs.semAt == s.tick / clkT)

/-- A write that only the holder of the semaphore may make (15 R379): ignored without an event before the ports are enabled,
ignored with the event of R401 by any other port. `may` is the exception for an owner. -/
def portWrite (s : State) (port off : Nat) (may : Bool) (f : State → State) : Out :=
  if !s.booted || 2 ≤ port then .next s
  else if s.semOwns port || may then .next (f s)
  else .next (s.colophon 2 4 0xFF 0xFF (natLe 4 off ++ natLe 1 port))

/-- Whether a read of SEM by a port grants it: it is free, or the port owns it; port 0 wins against a read of port 1 in the same clk, which
then read 0 (15 R379). -/
def State.semGrants (s : State) (port : Nat) : Bool :=
  s.regs.sem == 0 || s.regs.sem == port + 1 || (port == 0 && s.regs.sem == 2 && s.regs.semAt == s.tick / clkT)

/-- SEM_ACQUIRE (15 R379): a read of SEM records the reader as owner when it is free. -/
def execSemAcquire (port : Nat) (s : State) : Out :=
  if s.booted && decide (port < 2) && s.semGrants port && s.regs.sem != port + 1 then
    .next { s with regs.sem := port + 1, regs.semAt := s.tick / clkT }
  else .next s

/-- What a read of SEM by a port returns (15 R379): for port 0 its own grant included; port 1, from which port 0 may still win it in the clk
of its read, is answered once that clk is over, and this gives it 0 until then. -/
def State.semValue (s : State) (port : Nat) : Nat :=
  if s.semOwns port || (port == 0 && s.semGrants 0) then 2 * (port + 1) + 1
  else if s.regs.sem == port + 1 then 0 else 2 * s.regs.sem

/-- SEM_RELEASE (15 R379): a write of 0 by the owner; any other write is ignored. -/
def execSemRelease (port : Nat) (w : Word) (s : State) : Out :=
  if s.booted && s.semOwns port && !w.getLsbD 0 then .next { s with regs.sem := 0 } else .next s

/-- The semaphore without a port whose link is gone. -/
def State.freeSem (s : State) (port : Nat) : State :=
  if s.regs.sem = port + 1 then { s with regs.sem := 0 } else s

/-- PORT_RESET (15 R379): a reset or link-down of the owner's port frees the semaphore. -/
def execPortReset (port : Nat) (s : State) : Out := .next (s.freeSem port)

/-! ## 64-bit registers -/

/-- A half of a 64-bit register is written: the low half waits, and the register takes effect with its high half (15 R378). -/
def half64 (s : State) (off : Nat) (hi : Bool) (w : Word) (f : State → BitVec 64 → State) : State :=
  if hi then f s (w ++ s.regs.low.getD off 0) else { s with regs.low := s.regs.low.set off w }

/-- The offset of a half of a 64-bit register. -/
def halfOff (off : Nat) (hi : Bool) : Nat := if hi then off + 4 else off

/-- Whether a VF has an enabled queue or a live launch (15 R380). -/
def State.vfBusy (s : State) (v : Nat) : Bool :=
  (s.launches.any fun e => e.2.qd.vf == v) || (List.range 4096).any fun q => (s.desc? q).any fun (d : QDesc) => d.vf == v

/-- VFMAP with a write: the bits of VFs with an enabled queue or a live launch stay (15 R380). -/
def writeVfmap (s : State) (x : BitVec 64) : State :=
  let ch := s.regs.vfmap ^^^ x
  let keep := (List.range 64).filter fun v => ch.getLsbD v && s.vfBusy v
  let m : BitVec 64 := BitVec.ofNat 64 (keep.map fun v => 2 ^ v).sum
  { s with regs.vfmap := (x &&& ~~~m) ||| (s.regs.vfmap &&& m), regs.cfgerr := s.regs.cfgerr || !keep.isEmpty }

/-- VFMAP_WRITE (15 R380). -/
def execVfmapWrite (port : Nat) (hi : Bool) (w : Word) (s : State) : Out :=
  portWrite s port (halfOff 8 hi) false fun s => half64 s 8 hi w writeVfmap

/-- QTBASE_WRITE (11 R305; 15 R378): a queue that becomes enabled starts at counts 0. -/
def execQtbaseWrite (port : Nat) (hi : Bool) (w : Word) (s : State) : Out :=
  portWrite s port (halfOff 0x20000 hi) false fun s => half64 s 0x20000 hi w fun s x =>
    ({ s with regs.qtbase := x &&& 0x000FFFFFFFFFF001 } : State).refreshQueues

/-! ## Power -/

/-- PWRCAP_WRITE (15 R384): the cap takes effect if every accepted deadline launch still meets R312 under it, a DIVERSE one at both times
of its test (14 R362). -/
def execPwrcapWrite (port : Nat) (w : Word) (s : State) : Out :=
  portWrite s port 0x10 false fun s =>
    let cap := w.toNat % 4
    let t0 := s.time + lambdaNs
    let ok := (List.range 16).all fun p =>
      s.fits p (s.demands p) t0 0 cap == 0 && s.launches.all fun e =>
        !(e.2.dlLive && e.2.qd.part == p && e.2.pk.diverse) ||
          s.fits p (s.demands p) (t0 + 1000 * e.2.pk.delay) e.2.due cap == 0
    if cap = 3 then s
    else if ok then { s with regs.pwrcap := cap }
    else { s with regs.capdeny := true }

/-! ## Partitions, windows, granules -/

/-- The writable bits of a partition's words (11 R315). -/
def partMask (word : Nat) : Word :=
  match word with
  | 0 => 0x00FFFFFF
  | 1 => 0x01FF07FF
  | 2 => 0x000FFFFF
  | _ => 1

/-- Whether a partition may be enabled beside those that are: issue shares on each quad, memory shares, its way quotas
(11 R315). -/
def State.partFits (s : State) (p : Nat) : Bool :=
  let on := (List.range 16).filter fun k => k == p || s.partOn k
  let quads := (List.range 24).all fun q =>
    decide (((on.filter fun k => s.partW k 0 / 2 ^ q % 2 == 1).map fun k => s.partW k 1 % 2048).sum ≤ 1024)
  let w := s.partW p 2
  quads && decide ((on.map fun k => s.partW k 1 / 65536 % 512).sum ≤ 256) &&
    decide (w % 32 + w / 32 % 32 + w / 1024 % 32 + w / 32768 % 32 ≤ 16)

/-- Replace a word of a partition's block. -/
def State.setPart (s : State) (p word : Nat) (w : Word) : State :=
  { s with regs.part := setAt s.regs.part p (setAt (s.regs.part.getD p []) word (w &&& partMask word)) }

/-- A write to a partition's block (11 R315): only EN while EN is 1; an EN that does not fit stays 0. -/
def writePart (s : State) (p word : Nat) (w : Word) : State :=
  if word = 3 then
    if !w.getLsbD 0 || s.partFits p then s.setPart p 3 w else { s with regs.cfgerr := true }
  else if s.partOn p then s else s.setPart p word w

/-- PARTITION_WRITE (11 R315). -/
def execPartitionWrite (port p word : Nat) (w : Word) (s : State) : Out :=
  if 16 ≤ p ∨ 4 ≤ word then .next s
  else portWrite s port (0x20100 + 16 * p + 4 * word) false fun s => writePart s p word w

/-- CFGERR after a write to the window table: a table whose lengths do not sum to 1,000 µs is ignored (11 R317). -/
def State.checkWindows (s : State) : State :=
  if s.regs.wincnt ≠ 0 ∧ s.windows.isEmpty then { s with regs.cfgerr := true } else s

/-- WINDOW_TABLE_WRITE (11 R317): index 0 is WINCNT, index i + 1 is WINi. -/
def execWindowTableWrite (port idx : Nat) (w : Word) (s : State) : Out :=
  if 16 < idx then .next s
  else portWrite s port (0x2000C + 4 * idx) false fun s =>
    (if idx = 0 then ({ s with regs.wincnt := w.toNat % 32 } : State)
     else { s with regs.win := setAt s.regs.win (idx - 1) w }).checkWindows

/-- Whether a port owns a VF (15 R380). -/
def State.owns (s : State) (port v : Nat) : Bool := s.regs.vfmap.getLsbD v == (port == 1)

/-- GRANT (11 R318; 15 R379): a granule leaves its VF; one that moves is zero-filled before its new owner reaches it. -/
def execGrant (port : Nat) (w : Word) (s : State) : Out :=
  let g := w.toNat % 512
  let v := w.toNat / 512 % 64
  let free := w.getLsbD 15
  let may := ((s.regs.granule.get? g).all fun o => s.owns port o) && (free || s.owns port v)
  portWrite s port 0x30200 may fun s =>
    if s.regs.zeroing.isSome then s
    else
      let s := { s with regs.granule := s.regs.granule.del g }
      if free then s else { s with regs.zeroing := some (g, v) }

/-- GRANULE_ZERO_FILL (11 R318; 09 R271): the granule is zero, its new owner holds it, BUSY clears. -/
def execGranuleZeroFill (s : State) : Out :=
  match s.regs.zeroing with
  | some (g, v) =>
    .next { s.zeroFill { space := .chip, addr := 65536 * g } 65536 with
            regs.granule := s.regs.granule.set g v, regs.zeroing := none }
  | none => .next s

/-! ## Translation blocks and the frame pool -/

/-- STATUS.BUSY of a VF (10 R304). -/
def VfSt.busy (x : VfSt) : Bool := x.inval.isSome || x.splint.isSome

/-- TLBINV (10 R296, R304; 15 R379): the high half starts the invalidation of a page or of all; ignored while BUSY. -/
def execTlbinv (port vf : Nat) (hi : Bool) (w : Word) (s : State) : Out :=
  if 64 ≤ vf then .next s
  else
    let off := 0x10018 + 64 * vf
    portWrite s port (halfOff off hi) (s.owns port vf) fun s => half64 s off hi w fun s x =>
      let y := s.vf vf
      if y.busy then s
      else
        let tgt : Option Nat := if x.getLsbD 47 then none else some (x.toNat % 2 ^ 47 / 2 ^ 14)
        s.setVf vf { y with inval := some tgt, purged := false, busyOps := [] }

/-- SPLINTER (10 R297, R304): the high half starts it with the frame of SFRAME; ignored while BUSY. -/
def execSplinter (port vf : Nat) (hi : Bool) (w : Word) (s : State) : Out :=
  if 64 ≤ vf then .next s
  else
    let off := 0x10020 + 64 * vf
    portWrite s port (halfOff off hi) (s.owns port vf) fun s => half64 s off hi w fun s x =>
      let y := s.vf vf
      if y.busy then s
      else s.setVf vf { y with splint := some (x.toNat % 2 ^ 47 / 2 ^ 25 * 2 ^ 25, y.sframe), purged := false, busyOps := [] }

/-- FRAME_POOL_WRITE (10 R298): FPBASE (0) or FPCOUNT (1); ignored while a VF holds a frame; every frame of the new range is
free, and what R300 does to a frame whose reclaiming had not ended comes first. -/
def execFramePoolWrite (port which : Nat) (w : Word) (s : State) : Out :=
  if 2 ≤ which then .next s
  else portWrite s port (0x11018 + 4 * which) false fun s =>
    if s.vfs.any fun v => v.held != 0 then { s with regs.cfgerr := true }
    else
      let s := { s.reclaim.foldl (fun (s : State) f => s.cleanFrame f) s with frames := [] }
      if which = 0 then { s with regs.fpbase := w.toNat } else { s with regs.fpcount := w.toNat }

/-- PRQHEAD_WRITE (15 R378; 10 R301): entries before the new head are outstanding no more. -/
def execPrqheadWrite (port : Nat) (w : Word) (s : State) : Out :=
  portWrite s port 0x11010 false fun s =>
    let new := w.toNat % 8192
    let d := (new + 8192 - s.regs.prqhead) % 8192
    { s with prq := s.prq.filter (fun e => decide (d ≤ (e.count + 8192 - s.regs.prqhead) % 8192)), regs.prqhead := new }

/-! ## Display and reliability -/

/-- SAFESET_WRITE (14 R364): ignored where the two sets would overlap. -/
def execSafesetWrite (port which : Nat) (w : Word) (s : State) : Out :=
  if 2 ≤ which then .next s
  else portWrite s port (0x40008 + 4 * which) false fun s =>
    let x := w &&& 0xFFFFFF
    if x &&& s.regs.safeset.getD (1 - which) 0 != 0 then { s with regs.cfgerr := true }
    else { s with regs.safeset := setAt s.regs.safeset which x }

/-- A retired quad goes back to quarantine and testing (14 R369). -/
def Quad.retest (q : Quad) (t : Nat) : Quad :=
  if q.st = 3 then { q with st := 1, why := 3, pass := 0, passes := 0, testing := none, preempt := none, ready := some t } else q

/-- RETEST (14 R369). -/
def execRetest (port : Nat) (w : Word) (s : State) : Out :=
  portWrite s port 0x40030 false fun s =>
    { s with quads := s.quads.zipIdx.map fun e => if w.getLsbD e.2 then e.1.retest s.tick else e.1 }

/-- COLOPHON_UNFREEZE (14 R374): a 1 to FROZEN resumes recording, and WRAP counts anew. -/
def execColophonUnfreeze (port : Nat) (w : Word) (s : State) : Out :=
  portWrite s port 0x50000 false fun s =>
    if w.getLsbD 0 && s.regs.frozen then { s with regs.frozen := false, regs.wrap := false, regs.since := 0 } else s

/-! ## Registers with no row of their own -/

/-- The fields of the translation block that are written as they stand (10 R304). -/
def writeVfBlock (s : State) (v o : Nat) (w : Word) : State :=
  let base := 0x10000 + 64 * v
  let y := s.vf v
  let h := fun (o : Nat) (hi : Bool) (f : VfSt → BitVec 64 → VfSt) =>
    half64 s (base + o) hi w fun s x => s.setVf v (f (s.vf v) x)
  match o with
  | 0x00 => h 0x00 false fun y _ => y
  | 0x04 => h 0x00 true fun y x => { y with troot := x &&& 0x000FFFFFFFFFC001 }
  | 0x08 => h 0x08 false fun y _ => y
  | 0x0C => h 0x08 true fun y x => { y with g := x.toNat % 2 ^ 16, b := x.toNat / 2 ^ 16 % 2 ^ 16 }
  | 0x10 => h 0x10 false fun y _ => y
  | 0x14 => h 0x10 true fun y x => { y with prqdone := x.toNat % 2 ^ 47 }
  | 0x28 => h 0x28 false fun y _ => y
  | 0x2C => h 0x28 true fun y x => { y with sframe := x.toNat / 2 ^ 14 % 2 ^ 38 * 2 ^ 14 }
  | 0x30 => if w.getLsbD 1 then s.setVf v { y with err := false } else s
  | _ => s

/-- The fields of the Galley block (15 R378). -/
def writeGalleyBlock (s : State) (v o : Nat) (w : Word) : State :=
  let base := 0x30400 + 32 * v
  let set := fun (s : State) (f : Galley → Galley) => { s with galley := s.galley.set v (f (s.galley.getD v Galley.new)) }
  match o with
  | 0x00 => half64 s base false w fun s _ => s
  | 0x04 => half64 s base true w fun s x => set s fun y => { y with pool := x.toNat % 2 ^ 47 / 64 * 64 }
  | 0x08 => set s fun y => { y with pooln := w.toNat % 2 ^ 17 }
  | 0x10 => half64 s (base + 0x10) false w fun s _ => s
  | 0x14 => half64 s (base + 0x10) true w fun s x => set s fun y => { y with nodetab := x.toNat % 2 ^ 47 / 64 * 64 }
  | _ => s

/-- The effect of a write to a register with no row of its own: bytes that the table does not list, and registers that are read
only, ignore it (15 R378). -/
def writeReg (s : State) (off : Nat) (w : Word) : State :=
  if off = 0x14 then (if w.getLsbD 17 then { s with regs.capdeny := false } else s)
  else if 0x10000 ≤ off ∧ off < 0x11000 then writeVfBlock s ((off - 0x10000) / 64) (off % 64) w
  else if off = 0x11008 ∨ off = 0x1100C then
    half64 s 0x11008 (off == 0x1100C) w fun s x => { s with regs.prqbase := x &&& 0x000FFFFFFFFE0001 }
  else if off = 0x20008 then (if w.getLsbD 1 then { s with regs.cfgerr := false } else s)
  else if 0x30000 ≤ off ∧ off < 0x30200 ∧ off % 8 = 4 then
    { s with regs.sched := setAt s.regs.sched ((off - 0x30000) / 8) (w &&& 0xFFFF000F) }
  else if 0x30400 ≤ off ∧ off < 0x30C00 then writeGalleyBlock s ((off - 0x30400) / 32) (off % 32) w
  else if off = 0x40000 ∨ off = 0x40004 then
    half64 s 0x40000 (off == 0x40004) w fun s x => { s with regs.surfbase := x &&& 0x000FFFFFFFFFFFC0 }
  else s

/-- Whether a register's writes are a row of their own, or need no semaphore (15 R379). -/
def ownRow (off : Nat) : Bool :=
  [0x00, 0x08, 0x0C, 0x10, 0x18, 0x1C, 0x11010, 0x11018, 0x1101C, 0x20000, 0x20004, 0x30200, 0x40008, 0x4000C, 0x40030,
    0x50000].contains off ||
    (decide (0x10000 ≤ off ∧ off < 0x11000) && [0x18, 0x1C, 0x20, 0x24].contains (off % 64)) ||
    decide (0x2000C ≤ off ∧ off < 0x20050) || decide (0x20100 ≤ off ∧ off < 0x20200)

/-- REGISTER_WRITE (15 R378, R379): a 32-bit write to a register that has no row of its own. -/
def execRegisterWrite (port off : Nat) (w : Word) (s : State) : Out :=
  if ownRow off || off % 4 != 0 then .next s else portWrite s port off false fun s => writeReg s off w

/-! ## Reads -/

/-- Word `k` of a number. -/
def wordOf (x k : Nat) : Word := BitVec.ofNat 32 (x / 2 ^ (32 * k))

/-- A read of a VF's translation block (10 R304). -/
def readVfBlock (y : VfSt) (o : Nat) : Word :=
  if o < 8 then wordOf y.troot.toNat (o / 4)
  else if o < 0x10 then wordOf (y.g + 2 ^ 16 * y.b + 2 ^ 32 * y.held) (o % 8 / 4)
  else if o < 0x18 then wordOf y.prqdone (o % 8 / 4)
  else if 0x28 ≤ o ∧ o < 0x30 then wordOf y.sframe (o % 8 / 4)
  else if o = 0x30 then wordOf ((if y.busy then 1 else 0) + (if y.err then 2 else 0)) 0
  else 0

/-- A read of a VF's Galley block (15 R378). -/
def readGalleyBlock (y : Galley) (o : Nat) : Word :=
  if o < 8 then wordOf y.pool (o / 4)
  else if o = 8 then wordOf y.pooln 0
  else if o = 0x0C then wordOf y.free 0
  else if 0x10 ≤ o ∧ o < 0x18 then wordOf y.nodetab (o % 8 / 4)
  else 0

/-- A read of the scheduler's registers (11 R315-R318). -/
def readSched (s : State) (o : Nat) : Word :=
  if o < 8 then wordOf s.regs.qtbase.toNat (o / 4)
  else if o = 8 then wordOf ((if s.regs.zeroing.isSome then 1 else 0) + (if s.regs.cfgerr then 2 else 0)) 0
  else if o = 0x0C then wordOf s.regs.wincnt 0
  else if o < 0x50 then s.regs.win.getD ((o - 0x10) / 4) 0
  else if 0x100 ≤ o ∧ o < 0x200 then (s.regs.part.getD ((o - 0x100) / 16) []).getD (o % 16 / 4) 0
  else 0

/-- Fields of `w` bits, one for each quad. -/
def quadField (s : State) (w : Nat) (f : Quad → Nat) : Nat := (s.quads.zipIdx.map fun e => f e.1 % 2 ^ w * 2 ^ (w * e.2)).sum

/-- A bit for each number of a list. -/
def bitsOf (l : List Nat) : Nat := ((dedup l).map fun n => 2 ^ n).sum

/-- A read of the display's and reliability's registers (14 R364, R369, R373). -/
def readSafe (s : State) (o : Nat) : Word :=
  if o < 8 then wordOf s.regs.surfbase.toNat (o / 4)
  else if o < 0x10 then s.regs.safeset.getD (o % 8 / 4) 0
  else if o < 0x18 then wordOf (quadField s 2 (·.st)) (o % 8 / 4)
  else if o < 0x20 then wordOf (quadField s 2 (·.why)) (o % 8 / 4)
  else if o < 0x30 then wordOf (quadField s 3 (·.pass)) (o % 16 / 4)
  else if 0x40 ≤ o ∧ o < 0x50 then wordOf (bitsOf s.rely.retired + 2 ^ 32 * bitsOf s.rely.noL1) (o % 16 / 4)
  else 0

/-- The 32 bytes of a Colophon event (14 R374). -/
def Event.bytes (e : Event) : List Byte :=
  natLe 8 e.time ++ natLe 4 e.seq ++ natLe 1 e.cls ++ natLe 1 e.code ++ natLe 1 e.quad ++ natLe 1 e.vf ++ e.detail

/-- A read of the Colophon window: an event stands at its sequence number modulo 4,096 (notes/assumptions/8.md). -/
def readWindow (s : State) (o : Nat) : Word :=
  ((s.rely.events.find? fun e => e.seq % 4096 == o / 32).map fun e => wordAt e.bytes (o % 32 / 4 * 4)).getD 0

/-- What a 32-bit read of a port's BAR0 returns (15 R376, R378, R385): before the ports are enabled 0 but for BOOTSTAT, and 0 at every byte
that the table does not list or marks Z or WO. VICTIM is 10 R303's. -/
def State.readReg (s : State) (port off : Nat) : Word :=
  if off % 4 ≠ 0 then 0
  else if off = 4 then wordOf s.regs.boot 0
  else if !s.booted then 0
  else if off = 0 then wordOf (s.semValue port) 0
  else if off = 8 ∨ off = 0x0C then wordOf s.regs.vfmap.toNat (off % 8 / 4)
  else if off = 0x10 then wordOf s.regs.pwrcap 0
  else if off = 0x14 then
    wordOf (s.regs.watts % 2 ^ 16 + (if s.regs.hot then 2 ^ 16 else 0) + (if s.regs.capdeny then 2 ^ 17 else 0)) 0
  else if off = 0x20 then
    wordOf ((List.range 2).map fun p => (s.regs.lrate.getD p 0 + 4 * s.regs.lwidth.getD p 0) * 2 ^ (8 * p)).sum 0
  else if 0x10000 ≤ off ∧ off < 0x11000 then readVfBlock (s.vf ((off - 0x10000) / 64)) (off % 64)
  else if off = 0x11000 then wordOf s.victimVf 0
  else if off = 0x11008 ∨ off = 0x1100C then wordOf s.regs.prqbase.toNat (off % 8 / 4)
  else if off = 0x11010 then wordOf s.regs.prqhead 0
  else if off = 0x11014 then wordOf s.regs.prqtail 0
  else if off = 0x11018 then wordOf s.regs.fpbase 0
  else if off = 0x1101C then wordOf s.regs.fpcount 0
  else if 0x20000 ≤ off ∧ off < 0x20200 then readSched s (off - 0x20000)
  else if 0x30000 ≤ off ∧ off < 0x30200 then
    (if off % 8 = 0 then wordOf (s.granules ((off - 0x30000) / 8)).length 0 else s.regs.sched.getD ((off - 0x30000) / 8) 0)
  else if 0x30400 ≤ off ∧ off < 0x30C00 then readGalleyBlock (s.gal ((off - 0x30400) / 32)) (off % 32)
  else if 0x40000 ≤ off ∧ off < 0x40050 then readSafe s (off - 0x40000)
  else if off = 0x50000 then wordOf ((if s.regs.frozen then 1 else 0) + (if s.regs.wrap then 2 else 0)) 0
  else if off = 0x50004 then wordOf s.regs.clseq 0
  else if 0x80000 ≤ off ∧ off < 0xA0000 then readWindow s (off - 0x80000)
  else 0

end Sys2Proof.Machine
end

