-- ==== Sys2Proof/Machine/Links.lean ====
section
/-! DEFINITION. What hosts and peers do to the device: writes into its memory, flits, retraining and loss of a link (09 R286,
R289; 15 R381, R382). -/

namespace Sys2Proof.Machine

/-- Whether no engine owns a line of a range of device memory: an access of a port or of a peer waits for the owner (09 R286). -/
def State.openRange (s : State) (pa n : Nat) : Bool :=
  (List.range (n / 64 + 2)).all fun i =>
    let a := pa / 64 * 64 + 64 * i
    decide (pa + n ≤ a) || s.owner 0 s.nextId { space := .dev, addr := a } == .free

/-- A write from outside into device memory, performed when the port accepts it (09 R289); none while the ports are not enabled, the
range is no memory, or a line of it is owned. -/
def outsideWrite (s : State) (pa : Nat) (bytes : List Byte) : Option State :=
  if s.booted && decide (pa + bytes.length ≤ usable) && s.openRange pa bytes.length then
    some (s.writeBytes { space := .dev, addr := pa } bytes).refreshQueues
  else none

/-- HOST_MEMORY_WRITE (09 R289). -/
def execHostMemoryWrite (port pa : Nat) (bytes : List Byte) (s : State) : Out :=
  if 2 ≤ port then .next s else .next ((outsideWrite s pa bytes).getD s)

/-- Whether a link is up. -/
def State.linkUp (s : State) (port : Nat) : Bool := s.regs.lrate.getD port 0 != 0

/-- Deliver flits in order, up to one that has still to come sound (15 R381) or that finds a line owned (09 R286); those left. A flit for no
memory is lost. -/
def deliverFlits : List Flit → State → State × List Flit
  | [], s => (s, [])
  | x :: r, s =>
    if x.sound && s.openRange x.pa x.bytes.length then deliverFlits r ((outsideWrite s x.pa x.bytes).getD s) else (s, x :: r)

/-- A flit joins those of its link: in the place of the one that it replays, the first that has failed with its content, or behind the
others (15 R381). -/
def joinFlits (x : Flit) : List Flit → List Flit
  | [] => [x]
  | y :: r => if !y.sound && y.pa == x.pa && y.bytes == x.bytes then x :: r else y :: joinFlits x r

/-- LINK_FLIT_RECEIVE (15 R381): a flit of at most 252 bytes and its CRC. One whose CRC fails after correction counts as a replay and keeps its
place in the replay buffer of 256 flits, and those behind it wait until its replay has come: flits are delivered once and in order. -/
def execLinkFlitReceive (port : Nat) (sound : Bool) (pa : Nat) (bytes : List Byte) (s : State) : Out :=
  let q := joinFlits { pa, bytes, sound } (s.regs.rx.getD port [])
  if !s.linkUp port || 252 < bytes.length || 256 < q.length then .next s
  else
    let r := s.regs.replays.getD port [] ++ [s.tick]
    let s : State := if sound then s else { s with regs.replays := setAt s.regs.replays port (r.drop (r.length - 16)) }
    let d := deliverFlits q s
    .next { d.1 with regs.rx := setAt d.1.regs.rx port d.2 }

/-- A link's rate and width. -/
def State.setLink (s : State) (port rate width : Nat) : State :=
  { s with regs.lrate := setAt s.regs.lrate port rate, regs.lwidth := setAt s.regs.lwidth port width,
           regs.replays := setAt s.regs.replays port [] }

/-- A late store error of a group that is still there. -/
def State.lateIf (s : State) (gid pc : Nat) : State :=
  match s.groups.get? gid with
  | some g => s.lateError g pc
  | none => s

/-- An operation in flight to the peer when a link that may carry it goes down (15 R382): a read faults, a write is a late store
error, performed or lost: a free choice. -/
def dropPeer (s : State) (g : Group) (o : MemOp) (only : Bool) : State :=
  let (n, s) := s.draw
  let (m, s) := s.draw
  if !(only || Config.freeBit n) then s
  else if o.reads then failRead s g o 3
  else
    let s := match o.kind with
      | .sta v sz =>
        if Config.freeBit m then
          o.els.foldl (fun (s : State) (e : Nat × Loc) => s.agentWrite g.who.gid e.2 (natLe sz v.toNat)) s
        else s
      | _ => s
    (s.lateIf g.who.gid o.pc).dropPend g.who.gid o.id

/-- A link goes down (15 R382). -/
def linkDown (s : State) (port : Nat) : State :=
  let only := !s.linkUp (1 - port)
  let ops : List (Group × MemOp) := (s.groups.map fun (e : Nat × Group) =>
    (e.2.pend.filter fun (o : MemOp) => o.locs.any fun l => l.space == .peer).map fun o => (e.2, o)).flatten
  let s := (ops.foldl (fun (s : State) x => dropPeer s x.1 x.2 only) s).setLink port 0 0
  { s with regs.rx := setAt s.regs.rx port [] }

/-- A link after training at a rate (0 down, 3 highest) with the width that its lanes train at (0 below ×2, 3 ×8). -/
def trainLink (s : State) (port rate width : Nat) : State :=
  if rate = 0 ∨ width = 0 then linkDown s port else s.setLink port rate width

/-- LINK_REPLAY_LIMIT (15 R382): 16 replays within 1 ms retrain the link one rate lower, at the width that its lanes still
train at; nothing is lost unless it goes down. -/
def execLinkReplayLimit (port trained : Nat) (s : State) : Out :=
  let r := s.regs.replays.getD port []
  if !s.linkUp port || r.length < 16 || decide (r.headD 0 + 1000000 * nsT < r.getLastD 0) then .next s
  else .next (trainLink s port (s.regs.lrate.getD port 0 - 1) (min trained (s.regs.lwidth.getD port 0)))

/-- Retrain a port at its highest rate; how many of its lanes train is outside the device's choice. -/
def retrain (s : State) (port : Nat) : State :=
  let (n, s) := s.draw
  trainLink s port 3 (3 - Config.freeNat n % 4)

/-- LRETRAIN (15 R378, R382). -/
def execLretrain (port : Nat) (w : Word) (s : State) : Out :=
  portWrite s port 0x1C false fun s =>
    let s := if w.getLsbD 0 then retrain s 0 else s
    if w.getLsbD 1 then retrain s 1 else s

end Sys2Proof.Machine
end

