-- ==== Sys2Proof/Machine/Traps.lean ====
section
/-! DEFINITION. The steps of traps: entry once a group has drained, the decoupling deadlock, late store errors, and the wake of
a sleeping group (08 R248, R256, R262; 04 R142). -/

namespace Sys2Proof.Machine

/-- TRAP_ENTRY: a trap that waited for the group's operations to end is entered (08 R256). -/
def execTrapEntry (s : State) : Out :=
  match s.grp? with
  | none => .next s
  | some g =>
    match g.trap with
    | some p => if g.drained && !g.saved && g.stop != .halt then .next (takeTrap s g.who.gid p) else .next s
    | none => .next s

/-- The deadlock count's length in ticks: 65,536 clk (08 R248). -/
def deadlockT : Nat := 65536 * clkT

/-- The queue at which the A-stream waits, if it has waited there, or stood at a faulted load, for a deadlock count's length. -/
def Group.aStuck (g : Group) (now : Nat) : Option Nat :=
  match g.stop, g.ablk with
  | .token i, _ => match i with
    | .ldv _ _ q _ _ _ => some q.toNat
    | _ => some 0
  | .run, some (.queue q) => if g.asince + deadlockT ≤ now then some q else none
  | _, _ => none

/-- Whether a split has waited on a queue for a deadlock count's length: a pop, a peek, a push, or its end with the CLQ empty. -/
def Split.stuckSince (p : Split) (clqEmpty : Bool) (now : Nat) : Option Nat :=
  if p.since + deadlockT ≤ now then
    match p.st, p.blk with
    | .parkedEnd, _ => if clqEmpty then some 5 else none
    | .running, some (.queue q) => some q
    | _, _ => none
  else none

/-- DECOUPLING_DEADLOCK (08 R248): a pending token's fault, or cause group 8, code 3 with both sides set. The frame names the
lowest split that waits on a queue (notes/assumptions/35.md). -/
def execDecouplingDeadlock (s : State) : Out :=
  match s.grp? with
  | none => .next s
  | some g =>
    match g.aStuck s.tick with
    | none => .next s
    | some qa =>
      let ws := g.cs.splits.map fun e => (e.1, e.2.stuckSince g.q.clq.isEmpty s.tick)
      let quiet := decide (g.lastQ + deadlockT ≤ s.tick)
      if g.trap.isSome || g.saved then .next s
      else if !quiet || !(ws.all fun w => w.2.isSome) then .next s
      else
        match g.firstToken with
        | some (c, op) => .next (bareToken s g c op)
        | none =>
          let k := (ws.head?.map (·.1)).getD 0
          let qc := (ws.head?.bind (·.2)).getD 5
          let word := match g.cs.sp k with
            | some p => match fetchC s g p.idx with
              | (_, .ok w) => if p.st = .running then w else 0
              | (_, .error _) => 0
            | none => 0
          let p := cPending g k word (Cause.mk' 8 3 (qa + 16 * qc))
          .next (raise s g.who.gid { p with aside := true })

/-- Whether a write of a group is in flight that an instruction at a PC issued: an error of it can still be found (08 R262). -/
def State.writeAt (s : State) (g : Group) (pc : Nat) : Bool :=
  (g.pend.any fun o => o.pc == pc && match o.kind with
    | .sta .. => true
    | .ata .. => true
    | .nearStore .. => true
    | .nearAtom .. => true
    | _ => false) ||
  (g.mu.any fun o => o.pc == pc && match o.instr with
    | .ldg .. => false
    | _ => true) ||
  (s.eng.any fun o => o.gid == g.who.gid && o.pc == pc) ||
  s.sessions.any fun e => (e.2.parts[0]?.map (·.gid)) == some g.who.gid && e.2.passes.any fun p => p.pc == pc

/-- LATE_STORE_ERROR (08 R262): an error found after a write's checks fails the launch, and the group runs on. -/
def execLateStoreError (pc : Word) (s : State) : Out :=
  match s.grp? with
  | none => .next s
  | some g => if s.writeAt g pc.toNat then .next (s.lateError g pc.toNat) else .next s

/-- YIELDC_WAKE (04 R142): a group asleep in YIELDC runs again once its counter's line has been written or its time has come. -/
def execYieldcWake (s : State) : Out :=
  match s.grp? with
  | none => .next s
  | some g =>
    match g.stop with
    | .sleep until_ =>
      let mine := fun (w : Watch) => w.gid == g.who.gid
      if (s.watch.any fun w => mine w && w.hit) || decide (until_ ≤ s.tick) then
        .next (({ s with watch := s.watch.filter fun w => !mine w } : State).putG { g with stop := .run })
      else .next s
    | _ => .next s

end Sys2Proof.Machine
end

