-- ==== Sys2Proof/Machine/Reliability.lean ====
section
/-! DEFINITION. Reliability and reset: memory errors, Fennel passes and spare rows, temperature, the housekeeping controller's
watchdog and boot (14 R366, R368, R369, R373, R374; 15 R383-R385; 21 R399, R400). -/

namespace Sys2Proof.Machine

/-! ## Memory errors -/

/-- A corrected error of an L1 line: at 4 the line is disabled, and a set left with fewer than 2 ways disables the core's L1
(14 R373). -/
def l1Error (s : State) (core set way : Nat) : State :=
  let k := lineKey core set way
  if s.rely.l1off.contains k then s
  else
    let n := s.rely.l1cnt.getD k 0 + 1
    let s := { s with rely.l1cnt := s.rely.l1cnt.set k n }
    if n < 4 then s
    else
      let s := { s with rely.l1off := insertNat s.rely.l1off k }
      if Config.l1Ways < 2 + offInSet s.rely.l1off core set then
        ({ s with rely.noL1 := insertNat s.rely.noL1 core } : State).dropL1 core
      else s

/-- A corrected error of an L2 line: at 4 the line is disabled, and a set left with fewer than 2 of its 16 ways retires its slice; lines
that go are written back first (14 R373). -/
def l2Error (s : State) (slice set way : Nat) : State :=
  let k := lineKey slice set way
  if s.rely.l2off.contains k then s
  else
    let n := s.rely.l2cnt.getD k 0 + 1
    let s := { s with rely.l2cnt := s.rely.l2cnt.set k n }
    if n < 4 then s
    else
      let s := s.dropL2 slice fun n x => n == set && x.way == way
      let s := { s with rely.l2off := insertNat s.rely.l2off k }
      if 16 < 2 + offInSet s.rely.l2off slice set then
        { s.dropL2 slice fun _ _ => true with rely.retired := insertNat s.rely.retired slice }
      else s

/-- SRAM_CORRECTED_ERROR (14 R373): only the lines of L1 and L2 count their corrected errors. -/
def execSramCorrectedError (site : SramSite) (s : State) : Out :=
  match site with
  | .l1 core set way =>
    if core < 96 ∧ way < Config.l1Ways ∧ set * Config.l1Ways < 2048 then .next (l1Error s core set way) else .next s
  | .l2 slice set way => if slice < 32 ∧ set < 2048 ∧ way < 16 then .next (l2Error s slice set way) else .next s
  | .reader .. | .lateStore .. | .control .. | .bitmap .. | .memory .. => .next s

/-- The cause of data that cannot be corrected, at a group: code 2 of an SRAM, 3 of memory (14 R373; 15 R383). -/
def lostCause (s : State) (g : Group) (code : Nat) : State × Cause :=
  let d := lostDetail s (quadOf g.who.core)
  (d.1, Cause.mk' 10 code d.2)

/-- A stream meets data that cannot be corrected at its instruction. -/
def streamError (s : State) (g : Group) (k code : Nat) : State :=
  let c := lostCause s g code
  if k = 4 then raise c.1 g.who.gid { aPending g .nop c.2 with word := 0 }
  else if (g.cs.sp k).any fun p => p.st == .running then raise c.1 g.who.gid (cPending g k 0 c.2)
  else s

/-- An engine operation, pass or lane operation of a group meets data that cannot be corrected: it stops at its unit (07 R215, R216). -/
def engineError (s : State) (g : Group) (id code : Nat) : State :=
  let c := lostCause s g code
  match g.lane.find? fun o => o.id == id && o.faults.isEmpty with
  | some o =>
    c.1.setG g.who.gid { g.detach o.flag with lane := g.lane.map fun (x : LaneOp) =>
      if x.id = o.id then { x with faults := (lanesOf x.left).map fun l => (l, c.2) } else x }
  | none =>
    match s.eng.find? fun o => o.id == id && o.gid == g.who.gid && o.fault.isNone with
    | some o => c.1.putEng { o with fault := some c.2, told := false }
    | none =>
      match s.sessions.findSome? fun e => (e.2.passes.find? fun p => p.id == id && p.fault.isNone).map fun p => (e.1, e.2, p) with
      | some (k, ss, p) => if (ss.parts[0]?.map (·.gid)) = some g.who.gid then passFault c.1 k ss p c.2 else s
      | none => s

/-- A reader of a group meets data that cannot be corrected (14 R373; 15 R383): a read in flight fails, an operation of the memory unit is
held, an engine operation stops, a stream traps at its instruction. -/
def readError (s : State) (gid : Nat) (r : Reader) (code : Nat) : State :=
  match s.groups.get? gid with
  | none => s
  | some g =>
    if g.stop == .gone || g.saved then s
    else match r with
      | .stream k => streamError s g k code
      | .op id =>
        match g.pend.find? fun o => o.id == id with
        | some o => if o.reads then failRead s g o code else s
        | none =>
          match g.mu.find? fun o => o.id == id && o.held.isNone with
          | some o =>
            if o.resultQ.isSome then
              let c := lostCause s g code
              holdMu c.1 g o c.2
            else s
          | none => engineError s g id code

/-- Whether a surface's frame in progress shows the Stereotype's substitute of a profile (14 R366, R367). -/
def Surf.draws (x : Surf) (profile : Nat) : Bool :=
  !x.bad && (List.range 8).any fun i =>
    let l := surfLayer x.desc i
    l.en && l.ilvl != 0 && l.profile == profile && x.frame.any fun f => x.proofs.get? (8 * f + i) == some .failed

/-- SRAM_UNCORRECTABLE_ERROR (14 R366, R373; 15 R383; 08 R262): the reader traps, a late store error is counted, or the event is
fatal; that of a bitmap names the owner of the surface that shows it (R401). -/
def execSramUncorrectableError (site : SramSite) (s : State) : Out :=
  match site with
  | .l1 .. | .l2 .. => .next s
  | .reader gid r => .next (readError s gid r 2)
  | .memory gid r => .next (readError s gid r 3)
  | .lateStore gid pc =>
    match s.groups.get? gid with
    | none => .next s
    | some g => if s.writeAt g pc.toNat then .next (s.lateError g pc.toNat) else .next s
  | .control block unit =>
    if 1 ≤ block ∧ block ≤ 6 then .next (s.colophon 6 1 0xFF 0xFF (natLe 1 block ++ natLe 1 unit)) else .next s
  | .bitmap profile entry surf =>
    match s.disp.surfs.get? surf with
    | none => .next s
    | some x =>
      if profile ≤ 63 ∧ entry ≤ 15 ∧ x.draws profile then
        let s : State := { s with disp.stereo := s.disp.stereo.upd profile fun l => l.zipIdx.map fun (b : Bitmap × Nat) =>
          if b.2 = entry then ({ b.1 with bad := true } : Bitmap) else b.1 }
        .next (s.colophon 6 2 0xFF (surfHdr x.desc).vf (natLe 1 profile ++ natLe 1 entry))
      else .next s

/-- 24 hours in ticks. -/
def dayT : Nat := 24 * 3600 * 1000000000 * nsT

/-- MEMORY_SCRUB (15 R383): once every 24 h; what it corrects keeps its value. -/
def execMemoryScrub (s : State) : Out :=
  if (s.rely.scrubs + 1) * dayT ≤ s.tick then .next { s with rely.scrubs := s.rely.scrubs + 1 } else .next s

/-- THERMAL_TRIP (15 R384): a junction at 125 °C is fatal and stops the device. -/
def execThermalTrip (degrees : Nat) (s : State) : Out :=
  if degrees < 125 then .next s
  else
    let s := s.colophon 6 3 0xFF 0xFF (natLe 2 degrees)
    .next { s with rely.stopped := true }

/-- COOLANT_HOT (15 R384): whether the coolant inlet is above 65 °C. -/
def execCoolantHot (hot : Bool) (s : State) : Out :=
  .next { s with regs.hot := hot,
                 galley := if hot then s.galley else s.galley.mapV fun _ y => { y with due := true } }

/-- HOUSEKEEPING_WATCHDOG (14 R374, R401): a fatal event. -/
def execHousekeepingWatchdog (s : State) : Out := .next (s.colophon 6 4 0xFF 0xFF [])

/-! ## Fennel -/

/-- The first register-file bit of a quad that fails and whose row is not spared, by core, slot and row (14 R369). -/
def State.failingBit (s : State) (quad : Nat) : Option Defect :=
  let open_ := s.rely.defects.filter fun d => quadOf d.core == quad &&
    !(s.rely.spares.any fun x => x.core == d.core && x.slot == d.slot && x.row == d.row)
  (sortBy (fun (a b : Defect) =>
    decide ((a.core * 4 + a.slot) * 1536 + a.row ≤ (b.core * 4 + b.slot) * 1536 + b.row)) open_).head?

/-- Spare rows of a slot in use. -/
def State.sparesUsed (s : State) (core slot : Nat) : Nat :=
  (s.rely.spares.filter fun x => x.core == core && x.slot == slot).length

/-- A row goes to the next spare of its slot, with the event of R399 (14 R369). -/
def spareRow (s : State) (quad : Nat) (d : Defect) : State :=
  let n := s.sparesUsed d.core d.slot
  let x : Spare := { core := d.core, slot := d.slot, row := d.row, spare := n }
  let s : State := { s with rely.spares := s.rely.spares ++ [x] }
  let inQuad := d.core / 8 % 2 * 2 + d.core % 2
  s.colophon 5 5 quad 0 (natLe 4 (inQuad + 4 * d.slot + 16 * d.row + 2 ^ 15 * d.bit + 2 ^ 20 * d.lane + 2 ^ 26 * n))

/-- FENNEL_PASS_START (14 R368; 21 R400): a quarantined quad whose pre-emption has completed. -/
def execFennelPassStart (quad : Nat) (s : State) : Out :=
  let q := s.quads.getD quad Quad.reset
  if q.st = 1 ∧ q.ready.isSome ∧ q.preempt.isNone then
    .next { s with quads := setAt s.quads quad { q with st := 2, testing := some s.tick } }
  else .next s

/-- The event of a pass that has ended (21 R399). -/
def passEvent (s : State) (quad passes qpass : Nat) (ok : Bool) : State :=
  s.colophon 5 4 quad 0 (natLe 4 (passes % 256 + (if ok then 256 else 0) + 512 * qpass))

/-- A quad is retired: the event and vector 3 to both physical functions (14 R369). -/
def retireQuad (s : State) (quad : Nat) (q : Quad) : State :=
  let s := passEvent ({ s with quads := setAt s.quads quad { q with st := 3, pass := 0, testing := none } } : State) quad q.passes 0 false
  ((s.colophon 5 7 quad 0 (natLe 1 q.passes)).irq 0 none 3).irq 1 none 3

/-- FENNEL_PASS_END (14 R368, R369; 21 R399, R400): a failing bit is spared, or the quad retires, or the pass counts; three
consecutive passes return the quad to service. -/
def execFennelPassEnd (quad : Nat) (sound : Bool) (s : State) : Out :=
  let q := s.quads.getD quad Quad.reset
  if q.st ≠ 2 ∨ q.testing.isNone then .next s
  else
    let q := { q with passes := q.passes + 1 }
    match s.failingBit quad with
    | some d =>
      if s.sparesUsed d.core d.slot < 4 then
        let q := { q with pass := 0, testing := some s.tick }
        .next (passEvent (spareRow ({ s with quads := setAt s.quads quad q } : State) quad d) quad q.passes 0 false)
      else .next (retireQuad s quad q)
    | none =>
      if !sound then .next (retireQuad s quad q)
      else if q.pass + 1 < 3 then
        let q := { q with pass := q.pass + 1, testing := some s.tick }
        .next (passEvent ({ s with quads := setAt s.quads quad q } : State) quad q.passes q.pass true)
      else
        let q := { q with st := 0, pass := 3, testing := none, ready := none, back := some (s.tick / clkT) }
        .next ((passEvent ({ s with quads := setAt s.quads quad q } : State) quad q.passes 3 true).colophon 5 6 quad 0 (natLe 1 q.passes))

/-! ## Reset -/

/-- The boot pass of a quad (15 R385 step 5): a quad that fails in a register file or elsewhere is quarantined, its failing row spared
where a spare is free. -/
def bootPass (s : State) (quad : Nat) : State :=
  let fails := fun (s : State) => { s with quads := setAt s.quads quad { Quad.reset with st := 1, why := 2, ready := some s.tick } }
  match s.failingBit quad with
  | some d => fails (if s.sparesUsed d.core d.slot < 4 then spareRow s quad d else s)
  | none => if s.rely.broken.contains quad then fails s else s

/-- What a reset keeps: the Colophon, the line bitmaps and row spares of the flash, the Stereotype store, and what lies outside
the device (14 R374; 15 R385). -/
def State.afterReset (s : State) : State :=
  { State.reset with
    host0 := s.host0, host1 := s.host1, peer := s.peer, agenda := s.agenda, fresh := s.fresh + 1, nextId := s.nextId,
    cur := s.cur,
    rely := { Rely.reset with l1off := s.rely.l1off, l2off := s.rely.l2off, retired := s.rely.retired, noL1 := s.rely.noL1,
                              spares := s.rely.spares, defects := s.rely.defects, broken := s.rely.broken,
                              events := s.rely.events },
    regs := { Regs.reset with frozen := s.regs.frozen, clseq := s.regs.clseq },
    disp := { Display.reset with stereoBg := s.disp.stereoBg,
                                 stereo := s.disp.stereo.mapV fun _ l => l.map fun b => { b with bad := false } } }

/-- DEVICE_RESET (15 R385): the housekeeping controller's boot, to its end; whether the firmware image verifies is outside the
device's choice, and one that does not halts the boot at step 1. -/
def execDeviceReset (s : State) : Out :=
  let t := s.afterReset
  if Config.freeBit s.fresh then
    .next ((List.range 24).foldl bootPass { t with regs.boot := 6 })
  else .next { t with dev := s.dev, regs.boot := 17 }

end Sys2Proof.Machine
end

