-- ==== Sys2Proof/Machine/Display.lean ====
section
/-! DEFINITION. The display engine: the surface table, frames, scan-out, composition, the Stereotype, the HUD warp and the Proof
unit (14 R360, R361, R364-R367, R370-R372; 21 R395-R398, R403). -/

namespace Sys2Proof.Machine

/-! ## The surface table -/

/-- Where a surface's descriptor lies (14 R360). -/
def State.surfAt (s : State) (i : Nat) : Nat := s.regs.surfbase.toNat / 64 % 2 ^ 46 * 64 + 448 * i

/-- The bytes of a descriptor. -/
def State.surfBytes (s : State) (i : Nat) : List Byte := s.dev.bytes (s.surfAt i) 448

/-- DP surfaces that are served, and those that wait for their place (14 R360). -/
def State.dpServed (s : State) : Nat := (s.disp.surfs.filter fun e => !e.2.bad && (surfHdr e.2.desc).dp && e.2.served).length

/-- The ignored DP surfaces in the order in which they were found. -/
def State.dpWaiting (s : State) : List Nat :=
  (sortBy (fun (a b : Nat × Surf) => decide (a.2.order ≤ b.2.order))
    (s.disp.surfs.filter fun e => !e.2.bad && (surfHdr e.2.desc).dp && !e.2.served)).map (·.1)

/-- A surface as it is first found enabled. -/
def Surf.new (d : List Byte) (order now : Nat) : Surf :=
  { desc := d, order, served := false, bad := false, frame := none, line := 0, proofs := [], proofT := [], warpFor := none,
    records := [], found := now, met := none }

/-- What is kept by frame, for frames of another length: frame `k` is the one that starts when it did, if there is one (21 R403). -/
def renumber (p q k : Nat) : Option Nat := if (k * p) % q = 0 then some (k * p / q) else none

/-- A surface whose frame period has become another: its frames, their decisions and records are numbered anew (14 R365, R372). -/
def Surf.repaced (x : Surf) (q : Nat) : Surf :=
  let p := (surfHdr x.desc).period
  if p = q ∨ q = 0 then x
  else
    { x with frame := x.frame.bind (renumber p q), met := x.met.bind (renumber p q), warpFor := x.warpFor.bind (renumber p q),
             proofs := x.proofs.filterMap fun e => (renumber p q (e.1 / 8)).map fun k => (8 * k + e.1 % 8, e.2),
             records := x.records.foldl (fun (t : Tbl (List Word)) e => t.set (e.1 * p / q) e.2) [] }

/-- The event of an ignored descriptor (14 R401). -/
def surfEvent (s : State) (i reason : Nat) (d : List Byte) : State :=
  s.colophon 4 1 0xFF (surfHdr d).vf (natLe 1 i ++ natLe 1 reason)

/-- A descriptor that has been read: a disabled surface is gone; one that breaks a rule is ignored, with one event; a DP surface
beyond 16 is ignored (14 R360; 21 R403). -/
def readSurf (s : State) (i : Nat) (d : List Byte) : State :=
  let put := fun (s : State) (x : Surf) => { s with disp.surfs := s.disp.surfs.set i x }
  if !(surfHdr d).en then { s with disp.surfs := s.disp.surfs.del i }
  else
    let old := s.disp.surfs.get? i
    let x := old.getD (Surf.new d s.disp.order s.time)
    let s : State := if old.isNone then { s with disp.order := s.disp.order + 1 } else s
    let x := { x.repaced (surfHdr d).period with desc := d }
    if !surfOk d then
      let s := if old.isSome && x.bad then s else surfEvent s i 1 d
      put s { x with bad := true, served := false, frame := none }
    else if !(surfHdr d).dp then put s { x with bad := false, served := true }
    else
      let was := (old.map fun (o : Surf) => !o.bad && (surfHdr o.desc).dp).getD false
      if was then put s { x with bad := false }
      else if s.dpServed + s.dpWaiting.length < 16 then put s { x with bad := false, served := true }
      else surfEvent (put s { x with bad := false, served := false, frame := none }) i 2 d

/-- SURFACE_TABLE_READ (21 R403): at each multiple of 1,000,000 ns every descriptor is read; those found disabled or ignored make
their places free first. -/
def execSurfaceTableRead (s : State) : Out :=
  let m := s.time / 1000000
  if !s.booted || s.disp.lastRead == some m then .next s
  else if usable < s.surfAt 64 then .fault (.noSuchAddress (s.surfAt 64))
  else
    let off := fun (i : Nat) => let d := s.surfBytes i; !(surfHdr d).en || !surfOk d
    let ix := List.range 64
    let t := (ix.filter off ++ ix.filter fun i => !off i).foldl (fun (t : State) i => readSurf t i (s.surfBytes i)) s
    .next { t with disp.lastRead := some m }

/-- The record that applies to a frame: the one latched for it, or the last one latched before (14 R371, R372). -/
def Surf.record? (x : Surf) (frame : Nat) : Option (Nat × List Word) := (x.records.filter fun e => decide (e.1 ≤ frame)).getLast?

/-- The records that frames from one on may need. -/
def Surf.keptFrom (x : Surf) (frame : Nat) : Tbl (List Word) :=
  x.records.filter fun e => decide (((x.record? frame).map (·.1)).getD frame ≤ e.1)

/-- FRAME_START (21 R403; 14 R360): the descriptor is read; a DP surface takes its place, the free ones going to those that waited
longest; the frame begins. Each frame starts once: what frees a place later is met at the next frame. -/
def execFrameStart (surf : Nat) (s : State) : Out :=
  match s.disp.surfs.get? surf with
  | none => .next s
  | some x =>
    let p := (surfHdr x.desc).period
    let f := s.time / p
    if 64 ≤ surf ∨ x.bad ∨ x.met = some f ∨ f * p ≤ x.found then .next s
    else if usable < s.surfAt (surf + 1) then .fault (.noSuchAddress (s.surfAt surf))
    else
      let s := readSurf s surf (s.surfBytes surf)
      match s.disp.surfs.get? surf with
      | none => .next s
      | some y =>
        let q := (surfHdr y.desc).period
        let f' := s.time / q
        let takes := !y.served && (s.dpWaiting.take (16 - s.dpServed)).contains surf
        let y := if takes then { y with served := true } else y
        let go := !y.bad && y.served && f' * q == f * p
        let y : Surf := if go then { y with frame := some f', line := 0, proofs := y.proofs.filter (fun e => decide (8 * f' ≤ e.1)),
                                            records := y.keptFrom f' }
          else { y with frame := none }
        .next { s with disp.surfs := s.disp.surfs.set surf { y with met := some f' } }

/-! ## Composition -/

/-- A channel under source-over: s + RoundHalfEven((255 − α)·d / 255), saturating (14 R361). -/
def overChan (sc alpha dc : Nat) : Nat :=
  let n := (255 - alpha) * dc
  min 255 (sc + (if 255 < 2 * (n % 255) then n / 255 + 1 else n / 255))

/-- Channel `c` of an RGBA8 pixel, R lowest. -/
def chan (w : Word) (c : Nat) : Nat := w.toNat / 2 ^ (8 * c) % 256

/-- A pixel over another (14 R361). -/
def sourceOver (src dst : Word) : Word :=
  BitVec.ofNat 32 ((List.range 4).map fun c => overChan (chan src c) (chan src 3) (chan dst c) * 2 ^ (8 * c)).sum

/-- Opaque black. -/
def black : Word := 0xFF000000

/-- A pixel of the Stereotype's substitute: the profile's background under its tell-tales in entry order, without those that an
error has hit (14 R366). -/
def State.stereoPixel (s : State) (profile : Nat) (x y : Int) : Word :=
  ((s.disp.stereo.getD profile []).take 16).foldl (fun (w : Word) (b : Bitmap) =>
    let u := x - b.x
    let v := y - b.y
    if b.bad || decide (u < 0 ∨ v < 0 ∨ (b.w : Int) ≤ u ∨ (b.h : Int) ≤ v) then w
    else sourceOver (b.pix.getD (v.toNat * b.w + u.toNat) 0) w) (s.disp.stereoBg.getD profile 0)

/-- A word of the space of a surface's owner, as the display engine reads it; one that cannot be read is a free value
(notes/assumptions/39.md). -/
def State.ownerWord (s : State) (vf va : Nat) : Word :=
  match (s.readVa vf true (va % 2 ^ 64) 4).2 with
  | .ok b => wordAt b 0
  | .error _ => Config.freeWord (s.fresh + va)

/-- The display engine's reads of words of its owner's space set their pages' A bits (10 R293). -/
def State.touchWords (s : State) (vf : Nat) (vas : List Nat) : State :=
  (dedup (vas.map fun va => va % 2 ^ 64 / 2 ^ 14)).foldl (fun s p => (s.readVa vf true (p * 2 ^ 14) 4).1) s

/-- The address of the word that layer `i` of a frame shows at a pixel, if it shows one from memory (14 R361, R365). -/
def Surf.layerVa (x : Surf) (frame i : Nat) (px py : Int) : Option Nat :=
  let l := surfLayer x.desc i
  let u := px - l.x
  let v := py - l.y
  let at_ := fun (base : Nat) => base + l.pitch * v.toNat + 4 * u.toNat
  if !l.en || decide (u < 0 ∨ v < 0 ∨ (l.w : Int) ≤ u ∨ (l.h : Int) ≤ v) then none
  else if l.ilvl = 0 then some (at_ l.base)
  else match x.proofs.get? (8 * frame + i) with
    | some (.proved b) => some (at_ (if b = 1 then addDelta l.base l.bdelta else l.base))
    | _ => none

/-- A pixel that layer `i` of a frame gives the surface, none outside its rectangle (14 R361, R365). -/
def State.layerPixel (s : State) (x : Surf) (frame i : Nat) (px py : Int) : Option Word :=
  let l := surfLayer x.desc i
  let u := px - l.x
  let v := py - l.y
  match x.layerVa frame i px py with
  | some va => some (s.ownerWord (surfHdr x.desc).vf va)
  | none =>
    if !l.en || decide (u < 0 ∨ v < 0 ∨ (l.w : Int) ≤ u ∨ (l.h : Int) ≤ v) then none
    else some (s.stereoPixel l.profile u v)

/-- A pixel of the composed surface: layers 0 to 7 over opaque black (14 R361). -/
def State.composed (s : State) (x : Surf) (frame : Nat) (px py : Int) : Word :=
  (List.range 8).foldl (fun (w : Word) i =>
    match s.layerPixel x frame i px py with
    | some p => sourceOver p w
    | none => w) black

/-! ## The HUD warp -/

/-- The calibration table of a surface (14 R370), word by word. -/
def State.calWord (s : State) (x : Surf) (o : Nat) : Nat :=
  let h := surfHdr x.desc
  (s.ownerWord h.vf (h.warpva + o)).toNat

/-- Word `i` of the record that applies to a frame: the last one latched for it or before; free while none has been
(14 R371; notes/assumptions/39.md). -/
def State.recordWord (s : State) (x : Surf) (frame i : Nat) : Nat :=
  ((((x.record? frame).map (·.2)).getD []).getD i (Config.freeWord (s.fresh + i))).toNat

/-- The squared distance of a grid's eye from the record's (14 R372). -/
def State.gridDist (s : State) (x : Surf) (frame g : Nat) : Nat :=
  let d := (List.range 3).map fun c => rnSub (s.calWord x (4504 * g + 4 * c)) (s.recordWord x frame (1 + c))
  let q := d.map fun a => rnMul a a
  rnAdd (rnAdd (q.getD 0 0) (q.getD 1 0)) (q.getD 2 0)

/-- The two grids nearest the eye with their squared distances, ties to the lower index. -/
def State.nearGrids (s : State) (x : Surf) (frame : Nat) : List (Nat × Nat) :=
  (sortBy (fun (a b : Nat × Nat) => fCmp f32 false a.2 b.2 != some .gt)
    ((List.range 8).map fun g => (g, s.gridDist x frame g))).take 2

/-- A bilinear mix in binary32: cell, fractions, and the four values of the cell. -/
def mix4 (fx fy t00 t10 t01 t11 : Nat) : Nat :=
  let nx := rnSub one32 fx
  let ny := rnSub one32 fy
  rnAdd (rnMul (rnAdd (rnMul nx t00) (rnMul fx t10)) ny) (rnMul (rnAdd (rnMul nx t01) (rnMul fx t11)) fy)

/-- A fraction of a binary32 above its floor. -/
def fracOf (x : Nat) (i : Int) : Nat := rnSub x (intToF f32 .rn false i).1

/-- Component `c` of a grid's displacement at a point (14 R370, R372): nodes lie at (i·W/32, j·H/16). -/
def State.gridAt (s : State) (x : Surf) (g c px py : Nat) : Nat :=
  let h := surfHdr x.desc
  let u := rnDiv (rnMul px (natF32 32)) (natF32 h.w)
  let v := rnDiv (rnMul py (natF32 16)) (natF32 h.h)
  let i := (min (max (floor32 u) 0) 31).toNat
  let j := (min (max (floor32 v) 0) 15).toNat
  let node := fun (i j : Nat) => s.calWord x (4504 * g + 16 + 8 * (33 * j + i) + 4 * c)
  mix4 (fracOf u i) (fracOf v j) (node i j) (node (i + 1) j) (node i (j + 1)) (node (i + 1) (j + 1))

/-- The product of 3 × 3 matrices, rows of words, each term rounded from the left. -/
def mul33 (a b : List Nat) : List Nat :=
  ((List.range 3).map fun i => (List.range 3).map fun j =>
    let t := fun k => rnMul (a.getD (3 * i + k) 0) (b.getD (3 * k + j) 0)
    rnAdd (rnAdd (t 0) (t 1)) (t 2)).flatten

/-- The rotation about an axis (0 x, 1 y, 2 z) by an angle in radians, sine and cosine within R93. -/
def rot33 (axis angle : Nat) : List Nat :=
  let w : Word := BitVec.ofNat 32 angle
  let sn := (aTrig false w).bits
  let cs := (aTrig true w).bits
  let ns := f32.flip sn
  match axis with
  | 0 => [one32, 0, 0, 0, cs, ns, 0, sn, cs]
  | 1 => [cs, 0, sn, 0, one32, 0, ns, 0, cs]
  | _ => [cs, ns, 0, sn, cs, 0, 0, 0, one32]

/-- H := HBASE · Rz(roll) · Rx(pitch) · Ry(yaw) (14 R372). -/
def State.warpMatrix (s : State) (x : Surf) (frame : Nat) : List Nat :=
  let r := fun i => s.recordWord x frame i
  mul33 (mul33 (mul33 ((List.range 9).map fun i => s.calWord x (36032 + 4 * i)) (rot33 2 (r 6))) (rot33 0 (r 5))) (rot33 1 (r 4))

/-- A bilinear sample of the composed surface in one channel, 0 outside it (14 R372). -/
def State.sampleChan (s : State) (x : Surf) (frame c u v : Nat) : Nat :=
  let h := surfHdr x.desc
  if !fin32 u || !fin32 v then 0
  else
    let a := rnSub u 0x3F000000
    let b := rnSub v 0x3F000000
    let i := floor32 a
    let j := floor32 b
    let t := fun (i j : Int) =>
      if 0 ≤ i ∧ i < (h.w : Int) ∧ 0 ≤ j ∧ j < (h.h : Int) then natF32 (chan (s.composed x frame i j) c) else 0
    let m := mix4 (fracOf a i) (fracOf b j) (t i j) (t (i + 1) j) (t i (j + 1)) (t (i + 1) (j + 1))
    (fToInt .rn (f32.val m) 0 255).1.toNat

/-- The point of the composed surface that a pixel of the warped output shows (14 R372). -/
def State.warpPoint (s : State) (x : Surf) (frame px py : Nat) : Nat × Nat :=
  let half := 0x3F000000
  let cx := rnAdd (natF32 px) half
  let cy := rnAdd (natF32 py) half
  let gs := s.nearGrids x frame
  let g0 := gs.getD 0 (0, 0)
  let g1 := gs.getD 1 (0, 0)
  let d0 := (fSqrt f32 .rn false g0.2).bits
  let d1 := (fSqrt f32 .rn false g1.2).bits
  let sum := rnAdd d0 d1
  let w1 := if (f32.val sum).isZero then 0 else rnDiv d0 sum
  let q := (List.range 2).map fun c =>
    rnAdd (if c = 0 then cx else cy)
      (rnAdd (rnMul (rnSub one32 w1) (s.gridAt x g0.1 c cx cy)) (rnMul w1 (s.gridAt x g1.1 c cx cy)))
  let m := s.warpMatrix x frame
  let row := fun i => rnAdd (rnAdd (rnMul (m.getD (3 * i) 0) (q.getD 0 0)) (rnMul (m.getD (3 * i + 1) 0) (q.getD 1 0)))
    (m.getD (3 * i + 2) 0)
  (rnDiv (row 0) (row 2), rnDiv (row 1) (row 2))

/-- A pixel of the warped output (14 R372). -/
def State.warped (s : State) (x : Surf) (frame px py : Nat) : Word :=
  let p := s.warpPoint x frame px py
  BitVec.ofNat 32 ((List.range 4).map fun c => s.sampleChan x frame c p.1 p.2 * 2 ^ (8 * c)).sum

/-- The pixels that a bilinear sample takes (14 R372). -/
def samplePts (u v : Nat) : List (Int × Int) :=
  if !fin32 u || !fin32 v then []
  else
    let i := floor32 (rnSub u 0x3F000000)
    let j := floor32 (rnSub v 0x3F000000)
    [(i, j), (i + 1, j), (i, j + 1), (i + 1, j + 1)]

/-- The addresses that the display engine reads for a line of a frame: the layers' words of the pixels that it shows, and through the
warp the calibration table, 36,068 bytes (14 R361, R370, R372). -/
def State.lineVas (s : State) (x : Surf) (frame line : Nat) : List Nat :=
  let h := surfHdr x.desc
  let warp := h.dp && h.warp
  let pts : List (Int × Int) := if warp then ((List.range h.w).map fun px =>
      let p := s.warpPoint x frame px line
      (samplePts p.1 p.2).filter fun q => decide (0 ≤ q.1 ∧ q.1 < (h.w : Int) ∧ 0 ≤ q.2 ∧ q.2 < (h.h : Int))).flatten
    else (List.range h.w).map fun (px : Nat) => ((px : Int), (line : Int))
  (pts.map fun q => (List.range 8).filterMap fun i => x.layerVa frame i q.1 q.2).flatten ++
    if warp then ((List.range 3).map fun i => h.warpva + 2 ^ 14 * i) ++ [h.warpva + 36064] else []

/-- WARP_LATCH (14 R371): LATCH before a frame's first visible line the mailbox is read; a record with an even SEQ is latched for
that frame. -/
def execWarpLatch (surf : Nat) (s : State) : Out :=
  match s.disp.surfs.get? surf with
  | none => .next s
  | some x =>
    let h := surfHdr x.desc
    let c : Int := (h.lineNs h.first : Int) - 1000 * (h.latch : Int)
    let f := (((s.time : Int) - c) / (h.period : Int)).toNat
    if x.bad ∨ !x.served ∨ !h.dp ∨ !h.warp ∨ x.warpFor = some f ∨ f * h.period ≤ x.found then .next s
    else
      let r := s.readVa h.vf true h.mailva 64
      let s := r.1
      let rec_ := match r.2 with
        | .ok b => some ((List.range 16).map fun i => wordAt b (4 * i))
        | .error _ => none
      let even := rec_.filter fun r => !(r.getD 0 0).getLsbD 0
      let y := { x with warpFor := some f, records := match even with
        | some r => x.records.set f r
        | none => x.records }
      .next { s with disp.surfs := s.disp.surfs.set surf y }

/-- SCANOUT_LINE (14 R361, R370; 21 R403): the next visible line of the frame is composed and written to OUTVA, or goes through the
warp to the DP stream. -/
def execScanoutLine (surf : Nat) (s : State) : Out :=
  match s.disp.surfs.get? surf with
  | none => .next s
  | some x =>
    let h := surfHdr x.desc
    match x.frame with
    | none => .next s
    | some f =>
      if x.bad || !x.served || h.h ≤ x.line || decide (s.time < f * h.period + h.lineNs (h.first + x.line)) then .next s
      else
        let pix := (List.range h.w).map fun px =>
          if h.dp && h.warp then s.warped x f px x.line else s.composed x f px x.line
        let s := s.touchWords h.vf (s.lineVas x f x.line)
        let s : State := { s with disp.surfs := s.disp.surfs.set surf { x with line := x.line + 1 }, fresh := s.fresh + 1 }
        if h.dp then .next { s with disp.out := s.disp.out.set (4 * h.output + h.mst) pix }
        else .next (s.writeVaBlk h.vf true none (h.outva + 4 * h.w * x.line) (pix.map wBytes).flatten).1

/-! ## The Proof unit -/

/-- Whether a layer shows a pixel on its surface (14 R365). -/
def Layer.shows (l : Layer) (h : SurfHdr) : Bool :=
  decide (l.x < (h.w : Int) ∧ 0 < l.x + (l.w : Int) ∧ l.y < (h.h : Int) ∧ 0 < l.y + (l.h : Int))

/-- The proof point of a layer, in ns from its frame's start (14 R365; 21 R395). -/
def proofNs (h : SurfHdr) (l : Layer) : Int :=
  let j := if h.warp then h.first else h.first + (max l.y 0).toNat
  (h.lineNs j : Int) - 1000 * (h.plead : Int)

/-- How the entries of a pair stand (14 R365). -/
inductive Pair where
  | agree
  | mismatch (i p q pw qw : Nat)
  | unsigned
  deriving DecidableEq, Repr

/-- A signature entry: its place and its 64 bits, none where it cannot be read, with what its walk sets (10 R293). -/
def State.sigEntry (s : State) (vf va : Nat) : State × Option (Loc × Nat) :=
  match globalAt s vf true { code := 3 } 0 (va % 2 ^ 64) with
  | (s, .ok l) => (s, some (l, s.readLoc l 8))
  | (s, .error _) => (s, none)

/-- Whether an entry is signed by a launch (14 R365; 07 R237). -/
def signedBy (r : Render) (e : Nat) : Bool :=
  e / 2 ^ 32 % 2 == 1 && e / 2 ^ 33 % 128 == r.qslot % 128 && e / 2 ^ 40 % 65536 == r.serial % 65536

/-- Pair `i` of the P and S tables (14 R365). -/
def State.pair (s : State) (vf : Nat) (l : Layer) (r : Render) (i : Nat) : State × Pair :=
  let p := if r.buf = 1 then addDelta l.sigbase l.bdelta else l.sigbase
  let writer := fun (at_ : Loc) => ((s.disp.sigQuad.find? fun e => e.1.same at_).map (·.2)).getD 0xFF
  let a := s.sigEntry vf (p + 8 * i)
  let b := a.1.sigEntry vf (addDelta p l.sdelta + 8 * i)
  (b.1, match a.2, b.2 with
  | some a, some b =>
    if !(signedBy r a.2 && signedBy r b.2) then .unsigned
    else if a.2 % 2 ^ 32 = b.2 % 2 ^ 32 then .agree
    else .mismatch i (a.2 % 2 ^ 32) (b.2 % 2 ^ 32) (writer a.1) (writer b.1)
  | _, _ => .unsigned)

/-- The pairs of a layer's tables, in order. -/
def State.pairs (s : State) (vf : Nat) (l : Layer) (r : Render) : State × List Pair :=
  (List.range (l.tiles.1 * l.tiles.2)).foldl (fun (x : State × List Pair) i =>
    let p := x.1.pair vf l r i
    (p.1, x.2 ++ [p.2])) (s, [])

/-- A quad in service becomes quarantined for a proof mismatch, and a pre-emption request goes to it (21 R398). -/
def quarantine (s : State) (quad : Nat) : State :=
  let q := s.quads.getD quad Quad.reset
  ({ s with quads := setAt s.quads quad { q with st := 1, why := 1, pass := 0, passes := 0, testing := none } } : State).askQuad
    quad

/-- A frame of a layer fails (14 R367; 21 R398, R399): quads are quarantined, events are written, vector 1 is raised. -/
def failFrame (s : State) (surf layer : Nat) (h : SurfHdr) (bad : List Pair) : State :=
  let ix := surf + 64 * layer
  let named := (bad.map fun (m : Pair) => match m with
    | .mismatch _ _ _ a b => [a, b]
    | _ => []).flatten
  let quads := (List.range 24).filter fun q => named.contains q && s.inService q
  let s := quads.foldl quarantine s
  let s := bad.foldl (fun (s : State) m => match m with
    | .mismatch i p q a b => s.colophon 5 1 a h.vf (natLe 4 (ix + 512 * i) ++ natLe 4 p ++ natLe 4 q ++ natLe 1 b)
    | _ => s) s
  let s := s.colophon 5 2 0xFF h.vf (natLe 4 (ix + (if bad.isEmpty then 512 else 0)))
  let s := quads.foldl (fun (s : State) q => s.colophon 5 3 q h.vf (natLe 4 ix)) s
  s.irq h.port none 1

/-- PROOF_POINT (14 R365, R367; 21 R395-R398): the decision for a layer and a frame. -/
def execProofPoint (surf layer : Nat) (s : State) : Out :=
  match s.disp.surfs.get? surf with
  | none => .next s
  | some x =>
    let h := surfHdr x.desc
    let l := surfLayer x.desc layer
    let c := proofNs h l
    let f := (((s.time : Int) - c) / (h.period : Int)).toNat
    let key := 8 * f + layer
    let clk := (((f * h.period : Nat) : Int) + c).toNat * nsT / clkT
    if x.bad ∨ !x.served ∨ 8 ≤ layer ∨ !l.en ∨ l.ilvl = 0 ∨ !l.shows h ∨ (x.proofs.get? key).isSome ∨ f * h.period ≤ x.found then
      .next s
    else
      let last := x.proofT.getD layer 0
      let mine := fun (r : Render) => r.surface == surf && r.layer == layer
      let found := (s.disp.renders.filter fun r =>
        mine r && decide (last ≤ r.time / clkT) && decide (r.time / clkT < clk)).getLast?
      let (s, pairs) := match found with
        | some r => s.pairs h.vf l r
        | none => (s, [.unsigned])
      let bad := pairs.filter fun (p : Pair) => match p with
        | .mismatch .. => true
        | _ => false
      let ok := pairs.all fun (p : Pair) => p == .agree
      let decision : Proof := match found with
        | some r => if ok then .proved r.buf else .failed
        | none => .failed
      let y := { x with proofs := x.proofs.set key decision, proofT := x.proofT.set layer clk }
      let s : State := { s with
        disp.surfs := s.disp.surfs.set surf y,
        disp.renders := s.disp.renders.filter fun r => !mine r || decide (clk ≤ r.time / clkT) }
      .next (if ok then s else failFrame s surf layer h bad)

end Sys2Proof.Machine
end

