-- ==== Sys2Proof/Machine/FeedA.lean ====
section
/-! DEFINITION. Feeding the C-stream and reading it back (04 R121, R122), with what happens once the C-stream has ended
(08 R402). -/

namespace Sys2Proof.Machine

/-- A region index pushed into the CLQ: it waits while the queue is full; after the C-stream's end it counts as a region that
has ended (04 R121, 08 R402). -/
def pushClq (s : State) (g : Group) (x : Word) : Res :=
  if g.cEnded then .done (s.putG { g.adv with pushed := g.pushed + 1, ended := g.ended + 1 })
  else if (s.pk g).depth 5 ≤ g.occ 5 then .wait (.queue 5) s
  else
    let e : SEntry := { val := x &&& 0x3FFFFF, need := g.aPend }
    .done (s.putG { g.adv with q.clq := g.q.clq ++ [e], pushed := g.pushed + 1, lastQ := s.tick })

/-- CLS pushes its immediate as a region index. -/
def execCls (imm : BitVec 20) : State → Out := aIssue (.cls imm) fun g s => pushClq s g (zext32 imm)

/-- CLSR pushes bits [21:0] of a register. -/
def execClsr (a : BitVec 6) : State → Out := aIssue (.clsr a) fun g s => pushClq s g (g.ra a.toNat)

/-- SPUSH pushes a register into the SVQ; after the C-stream's end the entry is discarded. -/
def execSpush (a : BitVec 6) : State → Out :=
  aIssue (.spush a) fun g s =>
    if g.cEnded then .done (s.putG g.adv)
    else if (s.pk g).depth 4 ≤ g.occ 4 then .wait (.queue 4) s
    else
      let e : SEntry := { val := g.ra a.toNat, need := g.aPend }
      .done (s.putG { g.adv with q.svq := g.q.svq ++ [e], lastQ := s.tick })

/-- BPOP waits for an entry of the BQ whose earlier near-memory operations have been performed, then writes and removes it
(04 R122, 09 R280). -/
def execBpop (d : BitVec 6) : State → Out :=
  aIssue (.bpop d) fun g s =>
    match g.q.bq with
    | [] => .wait (.queue 9) s
    | e :: r =>
      if g.performed e.need then
        .done (s.putG { (g.wa d.toNat e.val).adv with q.bq := r, lastQ := s.tick })
      else .wait .other s

end Sys2Proof.Machine
end

