-- ==== Sys2Proof/Machine/Dispatch.lean ====
section
/-! DEFINITION. One arm per constructor of Instr: the meaning of each row of the opcode table. -/

namespace Sys2Proof.Machine

def exec (i : Instr) (s : State) : Host.Outcome State Fault Refusal :=
  match i with
  | .add d a b => Sys2Proof.Machine.execAdd d a b s
  | .sub d a b => Sys2Proof.Machine.execSub d a b s
  | .and d a b => Sys2Proof.Machine.execAnd d a b s
  | .or d a b => Sys2Proof.Machine.execOr d a b s
  | .xor d a b => Sys2Proof.Machine.execXor d a b s
  | .andn d a b => Sys2Proof.Machine.execAndn d a b s
  | .shlA d a b => Sys2Proof.Machine.execShlA d a b s
  | .shrA d a b => Sys2Proof.Machine.execShrA d a b s
  | .sra d a b => Sys2Proof.Machine.execSra d a b s
  | .rot d a b => Sys2Proof.Machine.execRot d a b s
  | .slt d a b => Sys2Proof.Machine.execSlt d a b s
  | .sltu d a b => Sys2Proof.Machine.execSltu d a b s
  | .min d a b => Sys2Proof.Machine.execMin d a b s
  | .max d a b => Sys2Proof.Machine.execMax d a b s
  | .minu d a b => Sys2Proof.Machine.execMinu d a b s
  | .maxu d a b => Sys2Proof.Machine.execMaxu d a b s
  | .mul d a b => Sys2Proof.Machine.execMul d a b s
  | .mulh d a b => Sys2Proof.Machine.execMulh d a b s
  | .mulhu d a b => Sys2Proof.Machine.execMulhu d a b s
  | .div d a b => Sys2Proof.Machine.execDiv d a b s
  | .divu d a b => Sys2Proof.Machine.execDivu d a b s
  | .rem d a b => Sys2Proof.Machine.execRem d a b s
  | .remu d a b => Sys2Proof.Machine.execRemu d a b s
  | .clzA d a => Sys2Proof.Machine.execClzA d a s
  | .popcA d a => Sys2Proof.Machine.execPopcA d a s
  | .brevA d a => Sys2Proof.Machine.execBrevA d a s
  | .sextb d a => Sys2Proof.Machine.execSextb d a s
  | .sexth d a => Sys2Proof.Machine.execSexth d a s
  | .bfeA d a b => Sys2Proof.Machine.execBfeA d a b s
  | .bfiA d a b => Sys2Proof.Machine.execBfiA d a b s
  | .addi d a imm => Sys2Proof.Machine.execAddi d a imm s
  | .andi d a imm => Sys2Proof.Machine.execAndi d a imm s
  | .ori d a imm => Sys2Proof.Machine.execOri d a imm s
  | .xori d a imm => Sys2Proof.Machine.execXori d a imm s
  | .slti d a imm => Sys2Proof.Machine.execSlti d a imm s
  | .sltiu d a imm => Sys2Proof.Machine.execSltiu d a imm s
  | .shli d a sh => Sys2Proof.Machine.execShli d a sh s
  | .shri d a sh => Sys2Proof.Machine.execShri d a sh s
  | .srai d a sh => Sys2Proof.Machine.execSrai d a sh s
  | .roti d a sh => Sys2Proof.Machine.execRoti d a sh s
  | .lui d imm => Sys2Proof.Machine.execLui d imm s
  | .muli d a imm => Sys2Proof.Machine.execMuli d a imm s
  | .beq a b off => Sys2Proof.Machine.execBeq a b off s
  | .bne a b off => Sys2Proof.Machine.execBne a b off s
  | .blt a b off => Sys2Proof.Machine.execBlt a b off s
  | .bge a b off => Sys2Proof.Machine.execBge a b off s
  | .bltu a b off => Sys2Proof.Machine.execBltu a b off s
  | .bgeu a b off => Sys2Proof.Machine.execBgeu a b off s
  | .jal d imm => Sys2Proof.Machine.execJal d imm s
  | .jalr d a imm => Sys2Proof.Machine.execJalr d a imm s
  | .dbnz a off => Sys2Proof.Machine.execDbnz a off s
  | .cls imm => Sys2Proof.Machine.execCls imm s
  | .clsr a => Sys2Proof.Machine.execClsr a s
  | .spush a => Sys2Proof.Machine.execSpush a s
  | .bpop d => Sys2Proof.Machine.execBpop d s
  | .ldv byp ord q k ai off => Sys2Proof.Machine.execLdv byp ord q k ai off s
  | .ldg byp ord q k ai off => Sys2Proof.Machine.execLdg byp ord q k ai off s
  | .stv ord q k ai off => Sys2Proof.Machine.execStv ord q k ai off s
  | .stx ord q k ai off => Sys2Proof.Machine.execStx ord q k ai off s
  | .lda d k ai ord off => Sys2Proof.Machine.execLda d k ai ord off s
  | .sta v k ai ord off => Sys2Proof.Machine.execSta v k ai ord off s
  | .prf l2 k ai off => Sys2Proof.Machine.execPrf l2 k ai off s
  | .atv op q k ret sdq ord scope => Sys2Proof.Machine.execAtv op q k ret sdq ord scope s
  | .ata op d k ai x y ord scope => Sys2Proof.Machine.execAta op d k ai x y ord scope s
  | .bld r a imm => Sys2Proof.Machine.execBld r a imm s
  | .bset r a fn => Sys2Proof.Machine.execBset r a fn s
  | .tld r a imm => Sys2Proof.Machine.execTld r a imm s
  | .cpyBar src dst c nb scope opt => Sys2Proof.Machine.execCpyBar src dst c nb scope opt s
  | .cpyCnt src dst c k scope opt => Sys2Proof.Machine.execCpyCnt src dst c k scope opt s
  | .cwait a b => Sys2Proof.Machine.execCwait a b s
  | .yieldc a b => Sys2Proof.Machine.execYieldc a b s
  | .binit a nb => Sys2Proof.Machine.execBinit a nb s
  | .barv nb => Sys2Proof.Machine.execBarv nb s
  | .bwaita nb => Sys2Proof.Machine.execBwaita nb s
  | .barvw nb => Sys2Proof.Machine.execBarvw nb s
  | .bexp a nb => Sys2Proof.Machine.execBexp a nb s
  | .btry d nb => Sys2Proof.Machine.execBtry d nb s
  | .fenceAcq scope eng => Sys2Proof.Machine.execFenceAcq scope eng s
  | .fenceRel scope eng => Sys2Proof.Machine.execFenceRel scope eng s
  | .fenceAcqrel scope eng => Sys2Proof.Machine.execFenceAcqrel scope eng s
  | .mxbind vb fa fb dist fo tiles prio q nb => Sys2Proof.Machine.execMxbind vb fa fb dist fo tiles prio q nb s
  | .mxloop ta c z ks mr o ob acc epi => Sys2Proof.Machine.execMxloop ta c z ks mr o ob acc epi s
  | .mxconv ti tc c z ks mr o ob acc epi => Sys2Proof.Machine.execMxconv ti tc c z ks mr o ob acc epi s
  | .mxsel z k big o ob => Sys2Proof.Machine.execMxsel z k big o ob s
  | .mxrel => Sys2Proof.Machine.execMxrel s
  | .mxstat d => Sys2Proof.Machine.execMxstat d s
  | .cover eo bs f k t o nb => Sys2Proof.Machine.execCover eo bs f k t o nb s
  | .ralloc d a b => Sys2Proof.Machine.execRalloc d a b s
  | .rcommit a b => Sys2Proof.Machine.execRcommit a b s
  | .rdone a => Sys2Proof.Machine.execRdone a s
  | .rinput d a => Sys2Proof.Machine.execRinput d a s
  | .rdepth d => Sys2Proof.Machine.execRdepth d s
  | .tstore ts td p nb sig => Sys2Proof.Machine.execTstore ts td p nb sig s
  | .waitf mask => Sys2Proof.Machine.execWaitf mask s
  | .nop => Sys2Proof.Machine.execNop s
  | .rdsr d idx => Sys2Proof.Machine.execRdsr d idx s
  | .wrsr a idx => Sys2Proof.Machine.execWrsr a idx s
  | .trap code => Sys2Proof.Machine.execTrap code s
  | .tret => Sys2Proof.Machine.execTret s
  | .exit => Sys2Proof.Machine.execExit s
  | .yield => Sys2Proof.Machine.execYield s
  | .csync => Sys2Proof.Machine.execCsync s
  | .haltd => Sys2Proof.Machine.execHaltd s
  | .rdtime d => Sys2Proof.Machine.execRdtime d s
  | .fadd rm ftz d a b x => Sys2Proof.Machine.execFadd rm ftz d a b x s
  | .fsub rm ftz d a b x => Sys2Proof.Machine.execFsub rm ftz d a b x s
  | .fmul rm ftz d a b x => Sys2Proof.Machine.execFmul rm ftz d a b x s
  | .ffma rm ftz d a b c x => Sys2Proof.Machine.execFfma rm ftz d a b c x s
  | .fmin ftz d a b x => Sys2Proof.Machine.execFmin ftz d a b x s
  | .fmax ftz d a b x => Sys2Proof.Machine.execFmax ftz d a b x s
  | .fminn ftz d a b x => Sys2Proof.Machine.execFminn ftz d a b x s
  | .fmaxn ftz d a b x => Sys2Proof.Machine.execFmaxn ftz d a b x s
  | .fset cnd ftz d a b x => Sys2Proof.Machine.execFset cnd ftz d a b x s
  | .fclamp ftz d a lo hi x => Sys2Proof.Machine.execFclamp ftz d a lo hi x s
  | .frnd rm ftz d a x => Sys2Proof.Machine.execFrnd rm ftz d a x s
  | .fclass d a x => Sys2Proof.Machine.execFclass d a x s
  | .fldexp rm ftz d a n x => Sys2Proof.Machine.execFldexp rm ftz d a n x s
  | .fexpo ftz d a x => Sys2Proof.Machine.execFexpo ftz d a x s
  | .fdiv rm ftz d a b x => Sys2Proof.Machine.execFdiv rm ftz d a b x s
  | .fsqrt rm ftz d a x => Sys2Proof.Machine.execFsqrt rm ftz d a x s
  | .frcp d a x => Sys2Proof.Machine.execFrcp d a x s
  | .frsq d a x => Sys2Proof.Machine.execFrsq d a x s
  | .fexp2 d a x => Sys2Proof.Machine.execFexp2 d a x s
  | .flog2 d a x => Sys2Proof.Machine.execFlog2 d a x s
  | .fsin d a x => Sys2Proof.Machine.execFsin d a x s
  | .fcos d a x => Sys2Proof.Machine.execFcos d a x s
  | .flerp rm ftz d a b t x => Sys2Proof.Machine.execFlerp rm ftz d a b t x s
  | .fdot3 rm ftz d a b x => Sys2Proof.Machine.execFdot3 rm ftz d a b x s
  | .hadd2 bf rm ftz d a b x => Sys2Proof.Machine.execHadd2 bf rm ftz d a b x s
  | .hmul2 bf rm ftz d a b x => Sys2Proof.Machine.execHmul2 bf rm ftz d a b x s
  | .hfma2 bf rm ftz d a b c x => Sys2Proof.Machine.execHfma2 bf rm ftz d a b c x s
  | .hmin2 bf ftz d a b x => Sys2Proof.Machine.execHmin2 bf ftz d a b x s
  | .hmax2 bf ftz d a b x => Sys2Proof.Machine.execHmax2 bf ftz d a b x s
  | .hset2 cnd bf ftz comb d a b x => Sys2Proof.Machine.execHset2 cnd bf ftz comb d a b x s
  | .hdot2 bf rm ftz d a b c x => Sys2Proof.Machine.execHdot2 bf rm ftz d a b c x s
  | .iadd u sat d a b x => Sys2Proof.Machine.execIadd u sat d a b x s
  | .isub u sat d a b x => Sys2Proof.Machine.execIsub u sat d a b x s
  | .imul u sat d a b x => Sys2Proof.Machine.execImul u sat d a b x s
  | .imad u sat d a b c x => Sys2Proof.Machine.execImad u sat d a b c x s
  | .imulh u d a b x => Sys2Proof.Machine.execImulh u d a b x s
  | .imin u d a b x => Sys2Proof.Machine.execImin u d a b x s
  | .imax u d a b x => Sys2Proof.Machine.execImax u d a b x s
  | .iabs sat d a x => Sys2Proof.Machine.execIabs sat d a x s
  | .iadd3 u sat d a b c x => Sys2Proof.Machine.execIadd3 u sat d a b c x s
  | .iset cnd u d a b x => Sys2Proof.Machine.execIset cnd u d a b x s
  | .ltab tbl d a b c x => Sys2Proof.Machine.execLtab tbl d a b c x s
  | .shl d a b x => Sys2Proof.Machine.execShl d a b x s
  | .shr d a b x => Sys2Proof.Machine.execShr d a b x s
  | .shra d a b x => Sys2Proof.Machine.execShra d a b x s
  | .shf d a b c x => Sys2Proof.Machine.execShf d a b c x s
  | .bfe d a b x => Sys2Proof.Machine.execBfe d a b x s
  | .bfes d a b x => Sys2Proof.Machine.execBfes d a b x s
  | .bfi d a b c x => Sys2Proof.Machine.execBfi d a b c x s
  | .popc d a x => Sys2Proof.Machine.execPopc d a x s
  | .clz d a x => Sys2Proof.Machine.execClz d a x s
  | .brev d a x => Sys2Proof.Machine.execBrev d a x s
  | .idp4 u ub sat d a b c x => Sys2Proof.Machine.execIdp4 u ub sat d a b c x s
  | .idp2 u ub sat d a b c x => Sys2Proof.Machine.execIdp2 u ub sat d a b c x s
  | .isad u sat d a b c x => Sys2Proof.Machine.execIsad u sat d a b c x s
  | .iclamp u d a lo hi x => Sys2Proof.Machine.execIclamp u d a lo hi x s
  | .cvt dt rm sat ftz st d a x => Sys2Proof.Machine.execCvt dt rm sat ftz st d a x s
  | .pack dt rm sat ftz st d a b c e x => Sys2Proof.Machine.execPack dt rm sat ftz st d a b c e x s
  | .unpk st j d a x => Sys2Proof.Machine.execUnpk st j d a x s
  | .rnenc u d a x => Sys2Proof.Machine.execRnenc u d a x s
  | .rndec u d a x => Sys2Proof.Machine.execRndec u d a x s
  | .rnmad d a b c x => Sys2Proof.Machine.execRnmad d a b c x s
  | .mov d a x => Sys2Proof.Machine.execMov d a x s
  | .sel pr neg d a b x => Sys2Proof.Machine.execSel pr neg d a b x s
  | .perm act d a ix f x => Sys2Proof.Machine.execPerm act d a ix f x s
  | .shflup w act d a n f x => Sys2Proof.Machine.execShflup w act d a n f x s
  | .shfldn w act d a n f x => Sys2Proof.Machine.execShfldn w act d a n f x s
  | .shflx w act d a n f x => Sys2Proof.Machine.execShflx w act d a n f x s
  | .shflr w act d a n f x => Sys2Proof.Machine.execShflr w act d a n f x s
  | .bcast d a ix x => Sys2Proof.Machine.execBcast d a ix x s
  | .bcastf d a x => Sys2Proof.Machine.execBcastf d a x s
  | .voteall pr neg d x => Sys2Proof.Machine.execVoteall pr neg d x s
  | .voteany pr neg d x => Sys2Proof.Machine.execVoteany pr neg d x s
  | .votesame pr neg d x => Sys2Proof.Machine.execVotesame pr neg d x s
  | .voteballot pr neg w d x => Sys2Proof.Machine.execVoteballot pr neg w d x s
  | .reduce op ftz rm d a x => Sys2Proof.Machine.execReduce op ftz rm d a x s
  | .scan op ftz rm ex d a x => Sys2Proof.Machine.execScan op ftz rm ex d a x s
  | .matchany w d a x => Sys2Proof.Machine.execMatchany w d a x s
  | .matchlead d a x => Sys2Proof.Machine.execMatchlead d a x s
  | .matchall d a x => Sys2Proof.Machine.execMatchall d a x s
  | .regroup c n d key x => Sys2Proof.Machine.execRegroup c n d key x s
  | .sreg sel d x => Sys2Proof.Machine.execSreg sel d x s
  | .pop n q x => Sys2Proof.Machine.execPop n q x s
  | .drop d q x => Sys2Proof.Machine.execDrop d q x s
  | .push n d x => Sys2Proof.Machine.execPush n d x s
  | .pltab tbl d a b c x => Sys2Proof.Machine.execPltab tbl d a b c x s
  | .pmov toPred pr d a x => Sys2Proof.Machine.execPmov toPred pr d a x s
  | .pmovw toPred w pr d a x => Sys2Proof.Machine.execPmovw toPred w pr d a x s
  | .brd join target x => Sys2Proof.Machine.execBrd join target x s
  | .jmp target x => Sys2Proof.Machine.execJmp target x s
  | .join x => Sys2Proof.Machine.execJoin x s
  | .endc x => Sys2Proof.Machine.execEndc x s
  | .callc target x => Sys2Proof.Machine.execCallc target x s
  | .retc x => Sys2Proof.Machine.execRetc x s
  | .kill x => Sys2Proof.Machine.execKill x s
  | .nopc x => Sys2Proof.Machine.execNopc x s
  | .tfence x => Sys2Proof.Machine.execTfence x s
  | .bwait a x => Sys2Proof.Machine.execBwait a x s
  | .barvc a x => Sys2Proof.Machine.execBarvc a x s
  | .ctrap code x => Sys2Proof.Machine.execCtrap code x s
  | .ldl size acq fl d a b x => Sys2Proof.Machine.execLdl size acq fl d a b x s
  | .stl size rel a b c x => Sys2Proof.Machine.execStl size rel a b c x s
  | .lds size acq fl d a b x => Sys2Proof.Machine.execLds size acq fl d a b x s
  | .sts size rel a b c x => Sys2Proof.Machine.execSts size rel a b c x s
  | .atoms op ret ord fl d a b c e x => Sys2Proof.Machine.execAtoms op ret ord fl d a b c e x s
  | .ldc size acq fl d a b x => Sys2Proof.Machine.execLdc size acq fl d a b x s
  | .stc size rel a b c x => Sys2Proof.Machine.execStc size rel a b c x s
  | .atomc op ret ord fl d a b c e x => Sys2Proof.Machine.execAtomc op ret ord fl d a b c e x s
  | .sample addr filt t fl d a lod x => Sys2Proof.Machine.execSample addr filt t fl d a lod x s
  | .gath4 addr chan t fl d a lod x => Sys2Proof.Machine.execGath4 addr chan t fl d a lod x s
  | .trace modf b fl d ray st root mask x => Sys2Proof.Machine.execTrace modf b fl d ray st root mask x s
  | .tresume b fl d ray st x => Sys2Proof.Machine.execTresume b fl d ray st x s
  | .treport d st t w x => Sys2Proof.Machine.execTreport d st t w x s
  | .tcand d st x => Sys2Proof.Machine.execTcand d st x s
  | .tquery d st x => Sys2Proof.Machine.execTquery d st x s
  | .tabort st x => Sys2Proof.Machine.execTabort st x s
  | .mxfeed fl x => Sys2Proof.Machine.execMxfeed fl x s
  | .illegalInstruction cside code bit word => Sys2Proof.Machine.execIllegalInstruction cside code bit word s
  | .fetchFault cside va level perm => Sys2Proof.Machine.execFetchFault cside va level perm s
  | .hostBreak => Sys2Proof.Machine.execHostBreak s
  | .hostDebugControl => Sys2Proof.Machine.execHostDebugControl s
  | .writePerformed op => Sys2Proof.Machine.execWritePerformed op s
  | .clauseStart => Sys2Proof.Machine.execClauseStart s
  | .regionEntry => Sys2Proof.Machine.execRegionEntry s
  | .parkedJoinTimeout => Sys2Proof.Machine.execParkedJoinTimeout s
  | .loadComplete op => Sys2Proof.Machine.execLoadComplete op s
  | .scalarAccessReturn op => Sys2Proof.Machine.execScalarAccessReturn op s
  | .recordLoadComplete op => Sys2Proof.Machine.execRecordLoadComplete op s
  | .xqOperationPerform op => Sys2Proof.Machine.execXqOperationPerform op s
  | .storePerform op => Sys2Proof.Machine.execStorePerform op s
  | .nearMemoryComplete op => Sys2Proof.Machine.execNearMemoryComplete op s
  | .sampleComplete op => Sys2Proof.Machine.execSampleComplete op s
  | .traversalComplete op => Sys2Proof.Machine.execTraversalComplete op s
  | .copyComplete op => Sys2Proof.Machine.execCopyComplete op s
  | .coverComplete op => Sys2Proof.Machine.execCoverComplete op s
  | .tstoreComplete op => Sys2Proof.Machine.execTstoreComplete op s
  | .engineFault op => Sys2Proof.Machine.execEngineFault op s
  | .translationWalk vf va acc sup => Sys2Proof.Machine.execTranslationWalk vf va acc sup s
  | .sessionForm quad => Sys2Proof.Machine.execSessionForm quad s
  | .passGrant quad => Sys2Proof.Machine.execPassGrant quad s
  | .surgeGrant quad => Sys2Proof.Machine.execSurgeGrant quad s
  | .stepStart quad => Sys2Proof.Machine.execStepStart quad s
  | .rowDecode quad array err => Sys2Proof.Machine.execRowDecode quad array err s
  | .passComplete quad => Sys2Proof.Machine.execPassComplete quad s
  | .topkSelect quad entry => Sys2Proof.Machine.execTopkSelect quad entry s
  | .trapEntry => Sys2Proof.Machine.execTrapEntry s
  | .decouplingDeadlock => Sys2Proof.Machine.execDecouplingDeadlock s
  | .lateStoreError pc => Sys2Proof.Machine.execLateStoreError pc s
  | .shadowReplay => Sys2Proof.Machine.execShadowReplay s
  | .yieldcWake => Sys2Proof.Machine.execYieldcWake s
  | .quadPreempt quad => Sys2Proof.Machine.execQuadPreempt quad s
  | .groupSave => Sys2Proof.Machine.execGroupSave s
  | .forcedFullSave => Sys2Proof.Machine.execForcedFullSave s
  | .preemptComplete quad => Sys2Proof.Machine.execPreemptComplete quad s
  | .groupRestore => Sys2Proof.Machine.execGroupRestore s
  | .notify port fn w => Sys2Proof.Machine.execNotify port fn w s
  | .queueMap q => Sys2Proof.Machine.execQueueMap q s
  | .starvationEvent q => Sys2Proof.Machine.execStarvationEvent q s
  | .launchPacket q => Sys2Proof.Machine.execLaunchPacket q s
  | .teamPlace l => Sys2Proof.Machine.execTeamPlace l s
  | .launchComplete l => Sys2Proof.Machine.execLaunchComplete l s
  | .launchOverrun l => Sys2Proof.Machine.execLaunchOverrun l s
  | .launchWatchdog l => Sys2Proof.Machine.execLaunchWatchdog l s
  | .launchKill l => Sys2Proof.Machine.execLaunchKill l s
  | .windowEndPreempt p => Sys2Proof.Machine.execWindowEndPreempt p s
  | .windowOpen p => Sys2Proof.Machine.execWindowOpen p s
  | .rallocGrant vf => Sys2Proof.Machine.execRallocGrant vf s
  | .galleyTimeout vf => Sys2Proof.Machine.execGalleyTimeout vf s
  | .frameReclaim f => Sys2Proof.Machine.execFrameReclaim f s
  | .tlbInvalidationComplete vf => Sys2Proof.Machine.execTlbInvalidationComplete vf s
  | .splinterComplete vf => Sys2Proof.Machine.execSplinterComplete vf s
  | .granuleZeroFill => Sys2Proof.Machine.execGranuleZeroFill s
  | .surfaceTableRead => Sys2Proof.Machine.execSurfaceTableRead s
  | .frameStart surf => Sys2Proof.Machine.execFrameStart surf s
  | .scanoutLine surf => Sys2Proof.Machine.execScanoutLine surf s
  | .warpLatch surf => Sys2Proof.Machine.execWarpLatch surf s
  | .proofPoint surf layer => Sys2Proof.Machine.execProofPoint surf layer s
  | .fennelPassStart quad => Sys2Proof.Machine.execFennelPassStart quad s
  | .fennelPassEnd quad sound => Sys2Proof.Machine.execFennelPassEnd quad sound s
  | .sramCorrectedError site => Sys2Proof.Machine.execSramCorrectedError site s
  | .sramUncorrectableError site => Sys2Proof.Machine.execSramUncorrectableError site s
  | .memoryScrub => Sys2Proof.Machine.execMemoryScrub s
  | .thermalTrip degrees => Sys2Proof.Machine.execThermalTrip degrees s
  | .coolantHot hot => Sys2Proof.Machine.execCoolantHot hot s
  | .housekeepingWatchdog => Sys2Proof.Machine.execHousekeepingWatchdog s
  | .hostMemoryWrite port pa bytes => Sys2Proof.Machine.execHostMemoryWrite port pa bytes s
  | .linkFlitReceive port sound pa bytes => Sys2Proof.Machine.execLinkFlitReceive port sound pa bytes s
  | .linkReplayLimit port trained => Sys2Proof.Machine.execLinkReplayLimit port trained s
  | .lretrain port w => Sys2Proof.Machine.execLretrain port w s
  | .portReset port => Sys2Proof.Machine.execPortReset port s
  | .deviceReset => Sys2Proof.Machine.execDeviceReset s
  | .semAcquire port => Sys2Proof.Machine.execSemAcquire port s
  | .semRelease port w => Sys2Proof.Machine.execSemRelease port w s
  | .vfmapWrite port hi w => Sys2Proof.Machine.execVfmapWrite port hi w s
  | .pwrcapWrite port w => Sys2Proof.Machine.execPwrcapWrite port w s
  | .qtbaseWrite port hi w => Sys2Proof.Machine.execQtbaseWrite port hi w s
  | .partitionWrite port p word w => Sys2Proof.Machine.execPartitionWrite port p word w s
  | .windowTableWrite port idx w => Sys2Proof.Machine.execWindowTableWrite port idx w s
  | .grant port w => Sys2Proof.Machine.execGrant port w s
  | .tlbinv port vf hi w => Sys2Proof.Machine.execTlbinv port vf hi w s
  | .splinter port vf hi w => Sys2Proof.Machine.execSplinter port vf hi w s
  | .framePoolWrite port which w => Sys2Proof.Machine.execFramePoolWrite port which w s
  | .prqheadWrite port w => Sys2Proof.Machine.execPrqheadWrite port w s
  | .safesetWrite port which w => Sys2Proof.Machine.execSafesetWrite port which w s
  | .retest port w => Sys2Proof.Machine.execRetest port w s
  | .colophonUnfreeze port w => Sys2Proof.Machine.execColophonUnfreeze port w s
  | .registerWrite port off w => Sys2Proof.Machine.execRegisterWrite port off w s

end Sys2Proof.Machine
end

