-- ==== Sys2Proof/Machine/Step.lean ====
section
/-! DEFINITION. One step of the machine: whose turn it is, what it runs, and its meaning; and the placing of one instruction
for the host's questions (notes/assumptions/1.md). -/

namespace Sys2Proof.Machine

/-- One step: the next turn of the agenda (or a free one), its time and what the Galleys do as it passes, what it fetches, the meaning of
that, and the issue cycles that it counts. -/
def step (s : State) : Host.Outcome State Fault Refusal :=
  let t := s.nextTurn
  match s.haltedAt t.1.what with
  | some f => .fault f
  | none =>
    match turnOf ((t.2.galleyTo t.1.adv).begin t.1) t.1.what with
    | (s', .idle) => .next s'
    | (s', .runs i) => counted s' t.1.what i (exec i s')
    | (_, .stops f) => .fault f

/-- The machine with one instruction, numbered as the opcode table numbers its bits, placed so that the next step runs it:
it stands for the load of a program from outside (notes/assumptions/15.md). -/
def State.withFetchWord (s : State) (nbits w : Nat) : State :=
  if 96 ≤ nbits then placeInstr s true 12 (w % 2 ^ 96) else placeInstr s false 8 (w % 2 ^ 64)

end Sys2Proof.Machine
end

