-- ==== Sys2Proof/Safety.lean ====
section
/-! DEFINITION. What counts as a safe run (no step stops the machine, and every memory keeps its canonical form), and the terms
in which statements say that an instruction may issue. -/

namespace Sys2Proof.Machine

/-- Every memory of the machine holds its canonical form. -/
def State.memoriesWf (s : State) : Prop :=
  s.dev.wf = true ∧ s.host0.wf = true ∧ s.host1.wf = true ∧ s.peer.wf = true ∧ s.chip.wf = true ∧
    (∀ c ∈ s.clusters, c.2.mem.wf = true) ∧ (∀ t ∈ s.teams, t.2.mem.wf = true) ∧
    (∀ g ∈ s.groups, g.2.slices.wf = true)

/-- A run of so many steps that meets no fault and no refusal. -/
def SafeFor (n : Nat) (s : State) : Prop := ∃ t, Sys2Proof.core.run n s = .next t

/-- The group whose turn it is, if its A-stream may issue an instruction: the checks of R73 pass, and no load or atomic still
owes a register that the instruction names (04 R113). -/
def issueA (s : State) (i : Instr) : Option Group :=
  match s.grp? with
  | none => none
  | some g => if (aCheck s g i).isNone && !g.locked i then some g else none

/-- What a C instruction finds when it may issue: its group with the entries that it pops taken, its shape, its split, and the
entries it has fetched. -/
structure Issue where
  g : Group
  h : CShape
  p : Split
  es : List (Nat × VEntry)

/-- A C instruction of the split whose turn it is, if it may issue: the checks of R73 and R154 pass, the split waits for no
compare and the shadow is not 64 instructions behind (R266, R267), the record it names is loaded (R73), its queue operands have
arrived (R29, R30), and the queue that it pushes has room. -/
def issueC (s : State) (i : Instr) (pushes : Nat := 1) : Option Issue :=
  match s.grp?, cShape i with
  | some g, some h =>
    match g.cs.sp s.cur.split with
    | none => none
    | some p =>
      if (cCheck s g i h).isSome || s.cur.mode != 0 || p.cmp ||
          (s.shadowed g && decide (64 ≤ g.behind)) || recordBusy g i then none
      else
        match fetchQ ((fetches i h.ss).drop p.held.length) g p.held with
        | .all g es =>
          if (roomFor s g h.d pushes).isSome then none
          else some { g := g.popped s.tick (es.length = p.held.length), h, p, es }
        | _ => none
  | _, _ => none

/-- The environment of an instruction that may issue: its enabled lanes are the active ones that its guard holds in (02 R65). -/
def Issue.env (x : Issue) (s : State) : CEnv :=
  { k := s.cur.split, en := x.p.act &&& guardMask x.g.cs x.h.x, p := x.p, es := x.es }

/-- Its group, the split moved past the word. -/
def Issue.past (x : Issue) (s : State) : Group := x.g.stepped s.cur.split

/-- The values of operands. -/
def Issue.vals (x : Issue) (s : State) (ops : List (OpTy × Src)) : List Lanes := (x.env s).vals (x.past s).cs ops x.es

/-- The words of a lane of operands. -/
def Issue.words (x : Issue) (s : State) (ops : List (OpTy × Src)) (l : Nat) : List Word :=
  (x.vals s ops).map fun v => lane v l

/-- The machine once the instruction is done, with what a shadow adds. -/
def Issue.done (x : Issue) (s : State) (i : Instr) (t : State) : State := t.leave s x.g i x.h (x.env s)

/-- The machine in which the group whose turn it is has become `g` after its A instruction. -/
def State.doneA (s : State) (g : Group) : State := s.putG { g with ablk := none }

/-- A buffer record that an instruction may use: no load of it in flight, and valid (01 R24, 04 R124). -/
def Group.record (g : Group) (k : Nat) : Option Buf := if (g.rb k).busy = 0 then (g.rb k).buf? else none

/-- A tensor record that an instruction may use. -/
def Group.tensor (g : Group) (k : Nat) : Option Ten := if (g.rt k).busy = 0 then (g.rt k).ten? else none

/-- No operation of the group itself owns a line of an access that it makes now (09 R286, R288). -/
def State.unowned (s : State) (g : Group) (ls : List Loc) : Prop := s.firstOwn g.who.gid s.nextId ls = .free

/-- The group with a memory operation put in flight under the machine's next name. -/
def Group.flying (g : Group) (s : State) (kind : MemKind) (ps : List (Nat × Loc)) (acq rel : Nat) : Group :=
  g.addPend (aOp s.nextId g.apc kind ps acq rel)

/-- A wait of the A-stream finds no fault to take (04 R115, 07 R215). -/
def State.nothingToTake (s : State) (g : Group) (mu : Bool) (w : Waits) : Prop := deliver s g mu w = none

end Sys2Proof.Machine
end

