-- ==== Sys2Proof/Certificates/Slice0/Obligations.lean ====
section
/-! DEFINITION. The statements for the provers (OBLIGATIONS.json): what instructions and events do, what they leave unchanged,
where they trap, and the invariants of the machine. -/

open Sys2Proof Sys2Proof.Machine

/-! ## Results of the A-stream -/

/-- The destination and the result of each row of 04 R117, from the registers of a group. -/
def Claims.alu (g : Group) : Instr → Option (BitVec 6 × Word)
  | .add d a b => some (d, g.ra a.toNat + g.ra b.toNat)
  | .addi d a n => some (d, g.ra a.toNat + n.signExtend 32)
  | .sub d a b => some (d, g.ra a.toNat - g.ra b.toNat)
  | .and d a b => some (d, g.ra a.toNat &&& g.ra b.toNat)
  | .andi d a n => some (d, g.ra a.toNat &&& n.setWidth 32)
  | .or d a b => some (d, g.ra a.toNat ||| g.ra b.toNat)
  | .ori d a n => some (d, g.ra a.toNat ||| n.setWidth 32)
  | .xor d a b => some (d, g.ra a.toNat ^^^ g.ra b.toNat)
  | .xori d a n => some (d, g.ra a.toNat ^^^ n.setWidth 32)
  | .andn d a b => some (d, g.ra a.toNat &&& ~~~(g.ra b.toNat))
  | .shlA d a b => some (d, g.ra a.toNat <<< ((g.ra b.toNat).toNat % 32))
  | .shli d a n => some (d, g.ra a.toNat <<< n.toNat)
  | .shrA d a b => some (d, g.ra a.toNat >>> ((g.ra b.toNat).toNat % 32))
  | .shri d a n => some (d, g.ra a.toNat >>> n.toNat)
  | .sra d a b => some (d, (g.ra a.toNat).sshiftRight ((g.ra b.toNat).toNat % 32))
  | .srai d a n => some (d, (g.ra a.toNat).sshiftRight n.toNat)
  | .rot d a b => some (d, (g.ra a.toNat).rotateRight ((g.ra b.toNat).toNat % 32))
  | .roti d a n => some (d, (g.ra a.toNat).rotateRight n.toNat)
  | .slt d a b => some (d, if (g.ra a.toNat).toInt < (g.ra b.toNat).toInt then 1 else 0)
  | .slti d a n => some (d, if (g.ra a.toNat).toInt < n.toInt then 1 else 0)
  | .sltu d a b => some (d, if (g.ra a.toNat).toNat < (g.ra b.toNat).toNat then 1 else 0)
  | .sltiu d a n => some (d, if (g.ra a.toNat).toNat < (n.signExtend 32).toNat then 1 else 0)
  | .min d a b => some (d, BitVec.ofInt 32 (Min.min (g.ra a.toNat).toInt (g.ra b.toNat).toInt))
  | .max d a b => some (d, BitVec.ofInt 32 (Max.max (g.ra a.toNat).toInt (g.ra b.toNat).toInt))
  | .minu d a b => some (d, BitVec.ofNat 32 (Min.min (g.ra a.toNat).toNat (g.ra b.toNat).toNat))
  | .maxu d a b => some (d, BitVec.ofNat 32 (Max.max (g.ra a.toNat).toNat (g.ra b.toNat).toNat))
  | .mul d a b => some (d, BitVec.ofNat 32 ((g.ra a.toNat).toNat * (g.ra b.toNat).toNat))
  | .muli d a n => some (d, BitVec.ofInt 32 ((g.ra a.toNat).toInt * n.toInt))
  | .mulh d a b => some (d, BitVec.ofInt 32 ((g.ra a.toNat).toInt * (g.ra b.toNat).toInt / 2 ^ 32))
  | .mulhu d a b => some (d, BitVec.ofNat 32 ((g.ra a.toNat).toNat * (g.ra b.toNat).toNat / 2 ^ 32))
  | .div d a b => some (d, if g.ra b.toNat = 0 then 0xFFFFFFFF else
      BitVec.ofInt 32 ((g.ra a.toNat).toInt.tdiv (g.ra b.toNat).toInt))
  | .rem d a b => some (d, if g.ra b.toNat = 0 then g.ra a.toNat else
      BitVec.ofInt 32 ((g.ra a.toNat).toInt.tmod (g.ra b.toNat).toInt))
  | .divu d a b => some (d, if g.ra b.toNat = 0 then 0xFFFFFFFF else
      BitVec.ofNat 32 ((g.ra a.toNat).toNat / (g.ra b.toNat).toNat))
  | .remu d a b => some (d, if g.ra b.toNat = 0 then g.ra a.toNat else
      BitVec.ofNat 32 ((g.ra a.toNat).toNat % (g.ra b.toNat).toNat))
  | .clzA d a => some (d, BitVec.ofNat 32 (((List.range 32).find? fun i => (g.ra a.toNat).getLsbD (31 - i)).getD 32))
  | .popcA d a => some (d, BitVec.ofNat 32 ((List.range 32).filter fun i => (g.ra a.toNat).getLsbD i).length)
  | .brevA d a => some (d, (g.ra a.toNat).reverse)
  | .sextb d a => some (d, ((g.ra a.toNat).setWidth 8).signExtend 32)
  | .sexth d a => some (d, ((g.ra a.toNat).setWidth 16).signExtend 32)
  | .lui d n => some (d, n.setWidth 32 <<< 12)
  | _ => none

/-- 04 R117: an arithmetic instruction of the A-stream that may issue writes its result to its destination and goes to the next
word; nothing else of the machine changes (the A-stream waits for nothing any more), no flag is set and nothing traps. -/
def Obligations.AluResults : Prop :=
  ∀ (s : State) (i : Instr) (g : Group) (d : BitVec 6) (w : Word),
    issueA s i = some g → Claims.alu g i = some (d, w) → exec i s = .next (s.doneA ((g.wa d.toNat w).adv))

/-- 04 R118: BFE and BFI of the A-stream take the position from bits 4 to 0 of their second source and the length from bits 9
to 5, 0 meaning 32; BFI reads its destination as well. -/
def Obligations.BitFieldResults : Prop :=
  ∀ (s : State) (g : Group) (d a b : BitVec 6),
    let x := g.ra a.toNat
    let y := g.ra b.toNat
    let z := g.ra d.toNat
    let p := y.toNat % 32
    let n := if y.toNat / 32 % 32 = 0 then 32 else y.toNat / 32 % 32
    let ones : Word := if n = 32 then 0xFFFFFFFF else (1 <<< n) - 1
    (issueA s (.bfeA d a b) = some g → exec (.bfeA d a b) s = .next (s.doneA ((g.wa d.toNat ((x >>> p) &&& ones)).adv))) ∧
    (issueA s (.bfiA d a b) = some g →
      exec (.bfiA d a b) s =
        .next (s.doneA ((g.wa d.toNat ((z &&& ~~~(ones <<< p)) ||| ((x <<< p) &&& (ones <<< p)))).adv)))

/-- The comparison of a conditional branch of 04 R119: its registers, its offset, and whether it holds. -/
def Claims.branch (g : Group) : Instr → Option (Bool × BitVec 14)
  | .beq a b off => some (decide (g.ra a.toNat = g.ra b.toNat), off)
  | .bne a b off => some (decide (g.ra a.toNat ≠ g.ra b.toNat), off)
  | .blt a b off => some (decide ((g.ra a.toNat).toInt < (g.ra b.toNat).toInt), off)
  | .bge a b off => some (decide ((g.ra b.toNat).toInt ≤ (g.ra a.toNat).toInt), off)
  | .bltu a b off => some (decide ((g.ra a.toNat).toNat < (g.ra b.toNat).toNat), off)
  | .bgeu a b off => some (decide ((g.ra b.toNat).toNat ≤ (g.ra a.toNat).toNat), off)
  | _ => none

/-- The target of a signed word offset: A-PC + 4·offset modulo 2^32 (02 R51). -/
def Claims.target (g : Group) (off : Word) : Nat := ((BitVec.ofNat 32 g.apc) + 4 * off).toNat

/-- 04 R119: branches, DBNZ and the jumps. A comparison that holds goes to the target, another goes to the next word; DBNZ
writes the register less one and branches unless that is 0; JAL and JALR write the link, JALR reading its base first. A DBNZ on
A0 traps with cause group 1. -/
def Claims.branches : Prop :=
  (∀ (s : State) (i : Instr) (g : Group) (c : Bool) (off : BitVec 14),
    issueA s i = some g → Claims.branch g i = some (c, off) →
      exec i s = .next (s.doneA (if c then { g with apc := Claims.target g (off.signExtend 32) } else g.adv))) ∧
  (∀ (s : State) (g : Group) (a : BitVec 6) (off : BitVec 14), issueA s (.dbnz a off) = some g →
    exec (.dbnz a off) s = .next (s.doneA (
      if g.ra a.toNat - 1 = 0 then (g.wa a.toNat (g.ra a.toNat - 1)).adv
      else { g.wa a.toNat (g.ra a.toNat - 1) with apc := Claims.target g (off.signExtend 32) }))) ∧
  (∀ (s : State) (g : Group) (d : BitVec 6) (n : BitVec 20), issueA s (.jal d n) = some g →
    exec (.jal d n) s = .next (s.doneA
      { g.wa d.toNat (BitVec.ofNat 32 (g.apc + 4)) with apc := Claims.target g (n.signExtend 32) })) ∧
  (∀ (s : State) (g : Group) (d a : BitVec 6) (n : BitVec 14), issueA s (.jalr d a n) = some g →
    (g.ra a.toNat + n.signExtend 32).toNat % 4 = 0 →
    exec (.jalr d a n) s = .next (s.doneA
      { g.wa d.toNat (BitVec.ofNat 32 (g.apc + 4)) with apc := (g.ra a.toNat + n.signExtend 32).toNat })) ∧
  (∀ (s : State) (g : Group) (off : BitVec 14), s.grp? = some g →
    ∃ c : Cause, c.grp = 1 ∧ exec (.dbnz 0 off) s = .next (raise s s.cur.gid (aPending g (.dbnz 0 off) c)))

/-- 02 R59: a JALR whose target is not a multiple of 4 raises cause group 6 at the JALR, and nothing of it happens. -/
def Claims.jalrMisaligned : Prop :=
  ∀ (s : State) (g : Group) (d a : BitVec 6) (n : BitVec 14), issueA s (.jalr d a n) = some g →
    (g.ra a.toNat + n.signExtend 32).toNat % 4 ≠ 0 →
    ∃ c : Cause, c.grp = 6 ∧ exec (.jalr d a n) s = .next (raise s s.cur.gid (aPending g (.jalr d a n) c))

/-- 02 R51, R59, 04 R119: the branches and jumps of the A-stream, with the targets that trap. -/
def Obligations.BranchResults : Prop := Claims.branches ∧ Claims.jalrMisaligned

/-! ## Feeding the C-stream -/

/-- 04 R121 and 08 R402: CLS and CLSR append a region index to the CLQ and SPUSH a register to the SVQ, when the queue has room;
once the C-stream has ended the push counts as done and leaves no entry. -/
def Claims.pushes : Prop :=
  (∀ (s : State) (i : Instr) (g : Group) (x : Word), issueA s i = some g →
    (i = .cls (x.setWidth 20) ∧ x.toNat < 2 ^ 20 ∨ ∃ a, i = .clsr a ∧ x = g.ra a.toNat) →
    (g.cEnded = true → exec i s = .next (s.doneA { g.adv with pushed := g.pushed + 1, ended := g.ended + 1 })) ∧
    (g.cEnded = false → g.occ 5 < (s.pk g).depth 5 →
      exec i s = .next (s.doneA { g.adv with
        q.clq := g.q.clq ++ [{ val := x &&& 0x3FFFFF, need := g.aPend }], pushed := g.pushed + 1, lastQ := s.tick }))) ∧
  (∀ (s : State) (g : Group) (a : BitVec 6), issueA s (.spush a) = some g →
    (g.cEnded = true → exec (.spush a) s = .next (s.doneA g.adv)) ∧
    (g.cEnded = false → g.occ 4 < (s.pk g).depth 4 →
      exec (.spush a) s = .next (s.doneA { g.adv with
        q.svq := g.q.svq ++ [{ val := g.ra a.toNat, need := g.aPend }], lastQ := s.tick })))

/-- 04 R121: a push to a full queue waits: the machine only notes what the A-stream waits for. -/
def Claims.fullQueueWaits : Prop :=
  ∀ (s : State) (g : Group) (i : Instr) (q : Nat), issueA s i = some g → g.cEnded = false → (s.pk g).depth q ≤ g.occ q →
    ((∃ n, i = .cls n) ∧ q = 5 ∨ (∃ a, i = .clsr a) ∧ q = 5 ∨ (∃ a, i = .spush a) ∧ q = 4) →
    exec i s = .next (s.waitA (.queue q))

/-- 04 R121: CLS, CLSR and SPUSH, on a queue with room and on a full one. -/
def Obligations.FeedPushes : Prop := Claims.pushes ∧ Claims.fullQueueWaits

/-- 04 R122: BPOP writes the head of the BQ to its destination and removes it (A0 discards it); on an empty BQ it waits. An entry
whose earlier near-memory operations are in flight is waited for (09 R280). Model's choices: notes/assumptions/43.md. -/
def Obligations.BpopResult : Prop :=
  ∀ (s : State) (g : Group) (d : BitVec 6), issueA s (.bpop d) = some g →
    (∀ w, g.wa 0 w = g) ∧
    (g.q.bq = [] → exec (.bpop d) s = .next (s.waitA (.queue 9))) ∧
    (∀ e r, g.q.bq = e :: r → g.performed e.need = true →
      exec (.bpop d) s = .next (s.doneA { (g.wa d.toNat e.val).adv with q.bq := r, lastQ := s.tick })) ∧
    (∀ e r, g.q.bq = e :: r → g.performed e.need = false → exec (.bpop d) s = .next (s.waitA .other))

/-! ## Memory instructions of the A-stream -/

/-- 04 R130: an LDV whose record is usable, whose queue has room and whose elements pass the checks reserves an entry of its queue
and puts the load in flight. -/
def Claims.ldvIssues : Prop :=
  ∀ (s s1 : State) (g : Group) (byp : BitVec 1) (ord : BitVec 3) (q : BitVec 2) (k : BitVec 5) (ai : BitVec 6)
    (off : BitVec 9) (b : Buf) (ps : List (Nat × Loc)),
    issueA s (.ldv byp ord q k ai off) = some g → g.record k.toNat = some b → s.ldqRoom g q.toNat = true →
    checkElems s g { code := 1 } 0 b false (packedEls b (g.first ai off)) = (s1, .ok ps) →
    s1.unowned g (ps.map (·.2)) →
    exec (.ldv byp ord q k ai off) s = .next (s1.newId.2.doneA
      (((g.pushLdq q.toNat (reservedEntry g s1.nextId) s1.tick).flying s1
          (.ldv q.toNat b.size (decide (b.level = 0 ∧ b.roc = true ∧ byp = 0 ∧ ord = 0))) ps ord.toNat 0).adv))

/-- The memory unit's list with one operation more (04 R132). -/
def Claims.listed (g g' : Group) (s : State) (i : Instr) (k : Nat) (first : Word) (places : Option (List (Nat × Loc)))
    (n : Nat) : State :=
  let o : MuOp := { id := s.nextId, instr := i, pc := g.apc, buf := (g.rb k).img.setWidth 256, first, held := none, places,
                    begun := false, got := [], passed := [] }
  s.newId.2.doneA (({ g' with mu := g.mu ++ [o] } : Group).adv n)

/-- 04 R130-R132, R136, R137: LDG, STV, STX and ATV join the memory unit's list when it holds fewer than 8 operations, with the
record and the first element as they stand; LDG and an ATV that returns values reserve an entry of their queue, an STV has
passed the checks of all its elements. -/
def Claims.unitIssues : Prop :=
  (∀ (s : State) (g : Group) (byp : BitVec 1) (ord : BitVec 3) (q : BitVec 2) (k : BitVec 5) (ai : BitVec 6) (off : BitVec 9)
    (b : Buf), issueA s (.ldg byp ord q k ai off) = some g → g.record k.toNat = some b → b.esz ≤ 2 → g.mu.length < 8 →
    s.ldqRoom g q.toNat = true →
    exec (.ldg byp ord q k ai off) s = .next (Claims.listed g (g.pushLdq q.toNat (reservedEntry g s.nextId) s.tick) s
      (.ldg byp ord q k ai off) k.toNat (g.first ai off) none 4)) ∧
  (∀ (s s1 : State) (g : Group) (ord : BitVec 3) (q : BitVec 2) (k : BitVec 5) (ai : BitVec 6) (off : BitVec 9) (b : Buf)
    (ps : List (Nat × Loc)), issueA s (.stv ord q k ai off) = some g → g.record k.toNat = some b → g.mu.length < 8 →
    checkElems s g { code := 1 } 1 b false (packedEls b (g.first ai off)) = (s1, .ok ps) → s1.unowned g (ps.map (·.2)) →
    exec (.stv ord q k ai off) s = .next (Claims.listed g g s1 (.stv ord q k ai off) k.toNat (g.first ai off) (some ps) 4)) ∧
  (∀ (s : State) (g : Group) (ord : BitVec 3) (q : BitVec 2) (k : BitVec 5) (ai : BitVec 6) (off : BitVec 9) (b : Buf),
    issueA s (.stx ord q k ai off) = some g → g.record k.toNat = some b → b.esz ≤ 2 → g.mu.length < 8 →
    exec (.stx ord q k ai off) s = .next (Claims.listed g g s (.stx ord q k ai off) k.toNat (g.first ai off) none 4)) ∧
  (∀ (s : State) (g : Group) (op : BitVec 4) (q : BitVec 2) (k : BitVec 5) (ret sdq : BitVec 1) (ord : BitVec 2)
    (scope : BitVec 3) (b : Buf), issueA s (.atv op q k ret sdq ord scope) = some g → g.record k.toNat = some b → b.esz = 2 →
    g.mu.length < 8 → (ret = 1 → s.ldqRoom g q.toNat = true) →
    exec (.atv op q k ret sdq ord scope) s = .next (Claims.listed g
      (if ret = 1 then g.pushLdq q.toNat (reservedEntry g s.nextId) s.tick else g) s
      (.atv op q k ret sdq ord scope) k.toNat 0 none 8))

/-- 04 R130-R132, R136, R137: LDV, LDG, STV, STX and ATV at issue. Model's choices: notes/assumptions/43.md. -/
def Obligations.MemoryUnitIssues : Prop := Claims.ldvIssues ∧ Claims.unitIssues

/-- 04 R134, R138: LDA, STA and an ATA that is no frame-window operation put one operation on one element in flight, when the
record is usable and of a size that scalar accesses allow, and the element passes the checks. -/
def Claims.scalarIssues : Prop :=
  (∀ (s s1 : State) (g : Group) (d : BitVec 6) (k : BitVec 5) (ai : BitVec 6) (ord : BitVec 3) (off : BitVec 6) (b : Buf)
    (ps : List (Nat × Loc)), issueA s (.lda d k ai ord off) = some g → g.record k.toNat = some b → b.level ≠ 4 → b.esz ≤ 2 →
    checkElems s g { code := 1 } 0 b true [(0, (g.first ai off).toNat)] = (s1, .ok ps) → s1.unowned g (ps.map (·.2)) →
    exec (.lda d k ai ord off) s = .next (s1.newId.2.doneA
      ((g.flying s1 (.lda d.toNat b.size b.sgn) ps ord.toNat 0).adv))) ∧
  (∀ (s s1 : State) (g : Group) (v : BitVec 6) (k : BitVec 5) (ai : BitVec 6) (ord : BitVec 3) (off : BitVec 6) (b : Buf)
    (ps : List (Nat × Loc)), issueA s (.sta v k ai ord off) = some g → g.record k.toNat = some b → b.level ≠ 4 → b.esz ≤ 2 →
    checkElems s g { code := 1 } 1 b true [(0, (g.first ai off).toNat)] = (s1, .ok ps) → s1.unowned g (ps.map (·.2)) →
    exec (.sta v k ai ord off) s = .next (s1.newId.2.doneA
      ((g.flying s1 (.sta (g.ra v.toNat) b.size) ps 0 ord.toNat).adv))) ∧
  (∀ (s s1 : State) (g : Group) (op : BitVec 4) (d : BitVec 6) (k : BitVec 5) (ai x y : BitVec 6) (ord : BitVec 2)
    (scope : BitVec 3) (b : Buf) (ps : List (Nat × Loc)), issueA s (.ata op d k ai x y ord scope) = some g →
    g.record k.toNat = some b → b.level ≠ 4 → b.esz = 2 → (scalarWindow s g b (g.ra ai.toNat)).2 = none →
    checkElems (scalarWindow s g b (g.ra ai.toNat)).1 g { code := 1 } 2 b true [(0, (g.ra ai.toNat).toNat)] = (s1, .ok ps) →
    s1.unowned g (ps.map (·.2)) →
    exec (.ata op d k ai x y ord scope) s = .next (s1.newId.2.doneA
      ((g.flying s1 (.ata d.toNat op.toNat (g.ra x.toNat) (g.ra y.toNat) none) ps (atomAcq ord scope)
          (atomRel ord scope)).adv 8)))

/-- 10 R299: an ATA on an element whose page maps the frame window is an operation of the window, at the offsets that its
operation may use; it sets D in the page's entry (10 R291). -/
def Claims.windowIssues : Prop :=
  ∀ (s : State) (g : Group) (op : BitVec 4) (d : BitVec 6) (k : BitVec 5) (ai x y : BitVec 6) (ord : BitVec 2)
    (scope : BitVec 3) (b : Buf) (off : Nat), issueA s (.ata op d k ai x y ord scope) = some g →
    g.record k.toNat = some b → b.level ≠ 4 → b.esz = 2 → (scalarWindow s g b (g.ra ai.toNat)).2 = some off →
    windowOp op.toNat off = true →
    let s1 := (scalarWindow s g b (g.ra ai.toNat)).1.dirtiedPage (s.lau g).qd.vf (b.addr (g.ra ai.toNat).toNat)
    exec (.ata op d k ai x y ord scope) s = .next (s1.newId.2.doneA
      ((g.flying s1 (.ata d.toNat op.toNat (g.ra x.toNat) (g.ra y.toNat) (some off)) [] (atomAcq ord scope)
          (atomRel ord scope)).adv 8))

/-- 04 R134, R138, 10 R299: LDA, STA and ATA at issue, those on the frame window among them. -/
def Obligations.ScalarAccessIssues : Prop := Claims.scalarIssues ∧ Claims.windowIssues

/-- 04 R133: PRF with a usable record goes on to the next word; it changes no memory and no register. -/
def Claims.prefetch : Prop :=
  ∀ (s : State) (g : Group) (l2 : BitVec 1) (k : BitVec 5) (ai : BitVec 6) (off : BitVec 9) (b : Buf),
    issueA s (.prf l2 k ai off) = some g → g.record k.toNat = some b →
    ∃ t, exec (.prf l2 k ai off) s = .next t ∧ t.grp? = some { g.adv with ablk := none } ∧ t.dev = s.dev ∧ t.host0 = s.host0 ∧
      t.host1 = s.host1 ∧ t.peer = s.peer ∧ t.chip = s.chip ∧ t.teams = s.teams ∧ t.clusters = s.clusters ∧
      (∀ n, n ≠ s.cur.gid → t.groups.get? n = s.groups.get? n)

/-- 04 R125: BLD and TLD put the load of a record in flight and mark the register, whose old contents stand until it returns;
BSET replaces one field of a loaded record. -/
def Claims.recordIssues : Prop :=
  (∀ (s s1 : State) (g : Group) (r : BitVec 5) (a : BitVec 6) (n : BitVec 14) (l : Loc),
    issueA s (.bld r a n) = some g → (g.rb r.toNat).busy = 0 → g.tracing = false →
    globalAt s (s.lau g).qd.vf g.sys.priv (g.agent { code := 1 }) 0
      (((s.pk g).rtbase + 32 * (g.ra a.toNat + n.signExtend 32).toNat) % 2 ^ 64) = (s1, .ok l) → s1.unowned g [l] →
    exec (.bld r a n) s = .next (s1.newId.2.doneA
      ((({ g with b := g.b.set r.toNat { g.rb r.toNat with busy := 1 } } : Group).flying s1 (.bld r.toNat) [(0, l)] 0 0).adv))) ∧
  (∀ (s s1 : State) (g : Group) (r : BitVec 4) (a : BitVec 6) (n : BitVec 14) (l : Loc),
    issueA s (.tld r a n) = some g → (g.rt r.toNat).busy = 0 →
    globalAt s (s.lau g).qd.vf g.sys.priv (g.agent { code := 1 }) 0
      (((s.pk g).rtbase + 64 * (g.ra a.toNat + n.signExtend 32).toNat) % 2 ^ 64) = (s1, .ok l) → s1.unowned g [l] →
    exec (.tld r a n) s = .next (s1.newId.2.doneA
      ((({ g with t := g.t.set r.toNat { g.rt r.toNat with busy := 1 } } : Group).flying s1 (.tld r.toNat) [(0, l)] 0 0).adv))) ∧
  (∀ (s : State) (g : Group) (r : BitVec 5) (a : BitVec 6) (fn : BitVec 8), issueA s (.bset r a fn) = some g →
    (g.rb r.toNat).busy = 0 → g.tracing = false → (g.rb r.toNat).loaded = true →
    exec (.bset r a fn) s = .next (s.doneA (({ g with b := g.b.set r.toNat { g.rb r.toNat with
      img := setField (g.rb r.toNat).img (bsetField fn.toNat).1 (bsetField fn.toNat).2 (g.ra a.toNat).toNat } } : Group).adv)))


/-- 04 R125, R133: PRF, and the instructions that load and change records. -/
def Obligations.RecordIssues : Prop := Claims.prefetch ∧ Claims.recordIssues
/-! ## Waiting, barriers and fences of the A-stream -/

/-- 04 R142: CWAIT and YIELDC on a counter that has reached the value (its signed difference is not negative) acquire at dev and go
to the next word; on another value CWAIT waits, and YIELDC sleeps, watching the counter's line, until that line is written or
10 µs have passed. The counter is read past the L1 (09 R276). -/
def Claims.counterWaits : Prop :=
  ∀ (s s1 : State) (g : Group) (a b : BitVec 6) (l : Loc) (i : Instr), (i = .cwait a b ∨ i = .yieldc a b) →
    issueA s i = some g → (g.ra a.toNat).toNat % 4 = 0 →
    globalAt s (s.lau g).qd.vf g.sys.priv (g.agent { code := 1 }) 0 (g.ra a.toNat).toNat = (s1, .ok l) →
    s1.grp? = some g → s1.nothingToTake g true (.counter (g.ra a.toNat).toNat) → g.acqBefore s1.nextId = false →
    (g.pend.any fun o => overlap o (aOp s1.nextId g.apc (.lda 0 4 false) [(0, l)] 0 0)) = false → s1.unowned g [l] →
    let r := s1.readPast (s1.user g) l 4
    let reached := 0 ≤ (BitVec.ofNat 32 (leNat r.2) - g.ra b.toNat).toInt
    (reached → exec i s = .next ((r.1.acquire g 4).doneA g.adv)) ∧
    (¬reached → i = .cwait a b → exec i s = .next (r.1.waitA .other)) ∧
    (¬reached → i = .yieldc a b → exec i s = .next ((({ r.1 with
      watch := { gid := g.who.gid, line := l.line, hit := false } :: r.1.watch.filter fun x => x.gid != g.who.gid } : State).putG
      { g with stop := .sleep (r.1.tick + 60000) }).waitA .other))

/-- 04 R143: WAITF goes on when every flag that it names is clear, and waits otherwise. -/
def Claims.waitf : Prop :=
  ∀ (s : State) (g : Group) (mask : BitVec 12), issueA s (.waitf mask) = some g → s.nothingToTake g true .none →
    ((∀ n < 12, mask.getLsbD n = true → g.cfn n = 0) → exec (.waitf mask) s = .next (s.doneA g.adv)) ∧
    ((∃ n < 12, mask.getLsbD n = true ∧ g.cfn n ≠ 0) → exec (.waitf mask) s = .next (s.waitA .flag))

/-- 04 R142, R143: CWAIT, YIELDC and WAITF. -/
def Obligations.CounterWaits : Prop := Claims.counterWaits ∧ Claims.waitf

/-- 04 R144, R145: BINIT sets the expected and initial counts of a barrier without arrivals, BEXP raises the expected count and
completes the phase if the arrivals have met it, BARV makes an arrival, at once where the group's earlier memory operations are
performed (it releases at clu, 09 R282) and otherwise when they will be, while the A-stream goes on; BTRY takes the released bit where it is set and writes 1,
else 0. The later arrival is the model's choice, notes/assumptions/69.md. -/
def Obligations.BarrierResults : Prop :=
  (∀ (s : State) (g : Group) (a : BitVec 6) (nb : BitVec 10), issueA s (.binit a nb) = some g → nb.toNat < (s.pk g).bars →
    1 ≤ (g.ra a.toNat).toNat → (g.ra a.toNat).toNat ≤ 65535 → (s.bar g.who.tid nb.toNat).cnt = 0 →
    g.arriving nb.toNat 4 = false →
    exec (.binit a nb) s = .next ((s.setBar g.who.tid nb.toNat { s.bar g.who.tid nb.toNat with
      exp := (g.ra a.toNat).toNat, init := (g.ra a.toNat).toNat, cnt := 0 }).doneA g.adv)) ∧
  (∀ (s : State) (g : Group) (a : BitVec 6) (nb : BitVec 10), issueA s (.bexp a nb) = some g → nb.toNat < (s.pk g).bars →
    (s.bar g.who.tid nb.toNat).exp ≠ 0 → (s.bar g.who.tid nb.toNat).exp + (g.ra a.toNat).toNat ≤ 65535 →
    exec (.bexp a nb) s = .next ((s.setBar g.who.tid nb.toNat ({ s.bar g.who.tid nb.toNat with
      exp := (s.bar g.who.tid nb.toNat).exp + (g.ra a.toNat).toNat } : Bar).settle).doneA g.adv)) ∧
  (∀ (s : State) (g : Group) (nb : BitVec 10), issueA s (.barv nb) = some g → nb.toNat < (s.pk g).bars →
    (s.bar g.who.tid nb.toNat).exp ≠ 0 →
    (g.performed g.aPend = true → g.arriving nb.toNat 4 = false →
      exec (.barv nb) s = .next (((s.publish g 2).setBar g.who.tid nb.toNat
        ((s.bar g.who.tid nb.toNat).arrive g.who.gid)).doneA g.adv)) ∧
    (g.performed g.aPend = false ∨ g.arriving nb.toNat 4 = true →
      exec (.barv nb) s = .next (s.doneA ({ g with
        arrivals := g.arrivals ++ [{ nb := nb.toNat, stream := 4, need := g.aPend }] } : Group).adv))) ∧
  (∀ (s : State) (g : Group) (d : BitVec 6) (nb : BitVec 10), issueA s (.btry d nb) = some g → nb.toNat < (s.pk g).bars →
    s.nothingToTake g false (.bar nb.toNat) → (s.bar g.who.tid nb.toNat).exp ≠ 0 →
    let b := s.bar g.who.tid nb.toNat
    (g.who.gid ∈ b.rel → exec (.btry d nb) s = .next (((s.setBar g.who.tid nb.toNat
      { b with rel := delNat b.rel g.who.gid, owed := delNat b.owed g.who.gid }).acquire g 2).doneA ((g.wa d.toNat 1).adv))) ∧
    (g.who.gid ∉ b.rel → exec (.btry d nb) s = .next (s.doneA ((g.wa d.toNat 0).adv))))

/-- 04 R145: a wait of the A-stream at a barrier that stands as `b`, for the group `g` of the machine `s`: it goes on where the phase has
let it go, or where its released bit is set, which it clears with its owed bit; otherwise it waits, for its released bit where its
owed bit is set, and else among the waiters that the end of the phase lets go. -/
def Claims.waitsAt (s : State) (g : Group) (i : Instr) (s0 : State) (nb : Nat) (b : Bar) : Prop :=
  let on := fun (b : Bar) => Host.Outcome.next
    (((s.setBar g.who.tid nb b).acquire g 2).doneA { g.adv with arrived := none })
  let stays := fun (b : Bar) => Host.Outcome.next ((s.setBar g.who.tid nb b).waitA .barrier)
  ((g.who.gid, 4) ∈ b.go → exec i s0 = on { b with go := b.go.erase (g.who.gid, 4) }) ∧
  ((g.who.gid, 4) ∉ b.go → (g.who.gid, 4) ∉ b.wait → g.who.gid ∈ b.rel →
    exec i s0 = on { b with rel := delNat b.rel g.who.gid, owed := delNat b.owed g.who.gid }) ∧
  ((g.who.gid, 4) ∉ b.go → (g.who.gid, 4) ∈ b.wait → exec i s0 = stays b) ∧
  ((g.who.gid, 4) ∉ b.go → (g.who.gid, 4) ∉ b.wait → g.who.gid ∉ b.rel →
    exec i s0 = stays (if g.who.gid ∈ b.owed ∨ g.ablk = some .barrier then b
      else { b with wait := b.wait ++ [(g.who.gid, 4)] }))

/-- 04 R145: BWAITA waits at its barrier. BARVW first makes one arrival, which it does not make again while it waits, and then waits in
the same way; where the arrival completes the phase it goes on at once. An arrival that waits for earlier memory operations comes
before the wait, the model's choice of notes/assumptions/69.md. -/
def Claims.barrierWaits : Prop :=
  ∀ (s : State) (g : Group) (nb : BitVec 10), nb.toNat < (s.pk g).bars → s.nothingToTake g true (.bar nb.toNat) →
    let b := s.bar g.who.tid nb.toNat
    let g1 : Group := { g with arrived := some g.apc }
    (issueA s (.bwaita nb) = some g → g.arriving nb.toNat 4 = false →
      Claims.waitsAt s g (.bwaita nb) s nb.toNat b) ∧
    (issueA s (.bwaita nb) = some g → g.arriving nb.toNat 4 = true →
      exec (.bwaita nb) s = .next ((s.putG g).waitA .barrier)) ∧
    (issueA s (.barvw nb) = some g → g.arrived = some g.apc → g.arriving nb.toNat 4 = false →
      Claims.waitsAt s g (.barvw nb) s nb.toNat b) ∧
    (issueA s (.barvw nb) = some g → g.arrived = some g.apc → g.arriving nb.toNat 4 = true →
      exec (.barvw nb) s = .next ((s.putG g).waitA .barrier)) ∧
    (issueA s (.barvw nb) = some g → g.arrived ≠ some g.apc → b.exp ≠ 0 → g.performed g.aPend = true →
      g.arriving nb.toNat 4 = false →
      Claims.waitsAt (((s.publish g 2).setBar g.who.tid nb.toNat (b.arrive g.who.gid)).putG g1) g1 (.barvw nb) s nb.toNat
        (b.arrive g.who.gid)) ∧
    (issueA s (.barvw nb) = some g → g.arrived ≠ some g.apc → b.exp ≠ 0 →
      g.performed g.aPend = false ∨ g.arriving nb.toNat 4 = true →
      exec (.barvw nb) s = .next ((s.putG { g1 with
        arrivals := g.arrivals ++ [{ nb := nb.toNat, stream := 4, need := g.aPend }] }).waitA .barrier))

/-- 04 R145: BWAITA and BARVW complete: BWAITA where its released bit is set, and BARVW, which makes its arrival first, where that
arrival meets the expected count. Each then stands at the next word, its released and owed bits clear. -/
def Claims.barrierCompletes : Prop :=
  ∀ (s : State) (g : Group) (nb : BitVec 10), nb.toNat < (s.pk g).bars → s.nothingToTake g true (.bar nb.toNat) →
    g.arriving nb.toNat 4 = false →
    let b := s.bar g.who.tid nb.toNat
    (g.who.gid, 4) ∉ b.go → (g.who.gid, 4) ∉ b.wait →
    (issueA s (.bwaita nb) = some g → g.who.gid ∈ b.rel →
      exec (.bwaita nb) s = .next (((s.setBar g.who.tid nb.toNat
        { b with rel := delNat b.rel g.who.gid, owed := delNat b.owed g.who.gid }).acquire g 2).doneA
          { g.adv with arrived := none })) ∧
    (issueA s (.barvw nb) = some g → g.arrived ≠ some g.apc → g.performed g.aPend = true → b.exp ≠ 0 → b.cnt + 1 = b.exp →
      ∃ t, exec (.barvw nb) s = .next t ∧ t.grp? = some { g.adv with arrived := none, ablk := none } ∧
        (t.bar g.who.tid nb.toNat).cnt = 0 ∧ (t.bar g.who.tid nb.toNat).exp = b.init ∧
        (t.bar g.who.tid nb.toNat).phase = !b.phase ∧ g.who.gid ∉ (t.bar g.who.tid nb.toNat).rel ∧
        g.who.gid ∉ (t.bar g.who.tid nb.toNat).owed)

/-- 04 R145: when the arrivals of a barrier meet its expected count, the phase completes: the count returns to 0 and the expected
count to its initial value, the phase bit inverts, every owed bit moves to the released bits, and the waiters without an owed bit
go on. -/
def Claims.phaseCompletes : Prop :=
  ∀ (b : Bar) (gid : Nat), b.cnt + 1 = b.exp →
    let t := b.arrive gid
    t.cnt = 0 ∧ t.exp = b.init ∧ t.init = b.init ∧ t.phase = !b.phase ∧ t.owed = [] ∧ t.wait = [] ∧
      (∀ n, n ∈ t.rel ↔ n ∈ b.rel ∨ n ∈ b.owed ∨ n = gid) ∧ (∀ w, w ∈ t.go ↔ w ∈ b.go ∨ w ∈ b.wait)

/-- 04 R145: waiting at a barrier, the completion of BWAITA and BARVW, and that of a barrier's phase. -/
def Obligations.BarrierWaits : Prop := Claims.barrierWaits ∧ Claims.barrierCompletes ∧ Claims.phaseCompletes

/-- 04 R147, 09 R276: a fence goes on once the operations that it waits for are performed: a release every memory operation of the
A-stream, an acquire every load and atomic of either stream, `.a` the group's engine operations, SAMPLE and TRACE among them (of those that
were issued before it was first met); a release performs what the group has written or read at its scope (09 R282), and an acquire at clu
or wider drops the core's L1. -/
def Obligations.FenceResults : Prop :=
  ∀ (s : State) (g : Group) (scope : BitVec 3) (eng : BitVec 1), s.nothingToTake g true .none →
    let before := g.fenced.getD s.nextId
    let on : Group := { g.adv with fenced := none }
    (eng = 1 → s.engBusy g = false ∧ g.lanesBusy before = false) →
    (issueA s (.fenceAcq scope eng) = some g → g.loadsPending = false → g.cLoads before = false →
      exec (.fenceAcq scope eng) s = .next ((s.acquire g scope.toNat).doneA on)) ∧
    (issueA s (.fenceRel scope eng) = some g → g.opsPending = false →
      exec (.fenceRel scope eng) s = .next ((s.publish g scope.toNat).doneA on)) ∧
    (issueA s (.fenceAcqrel scope eng) = some g → g.opsPending = false → g.loadsPending = false → g.cLoads before = false →
      exec (.fenceAcqrel scope eng) s = .next (((s.publish g scope.toNat).acquire g scope.toNat).doneA on))

/-! ## System instructions of the A-stream -/

/-- 04 R149: NOP and YIELD change no state but the A-PC; CSYNC goes on once the C-stream has ended every region pushed and its
memory operations are performed, and waits until then; HALTD stops both streams once the C-stream stands at a clause boundary and
reports a debug event at the port of the group's VF, and waits until then. Model's choices: notes/assumptions/60.md. -/
def Obligations.SystemResults : Prop :=
  (∀ (s : State) (g : Group) (i : Instr), (i = .nop ∨ i = .yield) → issueA s i = some g → exec i s = .next (s.doneA g.adv)) ∧
  (∀ (s : State) (g : Group), issueA s .csync = some g → s.nothingToTake g true .none →
    (g.cQuiet = true → exec .csync s = .next (s.doneA g.adv)) ∧
    (g.cQuiet = false → exec .csync s = .next (s.waitA .other))) ∧
  (∀ (s : State) (g : Group), issueA s .haltd = some g →
    (g.atBoundary = true → exec .haltd s =
      .next ({ s with debug := s.debug ++ [(s.portOf (s.lau g).qd, g.who.gid)] }.doneA { g with stop := .halt })) ∧
    (g.atBoundary = false → exec .haltd s = .next ((s.putG { g with stop := .halting }).waitA .other)))

/-- The value of each special register (01 R34): its number and what it reads. -/
def Claims.special (s : State) (g : Group) : List (Nat × Word) :=
  let l := s.lau g
  let n := fun (x : Nat) => BitVec.ofNat 32 x
  [(0x000, s.gstat g), (0x001, g.sys.gten.setWidth 32), (0x002, g.cflags), (0x003, g.qocc), (0x004, g.qoccb),
   (0x005, l.idWord), (0x006, s.vfWord l.qd), (0x008, n g.who.groupIx), (0x009, n g.who.teamPos), (0x00A, n g.who.clux),
   (0x00B, n g.who.cluy), (0x00C, n g.who.cluz), (0x00D, n l.pk.gx), (0x00E, n l.pk.gy), (0x00F, n l.pk.gz),
   (0x010, n g.who.core), (0x011, n g.who.slot), (0x012, n (quadOf g.who.core)), (0x014, n s.time), (0x015, g.sys.timeHi),
   (0x018, tileWord l.pk g.who), (0x100, g.sys.tframe), (0x101, g.sys.tveca), (0x102, g.sys.tvecc), (0x103, g.sys.save),
   (0x104, g.sys.tcg), (0x105, g.sys.tdx0), (0x106, g.sys.tdx1), (0x107, g.sys.tdx2)]

/-- 01 R34-R41: RDSR writes the value of a special register to its destination and RDTIME both words of TIME; of the rest of the
machine only the TIMEHI latch changes, and only by a read of TIME through RDSR (01 R35). -/
def Claims.specialReads : Prop :=
  (∀ (s : State) (g : Group) (d : BitVec 6) (idx : BitVec 10) (x : Word), issueA s (.rdsr d idx) = some g →
    (idx.toNat, x) ∈ Claims.special s g →
    exec (.rdsr d idx) s = .next (s.doneA
      (((if idx = 0x014 then { g with sys.timeHi := BitVec.ofNat 32 (s.time / 2 ^ 32) } else g : Group).wa d.toNat x).adv))) ∧
  (∀ (s : State) (g : Group) (d : BitVec 6), issueA s (.rdtime d) = some g →
    exec (.rdtime d) s = .next (s.doneA (((g.wa d.toNat (BitVec.ofNat 32 s.time)).wa (d.toNat + 1)
      (BitVec.ofNat 32 (s.time / 2 ^ 32))).adv)))

/-- 01 R34, R36-R38: WRSR changes a writable special register only, and its reserved bits stay 0: GSTAT takes the five sticky flags,
GTEN five enables, TFRAME all bits, TVECA all but [1:0], TVECC 22 bits, SAVE 31 bits; a write of any other is ignored. -/
def Claims.specialWrites : Prop :=
  ∀ (s : State) (g : Group) (a : BitVec 6) (idx : BitVec 10), issueA s (.wrsr a idx) = some g →
    let x := g.ra a.toNat
    (idx = 0x000 → exec (.wrsr a idx) s = .next (s.doneA { g.adv with sys.sticky := x.setWidth 5 })) ∧
    (idx = 0x001 → exec (.wrsr a idx) s = .next (s.doneA { g.adv with sys.gten := x.setWidth 5 })) ∧
    (idx = 0x100 → exec (.wrsr a idx) s = .next (s.doneA { g.adv with sys.tframe := x })) ∧
    (idx = 0x101 → exec (.wrsr a idx) s =
      .next (s.doneA { g.adv with sys.tveca := x &&& 0xFFFFFFFC, sys.wroteTvec := true })) ∧
    (idx = 0x102 → exec (.wrsr a idx) s = .next (s.doneA { g.adv with sys.tvecc := x &&& 0x3FFFFF })) ∧
    (idx = 0x103 → exec (.wrsr a idx) s = .next (s.doneA { g.adv with sys.save := x &&& 0x7FFFFFFF })) ∧
    (idx ∉ [0x000, 0x001, 0x100, 0x101, 0x102, 0x103] → exec (.wrsr a idx) s = .next (s.doneA g.adv))

/-- 01 R34-R41: reading and writing the special registers. -/
def Obligations.SpecialRegisters : Prop := Claims.specialReads ∧ Claims.specialWrites

/-- 01 R34, 02 R59, R73: in user privilege, an access to a special register from 0x100 on traps with cause group 2 code 1, and TRET
and HALTD with code 2; the other checks come first. -/
def Obligations.PrivilegeTraps : Prop :=
  ∀ (s : State) (g : Group) (i : Instr), s.grp? = some g → g.sys.priv = false →
    (violation i = none ∧ ∀ r ∈ aNamed i, r.1 < (s.pk g).aregs ∨ 61 ≤ r.1 ∧ r.1 ≤ 63) →
    ((∃ d idx, (i = .rdsr d idx ∨ i = .wrsr d idx) ∧ 0x100 ≤ (idx : BitVec 10).toNat) →
      ∃ c : Cause, c.grp = 2 ∧ c.code = 1 ∧ exec i s = .next (raise s s.cur.gid (aPending g i c))) ∧
    ((i = .tret ∨ i = .haltd) →
      ∃ c : Cause, c.grp = 2 ∧ c.code = 2 ∧ exec i s = .next (raise s s.cur.gid (aPending g i c)))

/-- 04 R149: TRAP raises cause group 13 with its code, to restart at the next word. -/
def Claims.trapInstruction : Prop :=
  ∀ (s : State) (g : Group) (code : BitVec 10), issueA s (.trap code) = some g → g.who.gid = s.cur.gid →
    exec (.trap code) s = .next (raise s g.who.gid
      { cause := { grp := 13, code := code.toNat % 256, detail := code.setWidth 96, va := 0, lanes := 0 }, aside := true,
        cside := false, split := 255, apc := (g.apc + 4) % 2 ^ 32, cpc := 0, slot := 0,
        word := (aWords (.trap code)).setWidth 96, fpc := (g.apc + 4) % 2 ^ 32, pop := 0, displaced := 0 }).endA

/-- 08 R259: TRET in a handler, once it finds no fault to take, the C-stream has ended its regions and their operations are performed, as
CSYNC waits, the flags are clear but for feeds that no bank has taken, and the interlock holds none of the handler's own operations
(01 R24; 04 R113, R132; 09 R281), returns from the trap as the frame and the image say: its suspended engine operations take the lines
that they lack (09 R286), and splits that a KILL in the handler has emptied end (01 R45). Without a frame it raises cause group 8
code 7. An operation that cannot be performed while the streams stand goes with the handler's list (notes/assumptions/44.md). -/
def Claims.tret : Prop :=
  ∀ (s : State) (g : Group), issueA s .tret = some g →
    (g.sys.frame = false → ∃ c : Cause, c.grp = 8 ∧ c.code = 7 ∧ exec .tret s = .next (raise s s.cur.gid (aPending g .tret c))) ∧
    (∀ t, g.sys.frame = true → s.nothingToTake g true .none → g.cQuiet = true → (∀ n < 12, g.cfn n ≤ s.feedCount g n) →
      s.tretWaits g = false →
      returnTrap (s.putG { g with pend := g.pend.filter fun o => !(o.reads && (s.stands g).contains o.id) }) g.who.gid = (t, none) →
      exec .tret s = .next ((s.retake t g.who.gid).afterReturn g.who.gid).endA)

/-- 08 R259: a return from a trap that can read the frame and the image takes the A-PC from offset 0x04 of the frame and the
privilege from bit 19 of its word 0; the group is no longer in a handler and its A-stream runs. -/
def Claims.returnRestores : Prop :=
  ∀ (s s1 t : State) (g : Group) (f : List Byte), s.groups.get? g.who.gid = some g →
    s.readVa (s.lau g).qd.vf true g.frameVa 256 (some (s.user g)) = (s1, .ok f) → returnTrap s g.who.gid = (t, none) →
    ∃ g', t.groups.get? g.who.gid = some g' ∧ g'.apc = numAt f 4 4 ∧ g'.sys.priv = (numAt f 0 4 / 2 ^ 19 % 2 == 1) ∧
      g'.sys.frame = false ∧ g'.stop = .run

/-- 08 R259: TRET, and what the return brings back. Model's choices: notes/assumptions/44.md. -/
def Obligations.TretResult : Prop := Claims.tret ∧ Claims.returnRestores

/-- 04 R150: EXIT ends the group once its regions have ended, its near-memory operations and stores with data are done, its engine
operations have completed or delivered their faults and no fault waits to be taken; a group that is still bound to a session raises cause group 9 instead. -/
def Obligations.ExitResult : Prop :=
  ∀ (s : State) (g : Group), issueA s .exit = some g → g.pushed ≤ g.ended → (∀ o ∈ g.pend, o.who = 4) →
    s.nothingToTake g true .all → g.storesLeft = false → s.engLeft g = false → (∀ o ∈ g.lane, o.faults ≠ []) →
    (∀ x, g.shadow = some x → x.log = []) →
    (g.session = none → exec .exit s = .next (s.endGroup g.who.gid).endA) ∧
    (g.session ≠ none → ∃ c : Cause, c.grp = 9 ∧ exec .exit s = .next (raise s s.cur.gid (aPending g .exit c)))

/-! ## Work-graph records -/

/-- 04 R148: RALLOC reserves a free run of records when its checks pass and nobody waits, RCOMMIT of none goes on, RCOMMIT publishes
records of a handle, at once where the group's earlier memory operations are performed and otherwise when they will be, and the rules
of R325 apply in that clk (20 R393); RDONE gives the unpublished rest of a handle back, RINPUT and RDEPTH read the group's batch.
Model's choices: notes/assumptions/22.md, 69.md. -/
def Obligations.RecordPoolResults : Prop :=
  (∀ (s s1 : State) (g : Group) (d a b : BitVec 6) (ds : List Byte) (h : Nat), issueA s (.ralloc d a b) = some g →
    g.stop ≠ .ralloc → g.saveReq = none → s.nothingToTake g true .none →
    s.node (s.lau g).qd.vf (g.ra a.toNat).toNat = (s1, ds) →
    rallocOk s1 g (s.lau g).qd.vf (g.ra a.toNat).toNat (g.ra b.toNat).toNat ds = true →
    (s1.gal (s.lau g).qd.vf).waits = [] →
    (s1.gal (s.lau g).qd.vf).grant (g.ra b.toNat).toNat (numAt ds 0x10 2) = some h →
    exec (.ralloc d a b) s = .next ((s1.setGal (s.lau g).qd.vf ((s1.gal (s.lau g).qd.vf).reserve g.who.gid
      (g.ra a.toNat).toNat (g.ra b.toNat).toNat h)).doneA ((g.wa d.toNat (BitVec.ofNat 32 h)).adv))) ∧
  (∀ (s : State) (g : Group) (a b : BitVec 6) (h : Handle), issueA s (.rcommit a b) = some g → g.saveReq = none →
    (s.gal (s.lau g).qd.vf).handle? g.who.gid (g.ra a.toNat).toNat = some h → h.done + (g.ra b.toNat).toNat ≤ h.n →
    let v := (s.lau g).qd.vf
    let n := (g.ra b.toNat).toNat
    let recs := (List.range n).map fun i => h.idx + h.done + i
    let c : Commit := { vf := v, recs, node := h.node, depth := s.recDepth g h.node, need := g.aPend }
    (n = 0 → exec (.rcommit a b) s = .next (s.doneA g.adv)) ∧
    (n ≠ 0 → exec (.rcommit a b) s = .next (((s.setGal v ((s.gal v).take h n)).putG
      { g.adv with commits := g.commits ++ [c] }).arriveReady g.who.gid).endA) ∧
    (n ≠ 0 → g.performed g.aPend = true → g.commits = [] → s.cur.gid = g.who.gid →
      ∃ t, exec (.rcommit a b) s = .next t ∧ (t.gal v).due = true ∧
        (t.gal v).comm = (s.gal v).comm ++ recs.zipIdx.map fun r =>
          { idx := r.1, node := h.node, depth := s.recDepth g h.node, time := s.tick, seq := (s.gal v).seq + r.2 })) ∧
  (∀ (s : State) (g : Group) (a : BitVec 6) (h : Handle), issueA s (.rdone a) = some g → g.saveReq = none →
    (s.gal (s.lau g).qd.vf).handle? g.who.gid (g.ra a.toNat).toNat = some h →
    let v := (s.lau g).qd.vf
    exec (.rdone a) s = .next (((s.setGal v { s.gal v with handles := (s.gal v).handles.erase h }).giveBack v
      ((List.range (h.n - h.done)).map fun i => h.idx + h.done + i)).doneA g.adv)) ∧
  (∀ (s : State) (g : Group) (d a : BitVec 6), issueA s (.rinput d a) = some g → g.saveReq = none →
    exec (.rinput d a) s = .next (s.doneA ((g.wa d.toNat (match (s.lau g).batch with
      | some b => match b.2.2.1[(g.ra a.toNat).toNat]? with
        | some r => BitVec.ofNat 32 r
        | none => 0xFFFFFFFF
      | none => 0xFFFFFFFF)).adv))) ∧
  (∀ (s : State) (g : Group) (d : BitVec 6), issueA s (.rdepth d) = some g → g.saveReq = none →
    exec (.rdepth d) s = .next (s.doneA ((g.wa d.toNat (match (s.lau g).batch with
      | some b => BitVec.ofNat 32 (b.2.2.2 % 256 + 256 * (b.2.2.1.length % 64))
      | none => 0)).adv)))

/-! ## Engines at issue -/

/-- The machine with one engine operation more, in progress from its first unit (07 R215). -/
def Claims.started (s : State) (g : Group) (i : Instr) (kind : EngKind) (bar : Option Nat)
    (lines : List (Loc × Nat)) : State :=
  let o : EngOp := { id := s.nextId, gid := g.who.gid, pc := g.apc, instr := i, kind, bar, at_ := 0, fault := none, told := false,
                     need := g.engNeed, lines, got := [], cells := [], coarse := false }
  ({ s.newId.2 with eng := s.eng ++ [o] } : State).doneA (g.adv 8)

/-- 04 R141: CPY on two plain records of one shape, with its coordinates in declared registers and a free slot of the core's copy
unit, puts a copy in progress that owns the lines of its destination; the form with a counter needs an aligned counter whose page
may be written. Each line is owned until the last chunk that writes it (09 R286). -/
def Claims.copyIssues : Prop :=
  ∀ (s : State) (g : Group) (src dst : BitVec 4) (c : BitVec 6) (opt scope : BitVec 3) (ts td : Ten),
    g.saveReq = none → g.tensor src.toNat = some ts → g.tensor dst.toNat = some td → ts.kind ≠ 2 → td.kind ≠ 2 →
    ts.ndim = td.ndim → fmtBits ts.fmt = fmtBits td.fmt →
    (∀ r ∈ g.copyRegs src c, r ≤ 63 ∧ (r < (s.pk g).aregs ∨ 61 ≤ r)) → g.lockedAt (g.copyRegs src c) = false →
    let sc := g.coords c.toNat ts.ndim
    let dc := g.coords (c.toNat + ts.ndim) ts.ndim
    let lines := fun (t : State) => copyLines t g ts td dc
    (∀ nb : BitVec 10, issueA s (.cpyBar src dst c nb scope opt) = some g → nb.toNat < (s.pk g).bars →
      s.copySlots g.who.core ≠ 0 →
      exec (.cpyBar src dst c nb scope opt) s = .next (Claims.started s g (.cpyBar src dst c nb scope opt)
        (.copy (g.rt src.toNat).img (g.rt dst.toNat).img sc dc opt.toNat scope.toNat none) (some nb.toNat)
        (lines s.newId.2))) ∧
    (∀ (k : BitVec 6) (s1 : State) (l : Loc), issueA s (.cpyCnt src dst c k scope opt) = some g →
      (g.ra k.toNat).toNat % 4 = 0 →
      globalAt s (s.lau g).qd.vf g.sys.priv (g.agent { code := 1 }) 2 (g.ra k.toNat).toNat = (s1, .ok l) →
      s1.copySlots g.who.core ≠ 0 →
      exec (.cpyCnt src dst c k scope opt) s = .next (Claims.started s1 g (.cpyCnt src dst c k scope opt)
        (.copy (g.rt src.toNat).img (g.rt dst.toNat).img sc dc opt.toNat scope.toNat (some ((g.ra k.toNat).toNat, l))) none
        (lines s1.newId.2)))

/-- 07 R233, R236: COVER and TSTORE whose records and barrier pass their checks put an operation in progress that owns the lines it
will write (07 R217, 09 R286): COVER those of the tile and its status word, TSTORE those of the tile's elements in the surface, moved by
what a DIVERSE launch adds (14 R364), and that of the signature entry, where their pages translate. -/
def Claims.rasterIssues : Prop :=
  (∀ (s : State) (g : Group) (eo : BitVec 1) (bs : BitVec 5) (f k : BitVec 6) (t : BitVec 4) (o : BitVec 6) (nb : BitVec 10)
    (tt : Ten), issueA s (.cover eo bs f k t o nb) = some g → g.saveReq = none → (g.rb bs.toNat).busy = 0 →
    (g.rb bs.toNat).loaded = true → (Buf.of ((g.rb bs.toNat).img.toNat % 2 ^ 256)).okSeg = true →
    g.tensor t.toNat = some tt →
    coverCheck s g (Buf.of ((g.rb bs.toNat).img.toNat % 2 ^ 256)) tt nb.toNat (g.ra k.toNat).toNat = none →
    exec (.cover eo bs f k t o nb) s = .next (Claims.started s g (.cover eo bs f k t o nb)
      (.cover ((g.rb bs.toNat).img.setWidth 256) (g.rt t.toNat).img (g.ra f.toNat).toNat (g.ra k.toNat).toNat
        (g.ra o.toNat).toInt (g.ra (o.toNat + 1)).toInt (eo == 1)) (some nb.toNat)
      ((elemsLines s g tt (coverElems tt)).map fun l => (l, 0)))) ∧
  (∀ (s : State) (g : Group) (ts td : BitVec 4) (p : BitVec 6) (nb : BitVec 10) (sig : BitVec 14) (t u : Ten),
    issueA s (.tstore ts td p nb sig) = some g → g.saveReq = none → nb.toNat < (s.pk g).bars → g.tensor ts.toNat = some t →
    g.tensor td.toNat = some u → tstoreOk t u = true →
    let base := addDelta u.base (diverseDelta s g)
    let sigb := addDelta u.sigbase (diverseDelta s g)
    let tx := (g.ra p.toNat).toInt
    let ty := (g.ra (p.toNat + 1)).toInt
    let dst := (tileElems t).map fun e => u.pixel (32 * tx + (e.1 : Int)) (32 * ty + (e.2.1 : Int)) e.2.2
    let entry := match (levelAt s g { code := 3, engine := 6 } 1 0 0 ((sigb + 8 * sig.toNat) % 2 ^ 64) 8).2 with
      | .ok l => [l.line]
      | .error _ => []
    exec (.tstore ts td p nb sig) s = .next (Claims.started s g (.tstore ts td p nb sig)
      (.tstore (g.rt ts.toNat).img (g.rt td.toNat).img tx ty sig.toNat base sigb) (some nb.toNat)
      ((dedup (elemsLines s g { u with base } dst ++ entry)).map fun l => (l, 0))))

/-- 04 R141, 07 R233, R236: the copy unit, the rasteriser and the tile store at issue.
Model's choices: notes/assumptions/26.md. -/
def Obligations.EngineIssues : Prop := Claims.copyIssues ∧ Claims.rasterIssues

/-- The machine with one pass more in a session (07 R222). -/
def Claims.passed (s : State) (g : Group) (k : Nat) (ss : Session) (p : Pass)
    (lines : Pass → List (Loc × Nat)) : State :=
  let p : Pass := { p with id := s.nextId, pc := g.apc, need := g.engNeed }
  ({ s.newId.2 with sessions := s.sessions.set k { ss with passes := ss.passes ++ [{ p with lines := lines p }] } } :
    State).doneA (g.adv 8)

/-- 07 R218-R232: the matrix instructions at issue. MXBIND whose checks pass joins the waiting binds of its session and waits for it
to form; MXLOOP, MXCONV and MXSEL of the leader on records of the session's formats append a pass when fewer than four are
issued; MXSTAT reads the session; MXREL leaves it once its passes are done or delivered. While a pre-emption has saved the session they
wait for its restore (12 R341).
Model's choices: notes/assumptions/24.md. -/
def Obligations.MatrixIssues : Prop :=
  (∀ (s : State) (g : Group) (vb : BitVec 9) (fa fb : BitVec 5) (dist : BitVec 1) (fo : BitVec 5) (tiles : BitVec 2)
    (prio : BitVec 3) (q : BitVec 2) (nb : BitVec 10), issueA s (.mxbind vb fa fb dist fo tiles prio q nb) = some g →
    g.stop ≠ .bind → g.saveReq = none → vb.toNat + 2 * bankRegs fb.toNat ≤ (s.pk g).vregs → g.session = none →
    (s.pk g).w % 2 = 0 → (s.pk g).h % 2 = 0 → nb.toNat < (s.pk g).bars →
    spillOff (s.pk g).vregs + 49408 ≤ 65536 * (s.lau g).qd.slot64 → s.mates g = [] →
    exec (.mxbind vb fa fb dist fo tiles prio q nb) s = .next (((({ s with binds := s.binds ++
      [({ gid := g.who.gid, q := q.toNat, word := (aWords (.mxbind vb fa fb dist fo tiles prio q nb)).toNat, vb := vb.toNat,
          fa := fa.toNat, fb := fb.toNat, fo := fo.toNat, dist := dist == 1, tiles := tiles.toNat + 1, prio := prio.toNat,
          nb := nb.toNat } : Bind)] } : State).putG { g with stop := .bind }).waitA .barrier))) ∧
  (∀ (s : State) (g : Group) (ta : BitVec 4) (c : BitVec 6) (z : BitVec 2) (ks : BitVec 12) (mr : BitVec 5) (o : BitVec 4)
    (ob : BitVec 6) (acc : BitVec 1) (epi : BitVec 4) (t : Ten) (k : Nat) (ss : Session),
    issueA s (.mxloop ta c z ks mr o ob acc epi) = some g → g.saveReq = none → g.tensor ta.toNat = some t →
    (o ≠ 15 → ∃ u, g.tensor o.toNat = some u ∧ u.is 2 ss.fo = true) → s.mySession g = some (k, ss, 0) →
    mayPass ss 0 z.toNat = true → t.is 2 ss.fa = true → (epi = 9 → accinOk ss.fa ss.fo = true) → ss.saved = false →
    ss.passes.length < 4 →
    exec (.mxloop ta c z ks mr o ob acc epi) s = .next (Claims.passed s g k ss
      (Pass.new (.mxloop ta c z ks mr o ob acc epi) (g.regsFrom c.toNat 4 ++ g.regsFrom ob.toNat 3)
        [(g.rt ta.toNat).img, 0, (g.rt o.toNat).img]) fun p => p.outLines s g (slabOf ss.fa))) ∧
  (∀ (s : State) (g : Group) (ti tc : BitVec 4) (c : BitVec 6) (z : BitVec 2) (ks : BitVec 12) (mr : BitVec 5) (o : BitVec 4)
    (ob : BitVec 6) (acc : BitVec 1) (epi : BitVec 4) (t tv : Ten) (k : Nat) (ss : Session),
    issueA s (.mxconv ti tc c z ks mr o ob acc epi) = some g → g.saveReq = none → g.tensor ti.toNat = some t →
    g.tensor tc.toNat = some tv → (o ≠ 15 → ∃ u, g.tensor o.toNat = some u ∧ u.is 4 ss.fo = true) →
    s.mySession g = some (k, ss, 0) → mayPass ss 0 z.toNat = true → isBq ss.fa = false → t.is 4 ss.fa = true → tv.kind = 2 →
    (epi = 9 → accinOk ss.fa ss.fo = true) →
    ((Conv.of (g.rt tc.toNat).img.toNat).dw1 = true → convG (Conv.of (g.rt tc.toNat).img.toNat) (slabOf ss.fa) ≠ 0 ∧ ks = 1) →
    ss.saved = false →
    ss.passes.length < 4 →
    exec (.mxconv ti tc c z ks mr o ob acc epi) s = .next (Claims.passed s g k ss
      { Pass.new (.mxconv ti tc c z ks mr o ob acc epi) (g.regsFrom c.toNat 4 ++ g.regsFrom ob.toNat 3)
          [(g.rt ti.toNat).img, (g.rt tc.toNat).img, (g.rt o.toNat).img] with
        empty := convEmpty t (Conv.of (g.rt tc.toNat).img.toNat) } fun p => p.outLines s g (slabOf ss.fa))) ∧
  (∀ (s : State) (g : Group) (z : BitVec 2) (kk : BitVec 5) (big : BitVec 1) (o : BitVec 4) (ob : BitVec 6) (t : Ten) (k : Nat)
    (ss : Session), issueA s (.mxsel z kk big o ob) = some g → g.saveReq = none → g.tensor o.toNat = some t →
    s.mySession g = some (k, ss, 0) → mayPass ss 0 z.toNat = true → t.is 2 8 = true → ss.saved = false →
    ss.passes.length < 4 →
    exec (.mxsel z kk big o ob) s = .next (Claims.passed s g k ss
      (Pass.new (.mxsel z kk big o ob) ([0, 0, 0, 0] ++ g.regsFrom ob.toNat 3) [0, 0, (g.rt o.toNat).img])
      (selLines s g ss))) ∧
  (∀ (s : State) (g : Group) (d : BitVec 6) (k : Nat) (ss : Session) (q : Nat), issueA s (.mxstat d) = some g →
    g.saveReq = none → s.mySession g = some (k, ss, q) →
    exec (.mxstat d) s = .next (s.doneA ((g.wa d.toNat (mxStat ss q)).adv 8))) ∧
  (∀ (s : State) (g : Group) (k : Nat) (ss : Session) (q : Nat), issueA s .mxrel = some g → g.saveReq = none →
    s.nothingToTake g false .session → s.mySession g = some (k, ss, q) → ss.saved = false →
    (∀ p ∈ ss.passes, p.told = true) →
    exec .mxrel s = .next ((leaveSession s g k ss q).1.doneA ((leaveSession s g k ss q).2.adv 8)))

/-! ## Lane-wise instructions of the C-stream -/

/-- The machine once a C instruction that may issue has written its lanes (05 R151). -/
def Claims.written (s : State) (x : Issue) (i : Instr) (d : Dst) (f : Nat → Word) : State :=
  x.done s i (s.putG ((x.past s).writeDst s.cur.split d (x.env s).en f s.tick))

/-- The same with the flags that the enabled lanes raise, ORed into the sticky flags, and the events that they count (01 R37,
03 R111). -/
def Claims.flagged (s : State) (x : Issue) (i : Instr) (d : Dst) (f : Nat → LRes) : State :=
  let out := (lanesOf (x.env s).en).map f
  let g := (x.past s).writeDst s.cur.split d (x.env s).en (fun l => (f l).w) s.tick
  x.done s i ((s.putG (g.raiseFl (flOr out))).countEv g.who.lid (out.map (·.ev)).flatten)

/-- 02 R64, 05 R151, 01 R17, R19: what writing a destination changes. A vector register takes the results of the enabled lanes that
are present and have not exited, and keeps the others; a uniform takes that of the lowest enabled lane, C0-C2 setting the activity
mask of the instruction's split within its owned lanes, and is not written where no lane is enabled; a queue gets one entry, the BQ the
value of the lowest enabled lane. Nothing else of the group changes: a vector destination leaves every other register, the splits and
the queues; C3 and above every other register; C0-C2 every other split and the rest of theirs; a queue the C side and the other
queues, the time of the last push apart. -/
def Obligations.DestinationRules : Prop :=
  ∀ (g : Group) (k : Nat) (en : Mask) (f : Nat → Word) (now : Nat),
    (∀ n : BitVec 9, ∃ v : Tbl Lanes, g.writeDst k (.v n) en f now = { g with cs := { g.cs with v := v } } ∧
      (∀ m, m ≠ n.toNat → v.get? m = g.cs.v.get? m) ∧
      ∀ l < 96, lane (v.getD n.toNat zeroLanes) l =
        if en.getLsbD l && g.cs.alive.getLsbD l then f l else lane (g.cs.v.getD n.toNat zeroLanes) l) ∧
    (∀ n : BitVec 9, lowLane en = none → g.writeDst k (.c n) en f now = g) ∧
    (∀ (n : BitVec 9) (l : Nat), lowLane en = some l → 3 ≤ n.toNat →
      ∃ c : Tbl Word, g.writeDst k (.c n) en f now = { g with cs := { g.cs with c := c } } ∧
        (∀ m, m ≠ n.toNat → c.get? m = g.cs.c.get? m) ∧ c.getD n.toNat 0 = f l) ∧
    (∀ (n : BitVec 9) (l : Nat), lowLane en = some l → n.toNat < 3 →
      ∃ sp : Tbl Split, g.writeDst k (.c n) en f now = { g with cs := { g.cs with splits := sp } } ∧
        (∀ k', k' ≠ k → sp.get? k' = g.cs.splits.get? k') ∧ (g.cs.splits.get? k = none → sp.get? k = none) ∧
        ∀ p : Split, g.cs.splits.get? k = some p → ∃ q, sp.get? k = some q ∧ q = { p with act := q.act } ∧
          ∀ m < 96, q.act.getLsbD m =
            (p.own.getLsbD m && if m / 32 = n.toNat then (f l).getLsbD (m % 32) else p.act.getLsbD m)) ∧
    (∀ n, g.writeDst k (.none n) en f now = g) ∧
    (let e : VEntry := { data := mkLanes fun l => if en.getLsbD l then f l else 0, mask := en, fill := .filled, held := false,
                         op := 0, need := g.nearOf k }
     g.writeDst k (.queue 0) en f now = { g with q := { g.q with xq := g.q.xq ++ [e] }, lastQ := now } ∧
     g.writeDst k (.queue 1) en f now = { g with q := { g.q with sdq0 := g.q.sdq0 ++ [e] }, lastQ := now } ∧
     g.writeDst k (.queue 2) en f now = { g with q := { g.q with sdq1 := g.q.sdq1 ++ [e] }, lastQ := now } ∧
     g.writeDst k (.queue 3) en f now = { g with
       q := { g.q with bq := g.q.bq ++ [{ val := ((lowLane en).map f).getD 0, need := g.nearOf k }] }, lastQ := now })

/-- An exact integer as a word: modulo 2^32, or clamped to the range of its type (03 R95). -/
def Claims.fit (u sat : BitVec 1) (n : Int) : Word :=
  if sat = 0 then BitVec.ofInt 32 n
  else if u = 1 then BitVec.ofInt 32 (if n < 0 then 0 else if 2 ^ 32 ≤ n then 2 ^ 32 - 1 else n)
  else BitVec.ofInt 32 (if n < -2 ^ 31 then -2 ^ 31 else if 2 ^ 31 ≤ n then 2 ^ 31 - 1 else n)

/-- The integer instructions of 05 R165-R169 and R174: destination, sources, and the result of a lane from its operands. -/
def Claims.int : Instr → Option (Dst × List Src × (List Word → Word))
  | .iadd u sat d a b _ => some (d, [a, b], fun v => Claims.fit u sat (ival (u == 1) (arg v 0) + ival (u == 1) (arg v 1)))
  | .isub u sat d a b _ => some (d, [a, b], fun v => Claims.fit u sat (ival (u == 1) (arg v 0) - ival (u == 1) (arg v 1)))
  | .imul u sat d a b _ => some (d, [a, b], fun v => Claims.fit u sat (ival (u == 1) (arg v 0) * ival (u == 1) (arg v 1)))
  | .imad u sat d a b c _ => some (d, [a, b, c], fun v =>
      Claims.fit u sat (ival (u == 1) (arg v 0) * ival (u == 1) (arg v 1) + ival (u == 1) (arg v 2)))
  | .imulh u d a b _ => some (d, [a, b], fun v =>
      BitVec.ofInt 32 (ival (u == 1) (arg v 0) * ival (u == 1) (arg v 1) / 2 ^ 32))
  | .imin u d a b _ => some (d, [a, b], fun v =>
      if ival (u == 1) (arg v 1) < ival (u == 1) (arg v 0) then arg v 1 else arg v 0)
  | .imax u d a b _ => some (d, [a, b], fun v =>
      if ival (u == 1) (arg v 0) < ival (u == 1) (arg v 1) then arg v 1 else arg v 0)
  | .iabs sat d a _ => some (d, [a], fun v => Claims.fit 0 sat ((arg v 0).toInt.natAbs : Int))
  | .iadd3 u sat d a b c _ => some (d, [a, b, c], fun v =>
      Claims.fit u sat (ival (u == 1) (arg v 0) + ival (u == 1) (arg v 1) + ival (u == 1) (arg v 2)))
  | .isad u sat d a b c _ => some (d, [a, b, c], fun v =>
      Claims.fit u sat (((ival (u == 1) (arg v 0) - ival (u == 1) (arg v 1)).natAbs : Int) + ival (u == 1) (arg v 2)))
  | .iclamp u d a lo hi _ => some (d, [a, lo, hi], fun v =>
      BitVec.ofInt 32 (Min.min (Max.max (ival (u == 1) (arg v 0)) (ival (u == 1) (arg v 1))) (ival (u == 1) (arg v 2))))
  | .ltab tbl d a b c _ => some (d, [a, b, c], fun v => ltab tbl (arg v 0) (arg v 1) (arg v 2))
  | .shl d a b _ => some (d, [a, b], fun v => if 32 ≤ (arg v 1).toNat then 0 else arg v 0 <<< (arg v 1).toNat)
  | .shr d a b _ => some (d, [a, b], fun v => if 32 ≤ (arg v 1).toNat then 0 else arg v 0 >>> (arg v 1).toNat)
  | .shra d a b _ => some (d, [a, b], fun v => BitVec.ofInt 32 ((arg v 0).toInt / 2 ^ (Min.min 31 (arg v 1).toNat)))
  | .shf d a b c _ => some (d, [a, b, c], fun v =>
      BitVec.ofNat 32 (((arg v 1).toNat * 2 ^ 32 + (arg v 0).toNat) / 2 ^ ((arg v 2).toNat % 32)))
  | .bfe d a b _ => some (d, [a, b], fun v =>
      BitVec.ofNat 32 ((arg v 0).toNat / 2 ^ (fieldAt (arg v 1)).1 % 2 ^ (fieldAt (arg v 1)).2))
  | .bfes d a b _ => some (d, [a, b], fun v => bfes32 (arg v 0) (arg v 1))
  | .bfi d a b c _ => some (d, [a, b, c], fun v => bfi32 (arg v 2) (arg v 0) (arg v 1))
  | .popc d a _ => some (d, [a], fun v => BitVec.ofNat 32 ((List.range 32).filter fun i => (arg v 0).getLsbD i).length)
  | .clz d a _ => some (d, [a], fun v =>
      BitVec.ofNat 32 (((List.range 32).find? fun i => (arg v 0).getLsbD (31 - i)).getD 32))
  | .brev d a _ => some (d, [a], fun v => (arg v 0).reverse)
  | .idp4 u ub sat d a b c _ => some (d, [a, b, c], fun v => Claims.fit (u &&& ub) sat
      (((List.range 4).map fun i => part (u == 1) 8 i (arg v 0) * part (ub == 1) 8 i (arg v 1)).sum +
        ival (u == 1 && ub == 1) (arg v 2)))
  | .idp2 u ub sat d a b c _ => some (d, [a, b, c], fun v => Claims.fit (u &&& ub) sat
      (((List.range 2).map fun i => part (u == 1) 16 i (arg v 0) * part (ub == 1) 16 i (arg v 1)).sum +
        ival (u == 1 && ub == 1) (arg v 2)))
  | .rnenc u d a _ => some (d, [a], fun v => rn24Enc (ival (u == 1) (arg v 0)))
  | .rndec u d a _ => some (d, [a], fun v => BitVec.ofInt 32 (rn24Dec (u == 0) (arg v 0)))
  | .rnmad d a b c _ => some (d, [a, b, c], fun v =>
      let p := rn24 (arg v 0)
      let q := rn24 (arg v 1)
      let r := rn24 (arg v 2)
      rn24Word ((p.1 * q.1 + r.1) % 256, (p.2.1 * q.2.1 + r.2.1) % 255, (p.2.2 * q.2.2 + r.2.2) % 253))
  | .mov d a _ => some (d, [a], fun v => arg v 0)
  | _ => none

/-- 05 R165-R169, R174, 06 R179: an integer instruction that may issue writes to its destination the result of every enabled lane
from that lane's operands; it raises no flag and counts nothing. -/
def Obligations.IntegerResults : Prop :=
  ∀ (s : State) (i : Instr) (x : Issue) (d : Dst) (ss : List Src) (f : List Word → Word),
    issueC s i = some x → Claims.int i = some (d, ss, f) →
    exec i s = .next (Claims.written s x i d fun l => f (x.words s (ints ss) l))

/-- 03 R97: the RN24 container holds the residues modulo 256, 255 and 253 in bits 7 to 0, 15 to 8 and 23 to 16 and zeros above, which
decoding ignores; signed it ranges from -8,257,920 to 8,257,919 and unsigned from 0 to 16,515,839. By R99 and 05 R174 the multiply-add
of three encodings is the encoding of the multiply-add. -/
def Obligations.ResidueArithmetic : Prop :=
  (∀ x : Int,
    ((rn24Enc x).extractLsb' 0 8).toNat = x % 256 ∧ ((rn24Enc x).extractLsb' 8 8).toNat = x % 255 ∧
    ((rn24Enc x).extractLsb' 16 8).toNat = x % 253 ∧ (rn24Enc x).extractLsb' 24 8 = 0) ∧
  (∀ (sgn : Bool) (w : Word), rn24Dec sgn w = rn24Dec sgn (w &&& 0x00FFFFFF)) ∧
  (∀ w : Word, 0 ≤ rn24Dec false w ∧ rn24Dec false w ≤ 16515839 ∧ -8257920 ≤ rn24Dec true w ∧ rn24Dec true w ≤ 8257919) ∧
  (∀ x : Int, 0 ≤ x → x ≤ 16515839 → rn24Dec false (rn24Enc x) = x) ∧
  (∀ x : Int, -8257920 ≤ x → x ≤ 8257919 → rn24Dec true (rn24Enc x) = x) ∧
  (∀ a b c : Int,
    let p := rn24 (rn24Enc a)
    let q := rn24 (rn24Enc b)
    let r := rn24 (rn24Enc c)
    rn24Word ((p.1 * q.1 + r.1) % 256, (p.2.1 * q.2.1 + r.2.1) % 255, (p.2.2 * q.2.2 + r.2.2) % 253) = rn24Enc (a * b + c))

/-- The instructions of 05 R156-R163, R170-R173 whose lanes raise flags: destination, operands with the types that their inline
integers take, and the result of a lane. -/
def Claims.float : Instr → Option (Dst × List (OpTy × Src) × (List Word → LRes))
  | .fadd rm z d a b _ => some (d, f32s [a, b], fun v => (fAdd f32 (.of rm) (z == 1) (argN v 0) (argN v 1)).lane 0)
  | .fsub rm z d a b _ => some (d, f32s [a, b], fun v => (fSub f32 (.of rm) (z == 1) (argN v 0) (argN v 1)).lane 0)
  | .fmul rm z d a b _ => some (d, f32s [a, b], fun v => (fMul f32 (.of rm) (z == 1) (argN v 0) (argN v 1)).lane 0)
  | .ffma rm z d a b c _ => some (d, f32s [a, b, c], fun v =>
      (fFma f32 (.of rm) (z == 1) (argN v 0) (argN v 1) (argN v 2)).lane 0)
  | .fmin z d a b _ => some (d, f32s [a, b], fun v => (fMinMax f32 false false (z == 1) (argN v 0) (argN v 1)).lane 0)
  | .fmax z d a b _ => some (d, f32s [a, b], fun v => (fMinMax f32 true false (z == 1) (argN v 0) (argN v 1)).lane 0)
  | .fminn z d a b _ => some (d, f32s [a, b], fun v => (fMinMax f32 false true (z == 1) (argN v 0) (argN v 1)).lane 0)
  | .fmaxn z d a b _ => some (d, f32s [a, b], fun v => (fMinMax f32 true true (z == 1) (argN v 0) (argN v 1)).lane 0)
  | .fclamp z d a lo hi _ => some (d, f32s [a, lo, hi], fun v =>
      (fClamp (z == 1) (argN v 0) (argN v 1) (argN v 2)).lane 0)
  | .frnd rm z d a _ => some (d, f32s [a], fun v => (fRnd f32 (.of rm) (z == 1) (argN v 0)).lane 0)
  | .fclass d a _ => some (d, f32s [a], fun v => .pure (fClass (argN v 0)))
  | .fldexp rm z d a n _ => some (d, [(.f32, a), (.int, n)], fun v =>
      (fLdexp f32 (.of rm) (z == 1) (argN v 0) (arg v 1).toInt).lane 0)
  | .fexpo z d a _ => some (d, f32s [a], fun v => { w := (fExpo (z == 1) (argN v 0)).1, fl := (fExpo (z == 1) (argN v 0)).2 })
  | .fdiv rm z d a b _ => some (d, f32s [a, b], fun v => (fDiv f32 (.of rm) (z == 1) (argN v 0) (argN v 1)).lane 0)
  | .fsqrt rm z d a _ => some (d, f32s [a], fun v => (fSqrt f32 (.of rm) (z == 1) (argN v 0)).lane 0)
  | .frcp d a _ => some (d, f32s [a], fun v => (aRcp (arg v 0)).lane 0)
  | .frsq d a _ => some (d, f32s [a], fun v => (aRsq (arg v 0)).lane 0)
  | .fexp2 d a _ => some (d, f32s [a], fun v => (aExp2 (arg v 0)).lane 0)
  | .flog2 d a _ => some (d, f32s [a], fun v => (aLog2 (arg v 0)).lane 0)
  | .fsin d a _ => some (d, f32s [a], fun v => (aTrig false (arg v 0)).lane 0)
  | .fcos d a _ => some (d, f32s [a], fun v => (aTrig true (arg v 0)).lane 0)
  | .flerp rm z d a b t _ => some (d, f32s [a, b, t], fun v => (fLerp (.of rm) (z == 1) (argN v 0) (argN v 1) (argN v 2)).lane 0)
  | .fdot3 rm z d a b _ => some (d, f32s [a, srcPlus a 1, srcPlus a 2, b, srcPlus b 1, srcPlus b 2], fun v =>
      (fDot3 (.of rm) (z == 1) (argN v 0) (argN v 1) (argN v 2) (argN v 3) (argN v 4) (argN v 5)).lane 0)
  | .hadd2 bf rm z d a b _ => some (d, halves bf [a, b], fun v =>
      let r := fun e => fAdd (halfFmt bf) (.of rm) (z == 1) (half (arg v 0) e) (half (arg v 1) e)
      packed (r 0) (r 1))
  | .hmul2 bf rm z d a b _ => some (d, halves bf [a, b], fun v =>
      let r := fun e => fMul (halfFmt bf) (.of rm) (z == 1) (half (arg v 0) e) (half (arg v 1) e)
      packed (r 0) (r 1))
  | .hfma2 bf rm z d a b c _ => some (d, halves bf [a, b, c], fun v =>
      let r := fun e => fFma (halfFmt bf) (.of rm) (z == 1) (half (arg v 0) e) (half (arg v 1) e) (half (arg v 2) e)
      packed (r 0) (r 1))
  | .hmin2 bf z d a b _ => some (d, halves bf [a, b], fun v =>
      let r := fun e => fMinMax (halfFmt bf) false false (z == 1) (half (arg v 0) e) (half (arg v 1) e)
      packed (r 0) (r 1))
  | .hmax2 bf z d a b _ => some (d, halves bf [a, b], fun v =>
      let r := fun e => fMinMax (halfFmt bf) true false (z == 1) (half (arg v 0) e) (half (arg v 1) e)
      packed (r 0) (r 1))
  | .hdot2 bf rm z d a b c _ => some (d, halves bf [a, b] ++ f32s [c], fun v =>
      (hDot2 (halfFmt bf) (.of rm) (z == 1) (half (arg v 0) 0) (half (arg v 0) 1) (half (arg v 1) 0) (half (arg v 1) 1)
        (argN v 2)).lane 0)
  | .cvt dt rm sat z st d a _ => some (d, [(tyOp st, a)], fun v =>
      let r := convert dt.toNat st.toNat (.of rm) (sat == 1) (z == 1) (arg v 0)
      { w := BitVec.ofNat 32 (if dt = 3 then r.1 * 2 ^ 13 else r.1), fl := r.2.1, ev := r.2.2 })
  | .pack dt rm sat z st d a b c e _ => some (d,
      ((if packCount dt = 2 then [a, b] else [a, b, c, e]).map fun y => (tyOp st, y)), fun v =>
      let rs := v.map (convert dt.toNat st.toNat (.of rm) (sat == 1) (z == 1))
      { w := BitVec.ofNat 32 ((rs.zipIdx.map fun r => r.1.1 % 2 ^ tyWidth dt.toNat * 2 ^ (packStep dt.toNat * r.2)).sum),
        fl := rs.foldl (fun f r => f ||| r.2.1) 0, ev := (rs.map fun r => r.2.2).flatten })
  | .unpk st j d a _ => some (d, [(tyOp st, a)], fun v =>
      let p := (arg v 0).toNat / 2 ^ (packStep st.toNat * j.toNat) % 2 ^ tyWidth st.toNat
      if st.toNat ≤ 10 then
        { w := BitVec.ofNat 32 (fToF f32 .rn false ((tyFmt st.toNat).val p)).1,
          fl := (fToF f32 .rn false ((tyFmt st.toNat).val p)).2 }
      else .pure (BitVec.ofInt 32 (tyInt' st.toNat p)))
  | _ => none

/-- 05 R156-R163, R170-R173: a floating-point, packed or converting instruction that may issue writes every enabled lane's result,
ORs the lanes' flags into the sticky flags and counts their events; the operation of each lane is that of the format (03).
Model's choices: notes/assumptions/12.md. -/
def Obligations.FloatResults : Prop :=
  ∀ (s : State) (i : Instr) (x : Issue) (d : Dst) (ops : List (OpTy × Src)) (f : List Word → LRes),
    issueC s i = some x → Claims.float i = some (d, ops, f) →
    exec i s = .next (Claims.flagged s x i d fun l => f (x.words s ops l))

/-- 05 R158, R162, R165: FSET, HSET2 and ISET write their comparison to the enabled lanes of a predicate, and raise the flags of the
comparisons. -/
def Claims.compares : Prop :=
  ∀ (s : State) (i : Instr) (x : Issue) (d : Dst) (ops : List (OpTy × Src)) (f : List Word → Bool × Fl),
    issueC s i = some x →
    ((∃ cnd z a b y, i = .fset cnd z d a b y ∧ ops = f32s [a, b] ∧
        f = fun v => fSet f32 cnd.toNat (z == 1) (argN v 0) (argN v 1)) ∨
      (∃ cnd bf z comb a b y, i = .hset2 cnd bf z comb d a b y ∧ ops = halves bf [a, b] ∧ f = fun v =>
        let r := fun e => fSet (halfFmt bf) cnd.toNat (z == 1) (half (arg v 0) e) (half (arg v 1) e)
        (if comb = 0 then (r 0).1 && (r 1).1 else if comb = 1 then (r 0).1 || (r 1).1 else if comb = 2 then (r 0).1
          else (r 1).1, (r 0).2 ||| (r 1).2)) ∨
      (∃ cnd u a b y, i = .iset cnd u d a b y ∧ ops = ints [a, b] ∧ f = fun v =>
        (let p := ival (u == 1) (arg v 0)
         let q := ival (u == 1) (arg v 1)
         [decide (p = q), decide (p ≠ q), decide (p < q), decide (p ≤ q), decide (q < p), decide (q ≤ p)].getD cnd.toNat
           (decide (q ≤ p)), 0))) →
    exec i s = .next (x.done s i (s.putG
      (((x.past s).writePred d (x.env s).en fun l => (f (x.words s ops l)).1).raiseFl
        ((lanesOf (x.env s).en).foldl (fun a l => a ||| (f (x.words s ops l)).2) 0))))

/-! ## Lane instructions -/

/-- The lane instructions of 06 R179-R184, R194, R195 that write words: destination, operands, and a lane's word from the enabled
lanes, the C side and the operands. -/
def Claims.lanes : Instr → Option (Dst × List Src × (Mask → CSide → List Lanes → Nat → Word))
  | .sel pr neg d a b _ => some (d, [a, b], fun _ c v l =>
      if (c.rp pr.toNat).getLsbD l != (neg == 1) then lane (v.getD 0 []) l else lane (v.getD 1 []) l)
  | .perm act d a i f _ => some (d, [i, f], fun en c v l =>
      fromLane c en a (act == 1) (lane (v.getD 1 []) l) (some (lane (v.getD 0 []) l).toNat))
  | .shflup w act d a n f _ => some (d, [n, f], fun en c v l =>
      let k := (lane (v.getD 0 []) 0).toNat
      fromLane c en a (act == 1) (lane (v.getD 1 []) l) (if k ≤ l % segWidth w then some (l - k) else none))
  | .shfldn w act d a n f _ => some (d, [n, f], fun en c v l =>
      let k := (lane (v.getD 0 []) 0).toNat
      fromLane c en a (act == 1) (lane (v.getD 1 []) l) (if l % segWidth w + k < segWidth w then some (l + k) else none))
  | .shflx w act d a n f _ => some (d, [n, f], fun en c v l =>
      let k := Nat.xor (l % segWidth w) (lane (v.getD 0 []) 0).toNat
      fromLane c en a (act == 1) (lane (v.getD 1 []) l) (if k < segWidth w then some (l - l % segWidth w + k) else none))
  | .shflr w act d a n f _ => some (d, [n, f], fun en c v l =>
      fromLane c en a (act == 1) (lane (v.getD 1 []) l)
        (some (l - l % segWidth w + (l % segWidth w + (lane (v.getD 0 []) 0).toNat) % segWidth w)))
  | .bcast d a i _ => some (d, [i], fun en c v _ => fromLane c en a false 0 (some (lane (v.getD 0 []) 0).toNat))
  | .bcastf d a _ => some (d, [], fun en c _ _ => fromLane c en a false 0 (lowLane en))
  | .voteballot pr neg w d _ => some (d, [], fun en c _ _ =>
      BitVec.ofNat 32 ((predOf c pr neg &&& en).toNat / 2 ^ (32 * w.toNat) % 2 ^ 32))
  | .matchany w d a _ => some (d, [a], fun en _ v l =>
      BitVec.ofNat 32 ((matching en (v.getD 0 []) l).toNat / 2 ^ (32 * w.toNat) % 2 ^ 32))
  | .matchlead d a _ => some (d, [a], fun en _ v l => BitVec.ofNat 32 ((lowLane (matching en (v.getD 0 []) l)).getD 0))
  | .pmov 0 pr d _ _ => some (d, [], fun _ c _ l => if (c.rp pr.toNat).getLsbD l then 1 else 0)
  | .pmovw 0 w pr d _ _ => some (d, [], fun _ c _ _ => BitVec.ofNat 32 ((c.rp pr.toNat).toNat / 2 ^ (32 * w.toNat) % 2 ^ 32))
  | _ => none

/-- 06 R176, R179-R184, R195: a lane instruction that may issue writes every enabled lane's word; it reads other lanes of a vector
register before anything is written. -/
def Claims.laneResults : Prop :=
  ∀ (s : State) (i : Instr) (x : Issue) (d : Dst) (ss : List Src) (f : Mask → CSide → List Lanes → Nat → Word),
    issueC s i = some x → Claims.lanes i = some (d, ss, f) →
    exec i s = .next (Claims.written s x i d (f (x.env s).en (x.past s).cs (x.vals s (ints ss))))

/-- 06 R176: the value that a lane reads from another is that lane's word of the register, or the fill where there is no such lane,
it is not present, or, with ACT, it is not enabled. -/
def Claims.laneReads : Prop :=
  ∀ (c : CSide) (en : Mask) (n : BitVec 9) (act : Bool) (fill : Word),
    fromLane c en (.v n) act fill none = fill ∧
    (∀ l, 96 ≤ l → fromLane c en (.v n) act fill (some l) = fill) ∧
    (∀ l, l < 96 → c.present.getLsbD l = false → fromLane c en (.v n) act fill (some l) = fill) ∧
    (∀ l, l < 96 → en.getLsbD l = false → fromLane c en (.v n) true fill (some l) = fill) ∧
    (∀ l, l < 96 → c.present.getLsbD l = true → (act = true → en.getLsbD l = true) →
      fromLane c en (.v n) act fill (some l) = lane (c.raw n.toNat) l)

/-- 06 R176, R179-R184, R195: the lane instructions, and what a lane reads from another. -/
def Obligations.LaneResults : Prop := Claims.laneResults ∧ Claims.laneReads

/-- The instructions that write a predicate lane by lane (06 R183, R184, R194, R195): destination, operands, result. -/
def Claims.preds : Instr → Option (Dst × List Src × (Mask → CSide → List Lanes → Nat → Bool))
  | .voteall pr neg d _ => some (d, [], fun en c _ _ =>
      (List.range 96).all fun l => !en.getLsbD l || (predOf c pr neg).getLsbD l)
  | .voteany pr neg d _ => some (d, [], fun en c _ _ =>
      (List.range 96).any fun l => en.getLsbD l && (predOf c pr neg).getLsbD l)
  | .votesame pr neg d _ => some (d, [], fun en c _ _ =>
      ((List.range 96).all fun l => !en.getLsbD l || (predOf c pr neg).getLsbD l) ||
        (List.range 96).all fun l => !en.getLsbD l || !(predOf c pr neg).getLsbD l)
  | .matchall d a _ => some (d, [a], fun en _ v l =>
      (List.range 96).all fun m => !en.getLsbD m || lane (v.getD 0 []) m == lane (v.getD 0 []) l)
  | .pltab tbl d a b c _ => some (d, [], fun _ cs _ l =>
      tbl.getLsbD (((predSrc cs a).getLsbD l).toNat + 2 * ((predSrc cs b).getLsbD l).toNat +
        4 * ((predSrc cs c).getLsbD l).toNat))
  | .pmov 1 _ d a _ => some (d, [a], fun _ _ v l => decide (lane (v.getD 0 []) l ≠ 0))
  | _ => none

/-- 06 R183, R184, R194, R195: the votes, MATCHALL, PLTAB and PMOV write the enabled lanes of a predicate; PMOVW to a predicate
writes the enabled ones of its 32 lanes. -/
def Claims.predicates : Prop :=
  (∀ (s : State) (i : Instr) (x : Issue) (d : Dst) (ss : List Src) (f : Mask → CSide → List Lanes → Nat → Bool),
    issueC s i = some x → Claims.preds i = some (d, ss, f) →
    exec i s = .next (x.done s i (s.putG ((x.past s).writePred d (x.env s).en
      (f (x.env s).en (x.past s).cs (x.vals s (ints ss))))))) ∧
  (∀ (s : State) (x : Issue) (w : BitVec 2) (pr : BitVec 3) (d : Dst) (a : Src) (y : Ctl),
    issueC s (.pmovw 1 w pr d a y) = some x →
    exec (.pmovw 1 w pr d a y) s = .next (x.done s (.pmovw 1 w pr d a y) (s.putG ((x.past s).writePred d
      ((x.env s).en &&& mkMask fun l => l / 32 == w.toNat)
      fun l => (lane ((x.vals s (ints [a])).getD 0 []) 0).getLsbD (l % 32)))))

/-- 05 R158, R162, R165, 06 R183, R184, R194, R195: the instructions that write a predicate. -/
def Obligations.PredicateResults : Prop := Claims.compares ∧ Claims.predicates

/-- 06 R185, 03 R108, R109: REDUCE and SCAN write the root of the tree over the enabled lanes, and the inclusive or exclusive
prefixes of it, with the flags and counts of every operation made. -/
def Claims.reduceAndScan : Prop :=
  (∀ (s : State) (x : Issue) (op : BitVec 4) (z : BitVec 1) (rm : BitVec 2) (d : Dst) (a : Src) (y : Ctl),
    issueC s (.reduce op z rm d a y) = some x →
    let f := redOp op (z == 1) (.of rm)
    let t := treeLevels f (redLanes op (x.env s).en ((x.vals s [(redTy op, a)]).getD 0 []))
    let top := treeTop f (t.1.getLastD [])
    let ops := t.2 ++ [top.1, top.2]
    let g := (x.past s).writeDst s.cur.split d (x.env s).en (fun _ => top.2.w) s.tick
    exec (.reduce op z rm d a y) s = .next (x.done s (.reduce op z rm d a y)
      ((s.putG (g.raiseFl (flOr ops))).countEv g.who.lid (ops.map (·.ev)).flatten))) ∧
  (∀ (s : State) (x : Issue) (op : BitVec 4) (z : BitVec 1) (rm : BitVec 2) (ex : BitVec 1) (d : Dst) (a : Src) (y : Ctl),
    issueC s (.scan op z rm ex d a y) = some x →
    let r := prefixOf (redOp op (z == 1) (.of rm)) (redLanes op (x.env s).en ((x.vals s [(redTy op, a)]).getD 0 []))
    let g := (x.past s).writeDst s.cur.split d (x.env s).en (fun l =>
      if ex = 0 then r.1.getD l 0 else if l = 0 then redId op else r.1.getD (l - 1) 0) s.tick
    exec (.scan op z rm ex d a y) s = .next (x.done s (.scan op z rm ex d a y)
      ((s.putG (g.raiseFl (flOr r.2))).countEv g.who.lid (r.2.map (·.ev)).flatten)))

/-- 03 R108, R109, 06 R185: over integer addition the root of the tree is the sum of the enabled lanes modulo 2^32, and the
inclusive prefix of lane `l` is the sum of the enabled lanes up to `l`. -/
def Claims.treeSums : Prop :=
  ∀ (en : Mask) (v : Lanes) (z : Bool) (rm : RM),
    let sum := fun (n : Nat) => ((List.range n).map fun l => if en.getLsbD l then lane v l else (0 : Word)).sum
    (treeTop (redOp 5 z rm) ((treeLevels (redOp 5 z rm) (redLanes 5 en v)).1.getLastD [])).2.w = sum 96 ∧
    ∀ l < 96, (prefixOf (redOp 5 z rm) (redLanes 5 en v)).1.getD l 0 = sum (l + 1)

/-- 03 R108, R109, 06 R185: REDUCE and SCAN, and what their trees come to over integer addition. -/
def Obligations.ReduceAndScanResults : Prop := Claims.reduceAndScan ∧ Claims.treeSums

/-- 06 R186, 01 R42: SREG writes the lane number, THREADID, the split, the low word of TIME, which latches the high word, or the
latched high word. -/
def Obligations.IdentityReads : Prop :=
  ∀ (s : State) (x : Issue) (sel : BitVec 3) (d : Dst) (y : Ctl), issueC s (.sreg sel d y) = some x → sel.toNat ≤ 4 →
    let g := if sel = 3 then { x.past s with sys.timeH := BitVec.ofNat 32 (s.time / 2 ^ 32) } else x.past s
    let f : Nat → Word := fun l =>
      if sel = 0 then BitVec.ofNat 32 l else if sel = 1 then lane (x.past s).cs.threadId l
      else if sel = 2 then BitVec.ofNat 32 s.cur.split else if sel = 3 then BitVec.ofNat 32 s.time else (x.past s).sys.timeH
    exec (.sreg sel d y) s = .next (x.done s (.sreg sel d y) (s.putG (g.writeDst s.cur.split d (x.env s).en f s.tick)))

/-- 06 R187-R189: REGROUP of the last group of its set to arrive sorts the lanes of the whole set; before that it waits with its
keys. No group that waits at a REGROUP of another shape names this one. A lane moves with its THREADID, and none is lost. -/
def Obligations.RegroupResults : Prop :=
  (∀ (s : State) (x : Issue) (c : BitVec 5) (n : BitVec 2) (b : BitVec 9) (key : Src) (y : Ctl) (set : List Nat)
    (ms : List (Nat × Group)), issueC s (.regroup c n (.v b) key y) = some x → (x.past s).regroup = none →
    regroupSet (s.putG (x.past s)) (x.past s) (n.toNat + 1) = some set → (x.past s).cs.splits.length ≤ 1 → x.p.stack = [] →
    ms = set.filterMap (fun k => ((s.putG (x.past s)).groups.get? k).map fun h => (k, h)) → ms.length = set.length →
    (∀ m ∈ ms, m.1 ≠ x.g.who.gid → m.2.cEnded = false ∧ m.2.trap = none ∧ ∃ r : Regroup, m.2.regroup = some r ∧
      r.set = set ∧ r.base = b.toNat ∧ r.cnt = c.toNat + 1) →
    (∀ m ∈ ms, ∀ h, m.2.shadow = some h → h.log = []) →
    (∀ m ∈ (s.putG (x.past s)).groups, m.1 ≠ x.g.who.gid → ∀ r, m.2.regroup = some r → x.g.who.gid ∈ r.set →
      r.set.length = set.length ∧ r.base = b.toNat ∧ r.cnt = c.toNat + 1) →
    exec (.regroup c n (.v b) key y) s = .next (x.done s (.regroup c n (.v b) key y) (regroupAll (s.putG (x.past s)) x.g.who.gid
      (ms.map fun m => (m.1, if m.1 = x.g.who.gid then x.past s else m.2,
        if m.1 = x.g.who.gid then (x.vals s [(.int, key)]).getD 0 [] else ((m.2.regroup.map (·.keys)).getD [])))
      b.toNat (c.toNat + 1)))) ∧
  (∀ (base cnt : Nat) (sides : List (CSide × Mask × Lanes)),
    (((regroupSides base cnt sides).map fun c => (lanesOf c.present).map fun l => lane c.threadId l).flatten).Perm
      ((sides.map fun m => (lanesOf m.1.present).map fun l => lane m.1.threadId l).flatten))

/-! ## Queues, near memory and flow of the C-stream -/

/-- The machine in which a C instruction's meaning runs: its split has moved past the word. -/
def Claims.here (s : State) (x : Issue) : State := s.putG (x.past s)

/-- The entries that stand ready among the first of a queue. -/
def Claims.ready (hs : List Head) : List VEntry := hs.filterMap fun h => match h with
  | .ready e => some e
  | _ => none

/-- 06 R190-R192: POP removes its number of entries from its queue once they are all there, DROP every entry that the queue holds and
writes their number to its destination, PUSH with room for all of them appends entries without lanes, to the BQ zeros.
Model's choices: notes/assumptions/42.md, 65.md. -/
def Obligations.QueueResults : Prop :=
  (∀ (s : State) (x : Issue) (n : BitVec 4) (q : BitVec 9) (y : Ctl), issueC s (.pop n (.queue q) y) = some x →
    x.p.owed = 0 →
    let g := x.past s
    let k := q.toNat % 8
    let hs := g.firstN k (n.toNat + 1)
    hs.length = n.toNat + 1 → (∀ h ∈ hs, ∃ e, h = .ready e) →
    let g' : Group := { (List.range (n.toNat + 1)).foldl (fun (g : Group) _ => g.popHead k) g with lastQ := s.tick }
    exec (.pop n (.queue q) y) s = .next (x.done s (.pop n (.queue q) y) (s.putG
      (if s.shadowed g then g'.log (.popped s.cur.split k (Claims.ready hs)) else g')))) ∧
  (∀ (s : State) (x : Issue) (d : Dst) (q : BitVec 9) (y : Ctl), issueC s (.drop d (.queue q) y) = some x → x.p.dropN = none →
    let g := x.past s
    let k := q.toNat % 8
    let n := g.held k
    let hs := g.firstN k n
    (∀ h ∈ hs, ∃ e, h = .ready e) →
    let g1 := (List.range n).foldl (fun (g : Group) _ => g.popHead k) g
    let g2 := if n = 0 then g1 else { g1 with lastQ := s.tick }
    let g3 := if s.shadowed g ∧ n ≠ 0 then g2.log (.popped s.cur.split k (Claims.ready hs)) else g2
    exec (.drop d (.queue q) y) s = .next (x.done s (.drop d (.queue q) y)
      (s.putG (g3.writeDst s.cur.split d (x.env s).en (fun _ => BitVec.ofNat 32 n) s.tick)))) ∧
  (∀ (s : State) (x : Issue) (n : BitVec 2) (q : BitVec 9) (y : Ctl),
    issueC s (.push n (.queue q) y) (n.toNat + 1) = some x → x.p.owed = 0 →
    exec (.push n (.queue q) y) s = .next (x.done s (.push n (.queue q) y) (s.putG
      ((List.range (n.toNat + 1)).foldl (fun (g : Group) _ => g.pushC q.toNat s.cur.split 0 (fun _ => 0) s.tick) (x.past s)))))

/-- The lanes and byte offsets of a near access (06 R210): both address operands added modulo 2^32. -/
def Claims.near (s : State) (x : Issue) (a b : Src) : List (Nat × Nat) :=
  let vs := x.vals s (ints [a, b])
  (lanesOf (x.env s).en).map fun l => (l, (lane (vs.getD 0 []) l + lane (vs.getD 1 []) l).toNat)

/-- Whether every offset is aligned and within the memory's allotment (06 R213). -/
def Claims.within (s : State) (g : Group) (level sz : Nat) (els : List (Nat × Nat)) : Prop :=
  ∀ e ∈ els, e.2 % min sz 4 = 0 ∧ e.2 + sz ≤ s.allot g level

/-- An operation of the split in flight with its acquire and release scopes, attached to a flag where it has one (02 R68, 05 R154). -/
def Claims.flies (s : State) (x : Issue) (i : Instr) (kind : MemKind) (ps : List (Nat × Loc)) (acq rel : Nat)
    (after : Group → Group) : State :=
  let o : MemOp := { id := s.nextId, who := s.cur.split, pc := x.p.idx, kind, els := ps, got := [], acq, rel }
  x.done s i ((Claims.here s x).newId.2.putG (after ((x.past s).addPend o)))

/-- 06 R209-R214: a near-memory load, store or atomic whose enabled lanes are aligned and within the allotment goes in flight with its
operands as they stand, an acquire or release at the scope of its level (06 R209); a load and an atomic that returns attach to the flag
of the clause and are awaited in their registers. Model's choices: notes/assumptions/44.md. -/
def Obligations.NearMemoryIssues : Prop :=
  (∀ (s : State) (x : Issue) (level : Nat) (i : Instr) (size : BitVec 3) (acq fl : BitVec 1) (d : BitVec 9) (a b : Src) (y : Ctl),
    (level = 4 ∧ i = .ldl size acq fl (.v d) a b y ∨ level = 3 ∧ i = .lds size acq fl (.v d) a b y ∨
      level = 2 ∧ i = .ldc size acq fl (.v d) a b y) → issueC s i = some x →
    let n := (x.env s).flag fl
    n < 12 → (x.past s).cfn n < 63 →
    let els := Claims.near s x a b
    let ps := nearPieces (Claims.here s x) (x.past s) level (nearSize size).1 els
    Claims.within (Claims.here s x) (x.past s) level (nearSize size).1 els →
    (Claims.here s x).unowned (x.past s) (ps.map (·.2)) →
    exec i s = .next (Claims.flies s x i (.near d.toNat (nearSize size).1 (nearSize size).2 n) ps
      (if acq = 1 then nearScope level else 0) 0 fun g =>
      (g.attach n).await s.cur.split ((List.range (sizeWords size)).map fun j => d.toNat + j) n)) ∧
  (∀ (s : State) (x : Issue) (level : Nat) (i : Instr) (size : BitVec 3) (rel : BitVec 1) (a b c : Src) (y : Ctl),
    (level = 4 ∧ i = .stl size rel a b c y ∨ level = 3 ∧ i = .sts size rel a b c y ∨ level = 2 ∧ i = .stc size rel a b c y) →
    issueC s i = some x →
    let els := Claims.near s x a b
    let ps := nearPieces (Claims.here s x) (x.past s) level (nearSize size).1 els
    Claims.within (Claims.here s x) (x.past s) level (nearSize size).1 els →
    (Claims.here s x).unowned (x.past s) (ps.map (·.2)) →
    let data := match c with
      | .v n => (List.range (sizeWords size)).map fun j => (x.past s).cs.rv (n.toNat + j)
      | _ => [(x.vals s (ints [a, b, c])).getD 2 []]
    exec i s = .next (Claims.flies s x i (.nearStore (nearSize size).1 data) ps 0 (if rel = 1 then nearScope level else 0) id)) ∧
  (∀ (s : State) (x : Issue) (level : Nat) (i : Instr) (op : BitVec 4) (ret : BitVec 1) (ord : BitVec 2) (fl : BitVec 1) (d : Dst)
    (a b c e : Src) (y : Ctl),
    (level = 3 ∧ i = .atoms op ret ord fl d a b c e y ∨ level = 2 ∧ i = .atomc op ret ord fl d a b c e y) →
    issueC s i = some x →
    let n := if ret = 1 then (x.env s).flag fl else 15
    (ret = 1 → n < 12 ∧ (x.past s).cfn n < 63) →
    let vs := x.vals s (ints [a, b] ++ [(if 12 ≤ op.toNat then .f32 else .int, c)] ++ if op = 9 then [(.int, e)] else [])
    let els := Claims.near s x a b
    let ps := nearPieces (Claims.here s x) (x.past s) level 4 els
    Claims.within (Claims.here s x) (x.past s) level 4 els →
    (Claims.here s x).unowned (x.past s) (ps.map (·.2)) →
    exec i s = .next (Claims.flies s x i (.nearAtom (dstV d) op.toNat (ret == 1) n (vs.getD 2 []) (vs.getD 3 [])) ps
      (if ord = 1 ∨ ord = 3 then nearScope level else 0) (if ord = 2 ∨ ord = 3 then nearScope level else 0) fun g =>
      if ret = 1 then (g.attach n).await s.cur.split [dstV d] n else g))

/-- The new C side of each flow instruction of split `k`, its target and its join (06 R197-R204). -/
def Claims.flow (s : State) (g : Group) (k : Nat) : Instr → Option (Option Nat × Option Nat × CSide)
  | .brd join target y => some (some target.toNat, some join.toNat, g.cs.brd k (guardMask g.cs y) join.toNat target.toNat
      (s.pk g).stack)
  | .jmp target _ => some (some target.toNat, none, g.cs.jmp k target.toNat)
  | .callc target _ => some (some target.toNat, none, g.cs.callc k target.toNat)
  | .endc _ => some (none, none, g.cs.endc k)
  | .join _ => (g.cs.join k).map fun c => (none, none, c)
  | .retc _ => (g.cs.retc k).map fun c => (none, none, c)
  | _ => none

/-- 01 R32, 02 R70, 06 R197-R204: a flow instruction that closes its clause, with its target and join headers where they must be, fills
back the spilled entries that it uses, makes the new C side of its rule, and writes the entries that it spills; KILL ends the enabled
lanes. -/
def Claims.flowEffects : Prop :=
  (∀ (s s1 s2 s3 : State) (i : Instr) (x : Issue) (g : Group) (t j : Option Nat) (c : CSide), issueC s i = some x →
    let n := (x.past s).cs.usesStack s.cur.split i (guardMask (x.past s).cs x.h.x) (s1.pk (x.past s)).stack
    flowCheck (Claims.here s x) (x.past s) x.p t j = (s1, none) → s1.cur.mode = 0 →
    fillStack s1 (x.past s) s.cur.split n = (s2, .ok g) → s2.cur.mode = 0 → Claims.flow s2 g s.cur.split i = some (t, j, c) →
    stackIo s2 g c = (s3, none) →
    exec i s = .next (x.done s i (afterFlow s3 g c))) ∧
  (∀ (s s1 s2 : State) (x : Issue) (g : Group) (y : Ctl), issueC s (.kill y) = some x →
    let n := (x.past s).cs.usesStack s.cur.split (.kill y) (guardMask (x.past s).cs y) ((Claims.here s x).pk (x.past s)).stack
    fillStack (Claims.here s x) (x.past s) s.cur.split n = (s1, .ok g) → s1.cur.mode = 0 →
    let c := g.cs.kill s.cur.split (x.env s).en
    stackIo s1 g c = (s2, none) →
    exec (.kill y) s = .next (x.done s (.kill y) (afterFlow s2 g c)))

/-- A split that is about to start the clause at an index, with its masks, its stack and its tag, as ready to run as `p`. -/
def Claims.startsAt (q p : Split) (idx : Nat) (own act : Mask) (stack : List (Nat × Mask)) (tag : Nat) : Prop :=
  q.idx = idx % 2 ^ 22 ∧ q.slot = 0 ∧ q.own = own ∧ q.act = act ∧ q.stack = stack ∧ q.tag = tag ∧ q.st = p.st ∧ q.blk = none

/-- The stack entries of a split within a mask of lanes. -/
def Claims.clipped (st : List (Nat × Mask)) (m : Mask) : List (Nat × Mask) := st.map fun e => (e.1, e.2 &&& m)

/-- 06 R203, R199, R202, R204: where JMP, CALLC, RETC, JOIN, ENDC and KILL send a split and what they leave on its stack; no other split
and no division record changes. CALLC pushes its fall-through and its activity. RETC pops the top entry where the stack is higher than
the base of the split's tag, and goes on at its index with its mask within the owned lanes; at the base it does not complete (it traps).
JOIN pops in the same way, goes on at the join of the tag's record where the stack stands at the base of a tag, and does not complete
in the region itself. ENDC takes its lanes from every entry, pops to the first that has a lane left and goes on there, in the enclosing
division where that entry lies below the base of the split's own; without such an entry the split parks at its end. KILL takes its lanes
from the split and its entries, at the same word, and ends a split that owns no lane any more. -/
def Claims.flowMoves : Prop :=
  ∀ (c : CSide) (k : Nat) (p : Split), c.sp k = some p →
    let fall := p.hdr + p.cnt + 1
    let others := fun (t : CSide) => (∀ n, n ≠ k → t.sp n = c.sp n) ∧ t.tags = c.tags
    let pops := fun (t : CSide) (j : Nat) (m : Mask) (r : List (Nat × Mask)) =>
      others t ∧ ∃ q, t.sp k = some q ∧ Claims.startsAt q p j p.own (m &&& p.own) r p.tag
    (∀ target, others (c.jmp k target) ∧
      ∃ q, (c.jmp k target).sp k = some q ∧ Claims.startsAt q p target p.own p.act p.stack p.tag) ∧
    (∀ target, others (c.callc k target) ∧ ∃ q, (c.callc k target).sp k = some q ∧
      Claims.startsAt q p target p.own p.act ((fall % 2 ^ 22, p.act) :: p.stack) p.tag) ∧
    (∀ j m r, p.stack = (j, m) :: r → c.base p.tag ≤ r.length →
      (∃ t, c.retc k = some t ∧ pops t j m r) ∧ ∃ t, c.join k = some t ∧ pops t j m r) ∧
    (p.stack.length ≤ c.base p.tag → c.retc k = none ∧
      (p.tag = 0 → c.join k = none) ∧
      (∀ d, p.tag ≠ 0 → c.tags.get? p.tag = some d → ∃ t, c.join k = some t ∧ others t ∧
        ∃ q, t.sp k = some q ∧ Claims.startsAt q p d.join p.own p.act p.stack p.tag)) ∧
    (∀ st j m r, Claims.clipped p.stack (~~~p.act) = st ++ (j, m) :: r → (∀ e ∈ st, e.2 = 0) → m ≠ 0 →
      others (c.endc k) ∧
      (c.base p.tag ≤ r.length → ∃ q, (c.endc k).sp k = some q ∧ Claims.startsAt q p j p.own (m &&& p.own) r p.tag) ∧
      (∀ d, p.tag ≠ 0 → c.tags.get? p.tag = some d → r.length < d.base → c.base d.encl ≤ r.length →
        ∃ q, (c.endc k).sp k = some q ∧ Claims.startsAt q p j p.own (m &&& p.own) r d.encl)) ∧
    ((∀ e ∈ p.stack, e.2 &&& ~~~p.act = 0) → others (c.endc k) ∧
      ∃ q, (c.endc k).sp k = some q ∧ q.st = .parkedEnd ∧ q.stack = [] ∧ q.tag = 0 ∧ q.own = p.own ∧ q.act = p.act) ∧
    (∀ m, c.splits.keys.Pairwise (· < ·) → others (c.kill k m) ∧ (c.kill k m).exited = c.exited ||| m ∧
      (p.own &&& ~~~m = 0 → (c.kill k m).sp k = none) ∧
      (p.own &&& ~~~m ≠ 0 → (c.kill k m).sp k = some { p with
        own := p.own &&& ~~~m, act := p.act &&& ~~~m, stack := Claims.clipped p.stack (~~~m) }))

/-- 06 R197, R198: where BRD sends a split. Outside stack mode, with lanes on both sides and an id and a division tag free, it divides:
the split goes on at the fall-through with the lanes whose guard does not hold and its inactive ones, a new one with the lowest free id
starts at the target with the others, each with the entries of its own lanes, and the lowest free tag records the join, the enclosing
tag and the depth. Otherwise it pushes the join with its activity, and where both sides have lanes the fall-through with its own. -/
def Claims.brdMoves : Prop :=
  ∀ (c : CSide) (k : Nat) (p : Split) (gm : Mask) (join target : Nat) (stackMode : Bool), c.sp k = some p →
    let fall := p.hdr + p.cnt + 1
    let t := p.act &&& gm
    let f := p.act &&& ~~~gm
    let c1 := c.brd k gm join target stackMode
    (∀ k' tag, stackMode = false → t ≠ 0 → f ≠ 0 →
      k' < 4 → c.sp k' = none → (∀ n < k', c.sp n ≠ none) →
      1 ≤ tag → tag ≤ 7 → c.tags.get? tag = none → (∀ n < tag, 1 ≤ n → c.tags.get? n ≠ none) →
      let own := f ||| (p.own &&& ~~~p.act)
      (∀ n, n ≠ k → n ≠ k' → c1.sp n = c.sp n) ∧
      (∃ q, c1.sp k = some q ∧ Claims.startsAt q p fall own f (Claims.clipped p.stack own) tag) ∧
      (∃ q, c1.sp k' = some q ∧ Claims.startsAt q p target t t (Claims.clipped p.stack t) tag ∧ q.parent = k) ∧
      (∀ n, n ≠ tag → c1.tags.get? n = c.tags.get? n) ∧
      ∃ d, c1.tags.get? tag = some d ∧ d.join = join ∧ d.encl = p.tag ∧ d.base = p.stack.length) ∧
    (stackMode = true ∨ t = 0 ∨ f = 0 ∨ (∀ n < 4, c.sp n ≠ none) ∨ (∀ n, 1 ≤ n → n ≤ 7 → c.tags.get? n ≠ none) →
      (∀ n, n ≠ k → c1.sp n = c.sp n) ∧ c1.tags = c.tags ∧
      ∃ q, c1.sp k = some q ∧
        (t = 0 → Claims.startsAt q p fall p.own p.act ((join, p.act) :: p.stack) p.tag) ∧
        (t ≠ 0 → f = 0 → Claims.startsAt q p target p.own p.act ((join, p.act) :: p.stack) p.tag) ∧
        (t ≠ 0 → f ≠ 0 →
          Claims.startsAt q p target p.own t ((fall % 2 ^ 22, f) :: (join, p.act) :: p.stack) p.tag))

/-- 01 R32, 02 R70, 06 R197-R204: the flow instructions: what each does to the splits and stacks, and what it makes of the machine. -/
def Obligations.FlowResults : Prop := Claims.flowEffects ∧ Claims.flowMoves ∧ Claims.brdMoves

/-- The splits of a C side stand in order, the lanes that they own are disjoint and present, each split's active lanes are owned, and the owned lanes that
have not exited are all the lanes alive (06 R196, R201, R204). -/
def Claims.partition (c : CSide) : Prop :=
  c.splits.keys.Pairwise (· < ·) ∧
  (∀ k j p q, c.sp k = some p → c.sp j = some q → k ≠ j → p.own &&& q.own = 0) ∧
  (∀ k p, c.sp k = some p → p.act &&& p.own = p.act ∧ p.own &&& c.alive = p.own) ∧
  (∀ l < 96, c.alive.getLsbD l = true → ∃ k p, c.sp k = some p ∧ p.own.getLsbD l = true)

/-- A C side that stands as another but for its splits and their divisions keeps the partition: no lane is given to two splits or lost,
and no register, predicate, THREADID, presence or exit of a lane changes. -/
def Claims.keeps (c t : CSide) : Prop := Claims.partition t ∧ t = { c with splits := t.splits, tags := t.tags }

/-- 06 R196-R204: no flow instruction gives a lane to two splits or loses one: BRD, JMP, JOIN, ENDC, CALLC and RETC keep the partition
of the lanes alive and change nothing but splits and divisions, and KILL with them the lanes that it ends. So do the steps that
need no instruction: the close of a region, the parking or fusing of a split that arrives at a header, two splits that become one,
and a parked split that goes on alone; and the group that follows from a change of its C side has nothing else changed but what its
splits have still to wait for (`unwaited`, which a new split and a new region inherit) and the count of regions that have ended
(`ended`). -/
def Obligations.FlowKeepsPartition : Prop :=
  ∀ (c : CSide) (k : Nat), Claims.partition c →
    (∀ gm join target stack, Claims.keeps c (c.brd k gm join target stack)) ∧
    (∀ target, Claims.keeps c (c.jmp k target)) ∧ (∀ target, Claims.keeps c (c.callc k target)) ∧
    (∀ t, c.join k = some t → Claims.keeps c t) ∧ (∀ t, c.retc k = some t → Claims.keeps c t) ∧
    Claims.keeps c (c.endc k) ∧
    (∀ p m, c.sp k = some p → m &&& p.own = m → Claims.keeps { c with exited := c.exited ||| m } (c.kill k m)) ∧
    Claims.keeps c c.closeRegion.1 ∧
    (∀ joinpt, Claims.keeps c (c.arrive k joinpt).1) ∧ Claims.keeps c (c.resume k) ∧
    (∀ j p q tag, c.sp k = some p → c.sp j = some q → k ≠ j → Claims.keeps c (c.fuse k j p q tag)) ∧
    (∀ (s : State) (g : Group), c.alive ≠ 0 →
      ∃ h : Group, afterFlow s g c = s.setG g.who.gid h ∧ Claims.keeps c h.cs ∧
        h = { g with cs := h.cs, unwaited := h.unwaited, ended := h.ended })

/-- 06 R206-R208, 07 R225: NOPC does nothing; TFENCE goes on once the C-stream's operations are performed and every flag is clear,
unless a sticky flag is enabled; BWAIT on a released barrier goes on and acquires; BARVC arrives, at once where the near-memory
operations are performed (it releases at clu, 09 R282) and otherwise when they will be; CTRAP without an enabled lane does nothing;
MXFEED, with no operation in flight on the registers of its bank, adds a feed to the group's place in its session.
Model's choices: notes/assumptions/44.md, 69.md. -/
def Obligations.ControlResults : Prop :=
  (∀ (s : State) (x : Issue) (y : Ctl), issueC s (.nopc y) = some x →
    exec (.nopc y) s = .next (x.done s (.nopc y) (Claims.here s x))) ∧
  (∀ (s : State) (x : Issue) (y : Ctl), issueC s (.tfence y) = some x → (∀ o ∈ x.g.pend, o.who = 4) → x.g.lane = [] →
    (∀ n < 12, x.g.cfn n = 0) → s.leadsPass x.g = false → x.g.sys.sticky &&& x.g.sys.gten = 0 →
    exec (.tfence y) s = .next (x.done s (.tfence y) (s.putG { x.past s with unwaited := [] }))) ∧
  (∀ (s : State) (x : Issue) (a : Src) (y : Ctl), issueC s (.bwait a y) = some x →
    let nb := (lane ((x.vals s (ints [a])).getD 0 []) 0).toNat % 1024
    let b := s.bar x.g.who.tid nb
    nb < (s.pk x.g).bars → (∀ d ∈ x.g.due, d.1 ≠ nb) → x.g.who.gid ∉ b.engZero → (x.g.who.gid, s.cur.split) ∉ b.go →
    (x.g.who.gid, s.cur.split) ∉ b.wait → x.g.who.gid ∈ b.rel → x.g.arriving nb s.cur.split = false →
    exec (.bwait a y) s = .next (x.done s (.bwait a y) ((((Claims.here s x).setBar x.g.who.tid nb
      { b with rel := delNat b.rel x.g.who.gid, owed := delNat b.owed x.g.who.gid }).acquire (x.past s) 2).putG (x.past s)))) ∧
  (∀ (s : State) (x : Issue) (a : Src) (y : Ctl), issueC s (.barvc a y) = some x →
    let nb := (lane ((x.vals s (ints [a])).getD 0 []) 0).toNat % 1024
    nb < (s.pk x.g).bars → (s.bar x.g.who.tid nb).exp ≠ 0 →
    ((∀ o ∈ x.g.pend, o.who = 4) → x.g.arriving nb s.cur.split = false →
      exec (.barvc a y) s = .next (x.done s (.barvc a y)
        ((((Claims.here s x).publish (x.past s) 2).setBar x.g.who.tid nb
          ((s.bar x.g.who.tid nb).arrive x.g.who.gid)).putG (x.past s)))) ∧
    ((∃ o ∈ x.g.pend, o.who ≠ 4) ∨ x.g.arriving nb s.cur.split = true →
      exec (.barvc a y) s = .next (x.done s (.barvc a y) ((Claims.here s x).putG { x.past s with
        arrivals := x.g.arrivals ++
          [{ nb, stream := s.cur.split, need := (x.g.pend.filter fun o => o.who != 4).map (·.id) }] })))) ∧
  (∀ (s : State) (x : Issue) (code : BitVec 8) (y : Ctl), issueC s (.ctrap code y) = some x → (x.env s).en = 0 →
    exec (.ctrap code y) s = .next (x.done s (.ctrap code y) (Claims.here s x))) ∧
  (∀ (s : State) (x : Issue) (fl : BitVec 1) (y : Ctl) (k q : Nat) (ss : Session) (p : Part), issueC s (.mxfeed fl y) = some x →
    x.g.due = [] → (Claims.here s x).mySession (x.past s) = some (k, ss, q) → ss.saved = false → ss.parts[q]? = some p → (x.past s).cs.splits.length ≤ 1 →
    p.feeds < p.latched + 2 → (x.env s).flag fl < 12 → x.g.cfn ((x.env s).flag fl) < 63 →
    x.g.writesPending (p.vb + bankRegs ss.fb * (p.feeds % 2)) (bankRegs ss.fb) = false →
    let n := (x.env s).flag fl
    let h := Claims.here s x
    let p1 : Part := { p with feeds := p.feeds + 1, flags := p.flags ++ [n] }
    let h1 : State := { h with sessions := s.sessions.set k { ss with parts := setAt ss.parts q p1 } }
    exec (.mxfeed fl y) s = .next (x.done s (.mxfeed fl y) (h1.putG ((x.past s).attach n))))

/-- 06 R208: CTRAP with an enabled lane raises cause group 13, restartable, with its code in the cause and in detail[7:0], over the
enabled lanes, at the index after its word, in a group that has no other trap pending and whose split holds no entry any more;
without one it does nothing. -/
def Claims.ctrap : Prop :=
  ∀ (s : State) (x : Issue) (code : BitVec 8) (y : Ctl), issueC s (.ctrap code y) = some x →
    ((x.env s).en ≠ 0 → x.g.trap = none →
      ∃ (h : Group) (p : Pending), exec (.ctrap code y) s = .next (raise (s.putG h) s.cur.gid p) ∧ h.trap = none ∧
        h.apc = x.g.apc ∧ h.who = x.g.who ∧ h.sys = x.g.sys ∧
        h.cs = x.g.cs.updSp s.cur.split (fun q => { q with held := [] }) ∧ p.cause.grp = 13 ∧
        restartable p.cause.grp = true ∧ p.cause.code = code.toNat ∧ p.cause.detail = code.setWidth 96 ∧
        p.cause.lanes = (x.env s).en ∧ p.cside = true ∧ p.split = s.cur.split ∧ p.cpc = (x.p.idx + 1) % 2 ^ 22) ∧
    ((x.env s).en = 0 → exec (.ctrap code y) s = .next (x.done s (.ctrap code y) (Claims.here s x)))

/-- 04 R149, 06 R208: TRAP of the A-stream and CTRAP of the C-stream. The zero lane mask of TRAP and where it restarts are the model's
choices, notes/assumptions/59.md and 60.md. -/
def Obligations.TrapInstructions : Prop := Claims.trapInstruction ∧ Claims.ctrap

/-! ## Lane engines at issue -/

/-- The machine with a lane operation of the split in flight, its four result registers awaited on its flag (02 R68). -/
def Claims.laneOp (s : State) (x : Issue) (i : Instr) (flag : Nat) (d : BitVec 9) (vals : List Lanes) (img : BitVec 512) : State :=
  let o : LaneOp := { id := s.nextId, split := s.cur.split, instr := i, cpc := x.p.idx, flag, lanes := (x.env s).en,
                      left := (x.env s).en, vals, img,
                      resume := false, faults := [], done := false }
  x.done s i ((Claims.here s x).newId.2.putG
    ((({ x.past s with lane := (x.past s).lane ++ [o] } : Group).attach flag).await s.cur.split
      ((List.range 4).map fun j => d.toNat + j) flag))

/-- 07 R238-R241: SAMPLE and GATH4 with a texture record, and TRACE and TRESUME with the record of a BVH and aligned ray states in the
group's allotment, put a lane operation in flight on the flag of the clause with their operands as they stand.
Model's choices: notes/assumptions/44.md. -/
def Obligations.LaneEngineIssues : Prop :=
  (∀ (s : State) (x : Issue) (i : Instr) (n : Nat) (t : BitVec 4) (fl : BitVec 1) (d a : BitVec 9) (lod : Src) (y : Ctl) (tt : Ten)
    (addr u : BitVec 2),
    (i = .sample addr u t fl (.v d) (.v a) lod y ∧ n = (if u = 2 then 6 else 2) ∨
      i = .gath4 addr u t fl (.v d) (.v a) lod y ∧ n = 2) → issueC s i = some x →
    let f := (x.env s).flag fl
    f < 12 → (x.past s).cfn f < 63 → (x.past s).tensor t.toNat = some tt → tt.isTexture = true →
    exec i s = .next (Claims.laneOp s x i f d
      (((List.range n).map fun j => (x.past s).cs.rv (a.toNat + j)) ++ x.vals s [(.f32, lod)]) ((x.past s).rt t.toNat).img)) ∧
  (∀ (s : State) (x : Issue) (i : Instr) (b : BitVec 5) (fl : BitVec 1) (d ray : BitVec 9) (s0 : Src) (more : List Src) (y : Ctl)
    (v : Buf), (∃ m r0 k, i = .trace m b fl (.v d) (.v ray) s0 r0 k y ∧ more = [r0, k]) ∨
      (i = .tresume b fl (.v d) (.v ray) s0 y ∧ more = []) → issueC s i = some x →
    let f := (x.env s).flag fl
    let vs := x.vals s (ints (s0 :: more))
    let offs := (lanesOf (x.env s).en).map fun l => (l, (lane (vs.getD 0 []) l).toNat)
    f < 12 → (x.past s).cfn f < 63 → (x.past s).record b.toNat = some v → v.level = 0 → v.esz = 4 → v.swz = 0 → v.stride = 16 →
    (∀ e ∈ offs, e.2 % 64 = 0 ∧ e.2 + 64 ≤ (Claims.here s x).allot (x.past s) 4) →
    (Claims.here s x).firstOwned x.g.who.gid s.nextId (offs.map fun e => rayLoc (x.past s) e.1 e.2) = .free →
    (∀ o ∈ (x.past s).pend, o.who ≠ s.cur.split) →
    exec i s = .next (Claims.laneOp s x i f d (((List.range 8).map fun j => (x.past s).cs.rv (ray.toNat + j)) ++ vs)
      ((x.past s).rb b.toNat).img))

/-- 07 R242, R243: on aligned ray states within the allotment, TCAND and TQUERY write four registers of the enabled lanes from their
states, TREPORT commits the candidates that are nearer and writes the predicate of the lanes that it has committed, and TABORT ends
the traversal of its lanes. Model's choices: notes/assumptions/28.md. -/
def Obligations.RayStateResults : Prop :=
  ∀ (s : State) (x : Issue) (i : Instr) (s0 : Src), issueC s i = some x →
    let h := Claims.here s x
    let g := x.past s
    let offs := (lanesOf (x.env s).en).map fun l => (l, (lane ((x.vals s (ints [s0])).getD 0 []) l).toNat)
    (∀ e ∈ offs, e.2 % 64 = 0 ∧ e.2 + 64 ≤ h.allot g 4) → h.firstOwned g.who.gid s.nextId (offs.map fun e => rayLoc g e.1 e.2) = .free →
    (∀ o ∈ g.pend, o.who ≠ s.cur.split) →
    (∀ (d : BitVec 9) (y : Ctl) (f : RayState → List Nat),
      (i = .tcand (.v d) s0 y ∧ f = fun r => [r.kprim, r.kgeom, r.kinst, r.ken]) ∨
        (i = .tquery (.v d) s0 y ∧ f = fun r =>
          if r.hit then [r.tmax, r.cprim, r.cgeom, r.cinst] else [0x7F800000, 0xFFFFFFFF, 0xFFFFFFFF, 0xFFFFFFFF]) →
      let rows := offs.map fun e => (e.1, f (h.rayState g e.1 e.2))
      exec i s = .next (x.done s i (h.putG ((List.range 4).foldl (fun (g : Group) j =>
        { g with cs := g.cs.wv (d.toNat + j) (x.env s).en (mkLanes fun l =>
          BitVec.ofNat 32 (((rows.find? fun r => r.1 == l).map fun r => r.2.getD j 0).getD 0)) }) g)))) ∧
    (∀ (d : Dst) (t w : Src) (y : Ctl), i = .treport d s0 t w y →
      let vs := x.vals s [(.int, s0), (.f32, t), (.int, w)]
      let r := offs.foldl (fun (a : State × List Nat) e =>
        let st := a.1.rayState g e.1 e.2
        let c := st.commit st.ken (lane (vs.getD 1 []) e.1).toNat (st.kinst, st.kgeom % 2 ^ 16, st.kprim)
          (lane (vs.getD 2 []) e.1).toNat
        if st.cand ∧ c.2 then (a.1.putRay g e.1 e.2 c.1, a.2 ++ [e.1]) else a) (h, [])
      exec i s = .next (x.done s i (r.1.updG fun g => g.writePred d (x.env s).en fun l => r.2.contains l))) ∧
    (∀ (y : Ctl), i = .tabort s0 y →
      exec i s = .next (x.done s i (offs.foldl (fun (s : State) e =>
        s.putRay g e.1 e.2 { s.rayState g e.1 e.2 with done := true, cand := false }) h)))

/-! ## Steps of agents -/

/-- 01 R23, 02 R69, R71, R73, 06 R199-R202, 04 R142, R149, 08 R248, R254, R256, R262: the steps of control of a group. -/
def Claims.controlSteps : Prop :=
  (∀ (s s1 : State) (g : Group) (p : Split) (w : BitVec 96) (h : Header), s.grp? = some g → g.cs.sp s.cur.split = some p →
    g.cRuns = true → p.st = .running → p.slot = 0 → g.halts = false → p.cmp = false → g.shadow = none →
    fetchC s g p.idx = (s1, .ok w) → w.extractLsb' 88 8 = 0xFF → decodeHeader w = .ok h →
    CSide.settleAt (joinBit w) 16 s.cur.split g.cs = (g.cs, some s.cur.split) → p.noWait = false → g.lane = [] →
    (∀ n < 12, h.wait.getLsbD n = true → g.cfn n = 0) → (∀ e ∈ g.cs.splits, g.cs.sp e.1 = some e.2) →
    exec .clauseStart s = .next (s1.putG { g with
      cs := g.cs.enter s.cur.split h,
      unwaited := g.unwaited.filter fun u => !(u.1 == s.cur.split && h.wait.getLsbD u.2.2) })) ∧
  (∀ (s : State) (g : Group) (p : Split) (e : SEntry) (r : List SEntry), s.grp? = some g → g.cs.sp 0 = some p → g.cRuns = true →
    g.halts = false → p.st = .parkedEnd → g.cs.splits.length = 1 → g.q.clq = e :: r → g.performed e.need = true → g.shadow = none →
    exec .regionEntry s = .next (s.putG { g with
      q := { g.q with clq := r }, lastQ := s.tick, cs := g.cs.region (e.val.toNat % 2 ^ 22) })) ∧
  (∀ (s : State) (g : Group), s.grp? = some g → g.cRuns = true → g.shadow = none →
    exec .parkedJoinTimeout s = .next (s.putG { g with cs :=
      ((g.cs.splits.filter fun e => g.cs.mayResume s.tick e.1 e.2).map (·.1)).foldl (fun c k => c.resume k) g.cs })) ∧
  (∀ (s : State) (g : Group) (code bit : Nat) (word : BitVec 96), s.grp? = some g →
    exec (.illegalInstruction true code bit word) s =
      .next (raise s g.who.gid (cPending g s.cur.split word (Cause.mk' 1 code bit))) ∧
    exec (.illegalInstruction false code bit word) s =
      .next (raise s g.who.gid { aPending g .nop (Cause.mk' 1 code bit) with word })) ∧
  (∀ (s : State) (g : Group) (va level : Nat) (perm : Bool), s.grp? = some g → (perm = true → level = 0) → level ≤ 3 →
    let c := Cause.mk' (if perm then 4 else 3) 4 (3 + 4 * level) va
    exec (.fetchFault true va level perm) s = .next (raise s g.who.gid (cPending g s.cur.split 0 c)) ∧
    exec (.fetchFault false va level perm) s = .next (raise s g.who.gid { aPending g .nop c with word := 0 })) ∧
  (∀ (s : State) (g : Group), s.grp? = some g → g.saved = false → g.stop ≠ .gone → g.stop ≠ .halt →
    exec .hostBreak s = .next (raise s g.who.gid { aPending g .nop (Cause.mk' 12 2) with word := 0 })) ∧
  (∀ (s : State) (g : Group), s.grp? = some g → g.stop = .halt →
    let h := ({ g with stop := .run, ablk := none } : Group).adv
    exec .hostDebugControl s = .next
      (s.putG { h with trap := g.trap.map fun p => if p.apc = g.apc then { p with apc := h.apc } else p })) ∧
  (∀ (s : State) (g : Group) (p : Pending), s.grp? = some g → g.trap = some p → g.drained = true → g.saved = false →
    g.stop ≠ .halt → exec .trapEntry s = .next (takeTrap s g.who.gid p)) ∧
  (∀ (s : State) (g : Group) (c : Cause) (op qa : Nat), s.grp? = some g → g.aStuck s.tick = some qa → g.trap = none →
    g.saved = false → g.lastQ + deadlockT ≤ s.tick →
    (∀ e ∈ g.cs.splits, (e.2.stuckSince g.q.clq.isEmpty s.tick).isSome = true) → g.firstToken = some (c, op) →
    exec .decouplingDeadlock s = .next (bareToken s g c op)) ∧
  (∀ (s : State) (g : Group) (pc : Word), s.grp? = some g → s.writeAt g pc.toNat = true →
    exec (.lateStoreError pc) s = .next (s.lateError g pc.toNat)) ∧
  (∀ (s : State) (g : Group) (t : Nat), s.grp? = some g → g.stop = .sleep t →
    (∃ w ∈ s.watch, w.gid = g.who.gid ∧ w.hit = true) ∨ t ≤ s.tick →
    exec .yieldcWake s = .next (({ s with watch := s.watch.filter fun w => w.gid != g.who.gid } : State).putG
      { g with stop := .run }))

/-- 08 R248: with no token pending, the deadlock of a group's two streams is cause group 8, code 3, of both sides. -/
def Claims.deadlock : Prop :=
  ∀ (s : State) (g : Group) (qa : Nat), s.grp? = some g → g.aStuck s.tick = some qa → g.trap = none → g.saved = false →
    g.lastQ + deadlockT ≤ s.tick → (∀ e ∈ g.cs.splits, (e.2.stuckSince g.q.clq.isEmpty s.tick).isSome = true) →
    g.firstToken = none →
    ∃ p : Pending, exec .decouplingDeadlock s = .next (raise s g.who.gid p) ∧ p.cause.grp = 8 ∧ p.cause.code = 3 ∧
      p.aside = true ∧ p.cside = true

/-- 01 R23, 02 R69, 04 R142, 06 R199-R202, 08 R248, R254, R256, R262: the steps of control of a group. Model's choices: the lane mask 0 of
an illegal word, a failed fetch and the host's break, notes/assumptions/59.md; the entry and the side of a token's trap, 42.md; the
writes whose late errors can still be found, 48.md; what the frame of a deadlock names, 35.md. -/
def Obligations.ControlSteps : Prop := Claims.controlSteps ∧ Claims.deadlock

/-- 09 R278, R282: the parts of an access that are made in a step and those left for later are the whole access, in its order where it
has one; a single part is made at once, and one that releases is made alone where the lanes have an order. What the parts made have read
is added to what the operation holds. -/
def Claims.partsOfAccess : Prop :=
  (∀ (s : State) (ordered : Bool) (rel : Nat) (els : List (Nat × Loc)), let x := s.partsOf ordered rel els
    (x.2.1 ++ x.2.2).Perm els ∧ (ordered = true → x.2.1 ++ x.2.2 = els) ∧ (els.length ≤ 1 → x.2.2 = []) ∧
      (ordered = true → rel ≠ 0 → x.2.1 = els.take 1) ∧ ∀ sp, x.1.memOf sp = s.memOf sp) ∧
  (∀ (s : State) (g : Group) (o : MemOp), let s0 := s.publish g o.rel
    let x := s0.partsOf o.ordered o.rel o.els
    let r := o.access x.1 (s0.user g) x.2.1
    let p := s.perform g o
    p.2 = { o with els := x.2.2, got := o.got ++ r.2 } ∧
      (r.1.peerCut = false ∨ o.reads = true → ∀ sp, p.1.memOf sp = r.1.memOf sp)) ∧
  (∀ (s : State) (u : User) (n : Nat) (els : List (Nat × Loc)), s.late = [] →
    (readPieces s u false n els).2 = els.map fun e => (e.1, s.readLoc e.2 n)) ∧
  (∀ (s : State) (u : User) (o : MemOp) (els : List (Nat × Loc)),
    (∀ v n, o.kind = .sta v n →
      (o.access s u els).1 = els.foldl (fun (s : State) e => s.writeThrough u e.2 (natLe n v.toNat)) s) ∧
    (∀ n data, o.kind = .nearStore n data → (o.access s u els).1 = els.foldl (fun (s : State) e =>
      s.writeThrough u e.2 (natLe (Min.min n 4) (lane (data.getD (e.1 % 4) []) (e.1 / 4)).toNat)) s) ∧
    (∀ d k rd f x y l b, o.kind = .nearAtom d k rd f x y → els = [(b, l)] → o.access s u els =
      (s.writeThrough u l (natLe 4 (rmw k (s.readPiece l 4) (lane x (b / 4)) (lane y (b / 4))).toNat),
        [(b, (s.readPiece l 4).toNat)])) ∧
    (∀ d k x y w l b, o.kind = .ata d k x y w → els = [(b, l)] → b / 4 < 96 → o.access s u els =
      (s.writeThrough u l (natLe 4 (rmw k (s.readPiece l 4) x y).toNat), [(b, (s.readPiece l 4).toNat)])))

/-- The steps of operations in flight outside the memory unit: while parts are left the operation stands in the state that its accesses
leave; with the last it ends. -/
def Claims.pendSteps : Prop :=
  (∀ (s : State) (o : MemOp) (g : Group) (op q sz : Nat) (l1 : Bool), s.memLive op = some (o, g) → s.readCut o = false →
    o.kind = .ldv q sz l1 →
    let r := s.perform g o
    exec (.loadComplete op) s = .next (if r.2.els = [] then
      ({ r.1 with groups := r.1.groups.upd g.who.gid fun h => h.updEntry q op fun e =>
        { e with data := lanesOfPieces r.2.got, fill := .filled } } : State).endOp g o else r.1)) ∧
  (∀ (s : State) (o : MemOp) (g : Group) (op : Nat), s.memLive op = some (o, g) → s.readCut o = false →
    let r := s.perform g o
    let put := fun (d : Nat) (w : Word) =>
      (({ r.1 with groups := r.1.groups.upd g.who.gid fun h => h.wa d w } : State).endOp g o)
    (∀ d sz sgn, o.kind = .lda d sz sgn →
      exec (.scalarAccessReturn op) s = .next (put d (if o.els = [] then 0 else extend sgn sz (r.2.value 0)))) ∧
    (∀ d k x y, o.kind = .ata d k x y none → exec (.scalarAccessReturn op) s = .next (put d (r.2.value 0))) ∧
    let got := ({ img := BitVec.ofNat 512 (((r.2.got.head?).map (·.2)).getD 0), loaded := true, busy := 0 } : Rec)
    (∀ n, o.kind = .bld n → exec (.recordLoadComplete op) s =
      .next (({ r.1 with groups := r.1.groups.upd g.who.gid fun h => { h with b := h.b.set n got } } : State).endOp g o)) ∧
    (∀ n, o.kind = .tld n → exec (.recordLoadComplete op) s =
      .next (({ r.1 with groups := r.1.groups.upd g.who.gid fun h => { h with t := h.t.set n got } } : State).endOp g o))) ∧
  (∀ (s : State) (o : MemOp) (g : Group) (op : Nat), s.memLive op = some (o, g) →
    let r := s.perform g o
    ((∃ v sz, o.kind = .sta v sz) ∨ (∃ sz data, o.kind = .nearStore sz data) ∨ (∃ d k f x y, o.kind = .nearAtom d k false f x y) →
      exec (.writePerformed op) s = .next (if r.2.els = [] then r.1.endOp g o else r.1)) ∧
    let m := mkMask fun l => r.2.got.any fun e => e.1 / 4 == l
    let reg := fun (j : Nat) (f : Word → Word) => mkLanes fun l => if m.getLsbD l then f (r.2.value (4 * l + j)) else 0
    (∀ d sz sgn f, o.kind = .near d sz sgn f → exec (.nearMemoryComplete op) s = .next (if r.2.els = [] then
      endNear r.1 g o f ((List.range (Max.max 1 (sz / 4))).map fun j => (d + j, m, reg j (extend sgn sz))) else r.1)) ∧
    (∀ d k f x y, o.kind = .nearAtom d k true f x y → exec (.nearMemoryComplete op) s = .next (if r.2.els = [] then
      endNear r.1 g o f [(d, m, reg 0 id)] else r.1)))

/-- The steps of the memory unit: an operation whose checks, order and lines let it is performed by parts; its last part fills its result
entry and ends it. -/
def Claims.muSteps : Prop :=
  (∀ (s s1 : State) (o : MuOp) (g : Group) (op : Nat) (es : List VEntry) (ps : List (Nat × Loc)), s.muLive op = some (o, g) →
    o.indexed = true → o.takes.mapM (g.vHead o) = some es →
    let d := fun (n : Nat) => ((es[n]?).map (·.data)).getD zeroLanes
    (o.begun = true ∧ o.places = some ps ∧ s1 = s ∨
      o.begun = false ∧ g.muOrder o ps = true ∧ checkElems s g { code := 2 } o.access (Buf.of o.buf.toNat) false
        (indexedEls o.first (es.foldl (fun (m : Mask) e => m &&& e.mask) allLanes) (d 0)) = (s1, .ok ps)) →
    s1.firstOwned g.who.gid o.id (ps.map (·.2)) = .free → s1.peerCut = false →
    exec (.xqOperationPerform op) s = .next (s1.runMu g o ps (d 1) (d 2))) ∧
  (∀ (s : State) (o : MuOp) (g : Group) (op q : Nat) (e : VEntry) (ps : List (Nat × Loc)), s.muLive op = some (o, g) →
    o.indexed = false → o.sdqs.head? = some q → g.vHead o (q + 1) = some e → o.places = some ps →
    let els := if o.begun then ps else maskedParts e.mask ps
    o.begun = true ∨ g.muOrder o els = true → s.firstOwned g.who.gid o.id (els.map (·.2)) = .free → s.peerCut = false →
    exec (.storePerform op) s = .next (s.runMu g o els e.data zeroLanes)) ∧
  (∀ (s : State) (g : Group) (o : MuOp) (ps : List (Nat × Loc)) (d0 d1 : Lanes),
    let s0 := s.publish g o.rel
    let x := s0.partsOf o.ordered o.rel ps
    let was := x.2.1.map fun e => (e.2, (s0.memOf e.2.space).bytes e.2.key o.pieceLen)
    let r := o.access' x.1 g d0 d1 x.2.1
    let o' : MuOp := { o with places := some x.2.2, begun := true, got := o.got ++ r.2 }
    let begun := fun (h : Group) => ({ h with mu := h.mu.map fun m => if m.id = o.id then o' else m } : Group).pass o.id was
    let t := fun (f : Group → Group) => ({ r.1 with groups := r.1.groups.upd g.who.gid fun h => f (begun h) } : State)
    let cut := fun (u : State) => if o.access = 1 then u.lateIfCut g.who.gid o.pc (x.2.1.map (·.2)) else u
    (∀ q, o.resultQ = some q → s.runMu g o ps d0 d1 = if x.2.2 = [] then endMu (cut
      (t fun h => h.updEntry q o.id fun e => { e with data := o'.result, fill := .filled })) g.who.gid o else cut (t id)) ∧
    (o.resultQ = none → s.runMu g o ps d0 d1 = if x.2.2 = [] then endMu (cut (t id)) g.who.gid o else cut (t id))) ∧
  (∀ (s : State) (g : Group) (o : MuOp) (d0 d1 : Lanes) (els : List (Nat × Loc)),
    (∀ a b c e f, o.instr = .stx a b c e f → (o.access' s g d0 d1 els).1 = els.foldl (fun (s : State) e =>
      s.writeThrough (s.user g) e.2 (natLe (Buf.of o.buf.toNat).size (lane d0 (e.1 / 4)).toNat)) s) ∧
    (∀ a b c e f, o.instr = .stv a b c e f → (o.access' s g d0 d1 els).1 = els.foldl (fun (s : State) e =>
      s.writeThrough (s.user g) e.2 (natLe o.pieceLen ((lane d0 (e.1 / 4)).toNat / 2 ^ (8 * (e.1 % 4))))) s))

/-- 04 R113-R115, R130-R138, 06 R210-R214, 09 R278: the steps that perform memory operations whose order allows it, by parts.
Model's choices: notes/assumptions/16.md, 43.md, 66.md, 67.md. -/
def Obligations.MemorySteps : Prop := Claims.partsOfAccess ∧ Claims.pendSteps ∧ Claims.muSteps

/-- The lane operation's run meets no fault and no missing address and leaves no lane for later, and its group, which has no shadow,
is still there. -/
def Claims.runs (o : LaneOp) (r : LaneRun) (g : Group) : Prop :=
  r.stop = none ∧ r.faults = [] ∧ r.later = [] ∧ g.shadow = none ∧
    (r.s.groups.findSome? fun e => if e.2.lane.any fun x => x.id == o.id then some e.2 else none) = some g

/-- The machine once a lane operation has ended: four registers of its lanes written from its results, its flag released. -/
def Claims.ended (o : LaneOp) (d : BitVec 9) (r : LaneRun) (g : Group) : State :=
  r.s.setG g.who.gid { (((List.range 4).foldl (fun (g : Group) j =>
      { g with cs := g.cs.wv (d.toNat + j) (mkMask fun l => r.out.any fun x => x.1 == l) (mkLanes fun l =>
        BitVec.ofNat 32 (((r.out.find? fun x => x.1 == l).map fun x => x.2.getD j 0).getD 0)) }) g).detach o.flag) with
      lane := g.lane.filter fun x => x.id != o.id }

/-- The steps of copies, COVERs and tile stores: one runs from the unit that it has reached; at its end it is done once its counter can
be counted, and a fault suspends it where it stands. -/
def Claims.engSteps : Prop :=
  (∀ (s s1 : State) (o o1 : EngOp) (g : Group) (op : Nat) (e : Instr), s.engLive op = some (o, g) →
    ((∃ a b c d m n k, o.kind = .copy a b c d m n k) ∧ e = .copyComplete op ∨
      (∃ a b c d m n k, o.kind = .cover a b c d m n k) ∧ e = .coverComplete op ∨
      (∃ a b c d m n k, o.kind = .tstore a b c d m n k) ∧ e = .tstoreComplete op) →
    ∀ s2 ctr, runEng (s.engBegin g o) g o = (s1, o1, .done) → counterAt s1 g o = (s2, .ok ctr) →
      (∀ l, ctr = some l → s2.owner o.gid (o.id - 1) l = .free) →
      exec e s = .next (endEng s2 g o ctr (o1.lines.map (·.1)))) ∧
  (∀ (s s1 : State) (o o1 : EngOp) (g : Group) (op : Nat) (c : Cause), s.engLive op = some (o, g) →
    (runEng (s.engBegin g o) g o = (s1, o1, .fail (.ok c)) ∨
      ∃ s0, runEng (s.engBegin g o) g o = (s0, o1, .done) ∧ counterAt s0 g o = (s1, .error (.ok c))) →
    exec (.engineFault op) s = .next { s1 with eng := s1.eng.map fun x =>
      if x.id = o1.id then { o1 with fault := some c, told := false } else x })

/-- The steps of lane operations, and a lane operation that meets faults: the other lanes have their results, and it stands, with its
faults, until they are delivered; it lets go of its flag (08 R256). -/
def Claims.laneSteps : Prop :=
  ∀ (s : State) (o : LaneOp) (g : Group) (op : Nat), s.laneLive op = some (o, g) →
    let t := Ten.of o.img.toNat
    let bvh := Buf.of (o.img.toNat % 2 ^ 256)
    let gr := g.running o
    (∀ addr filt r fl d a lod x, o.instr = .sample addr filt r fl (.v d) a lod x →
      let n := if filt = 2 then 6 else 2
      let run := runLanes o (fun s l => sampleLane s gr t addr.toNat filt.toNat ((o.words l).take n) ((o.words l).getD n 0)) s
      (∀ h, Claims.runs o run h → exec (.sampleComplete op) s = .next (Claims.ended o d run h)) ∧
      ∀ h, s.engLive op = none → run.stop = none → run.faults ≠ [] →
        (run.s.groups.findSome? fun e => if e.2.lane.any fun x => x.id == o.id then some e.2 else none) = some h →
        ∃ u v, exec (.engineFault op) s = .next u ∧ u.groups.get? h.who.gid = some v ∧
          v.lane = h.lane.map (fun x => if x.id = o.id then
            { o with faults := run.faults, left := mkMask fun l => run.later.contains l,
                     resume := o.resume || !run.later.isEmpty } else x) ∧ v.cf = (h.detach o.flag).cf) ∧
    (∀ addr chan r fl d a lod x h, o.instr = .gath4 addr chan r fl (.v d) a lod x →
      let run := runLanes o (fun s l => gatherLane s gr t addr.toNat chan.toNat ((o.words l).take 2) ((o.words l).getD 2 0)) s
      Claims.runs o run h → exec (.sampleComplete op) s = .next (Claims.ended o d run h)) ∧
    (∀ modf b fl d ray s0 root mask x r h, o.instr = .trace modf b fl (.v d) ray s0 root mask x →
      runRays o gr true bvh (if o.resume then none else some modf.toNat) s = (r, false) → Claims.runs o r h →
      exec (.traversalComplete op) s = .next (Claims.ended o d r h)) ∧
    (∀ b fl d ray s0 x r h, o.instr = .tresume b fl (.v d) ray s0 x → runRays o gr true bvh none s = (r, false) →
      Claims.runs o r h → exec (.traversalComplete op) s = .next (Claims.ended o d r h))

/-- The walk for a page that no TLB of the current group holds: a leaf that allows the access is kept and its A bit set (D is set with
the write); another walk changes nothing. -/
def Claims.walkSteps : Prop :=
  ∀ (s : State) (g : Group) (v va acc : Nat) (sup : Bool), s.grp? = some g → (s.lau g).qd.vf = v → g.sys.priv = sup →
    let tlbs := some (g.who.core, g.who.slot)
    (∀ e ∈ s.tlb, e.serves v va tlbs = false ∨ e.pte.getLsbD 1 = false) →
    (∀ p l a, walk s v va = .leaf p l a → pteAllows p acc sup = true →
      exec (.translationWalk v va acc sup) s = .next (s.walked v tlbs va 0 l a p (s.root v))) ∧
    ((∀ p l a, walk s v va = .leaf p l a → pteAllows p acc sup = false) →
      exec (.translationWalk v va acc sup) s = .next s)

/-- 07 R215-R217, R235, R237, R239, R241, 04 R141, 10 R293: the steps of the engines and of the walker. An operation that runs to its
end is done; one that meets a fault is suspended where it stands. Model's choices: notes/assumptions/13.md, 23.md, 26.md, 68.md. -/
def Obligations.EngineSteps : Prop := Claims.engSteps ∧ Claims.laneSteps ∧ Claims.walkSteps

/-- 07 R221, R222, R226, R232, 11 R326, 12 R328, R333-R335: the steps of the matrix engine. An array reads part of a row in a step of its
own, or takes the row and adds it: which is a free choice (09 R287).
Model's choices: notes/assumptions/25.md. -/
def Obligations.MatrixSteps : Prop :=
  (∀ (s : State) (quad entry : Nat) (b : Bind) (bs : List Bind),
    (s.binds.filter fun b => (s.groups.get? b.gid).any fun g => quadOf g.who.core == quad).findSome? s.fullSet = some (b :: bs) →
    ((List.range 16).find? fun n => !((s.sessions.filter fun e => e.2.quad == quad).map fun e => e.2.entry).contains n) = some entry →
    ∃ t ss, exec (.sessionForm quad) s = .next t ∧ t.sessions.get? s.nextId = some ss ∧ ss.quad = quad ∧ ss.entry = entry ∧
      ss.fa = b.fa ∧ ss.fb = b.fb ∧ ss.fo = b.fo ∧ ss.tiles = b.tiles ∧ ss.passes = [] ∧ ss.zero = List.range b.tiles ∧
      t.binds = s.binds.filter (fun x => !((b :: bs).any fun y => y.gid == x.gid))) ∧
  (∀ (s : State) (quad k : Nat) (ss0 ss : Session) (r : List (Nat × Session)) (p : Pass) (ps : List Pass),
    s.arraysBusy quad = false → (s.quads.getD quad Quad.reset).preempt = none →
    sortBy (fun (a b : Nat × Session) => decide (b.2.prio ≤ a.2.prio)) ((s.sessionsOf quad).filter fun e => e.2.ready) = (k, ss0) :: r →
    let s1 := reload (makeRoom quad k 17 s) k
    s1.sessions.get? k = some ss → ss.passes = p :: ps →
    let idle := (s.quads.getD quad Quad.reset).lastUse.all fun t => decide (t + 64 * clkT ≤ s1.tick)
    exec (.passGrant quad) s = .next (s1.setSession k
      { ss with passes := { p with granted := true, surge := if idle then some s1.tick else none } :: ps, lastGrant := s1.tick })) ∧
  (∀ (s : State) (quad t k id : Nat) (r : List (Nat × Nat × Nat)) (ss : Session), s.surging = (t, k, id) :: r →
    s.sessions.get? k = some ss → ss.quad = quad → (∀ u, s.surge = some u → u + 64 * clkT ≤ s.tick) →
    let s1 := s.setSession k (ss.updPass id fun p => { p with surge := none })
    exec (.surgeGrant quad) s = .next (({ s1 with surge := some s.tick } : State).charge ss.lid ((s.tick - t) / clkT))) ∧
  (∀ (s s1 : State) (quad k : Nat) (ss ss1 : Session) (p : Pass) (g : Group) (fl : Fl), s.running quad = some (k, ss, p, g) →
    p.inStep = false → p.surge = none → p.fault = none → p.step < (mxArgs p.instr).ks → ss.fed = true →
    g.engReady p.need = true → (s.quads.getD quad Quad.reset).preempt = none → firstStep s g ss p = (s1, .ok (ss1, fl)) →
    let l := latch (s1.leaderFl g fl) ss1
    exec (.stepStart quad) s = .next (l.1.setSession k (l.2.1.updPass p.id fun p =>
      ({ p with started := true, inStep := true, rows := [0, 0, 0, 0], panel := l.2.2 } : Pass).stepEnd))) ∧
  (∀ (s s1 : State) (quad i k : Nat) (err : Option ResidueError) (ss : Session) (p : Pass) (g : Group)
    (raw : List (Option Nat)), s.running quad = some (k, ss, p, g) → p.inStep = true → p.fault = none → i < 4 →
    p.rows.getD i 0 < p.rowsOf i →
    let z := (mxArgs p.instr).z
    let m := p.rows.getD i 0
    let parts := rowAhead s g ss p i m
    (∀ got, parts.2 = some got → exec (.rowDecode quad i err) s =
      .next (parts.1.setSession k (ss.updPass p.id fun q => { q with ahead := p.setAhead p.step i m got }))) ∧
    (parts.2 = none → takeRow parts.1 g ss p i m = (s1, .ok raw) →
      let x := readNext s1 g ss p i m
      let w := rowStep ss.fa ss.fb ss.dist raw p.panel (ss.row z i m) (errAt err)
      (w = none → exec (.rowDecode quad i err) s = .next (checkFailed x.1 k quad i ss p)) ∧
      (∀ row fl ev, w = some (row, fl, ev) → exec (.rowDecode quad i err) s = .next
        (((x.1.setSession k ((ss.setRow z i m row).updPass p.id fun p =>
          { p with rows := setAt p.rows i (m + 1), ahead := x.2 }.stepEnd)).leaderFl g fl).countEv (ss.setRow z i m row).lid ev)))) ∧
  (∀ (s s1 s2 : State) (quad k n : Nat) (ss : Session) (p : Pass) (g : Group) (tab : List Nat), s.running quad = some (k, ss, p, g) →
    (s.quads.getD quad Quad.reset).preempt = none →
    p.inStep = false → p.fault = none → (mxArgs p.instr).ks ≤ p.step → g.engReady p.need = true →
    s.engTurn p.id (p.lines.map (·.1)) = true → readTable s g p = (s1, .ok tab) →
    writeRows g ss p tab (p.outRows.drop (p.rows.getD 0 0)) (p.rows.getD 0 0) s1 = (s2, n, none) →
    exec (.passComplete quad) s = .next (endPass s2 k quad ss p)) ∧
  (∀ (s : State) (quad entry k : Nat) (ss : Session) (p : Pass) (ps : List Pass) (g : Group),
    ((s.sessionsOf quad).find? fun e => e.2.entry == entry) = some (k, ss) → ss.passes = p :: ps →
    ((ss.parts[0]?).bind fun x => s.groups.get? x.gid) = some g → p.onArrays = false → p.fault = none →
    g.engReady p.need = true → s.engTurn p.id (p.lines.map (·.1)) = true → (s.quads.getD quad Quad.reset).preempt = none →
    let z := (mxArgs p.instr).z
    ((ss.wrote z)[p.step]? = none → exec (.topkSelect quad entry) s = .next (endPass s k quad ss p)) ∧
    (∀ i m s1 s2 row, (ss.wrote z)[p.step]? = some (i, m) → selRow s ss z i m = (s1, .ok row) →
      writeElems s1 g 2 p.oRec ((((rankRow (tileF32 ss.fa) (selBig p.instr) row).take (selK p.instr)).zipIdx.map fun b =>
        let c := selCoord p (ss.lastRows.getD z 0) i m b.2
        [(c.1, b.1), (c.2, (lane row b.1).toNat)]).flatten) = (s2, none) →
      let t := s2.lateIfCut g.who.gid p.pc ((p.lines.filter fun l => decide (l.2 ≤ p.step)).map (·.1))
      exec (.topkSelect quad entry) s = .next (t.setSession k (ss.updPass p.id fun p =>
        { p with step := p.step + 1, started := true, lines := p.lines.filter fun l => decide (p.step < l.2) }))))

/-- 08 R263-R268, 11 R314, R317, R321: the steps of shadows and of pre-emption. A shadow replays while its group may issue: an
instruction whose results come later marks the lanes it has them in, the results are taken in those lanes, and a compared one is
executed by the group and by the shadow. Model's choices: notes/assumptions/47.md, 49.md. -/
def Obligations.PreemptionSteps : Prop :=
  (∀ (s : State) (g : Group) (x : Shadow) (it : LogItem) (r : List LogItem), s.grp? = some g → s.issues g = true →
    g.shadow = some x → x.log = it :: r →
    let st := x.cs.stand it.at_
    let kept := fun (c : CSide) => ({ g with shadow := some { x with cs := c, log := r } } : Group)
    (∀ c, it.ctl = some c → (it.cmp = false ∨ it.instr = none) →
      exec .shadowReplay s = .next (s.putG (kept (st.follow it.split c)))) ∧
    (it.ctl = none → it.instr = none →
      exec .shadowReplay s = .next (s.putG ((kept (x.cs.take it.split (x.lanesOf it) it.writes)).keepLate id))) ∧
    (∀ i, it.ctl = none → it.instr = some i → it.cmp = false →
      let en := st.enabled it.split i
      (late i = true → exec .shadowReplay s = .next (s.putG ((kept x.cs).keepLate fun t => t.set it.op en))) ∧
      (late i = false → replayed i = true →
        exec .shadowReplay s = .next (s.putG (kept (x.cs.take it.split en it.writes)))) ∧
      (late i = false → replayed i = false → inert i = true → exec .shadowReplay s = .next (s.putG (kept x.cs))) ∧
      (late i = false → replayed i = false → inert i = false →
        exec .shadowReplay s = .next (s.putG (kept (shadowRun s g x.cs it i).cs)))) ∧
    (∀ i t g', it.instr = some i → it.cmp = true →
      runC i { s with cur := { gid := g.who.gid, split := it.split, mode := 2 } } = .next t → t.groups.get? g.who.gid = some g' →
      ((g'.cs.sp it.split).all fun p => !p.cmp) = true →
      (∀ h, (match replayed i, (cShape i).bind (·.d) with
        | true, some (.queue q) => takesPush (g.asShadow x.cs it) it.split q.toNat (st.enabled it.split i)
            (g'.pushes q.toNat (g.pushes q.toNat 0).length)
        | _, _ => shadowRun s g x.cs it i) = h →
      let miss := mismatch i it.split g g' st h
      (miss = none → exec .shadowReplay s = .next (({ t with cur := s.cur } : State).setG g.who.gid
        { g' with shadow := g'.shadow.map fun y => { y with cs := h.cs, log := y.log.drop 1 } })) ∧
      (∀ code q m, miss = some (code, q, m) → g.trap = none →
        let ln := (lowLane m).getD 0
        let s1 := s.colophon 1 4 (quadOf g.who.core) (s.lau g).qd.vf
          (natLe 4 (256 * code + 2 ^ 16 * ln) ++ (s.lau g).tag ++ natLe 4 g.who.lin)
        ∃ g1 p, exec .shadowReplay s = .next (raise (s1.setG g.who.gid g1) g.who.gid p) ∧ g1.trap = none ∧
          g1.shadow = some { x with cs := x.cs, log := r } ∧ g1.cs.v = g.cs.v ∧ g1.cs.p = g.cs.p ∧ g1.cs.c = g.cs.c ∧ g1.a = g.a ∧
          p.cause = Cause.mk' 16 code (ln + (if code ≤ 2 then 256 * q else 0)) 0 m)))) ∧
  (∀ (s : State) (quad : Nat), (s.quads.getD quad Quad.reset).preempt = none → (s.quads.getD quad Quad.reset).ready = none →
    s.wantsQuad quad = true → exec (.quadPreempt quad) s = .next (s.askQuad quad)) ∧
  (∀ (s : State) (g : Group) (t : Nat) (e : Instr), s.grp? = some g → g.saved = false → g.saveReq = some t → g.stop ≠ .gone →
    g.trap = none → s.canSave { g with saving := true } = true →
    (e = .groupSave ∧ (g.saving = true ∨ g.atPoint = true) ∨
      e = .forcedFullSave ∧ g.saving = false ∧ t + 1000 * (s.lau g).qd.window * nsT ≤ s.tick) →
    exec e s = .next (saveGroup (s.putG { g with saving := true }) g.who.gid)) ∧
  (∀ (s : State) (quad : Nat), (s.quads.getD quad Quad.reset).preempt.isSome = true →
    (∀ e ∈ s.groups, s.onQuad quad e.2 = true → s.preemptible e.2 = true → e.2.saved = true ∨ e.2.stop = .gone) →
    (∀ e ∈ s.sessionsOf quad, (s.launches.getD e.2.lid Launch.blank).pk.nonpreempt = true ∧ s.inService quad = true) →
    let q := s.quads.getD quad Quad.reset
    exec (.preemptComplete quad) s =
      .next { s with quads := setAt s.quads quad { q with preempt := none, ready := if s.inService quad then none else some s.tick } }) ∧
  (∀ (s : State) (g : Group), s.groups.get? s.cur.gid = some g →
    let mine := s.groups.filter fun e =>
      e.1 == s.cur.gid || ((s.pk g).progress == 0 && e.2.who.lid == g.who.lid && e.2.stop != .gone)
    (∀ e ∈ mine, s.mayRestore e.2 = true) →
    (∀ t, restoreAll (mine.map (·.1)) s = some t → exec .groupRestore s = .next t) ∧
    (restoreAll (mine.map (·.1)) s = none → exec .groupRestore s = .next s)) ∧
  (∀ (s s1 : State) (g : Group) (k : Nat), s.groups.get? k = some g → makePlace s g = some s1 →
    restoreAll [k] s = some (restoreGroup s1 k)) ∧
  (∀ (s : State) (p : Nat), s.windowEnds p = true →
    exec (.windowEndPreempt p) s = .next (s.requestSave fun g => (s.lau g).qd.part == p && !(s.pk g).nonpreempt)) ∧
  (∀ (s : State) (p : Nat), s.winOpen p s.time = true → s.windowEnds p = false →
    exec (.windowOpen p) s = .next (((s.groups.filter fun e => e.2.saved && (s.lau e.2).qd.part == p).map (·.1)).foldl
      (fun (s : State) k => s.bringBack k) s))

/-- 11 R305-R313, R320, R322, R323, 14 R362, 20 R392, R393: the steps of the queues, of launches and of the Galley, and the group that a
slot picks among its ready ones: none of these ranks before it.
Model's choices: notes/assumptions/17.md, 20.md, 21.md, 22.md. -/
def Obligations.SchedulingSteps : Prop :=
  (∀ (s : State) (port v : Nat) (w : Word) (d : QDesc), s.booted = true → port < 2 → v < 64 →
    s.regs.vfmap.getLsbD v = (port == 1) → w.toNat < 2 ^ 24 → s.regs.qtbase.getLsbD 0 = true →
    let q := w.toNat % 4096
    let s1 := s.refreshQueue q
    let n := (w.toNat / 4096 + 4096 - (s1.qst q).t) % 4096
    s1.desc? q = some d → d.pf = false → d.vf = v → n ≠ 0 →
    (2 ^ d.k < (s1.qst q).u + n → exec (.notify port (some v) w) s =
      .next (s1.colophon 2 2 0xFF d.vf (wBytes w ++ natLe 2 (s1.qst q).t ++ natLe 2 (s1.qst q).u))) ∧
    ((s1.qst q).u + n ≤ 2 ^ d.k → ∃ t, exec (.notify port (some v) w) s = .next t ∧ (t.qst q).t = w.toNat / 4096 ∧
      (t.qst q).u = (s1.qst q).u + n ∧ (∀ k, k ≠ q → t.qst k = s1.qst k) ∧ t.groups = s1.groups ∧ t.launches = s1.launches)) ∧
  (∀ (s : State) (q n : Nat), s.needsSlot q = true → (s.qst q).pendSince = none → s.nextPending = none → s.freeSlot = some n →
    exec (.queueMap q) s = .next { s with queues := s.queues.upd q fun x => { x with slot := some n, pendSince := none } }) ∧
  (∀ (s : State) (q n : Nat), s.needsSlot q = true → (s.qst q).pendSince ≠ none → s.nextPending = some q →
    (s.freeSlot = some n → exec (.queueMap q) s = .next { s with
      queues := s.queues.upd q (fun x => { x with slot := some n, pendSince := none }), lastMapped := q }) ∧
    (∀ v, s.freeSlot = none → s.unmapChoice = some v → (s.qst v).slot = some n →
      exec (.queueMap q) s = .next { s.unmap v with
        queues := (s.unmap v).queues.upd q (fun x => { x with slot := some n, pendSince := none }), lastMapped := q })) ∧
  (∀ (s : State) (q t : Nat), (s.qst q).pendSince = some t → (s.qst q).starved = false → t + 50000 * nsT ≤ s.tick →
    exec (.starvationEvent q) s = .next (({ s with queues := s.queues.set q { s.qst q with starved := true } } : State).irq
      (s.qst q).port none 3)) ∧
  (∀ (s s1 : State) (q : Nat) (d : QDesc) (bs : List Byte), s.desc? q = some d → s.booted = true → (s.qst q).live = true →
    (s.qst q).u ≠ 0 → (s.qst q).slot ≠ none → s.regs.hot = false →
    s.readVa d.vf true ((d.ring + 128 * (((s.qst q).t + 4096 - (s.qst q).u) % 4096 % 2 ^ d.k)) % 2 ^ 47) 128 = (s1, .ok bs) →
    (parsePacket bs).after = false →
    let st := s.qst q
    let st1 : QueueSt := { st with u := st.u - 1, arrivals := st.arrivals.drop 1 }
    exec (.launchPacket q) s =
      .next (takePacket { s1 with queues := s.queues.set q st1 } q d bs (st.arrivals.headD s.tick) none 0)) ∧
  (∀ (s : State) (lid : Nat) (l : Launch) (os : List (Nat × Nat)), s.launches.get? lid = some l → l.placedAll = false →
    l.killed = false → (s.qst l.qno).slot.isSome = true ∨ (l.batch.isSome = true ∧ s.stopped lid = false) → s.winOpen l.qd.part s.time = true →
    s.mayStart l = true →
    findAll ((s.quadsFor l.qd.part l.pk.diverse l.inst).filter fun q => (s.quads.getD q Quad.reset).preempt.isNone) l.pk
      (if l.pk.progress = 0 then l.pk.clusters.filter fun c => decide (l.nextC ≤ c)
        else (l.pk.clusters.filter fun c => decide (l.nextC ≤ c)).take 1) s.usage [] = some os →
    exec (.teamPlace lid) s = .next (os.foldl (fun (s : State) x =>
      placeCluster (s.freshL1 lid (rectCores x.2 l.pk.w l.pk.h)) lid x.1 x.2) s)) ∧
  (∀ (s : State) (lid : Nat) (l : Launch), s.launches.get? lid = some l → s.ended lid = true → l.twin = none →
    let s1 := writeRecord s l l.final (recordTail l l.late (l.start.getD 0) l.endT l.cycles l.counters)
    exec (.launchComplete lid) s = .next (afterRecord { s1 with launches := s1.launches.del lid } l)) ∧
  (∀ (s : State) (lid : Nat) (l : Launch), s.launches.get? lid = some l → s.overran l = true →
    exec (.launchOverrun lid) s = .next
      (if l.qd.demote then s.updL lid fun l => { l with demoted := true } else killLaunch s lid 4)) ∧
  (∀ (s : State) (lid t : Nat) (l : Launch), s.launches.get? lid = some l → s.startOf l = some t → l.qd.watchdog ≠ 0 →
    l.watched = false → l.killed = false → t + 1000 * l.qd.watchdog * nsT ≤ s.tick →
    exec (.launchWatchdog lid) s = .next (((s.groups.filter fun e => e.2.who.lid == lid && e.2.stop != .gone).map (·.2)).foldl
      (fun (s : State) g => raise s g.who.gid { aPending g .nop (watchdogCause s g) with word := 0 })
      (s.updL lid fun l => { l with watched := true }))) ∧
  (∀ (s : State) (lid t : Nat) (l : Launch), s.launches.get? lid = some l → s.startOf l = some t → l.qd.watchdog ≠ 0 →
    l.killed = false → t + 2000 * l.qd.watchdog * nsT ≤ s.tick → exec (.launchKill lid) s = .next (killLaunch s lid 5)) ∧
  (∀ (s s1 : State) (v h : Nat) (w : RWait) (r : List RWait) (ds : List Byte) (g : Group), (s.gal v).waits = w :: r →
    s.node v w.node = (s1, ds) → (s1.gal v).grant w.cnt (numAt ds 0x10 2) = some h → s1.groups.get? w.gid = some g →
    exec (.rallocGrant v) s = .next ((s1.setGal v ({ s1.gal v with waits := r }.reserve w.gid w.node w.cnt h)).setG w.gid
      { (g.wa w.d (BitVec.ofNat 32 h)).adv with stop := .run, ablk := none })) ∧
  (∀ (s s1 : State) (v t : Nat), s.galleyTime v = (s1, some t) → exec (.galleyTimeout v) s =
    .next (if t ≤ clkEnd s1.tick then s1.setGal v { s1.gal v with due := true } else s1)) ∧
  (∀ (s : State) (ready : Tbl Group) (k : Nat), s.pick ready = some k →
    ∃ g, (k, g) ∈ ready ∧ ∀ e ∈ ready, rankLe (s.rank g) (s.rank e.2) = true)

/-- What a write of a control register that its port may make does (15 R378): the constructor, the offset, the exception for an owner
that is no holder of the semaphore, and the machine after it. -/
def Claims.write (s : State) (port : Nat) : Instr → Option (Nat × Bool × State)
  | .vfmapWrite _ hi w => some (halfOff 8 hi, false, half64 s 8 hi w writeVfmap)
  | .qtbaseWrite _ hi w => some (halfOff 0x20000 hi, false, half64 s 0x20000 hi w fun s x =>
      ({ s with regs.qtbase := x &&& 0x000FFFFFFFFFF001 } : State).refreshQueues)
  | .pwrcapWrite _ w => some (0x10, false,
      if w.toNat % 4 = 3 then s
      else if (List.range 16).all fun p => s.fits p (s.demands p) (s.time + lambdaNs) 0 (w.toNat % 4) == 0 &&
          s.launches.all fun e => !(e.2.dlLive && e.2.qd.part == p && e.2.pk.diverse) ||
            s.fits p (s.demands p) (s.time + lambdaNs + 1000 * e.2.pk.delay) e.2.due (w.toNat % 4) == 0 then
        { s with regs.pwrcap := w.toNat % 4 }
      else { s with regs.capdeny := true })
  | .grant _ w => some (0x30200,
      ((s.regs.granule.get? (w.toNat % 512)).all fun o => s.owns port o) && (w.getLsbD 15 || s.owns port (w.toNat / 512 % 64)),
      if s.regs.zeroing.isSome then s
      else { s with regs.granule := s.regs.granule.del (w.toNat % 512),
                    regs.zeroing := if w.getLsbD 15 then none else some (w.toNat % 512, w.toNat / 512 % 64) })
  | .prqheadWrite _ w => some (0x11010, false,
      { s with prq := s.prq.filter (fun e => decide ((w.toNat % 8192 + 8192 - s.regs.prqhead) % 8192 ≤
                 (e.count + 8192 - s.regs.prqhead) % 8192)), regs.prqhead := w.toNat % 8192 })
  | .retest _ w => some (0x40030, false,
      { s with quads := s.quads.zipIdx.map fun e => if w.getLsbD e.2 then e.1.retest s.tick else e.1 })
  | .colophonUnfreeze _ w => some (0x50000, false,
      if w.getLsbD 0 && s.regs.frozen then { s with regs.frozen := false, regs.wrap := false, regs.since := 0 } else s)
  | .lretrain _ w => some (0x1C, false,
      let s := if w.getLsbD 0 then retrain s 0 else s
      if w.getLsbD 1 then retrain s 1 else s)
  | .partitionWrite _ p word w => if p < 16 ∧ word < 4 then some (0x20100 + 16 * p + 4 * word, false, writePart s p word w) else none
  | .windowTableWrite _ idx w => if idx ≤ 16 then some (0x2000C + 4 * idx, false,
      (if idx = 0 then ({ s with regs.wincnt := w.toNat % 32 } : State)
        else { s with regs.win := setAt s.regs.win (idx - 1) w }).checkWindows) else none
  | .tlbinv _ vf hi w => if vf < 64 then some (halfOff (0x10018 + 64 * vf) hi, s.owns port vf,
      half64 s (0x10018 + 64 * vf) hi w fun s x => if (s.vf vf).busy then s else s.setVf vf { s.vf vf with
        inval := some (if x.getLsbD 47 then none else some (x.toNat % 2 ^ 47 / 2 ^ 14)), purged := false, busyOps := [] }) else none
  | .splinter _ vf hi w => if vf < 64 then some (halfOff (0x10020 + 64 * vf) hi, s.owns port vf,
      half64 s (0x10020 + 64 * vf) hi w fun s x => if (s.vf vf).busy then s else s.setVf vf { s.vf vf with
        splint := some (x.toNat % 2 ^ 47 / 2 ^ 25 * 2 ^ 25, (s.vf vf).sframe), purged := false, busyOps := [] }) else none
  | .framePoolWrite _ which w => if which < 2 then some (0x11018 + 4 * which, false,
      if s.vfs.any fun v => v.held != 0 then { s with regs.cfgerr := true }
      else
        let s : State := { s.reclaim.foldl (fun (s : State) f => s.cleanFrame f) s with frames := [] }
        if which = 0 then { s with regs.fpbase := w.toNat } else { s with regs.fpcount := w.toNat }) else none
  | .safesetWrite _ which w => if which < 2 then some (0x40008 + 4 * which, false,
      if (w &&& 0xFFFFFF) &&& s.regs.safeset.getD (1 - which) 0 ≠ 0 then { s with regs.cfgerr := true }
      else { s with regs.safeset := setAt s.regs.safeset which (w &&& 0xFFFFFF) }) else none
  | .registerWrite _ off w => if ownRow off = false ∧ off % 4 = 0 then some (off, false, writeReg s off w) else none
  | _ => none

/-- The port of a register write. -/
def Claims.port : Instr → Nat
  | .vfmapWrite p _ _ | .qtbaseWrite p _ _ | .pwrcapWrite p _ | .grant p _ | .prqheadWrite p _ | .retest p _ | .colophonUnfreeze p _
  | .lretrain p _ | .partitionWrite p _ _ _ | .windowTableWrite p _ _ | .tlbinv p _ _ _ | .splinter p _ _ _ | .framePoolWrite p _ _
  | .safesetWrite p _ _ | .registerWrite p _ _ => p
  | _ => 0

/-- That a port holds the semaphore: port 1 once the clk of the read that took it is over, for port 0 wins where both read it in one
(15 R379). -/
def Claims.holds (s : State) (port : Nat) : Prop := s.regs.sem = port + 1 ∧ (port = 1 → s.regs.semAt ≠ s.tick / clkT)

/-- 15 R377-R380, R385: register writes. Once the device has booted, a write by the holder of the semaphore, or by an owner where its
register allows it, has its effect; another is ignored with the event of class 2, code 4; before boot nothing happens, and reads of BAR0
return 0 but for BOOTSTAT. SEM is taken by a read while it is free, and by port 0 against a read of port 1 in the same clk, which reads 0;
the read returns whether it has it and the owner; its holder releases it; a port reset frees it; a device reset boots.
Model's choices: notes/assumptions/5.md, 30.md, 31.md. -/
def Obligations.RegisterWriteSteps : Prop :=
  (∀ (s t : State) (i : Instr) (off : Nat) (may : Bool), Claims.write s (Claims.port i) i = some (off, may, t) →
    (s.booted = true → Claims.port i < 2 →
      (Claims.holds s (Claims.port i) ∨ may = true → exec i s = .next t) ∧
      (¬Claims.holds s (Claims.port i) → may = false →
        exec i s = .next (s.colophon 2 4 0xFF 0xFF (natLe 4 off ++ natLe 1 (Claims.port i))))) ∧
    (s.booted = false → exec i s = .next s)) ∧
  (∀ (s : State) (port : Nat), s.booted = true → port < 2 →
    let clk := s.tick / clkT
    let first := port = 0 ∧ s.regs.sem = 2 ∧ s.regs.semAt = clk
    (s.regs.sem = 0 ∨ first →
      exec (.semAcquire port) s = .next { s with regs.sem := port + 1, regs.semAt := clk } ∧ (port = 0 → s.readReg port 0 = 3)) ∧
    (s.regs.sem = port + 1 → exec (.semAcquire port) s = .next s) ∧
    (Claims.holds s port → s.readReg port 0 = BitVec.ofNat 32 (2 * (port + 1) + 1)) ∧
    (s.regs.sem = port + 1 → ¬Claims.holds s port → s.readReg port 0 = 0) ∧
    (s.regs.sem ≠ 0 → s.regs.sem ≠ port + 1 → ¬first →
      exec (.semAcquire port) s = .next s ∧ s.readReg port 0 = BitVec.ofNat 32 (2 * s.regs.sem)) ∧
    (∀ w : Word, Claims.holds s port → w.getLsbD 0 = false → exec (.semRelease port w) s = .next { s with regs.sem := 0 }) ∧
    (s.regs.sem = port + 1 → exec (.portReset port) s = .next { s with regs.sem := 0 })) ∧
  (∀ (s : State) (port off : Nat), s.readReg port 4 = BitVec.ofNat 32 s.regs.boot ∧
    (s.booted = false ∨ off % 4 ≠ 0 → off ≠ 4 → s.readReg port off = 0)) ∧
  (∀ s : State, ∃ t, exec .deviceReset s = .next t ∧ t.groups = [] ∧ t.launches = [] ∧ t.regs.sem = 0 ∧
    (t.regs.boot = 6 ∨ t.regs.boot = 17))

/-- 10 R296, R297, R300, 11 R318, 09 R271: the steps that end an invalidation, a splinter, a frame's reclaiming and a granule's move.
At the end of an invalidation or a splinter every write of the VF is performed for every agent. -/
def Claims.frameSteps : Prop :=
  (∀ (s : State) (f : Nat), f ∈ s.reclaim → exec (.frameReclaim f) s = .next
    (((({ s with tlb := s.tlb.filter (fun e => !e.maps f), reclaim := s.reclaim.filter fun x => x != f } : State).zeroFill
      { space := .dev, addr := f * 2 ^ 14 } (2 ^ 14)).purgeL1 (f * 2 ^ 14) (2 ^ 14)).purgeL2 (f * 2 ^ 14) (2 ^ 14))) ∧
  (∀ (s : State) (v : Nat) (tgt : Option Nat), (s.vf v).inval = some tgt →
    let drop := fun (e : TlbEnt) => match tgt with
      | none => true
      | some q => e.page == q * 2 ^ 14 / 2 ^ entryBits e.level
    let s1 := if (s.vf v).purged then s else s.dropTlb v drop
    ((∀ o ∈ (s1.vf v).busyOps, s1.inFlight o = false) → exec (.tlbInvalidationComplete v) s =
      .next ((s1.performVf v).setVf v { (s1.performVf v).vf v with inval := none, purged := false, busyOps := [] })) ∧
    (∀ o ∈ (s1.vf v).busyOps, s1.inFlight o = true → exec (.tlbInvalidationComplete v) s = .next s1)) ∧
  (∀ (s : State) (v va f : Nat), (s.vf v).splint = some (va, f) →
    ((s.vf v).purged = true → (∀ o ∈ (s.vf v).busyOps, s.inFlight o = false) →
      exec (.splinterComplete v) s = .next ((s.performVf v).setVf v { s.vf v with splint := none, purged := false, busyOps := [] })) ∧
    ((s.vf v).purged = false → largeEntry s v va = none →
      exec (.splinterComplete v) s = .next (s.setVf v { s.vf v with splint := none, err := true })) ∧
    (∀ a p, (s.vf v).purged = false → largeEntry s v va = some (a, p) → f + 2 ^ 14 ≤ usable →
      exec (.splinterComplete v) s = .next (((s.writeBytes { space := .dev, addr := f } (splinterBytes p)).writeLoc
        { space := .dev, addr := a } 8 (f + 1)).dropTlb v
          fun e => e.page == va / 2 ^ entryBits e.level || (e.level == 3 && e.base / 2 ^ 25 == va / 2 ^ 25)))) ∧
  (∀ (s : State) (n v : Nat), s.regs.zeroing = some (n, v) → exec .granuleZeroFill s = .next
    { s.zeroFill { space := .chip, addr := 65536 * n } 65536 with regs.granule := s.regs.granule.set n v, regs.zeroing := none })

/-- 14 R360-R371, 21 R395-R398, R403: the steps of the display engine and the Proof unit. -/
def Claims.displaySteps : Prop :=
  (∀ (s : State), s.booted = true → s.disp.lastRead ≠ some (s.time / 1000000) → s.surfAt 64 ≤ usable →
    ∃ t, exec .surfaceTableRead s = .next t ∧ t.disp.lastRead = some (s.time / 1000000)) ∧
  (∀ (s : State) (k : Nat) (x y : Surf), s.disp.surfs.get? k = some x → k < 64 → x.bad = false →
    x.met ≠ some (s.time / (surfHdr x.desc).period) → x.found < s.time / (surfHdr x.desc).period * (surfHdr x.desc).period →
    s.surfAt (k + 1) ≤ usable → (readSurf s k (s.surfBytes k)).disp.surfs.get? k = some y → y.bad = false →
    surfHdr y.desc = surfHdr x.desc →
    let f := s.time / (surfHdr x.desc).period
    let s1 := readSurf s k (s.surfBytes k)
    s1.time = s.time →
    let kept := fun (y : Surf) => ({ s1 with disp.surfs := s1.disp.surfs.set k { y with met := some f } } : State)
    (y.served = true ∨ k ∈ s1.dpWaiting.take (16 - s1.dpServed) →
      exec (.frameStart k) s = .next (kept { y with
        served := true, frame := some f, line := 0, proofs := y.proofs.filter (fun e => decide (8 * f ≤ e.1)),
        records := y.keptFrom f })) ∧
    (y.served = false → k ∉ s1.dpWaiting.take (16 - s1.dpServed) →
      exec (.frameStart k) s = .next (kept { y with frame := none }))) ∧
  (∀ (s : State) (k f : Nat) (x : Surf), s.disp.surfs.get? k = some x → x.frame = some f → x.bad = false → x.served = true →
    let h := surfHdr x.desc
    x.line < h.h → f * h.period + h.lineNs (h.first + x.line) ≤ s.time → h.dp = true → h.warp = false →
    let t := s.touchWords h.vf (s.lineVas x f x.line)
    exec (.scanoutLine k) s = .next { t with
      disp.surfs := t.disp.surfs.set k { x with line := x.line + 1 }, fresh := t.fresh + 1,
      disp.out := t.disp.out.set (4 * h.output + h.mst) ((List.range h.w).map fun (px : Nat) => s.composed x f px x.line) }) ∧
  (∀ (s s1 : State) (k : Nat) (x : Surf) (b : List Byte), s.disp.surfs.get? k = some x →
    let h := surfHdr x.desc
    let f := (((s.time : Int) - ((h.lineNs h.first : Int) - 1000 * (h.latch : Int))) / (h.period : Int)).toNat
    x.bad = false → x.served = true → h.dp = true → h.warp = true → x.warpFor ≠ some f → x.found < f * h.period →
    s.readVa h.vf true h.mailva 64 = (s1, .ok b) →
    let r := (List.range 16).map fun i => wordAt b (4 * i)
    let y : Surf := { x with warpFor := some f, records := if (r.getD 0 0).getLsbD 0 then x.records else x.records.set f r }
    exec (.warpLatch k) s = .next { s1 with disp.surfs := s1.disp.surfs.set k y }) ∧
  (∀ (s : State) (k n : Nat) (x : Surf), s.disp.surfs.get? k = some x →
    let h := surfHdr x.desc
    let l := surfLayer x.desc n
    let f := (((s.time : Int) - proofNs h l) / (h.period : Int)).toNat
    let clk := (((f * h.period : Nat) : Int) + proofNs h l).toNat * nsT / clkT
    let mine := fun (r : Render) => r.surface == k && r.layer == n
    x.bad = false → x.served = true → n < 8 → l.en = true → l.ilvl ≠ 0 → l.shows h = true → x.proofs.get? (8 * f + n) = none →
    x.found < f * h.period →
    let decided := fun (s : State) (d : Proof) => ({ s with
      disp.surfs := s.disp.surfs.set k { x with proofs := x.proofs.set (8 * f + n) d, proofT := x.proofT.set n clk },
      disp.renders := s.disp.renders.filter fun r => !mine r || decide (clk ≤ r.time / clkT) } : State)
    let found := (s.disp.renders.filter fun r =>
      mine r && decide (x.proofT.getD n 0 ≤ r.time / clkT) && decide (r.time / clkT < clk)).getLast?
    (found = none → exec (.proofPoint k n) s = .next (failFrame (decided s .failed) k n h [])) ∧
    (∀ r, found = some r →
      let read := s.pairs h.vf l r
      ((∀ p ∈ read.2, p = .agree) → exec (.proofPoint k n) s = .next (decided read.1 (.proved r.buf))) ∧
      ((∃ p ∈ read.2, p ≠ .agree) → exec (.proofPoint k n) s = .next (failFrame (decided read.1 .failed) k n h
        (read.2.filter fun p => match p with
          | .mismatch .. => true
          | _ => false)))))

/-- 14 R368, R369, 21 R399, R400: Fennel's passes. Three sound passes in a row return a quad to service; a pass that finds a failing bit
spares its row while a spare is free; one that fails elsewhere, or finds none free, retires the quad. -/
def Claims.fennelSteps : Prop :=
  ∀ (s : State) (k : Nat), let q := s.quads.getD k Quad.reset
    (q.st = 1 → q.ready.isSome = true → q.preempt = none →
      exec (.fennelPassStart k) s = .next { s with quads := setAt s.quads k { q with st := 2, testing := some s.tick } }) ∧
    (q.st = 2 → q.testing.isSome = true →
      let n := q.passes + 1
      let put := fun (x : Quad) => ({ s with quads := setAt s.quads k x } : State)
      let retired := (((passEvent (put { q with passes := n, st := 3, pass := 0, testing := none }) k n 0 false).colophon 5 7 k 0
        (natLe 1 n)).irq 0 none 3).irq 1 none 3
      (s.failingBit k = none → q.pass + 1 < 3 → exec (.fennelPassEnd k true) s = .next (passEvent
        (put { q with passes := n, pass := q.pass + 1, testing := some s.tick }) k n (q.pass + 1) true)) ∧
      (s.failingBit k = none → 2 ≤ q.pass → exec (.fennelPassEnd k true) s = .next ((passEvent
        (put { q with passes := n, st := 0, pass := 3, testing := none, ready := none, back := some (s.tick / clkT) }) k n 3
          true).colophon 5 6 k 0 (natLe 1 n))) ∧
      (s.failingBit k = none → exec (.fennelPassEnd k false) s = .next retired) ∧
      (∀ d sound, s.failingBit k = some d →
        (s.sparesUsed d.core d.slot < 4 → exec (.fennelPassEnd k sound) s = .next (passEvent
          (spareRow (put { q with passes := n, pass := 0, testing := some s.tick }) k d) k n 0 false)) ∧
        (4 ≤ s.sparesUsed d.core d.slot → exec (.fennelPassEnd k sound) s = .next retired)))

/-- 14 R373, R374, 15 R383, R384: errors of memories, the scrub, temperature and the housekeeping controller. -/
def Claims.reliabilitySteps : Prop :=
  (∀ (s : State) (slice set way : Nat), slice < 32 → set < 2048 → way < 16 →
    exec (.sramCorrectedError (.l2 slice set way)) s = .next (l2Error s slice set way)) ∧
  (∀ (s : State) (block unit : Nat), 1 ≤ block → block ≤ 6 → exec (.sramUncorrectableError (.control block unit)) s =
    .next (s.colophon 6 1 0xFF 0xFF (natLe 1 block ++ natLe 1 unit))) ∧
  (∀ (s s1 : State) (gid n : Nat) (g : Group), s.groups.get? gid = some g → g.stop ≠ .gone → g.saved = false →
    lostDetail s (quadOf g.who.core) = (s1, n) →
    exec (.sramUncorrectableError (.reader gid (.stream 4))) s =
      .next (raise s1 g.who.gid { aPending g .nop (Cause.mk' 10 2 n) with word := 0 }) ∧
    exec (.sramUncorrectableError (.memory gid (.stream 4))) s =
      .next (raise s1 g.who.gid { aPending g .nop (Cause.mk' 10 3 n) with word := 0 })) ∧
  (∀ (s : State), (s.rely.scrubs + 1) * dayT ≤ s.tick →
    exec .memoryScrub s = .next { s with rely.scrubs := s.rely.scrubs + 1 }) ∧
  (∀ (s : State) (d : Nat), 125 ≤ d → ∃ t, exec (.thermalTrip d) s = .next t ∧ t.rely.stopped = true) ∧
  (∀ (s : State) (hot : Bool), exec (.coolantHot hot) s = .next { s with
    regs.hot := hot, galley := if hot then s.galley else s.galley.mapV fun _ y => { y with due := true } }) ∧
  (∀ (s : State), exec .housekeepingWatchdog s = .next (s.colophon 6 4 0xFF 0xFF []))

/-- 09 R286, R289, 15 R381, R382: what the ports do. A write from outside is performed when it is accepted; a sound flit is, once the
flits before it are: one behind a flit that has failed waits for that one's replay. An unsound one keeps its place among at most 256 and
counts as a replay. -/
def Claims.linkSteps : Prop :=
  (∀ (s t : State) (port pa : Nat) (bs : List Byte), port < 2 → outsideWrite s pa bs = some t →
    exec (.hostMemoryWrite port pa bs) s = .next t ∧
    (s.linkUp port = true → bs.length ≤ 252 → s.regs.rx.getD port [] = [] →
      exec (.linkFlitReceive port true pa bs) s = .next { t with regs.rx := setAt t.regs.rx port [] })) ∧
  (∀ (s : State) (port pa pb : Nat) (bs cs : List Byte), s.linkUp port = true → bs.length ≤ 252 → (pa, bs) ≠ (pb, cs) →
    let x : Flit := { pa := pb, bytes := cs, sound := false }
    s.regs.rx.getD port [] = [x] → exec (.linkFlitReceive port true pa bs) s =
      .next { s with regs.rx := setAt s.regs.rx port [x, { pa, bytes := bs, sound := true }] }) ∧
  (∀ (s t u : State) (port pa pb : Nat) (bs cs : List Byte), s.linkUp port = true → cs.length ≤ 252 →
    s.regs.rx.getD port [] = [{ pa := pb, bytes := cs, sound := false }, { pa, bytes := bs, sound := true }] →
    outsideWrite s pb cs = some t → outsideWrite t pa bs = some u →
    exec (.linkFlitReceive port true pb cs) s = .next { u with regs.rx := setAt u.regs.rx port [] }) ∧
  (∀ (s : State) (port pa : Nat) (bs : List Byte), s.linkUp port = true → bs.length ≤ 252 →
    let q := s.regs.rx.getD port []
    let r := s.regs.replays.getD port [] ++ [s.tick]
    q.length < 256 → (∀ x ∈ q, x.sound = false → (x.pa, x.bytes) ≠ (pa, bs)) → (∀ x, q.head? = some x → x.sound = false) →
    exec (.linkFlitReceive port false pa bs) s = .next { s with
      regs.replays := setAt s.regs.replays port (r.drop (r.length - 16)),
      regs.rx := setAt s.regs.rx port (q ++ [{ pa, bytes := bs, sound := false }]) }) ∧
  (∀ (s : State) (port trained : Nat), s.linkUp port = true → 16 ≤ (s.regs.replays.getD port []).length →
    (s.regs.replays.getD port []).getLastD 0 ≤ (s.regs.replays.getD port []).headD 0 + 1000000 * nsT →
    exec (.linkReplayLimit port trained) s =
      .next (trainLink s port (s.regs.lrate.getD port 0 - 1) (Min.min trained (s.regs.lwidth.getD port 0))))

/-- 10 R296, R297, R300, 11 R318, 14 R360-R371, R373, R374, 15 R381-R384, 21 R399-R403: the steps of translation, granules, display,
Fennel, memory protection and links.
Model's choices: notes/assumptions/10.md, 32.md, 38.md, 46.md, 54.md, 55.md, 56.md. -/
def Obligations.DeviceSteps : Prop :=
  Claims.frameSteps ∧ Claims.displaySteps ∧ Claims.fennelSteps ∧ Claims.reliabilitySteps ∧ Claims.linkSteps

/-! ## Registers, memory and what is left unchanged -/

/-- 01 R21: P7 reads all ones; a predicate-writing instruction writes the bits of its enabled lanes, of every other lane and of every
other predicate the bits stay; one whose predicate destination is 7 raises cause group 1. -/
def Obligations.PredicateRegisters : Prop :=
  (∀ (c : CSide) (l : Nat), l < 96 → (c.rp 7).getLsbD l = true) ∧
  (∀ (g : Group) (n : BitVec 9) (en : Mask) (f : Nat → Bool), n.toNat < 7 →
    (∀ l < 96, ((g.writePred (.v n) en f).cs.rp n.toNat).getLsbD l = if en.getLsbD l then f l else (g.cs.rp n.toNat).getLsbD l) ∧
    (∀ m, m ≠ n.toNat → (g.writePred (.v n) en f).cs.rp m = g.cs.rp m)) ∧
  (∀ (s : State) (g : Group) (p : Split) (i : Instr), s.grp? = some g → g.cs.sp s.cur.split = some p → g.trap = none →
    ((∃ cnd z a b y, i = .fset cnd z (.v 7) a b y) ∨ (∃ cnd bf z comb a b y, i = .hset2 cnd bf z comb (.v 7) a b y) ∨
      (∃ cnd u a b y, i = .iset cnd u (.v 7) a b y) ∨ (∃ pr neg y, i = .voteall pr neg (.v 7) y) ∨
      (∃ pr neg y, i = .voteany pr neg (.v 7) y) ∨ (∃ pr neg y, i = .votesame pr neg (.v 7) y) ∨
      (∃ a y, i = .matchall (.v 7) a y) ∨ (∃ tbl a b c y, i = .pltab tbl (.v 7) a b c y) ∨
      (∃ pr a y, i = .pmov 1 pr (.v 7) a y) ∨ (∃ w pr a y, i = .pmovw 1 w pr (.v 7) a y) ∨
      (∃ s0 t w y, i = .treport (.v 7) s0 t w y)) →
    ∃ (h : Group) (q : Pending), q.cause.grp = 1 ∧ exec i s = .next (raise (s.putG h) s.cur.gid q) ∧ h.trap = none ∧
      h.who = g.who ∧ h.sys = g.sys ∧ h.cs.v = g.cs.v ∧ h.cs.p = g.cs.p)

/-- 06 R213: a near-memory access with an offset that is not a multiple of min(size, 4) raises row 2 of R116 (cause group 6), one whose
bytes reach beyond the allotment row 4 (cause group 4), the smaller row first; the trap stands at the instruction's C-PC, its lane
mask holds the failing lanes, and neither memory nor a flag count has changed. -/
def Obligations.NearMemoryTraps : Prop :=
  ∀ (s : State) (x : Issue) (i : Instr) (level size : Nat) (a b : Src) (fl : Option (BitVec 1)), issueC s i = some x →
    ((∃ sz acq f d y, i = .ldl sz acq f (.v d) a b y ∧ level = 4 ∧ size = (nearSize sz).1 ∧ fl = some f) ∨
      (∃ sz acq f d y, i = .lds sz acq f (.v d) a b y ∧ level = 3 ∧ size = (nearSize sz).1 ∧ fl = some f) ∨
      (∃ sz acq f d y, i = .ldc sz acq f (.v d) a b y ∧ level = 2 ∧ size = (nearSize sz).1 ∧ fl = some f) ∨
      (∃ sz rel c y, i = .stl sz rel a b c y ∧ level = 4 ∧ size = (nearSize sz).1 ∧ fl = none) ∨
      (∃ sz rel c y, i = .sts sz rel a b c y ∧ level = 3 ∧ size = (nearSize sz).1 ∧ fl = none) ∨
      (∃ sz rel c y, i = .stc sz rel a b c y ∧ level = 2 ∧ size = (nearSize sz).1 ∧ fl = none) ∨
      (∃ op ret ord f d c e y, i = .atoms op ret ord f d a b c e y ∧ level = 3 ∧ size = 4 ∧ fl = if ret = 1 then some f else none) ∨
      (∃ op ret ord f d c e y, i = .atomc op ret ord f d a b c e y ∧ level = 2 ∧ size = 4 ∧ fl = if ret = 1 then some f else none)) →
    (∀ f, fl = some f → (x.env s).flag f < 12 ∧ (x.past s).cfn ((x.env s).flag f) < 63) → x.g.trap = none →
    let els := Claims.near s x a b
    let off := fun (e : Nat × Nat) => e.2 % min size 4 ≠ 0
    let out := fun (e : Nat × Nat) => (Claims.here s x).allot (x.past s) level < e.2 + size
    let traps := fun (grp : Nat) (fails : Nat × Nat → Prop) =>
      ∃ (t : State) (p : Pending) (h : Group), exec i s = .next (raise t s.cur.gid p) ∧ p.cause.grp = grp ∧ p.cside = true ∧
        p.split = s.cur.split ∧ p.cpc = x.p.idx ∧ (∀ l < 96, p.cause.lanes.getLsbD l = true ↔ ∃ e ∈ els, e.1 = l ∧ fails e) ∧
        (∀ l, t.byteAt l = s.byteAt l) ∧ t.grp? = some h ∧ h.trap = none ∧ h.cf = x.g.cf
    ((∃ e ∈ els, off e) → traps 6 off) ∧ ((∀ e ∈ els, ¬off e) → (∃ e ∈ els, out e) → traps 4 out)

/-- 09 R278: within a memory that holds its canonical form, a write of bytes gives the bytes written at their addresses and
changes no other byte, a block read gives the bytes one by one, a clear gives zeros in its range alone, and two such memories that
read alike are equal. The canonical form is the model's representation of a memory, notes/assumptions/4.md. -/
def Obligations.MemoryReadsBack : Prop :=
  ∀ m : Memory, m.wf = true →
    (∀ (a : Nat) (bs : List Byte) (n : Nat),
      (m.setBytes a bs).get n = if a ≤ n ∧ n < a + bs.length then bs.getD (n - a) 0 else m.get n) ∧
    (∀ a n : Nat, m.bytes a n = (List.range n).map fun i => m.get (a + i)) ∧
    (∀ a k n : Nat, (m.clear a k).get n = if a ≤ n ∧ n < a + k then 0 else m.get n) ∧
    (∀ m' : Memory, m'.wf = true → (∀ n, m'.get n = m.get n) → m' = m)

/-- The A registers that a register-only instruction of the A-stream writes. -/
def Claims.writesA (g : Group) (i : Instr) : Option (List Nat) :=
  match Claims.alu g i, Claims.branch g i with
  | some (d, _), _ => some [d.toNat]
  | _, some _ => some []
  | _, _ =>
    match i with
    | .bfeA d _ _ => some [d.toNat]
    | .bfiA d _ _ => some [d.toNat]
    | .dbnz a _ => some [a.toNat]
    | .jal d _ => some [d.toNat]
    | .rinput d _ => some [d.toNat]
    | .rdepth d => some [d.toNat]
    | .rdtime d => some [d.toNat, d.toNat + 1]
    | .nop => some []
    | .yield => some []
    | _ => none

/-- The vector register that a lane-wise instruction writes. -/
def Claims.writesV (i : Instr) : Option Dst :=
  match Claims.int i, Claims.float i, Claims.lanes i with
  | some (d, _), _, _ => some d
  | _, some (d, _), _ => some d
  | _, _, some (d, _) => some d
  | _, _, _ => none

/-- What register-only instructions leave as it was (01 R11, 04 R117-R119, 05 R151, 06 R179-R184). An A-stream instruction
changes its destination and the A-PC: every other A register (A0 among them), special register, flag, queue, record, C-side register
and slice of its group, every other group and every byte of memory stay. A lane-wise C-stream instruction changes no A register,
predicate, record, special register but the sticky flags, no vector register but its destination, no lane of that but the enabled
ones, no other group and no byte of memory. -/
def Obligations.RegisterFrames : Prop :=
  (∀ (s t : State) (i : Instr) (g : Group) (ds : List Nat), issueA s i = some g → Claims.writesA g i = some ds → exec i s = .next t →
    ∃ h, t.grp? = some h ∧ h.ra 0 = 0 ∧ (∀ n, n ∉ ds → h.ra n = g.ra n) ∧ h.sys = g.sys ∧ h.cf = g.cf ∧ h.q = g.q ∧ h.b = g.b ∧
      h.t = g.t ∧ h.cs = g.cs ∧ h.pend = g.pend ∧ h.mu = g.mu ∧ h.slices = g.slices ∧
      (∀ n, n ≠ s.cur.gid → t.groups.get? n = s.groups.get? n) ∧ (∀ l, t.byteAt l = s.byteAt l)) ∧
  (∀ (s t : State) (i : Instr) (x : Issue) (d : Dst), issueC s i = some x → Claims.writesV i = some d → exec i s = .next t →
    ∃ h, t.grp? = some h ∧ h.a = x.g.a ∧ h.apc = x.g.apc ∧ h.cs.p = x.g.cs.p ∧ h.b = x.g.b ∧ h.t = x.g.t ∧
      { h.sys with sticky := x.g.sys.sticky } = x.g.sys ∧ h.cf = x.g.cf ∧ h.slices = x.g.slices ∧
      (∀ m, (∀ n : BitVec 9, d = .v n → m ≠ n.toNat) → h.cs.v.get? m = x.g.cs.v.get? m) ∧
      (∀ (n : BitVec 9) (l : Nat), d = .v n → l < 96 → (x.env s).en.getLsbD l = false →
        lane (h.cs.v.getD n.toNat zeroLanes) l = lane (x.g.cs.v.getD n.toNat zeroLanes) l) ∧
      (∀ m, (∀ n : BitVec 9, d = .c n → m ≠ n.toNat) → 3 ≤ m → h.cs.c.getD m 0 = x.g.cs.c.getD m 0) ∧
      (∀ n, n ≠ s.cur.gid → t.groups.get? n = s.groups.get? n) ∧ (∀ l, t.byteAt l = s.byteAt l))

/-- The memory that a space's bytes lie in. -/
def Claims.home : Space → Space
  | .host n => .host (min n 1)
  | .lane g _ => .lane g 0
  | sp => sp

/-- Whether a place lies among `n` bytes from another. -/
def Claims.among (l x : Loc) (n : Nat) : Prop :=
  Claims.home l.space = Claims.home x.space ∧ x.key ≤ l.key ∧ l.key < x.key + n

/-- The groups stand in order of their names, each under its own. -/
def Claims.named (s : State) : Prop := s.groups.keys.Pairwise (· < ·) ∧ ∀ e ∈ s.groups, e.2.who.gid = e.1

/-- The near memory that a group has: it is freed when no group is left that has it (09 R270). -/
def Claims.nearOf (g : Group) : Space → Bool
  | .clu c => c == g.who.cid
  | .core t => t == g.who.tid
  | .lane n _ => n == g.who.gid
  | _ => false

/-- What a write may change outside its places: A and D, bits 11 and 12, of an entry of a page table by which it was translated while D
was clear. A table is aligned to its 16 KiB, and the entry stands in it at the index of the address at its level (10 R290-R293). -/
def Claims.marked (els : List (Nat × Loc)) (l : Loc) (old new : Byte) : Prop :=
  ∃ e ∈ els, ∃ v va level, e.2.leaf = some (v, va) ∧ (level = 2 ∨ level = 3) ∧ l.space = .dev ∧
    l.addr % 2 ^ 14 = 8 * vaIndex va level + 1 ∧ new = old ||| 0x18

/-- What the performance of a store or an atomic leaves as it was (04 R131, R135, R136, 06 R212; 09 R278): every byte outside the
places of its elements, each of the element's width, and of a load every byte, but for D in the page-table entry of a page that is
written the first time (10 R291), and for the near memory of a group that has ended, which may be freed with its last write. A scalar
atomic on the frame window is no memory operation. STV, STX and ATV are performed on the places that their checks gave, after what the checks of the page tables wrote. -/
def Obligations.StoreFrames : Prop :=
  ∀ (s t : State) (op : Nat), Claims.named s → s.memoriesWf →
    let keptBy := fun (g : Group) (s0 : State) (els : List (Nat × Loc)) (n : Nat) =>
      ∀ l, (∀ e ∈ els, ¬Claims.among l e.2 n) → (g.stop = .gone → Claims.nearOf g l.space = false) →
        t.byteAt l = s0.byteAt l ∨ Claims.marked els l (s0.byteAt l) (t.byteAt l)
    (∀ (o : MemOp) (g : Group), s.memLive op = some (o, g) →
      let kept := keptBy g
      (∀ v sz, o.kind = .sta v sz → exec (.writePerformed op) s = .next t → kept s o.els sz) ∧
      (∀ sz data, o.kind = .nearStore sz data → exec (.writePerformed op) s = .next t → kept s o.els (min sz 4)) ∧
      (∀ d k f x y, o.kind = .nearAtom d k false f x y → exec (.writePerformed op) s = .next t → kept s o.els 4) ∧
      (∀ d k f x y, o.kind = .nearAtom d k true f x y → exec (.nearMemoryComplete op) s = .next t → kept s o.els 4) ∧
      (∀ d k x y, o.kind = .ata d k x y none → s.readCut o = false → exec (.scalarAccessReturn op) s = .next t → kept s o.els 4) ∧
      (∀ d sz sgn f, o.kind = .near d sz sgn f → exec (.nearMemoryComplete op) s = .next t → kept s [] 0) ∧
      (s.readCut o = false →
        (∀ q sz l1, o.kind = .ldv q sz l1 → exec (.loadComplete op) s = .next t → kept s [] 0) ∧
        (∀ d sz sgn, o.kind = .lda d sz sgn → exec (.scalarAccessReturn op) s = .next t → kept s [] 0) ∧
        (∀ r, o.kind = .bld r ∨ o.kind = .tld r → exec (.recordLoadComplete op) s = .next t → kept s [] 0))) ∧
    (∀ (o : MuOp) (g : Group), s.muLive op = some (o, g) →
      let b := Buf.of o.buf.toNat
      let kept := keptBy g
      (∀ q e ps, o.indexed = false → o.sdqs.head? = some q → g.vHead o (q + 1) = some e → o.places = some ps →
        let els := if o.begun then ps else maskedParts e.mask ps
        s.firstOwned g.who.gid o.id (els.map (·.2)) = .free → s.peerCut = false →
        exec (.storePerform op) s = .next t → kept s els (min b.size 4)) ∧
      (∀ s1 es ps, o.indexed = true → o.takes.mapM (g.vHead o) = some es →
        (o.begun = true ∧ o.places = some ps ∧ s1 = s ∨
          o.begun = false ∧ g.muOrder o ps = true ∧ checkElems s g { code := 2 } o.access b false (indexedEls o.first
            (es.foldl (fun (m : Mask) e => m &&& e.mask) allLanes) (((es[0]?).map (·.data)).getD zeroLanes)) = (s1, .ok ps)) →
        s1.firstOwned g.who.gid o.id (ps.map (·.2)) = .free → s1.peerCut = false →
        exec (.xqOperationPerform op) s = .next t →
        kept s1 (if o.access = 0 then [] else ps) (if o.access = 2 then 4 else b.size)))

/-! ## Traps -/

/-- The frame of a trap as its fields stand (08 R252, R253). -/
def Claims.frameLayout : Prop :=
  ∀ (s : State) (g : Group) (p : Pending),
    let f := frameBytes s g p
    let w := numAt f 0 4
    f.length = 256 ∧
    (p.cause.grp < 32 → p.cause.code < 256 → p.split < 256 →
      w % 32 = p.cause.grp ∧ w / 32 % 8 = 0 ∧ w / 2 ^ 8 % 256 = p.cause.code ∧ w / 2 ^ 16 % 2 = (if p.aside then 1 else 0) ∧
      w / 2 ^ 17 % 2 = (if p.cside then 1 else 0) ∧ w / 2 ^ 18 % 2 = (if restartable p.cause.grp then 1 else 0) ∧
      w / 2 ^ 19 % 2 = (if g.sys.priv then 1 else 0) ∧ w / 2 ^ 20 % 16 = 0 ∧ w / 2 ^ 24 = if p.cside then p.split else 255) ∧
    numAt f 4 4 = p.apc % 2 ^ 32 ∧ numAt f 8 4 = (if p.cside then p.cpc % 2 ^ 22 else 0) ∧
    numAt f 12 4 = (if p.cside then p.slot % 32 else 0) ∧ numAt f 0x10 8 = p.cause.va % 2 ^ 64 ∧
    numAt f 0x18 12 = p.cause.lanes.toNat ∧ numAt f 0x24 12 = p.word.toNat ∧ numAt f 0x30 12 = p.cause.detail.toNat ∧
    numAt f 0x3C 4 = g.qocc.toNat ∧ numAt f 0x40 4 = p.fpc % 2 ^ 32 ∧ numAt f 0x44 4 = g.qoccb.toNat ∧
    numAt f 0x48 4 = (s.gstat g).toNat ∧ numAt f 0x4C 4 = p.displaced % 2 ^ 32 ∧
    (∀ i < 8, numAt f (0x50 + 4 * i) 4 = ((g.q.clq[i]?).map (·.val.toNat)).getD 0) ∧
    numAt f 0x70 4 = g.q.clq.length % 2 ^ 32 ∧ numAt f 0x74 4 = p.pop % 2 ^ 32 ∧ numAt f 0x78 136 = 0

/-- The group whose state a trap saves (08 R251, R256): instructions that wait have had no effect, and the flags of operations whose
lanes are recorded are as if those had ended; one that has met a fault has let go of its flag before. -/
def Claims.atTrap (g : Group) : Group :=
  { g.settle with trap := none,
                  cf := (g.settle.lane.filter fun o => o.faults.isEmpty).foldl (fun (cf : Tbl Nat) o =>
                    if o.flag = 15 then cf else cf.set o.flag (cf.getD o.flag 0 - 1)) g.settle.cf }

/-- 08 R252, R253, R255-R258: taking a trap writes the image and the frame to the save slot, sets TCG and TDX0-TDX2 and, of a group with
a handler, A62 and A61 to the frame's address and the privilege to supervisor, empties the queues, and continues the A-stream at
TVECA and the C-stream at TVECC as one split over the failing lanes, or parked; the other A registers keep their values. Of a group
without a handler the image, the frame and TCG are written, A61, A62 and the privilege keep their values, the launch is marked with
status 3, the event of class 1, code 2 is written, the launch's port has its vector 1, and the group ends. An image or frame
that cannot be written is a double trap with the cause of that access. A trap within a handler writes no frame: the group ends and
the event of a double trap is written. Model's choices: notes/assumptions/36.md. -/
def Obligations.TrapEntry : Prop :=
  Claims.frameLayout ∧
  (∀ (s s1 s2 : State) (gid : Nat) (g : Group) (p : Pending), s.groups.get? gid = some g → g.sys.frame = false →
    writeImage (s.unwait gid) (Claims.atTrap g) = (s1, none) →
    s1.writeVaBlk (s1.lau (Claims.atTrap g)).qd.vf true (some (s1.user (Claims.atTrap g))) (Claims.atTrap g).frameVa
      (frameBytes s1 (Claims.atTrap g) p) = (s2, none) →
    s2.hasHandler (Claims.atTrap g) = true →
    ∃ h, takeTrap s gid p = s2.setG gid h ∧ h.sys.priv = true ∧ h.sys.frame = true ∧ h.trap = none ∧ h.stop = .run ∧
      h.sys.tcg = BitVec.ofNat 32 (p.cause.grp % 32) ∧ h.sys.tdx0 = p.cause.detail.extractLsb' 0 32 ∧
      h.sys.tdx1 = p.cause.detail.extractLsb' 32 32 ∧ h.sys.tdx2 = p.cause.detail.extractLsb' 64 32 ∧
      h.ra 62 = BitVec.ofNat 32 g.frameVa ∧ h.ra 61 = BitVec.ofNat 32 (g.frameVa / 2 ^ 32 % 2 ^ 15) ∧
      (∀ n, n ≠ 61 → n ≠ 62 → h.ra n = g.ra n) ∧ h.q = Queues.empty ∧ h.apc = g.sys.tveca.toNat ∧
      h.cs.splits = [(0, if p.cside then Split.fresh (g.sys.tvecc.toNat % 2 ^ 22) (p.cause.lanes &&& g.cs.alive) .running
        else Split.fresh 0 g.cs.alive .parkedEnd)] ∧
      h.cs.v = g.cs.v ∧ h.cs.c = g.cs.c ∧ h.cs.p = g.cs.p) ∧
  (∀ (s s1 s2 : State) (gid : Nat) (g : Group) (p : Pending), s.groups.get? gid = some g → g.sys.frame = false →
    writeImage (s.unwait gid) (Claims.atTrap g) = (s1, none) →
    s1.writeVaBlk (s1.lau (Claims.atTrap g)).qd.vf true (some (s1.user (Claims.atTrap g))) (Claims.atTrap g).frameVa
      (frameBytes s1 (Claims.atTrap g) p) = (s2, none) →
    s2.hasHandler (Claims.atTrap g) = false →
    ∃ h : Group, h.sys.tcg = BitVec.ofNat 32 (p.cause.grp % 32) ∧ h.a = g.a ∧ h.sys.priv = g.sys.priv ∧ h.who = g.who ∧
      let s3 := (s2.setG gid h).updL g.who.lid fun l => if l.status = 0 then { l with status := 3, cgrp := p.cause.grp } else l
      let l := s3.lau g
      let s4 := s3.colophon 1 2 (quadOf g.who.core) l.qd.vf
        (natLe 4 (p.cause.grp % 32 + 256 * (p.cause.code % 256)) ++ l.tag ++ natLe 4 g.who.lin)
      takeTrap s gid p = (s4.irqL (s4.lau g) 1).endGroup gid) ∧
  (∀ (s s1 : State) (gid : Nat) (g : Group) (p : Pending) (e : AFault), s.groups.get? gid = some g → g.sys.frame = false →
    (writeImage (s.unwait gid) (Claims.atTrap g) = (s1, some e) ∨ ∃ s0, writeImage (s.unwait gid) (Claims.atTrap g) = (s0, none) ∧
      s0.writeVaBlk (s0.lau (Claims.atTrap g)).qd.vf true (some (s0.user (Claims.atTrap g))) (Claims.atTrap g).frameVa
        (frameBytes s0 (Claims.atTrap g) p) = (s1, some e)) →
    takeTrap s gid p = doubleTrap (s1.setG gid (Claims.atTrap g)) gid { p with cause := e.cause' 3 1 0 }) ∧
  (∀ (s : State) (gid : Nat) (g : Group) (p : Pending), s.groups.get? gid = some g → g.sys.frame = true → g.trap = none →
    g.stop ≠ .gone → raise s gid p = ((s.colGroup g 1 (p.cause.grp % 32 + 256 * (p.cause.code % 256))).failLaunch g.who.lid
      p.cause.grp).endGroup gid)

/-! ## Decoding -/

/-- 02 R50-R72 and the spec's own examples: words as the manual writes them, and the instructions that they are. -/
def Obligations.DecodeWords : Prop :=
  let x : BitVec 4 → Ctl := fun ga => { ga, gb := 7, gc := 0, ch := 0, stall := 0, yld := 0, reuse := 0 }
  decodeTableWord 32 0x5C000200 = some (.ldv 0 0 0 0 1 0) ∧
  decodeTableWord 32 0x64008200 = some (.stv 0 0 1 1 0) ∧
  decodeTableWord 32 0x601107FC = some (.ldg 0 0 1 2 3 0x1FC) ∧
  decodeTableWord 32 0xB0001C00 = some .csync ∧
  decodeTableWord 32 0xB0001400 = some .exit ∧
  decodeTableWord 64 0x003422829C48A400 = some (.mxloop 2 10 1 3 8 4 20 0 2) ∧
  decodeTableWord 96 0x030080300300782000EE0000 = some (.ffma 0 0 (.queue 1) (.queue 0) (.konst 0) (.konst 386) (x 7)) ∧
  decodeTableWord 96 0x03020060050277F0004E0000 = some (.ffma 1 0 (.v 3) (.v 1) (.c 4) (.konst 383) (x 2)) ∧
  decodeTableWord 96 0x72000000000480000C2E0000 = some (.brd 9 6 (x 1)) ∧
  decodeTableWord 96 0x9200028023C0780EFEEE0000 =
    some (.trace 0 0 0 (.v 20) (.v 8) (.konst 384) (.konst 384) (.konst 383) (x 7)) ∧
  decodeTableWord 96 0xFF000FF1000000003FC00000 = none

/-- 02 R50-R58: decoding the words that the encoder gives an A-stream instruction gives back that instruction, whatever its operands. -/
def Obligations.AStreamRoundTrip : Prop :=
  ∀ (i : Instr) (w0 w1 : BitVec 32), encodeA i = some (w0, w1) → decodeA w0 w1 = .ok i

/-- 02 R61-R72: decoding the word that the encoder gives a well-formed C-stream instruction gives back that instruction, whatever its
operands, guard and hints. -/
def Obligations.CStreamRoundTrip : Prop :=
  ∀ (i : Instr) (w : BitVec 96), WellFormed i → encodeC i = some w → decodeC w = .ok i

/-! ## Steps of the machine -/

/-- 02 R49, R59, R60, R69, 04 R120: a step runs the instruction that its stream's next word decodes to. On a turn of the A-stream the
word at the A-section base plus the A-PC, with the word after it where it has two; on a turn of a split within a clause the
12 bytes at the C-section base plus 12 times its index; on an agent's turn its event. Around the instruction the time of the turn
passes, with what the Galleys do in it (20 R393), and the step counts the issue cycles. A fetch within a page reads the bytes at the place that the address translates to.
Model's choices: notes/assumptions/1.md, 58.md. -/
def Obligations.StepRunsDecoded : Prop :=
  (∀ (s s1 s2 : State) (g : Group) (b0 b1 : List Byte) (i : Instr),
    let t := s.nextTurn
    let s0 := (t.2.galleyTo t.1.adv).begin t.1
    let va := ((s0.pk g).abase + g.apc) % 2 ^ 64
    let w0 : BitVec 32 := BitVec.ofNat 32 (leNat b0)
    t.1.what = .a → s.haltedAt .a = none → s0.grp? = some g → g.aRuns = true → s0.issues g = true →
    fetchBytes s0 g va 4 = (s1, .ok b0) →
    (aTwoWords w0 = true → fetchBytes s1 g (va + 4) 4 = (s2, .ok b1)) → (aTwoWords w0 = false → s2 = s1 ∧ b1 = []) →
    decodeA w0 (BitVec.ofNat 32 (leNat b1)) = .ok i → step s = counted s2 .a i (exec i s2)) ∧
  (∀ (s s1 : State) (g : Group) (p : Split) (w : BitVec 96) (i : Instr),
    let t := s.nextTurn
    let s0 := (t.2.galleyTo t.1.adv).begin t.1
    t.1.what = .c → s.haltedAt .c = none → s0.grp? = some g → g.cRuns = true → s0.issues g = true →
    g.cs.sp s0.cur.split = some p → p.st = .running → p.cmp = false → p.slot ≠ 0 → p.cnt ≠ 0 →
    fetchC s0 g p.idx = (s1, .ok w) → decodeC w = .ok i → step s = counted s1 .c i (exec i s1)) ∧
  (∀ (s : State) (i : Instr),
    let t := s.nextTurn
    t.1.what = .ev i → s.haltedAt (.ev i) = none → Instr.isEvent i = true →
    let s0 := (t.2.galleyTo t.1.adv).begin t.1
    step s = counted s0 (.ev i) i (exec i s0)) ∧
  (∀ (s s1 : State) (g : Group) (va n : Nat) (l : Loc), 0 < n → va % 2 ^ 14 + n ≤ 2 ^ 14 →
    globalAt s (s.lau g).qd.vf g.sys.priv (g.agent { code := 4 }) 3 va = (s1, .ok l) →
    fetchBytes s g va n = (s1, .ok ((s1.memOf l.space).bytes l.key n)))

/-- The invariant of the machine: every memory holds its canonical form, and the groups stand in order, each under its own name. -/
def Claims.inv (s : State) : Prop := s.memoriesWf ∧ Claims.named s

/-- 01 R35, 15 R379, 10 R298, 14 R364, 15 R384: the machine right after reset: TIME 0, nothing resident, the semaphore free, an empty
frame pool, the power cap of 380 W, the safe sets of R364, no event kept; and the invariant holds. (BOOTSTAT 1 is step 1 of 15 R385.)
Model's choices: notes/assumptions/5.md. -/
def Obligations.ResetState : Prop :=
  let s := State.reset
  s.time = 0 ∧ s.groups = [] ∧ s.launches = [] ∧ s.sessions = [] ∧ s.regs.sem = 0 ∧ s.regs.fpcount = 0 ∧ s.regs.pwrcap = 0 ∧
    s.regs.capdeny = false ∧ s.regs.boot = 1 ∧ s.regs.safeset = [0x333333, 0xCCCCCC] ∧ s.rely.events = [] ∧ Claims.inv s

/-- 09 R278: every step keeps the invariant: from any state whose memories hold their canonical form and whose groups stand in order
under their names, whatever the turn, a step that answers a next state answers one of the same kind. -/
def Obligations.StepKeepsInvariant : Prop :=
  ∀ s t : State, Claims.inv s → step s = .next t → Claims.inv t

/-- 01 R35: TIME never runs backwards: no step takes it back but a device reset. Model's choices: notes/assumptions/1.md. -/
def Obligations.TimeNeverRunsBack : Prop :=
  ∀ s t : State, step s = .next t → s.nextTurn.1.what ≠ .ev .deviceReset → s.time ≤ t.time

/-- No step is refused, and a step stops with a fault only as its name says: after a thermal trip (15 R384), after a boot that has
halted (15 R385), or at an address that no memory stands at (00 R4): an access of translated memory meets one only at or past the end
of usable device memory, an entry that names an address before it gives that place, and a fetch that meets one stops the machine there.
Model's choices: notes/assumptions/52.md, 62.md. -/
def Obligations.StopsOnlyByName : Prop :=
  (∀ s : State, (∀ r, step s ≠ .refused r) ∧
    (step s = .fault .thermallyStopped → s.rely.stopped = true) ∧
    (step s = .fault .bootHalted → 16 ≤ s.regs.boot ∧ s.rely.stopped = false) ∧
    (s.rely.stopped = true → s.nextTurn.1.what ≠ .ev .deviceReset → step s = .fault .thermallyStopped)) ∧
  (∀ (s t : State) (v acc va a : Nat) (sup : Bool) (ag : Agent), globalAt s v sup ag acc va = (t, .error (.hole a)) → usable ≤ a) ∧
  (∀ (p : BitVec 64) (level va : Nat), pteTgt p = 0 →
    let a := ptePa p + if level = 2 then va % 2 ^ 25 else va % 2 ^ 14
    (a < usable → pteWhere p level va = .at_ { space := .dev, addr := a, cls := p.toNat / 64 % 4 }) ∧
    (usable ≤ a → pteWhere p level va = .hole a)) ∧
  (∀ (s s1 : State) (g : Group) (a : Nat),
    let t := s.nextTurn
    let s0 := (t.2.galleyTo t.1.adv).begin t.1
    t.1.what = .a → s.haltedAt .a = none → s0.grp? = some g → g.aRuns = true → s0.issues g = true →
    fetchBytes s0 g (((s0.pk g).abase + g.apc) % 2 ^ 64) 4 = (s1, .error (.hole a)) → step s = .fault (.noSuchAddress a))

/-! ## The display -/

/-- 14 R361, R364: layers 0 to 7 are composed over opaque black by source-over, per 8-bit channel s + RoundHalfEven((255 - α)·d / 255),
saturating at 255; a pixel outside a layer's rectangle takes nothing from it; a QM layer shows buffer 0, another the buffer proved
for the frame, buffer 1 at BDELTA, or the Stereotype's substitute. Model's choices: notes/assumptions/54.md (where the substitute stands
and how it is composed) and 56.md (a layer with no decision for the frame). -/
def Obligations.CompositionRule : Prop :=
  (∀ a b c : Nat, a ≤ 255 → b ≤ 255 → c ≤ 255 →
    ∃ q : Nat, 2 * ((255 * q : Int) - ((255 - b) * c : Nat)).natAbs < 255 ∧ overChan a b c = min 255 (a + q)) ∧
  (∀ (src dst : Word) (c : Nat), c < 4 →
    chan (sourceOver src dst) c = overChan (chan src c) (chan src 3) (chan dst c)) ∧
  (∀ (s : State) (x : Surf) (frame : Nat) (px py : Int),
    s.composed x frame px py = (List.range 8).foldl (fun (w : Word) i =>
      ((s.layerPixel x frame i px py).map fun p => sourceOver p w).getD w) 0xFF000000 ∧
    ∀ i : Nat,
      let l := surfLayer x.desc i
      let inside := l.x ≤ px ∧ l.y ≤ py ∧ px < l.x + l.w ∧ py < l.y + l.h
      let word := fun (base : Nat) => s.ownerWord (surfHdr x.desc).vf (base + l.pitch * (py - l.y).toNat + 4 * (px - l.x).toNat)
      (¬(l.en = true ∧ inside) → s.layerPixel x frame i px py = none) ∧
      (l.en = true → inside → l.ilvl = 0 → s.layerPixel x frame i px py = some (word l.base)) ∧
      (l.en = true → inside → l.ilvl ≠ 0 →
        (x.proofs.get? (8 * frame + i) = some (.proved 0) → s.layerPixel x frame i px py = some (word l.base)) ∧
        (x.proofs.get? (8 * frame + i) = some (.proved 1) →
          s.layerPixel x frame i px py = some (word (addDelta l.base l.bdelta))) ∧
        ((∀ b, x.proofs.get? (8 * frame + i) ≠ some (.proved b)) →
          s.layerPixel x frame i px py = some (s.stereoPixel l.profile (px - l.x) (py - l.y)))))
end

