-- ==== Sys2Proof/Laws/Mem.lean ====
section
/-! SUPPORT. Every operation on a memory keeps its canonical form, and every operation that writes a place of the machine keeps the
canonical forms of all its memories. -/

namespace Sys2Proof.Machine

/-- The canonical form in terms of the list: addresses strictly rising, no byte the unlisted one. -/
theorem Memory.wf_iff (m : Memory) :
    m.wf = true ↔ m.Pairwise (fun a b => a.1 < b.1) ∧ ∀ e ∈ m, e.2 ≠ Memory.unlisted := by
  induction m with
  | nil => simp [Memory.wf]
  | cons e r ih =>
    cases r with
    | nil => simp [Memory.wf]
    | cons f t =>
      rw [Memory.wf]
      simp only [Bool.and_eq_true, bne_iff_ne, ne_eq, decide_eq_true_eq, ih, List.pairwise_cons, List.mem_cons]
      constructor
      · rintro ⟨⟨h1, h2⟩, ⟨h3, h4⟩, h5⟩
        refine ⟨⟨?_, h3, h4⟩, ?_⟩
        · rintro a (rfl | h)
          · exact h2
          · exact Nat.lt_trans h2 (h3 a h)
        · rintro a (rfl | h)
          · exact h1
          · exact h5 a h
      · rintro ⟨⟨h1, h2, h3⟩, h4⟩
        exact ⟨⟨h4 e (.inl rfl), h1 f (.inl rfl)⟩, ⟨h2, h3⟩, fun a h => h4 a (.inr h)⟩

/-- A part of a memory in canonical form is in canonical form. -/
theorem Memory.wf_of_sublist {m m' : Memory} (h : m'.Sublist m) (hm : m.wf = true) : m'.wf = true := by
  rw [Memory.wf_iff] at *
  exact ⟨hm.1.sublist h, fun e he => hm.2 e (h.subset he)⟩

theorem Memory.wf_clear {m : Memory} (a n : Nat) (hm : m.wf = true) : (m.clear a n).wf = true :=
  Memory.wf_of_sublist List.filter_sublist hm

theorem Memory.wf_below {m : Memory} (a : Nat) (hm : m.wf = true) : (m.below a).wf = true :=
  Memory.wf_of_sublist (List.takeWhile_sublist _) hm

theorem Memory.wf_from {m : Memory} (a : Nat) (hm : m.wf = true) : (m.from a).wf = true :=
  Memory.wf_of_sublist (List.dropWhile_sublist _) hm

/-- The cells of a memory in canonical form from an address on lie at or above it. -/
theorem Memory.from_ge {m : Memory} (a : Nat) (hm : m.wf = true) : ∀ e ∈ m.from a, a ≤ e.1 := by
  induction m with
  | nil => simp [Memory.from]
  | cons x r ih =>
    have hw := (Memory.wf_iff _).1 hm
    rw [List.pairwise_cons] at hw
    have hr : Memory.wf r = true := Memory.wf_of_sublist (List.sublist_cons_self x r) hm
    intro e he
    simp only [Memory.from, List.dropWhile_cons] at he
    split at he
    · exact ih hr e he
    · next h =>
      simp only [decide_eq_true_eq, Nat.not_lt] at h
      rcases List.mem_cons.1 he with rfl | he
      · exact h
      · exact Nat.le_trans h (Nat.le_of_lt (hw.1.1 e he))

theorem Memory.below_lt {m : Memory} (a : Nat) : ∀ e ∈ m.below a, e.1 < a := by
  intro e he
  have h := List.all_takeWhile (p := fun e : Host.Cell => decide (e.1 < a)) (l := m)
  exact of_decide_eq_true (List.all_eq_true.1 h e he)

/-- What a cell in front of others must satisfy for the whole to be canonical. -/
theorem Memory.wf_consCell {a : Nat} {b : Byte} {m : Memory} (hm : m.wf = true) (h : ∀ e ∈ m, a < e.1) :
    (consCell a b m).wf = true := by
  unfold consCell
  split
  · exact hm
  · next hb =>
    rw [Memory.wf_iff] at *
    refine ⟨List.pairwise_cons.2 ⟨h, hm.1⟩, ?_⟩
    intro e he
    rcases List.mem_cons.1 he with rfl | he
    · exact hb
    · exact hm.2 e he

theorem dropAt_sublist (a : Nat) (m : Memory) : (dropAt a m).Sublist m := by
  cases m with
  | nil => simp [dropAt]
  | cons e t => obtain ⟨k, b⟩ := e; simp only [dropAt]; split <;> simp

/-- Without its first cell at `a`, a memory whose cells lie at or above `a` has them above. -/
theorem dropAt_gt {a : Nat} {m : Memory} (hm : m.wf = true) (h : ∀ e ∈ m, a ≤ e.1) : ∀ e ∈ dropAt a m, a + 1 ≤ e.1 := by
  cases m with
  | nil => simp [dropAt]
  | cons x t =>
    obtain ⟨k, b⟩ := x
    have hw := ((Memory.wf_iff _).1 hm).1
    rw [List.pairwise_cons] at hw
    have hk := h (k, b) (List.mem_cons_self ..)
    simp only at hk
    intro e he
    simp only [dropAt] at he
    split at he
    · next heq => have := hw.1 e he; simp only at this; omega
    · next hne =>
      rcases List.mem_cons.1 he with rfl | he
      · simp only; omega
      · have := hw.1 e he; simp only at this; omega

/-- A block write in front of cells at or above its address: canonical, with its cells at or above the address. -/
theorem wf_writeBlk (bs : List Byte) (a : Nat) (m : Memory) (hm : m.wf = true) (h : ∀ e ∈ m, a ≤ e.1) :
    (writeBlk bs a m).wf = true ∧ ∀ e ∈ writeBlk bs a m, a ≤ e.1 := by
  induction bs generalizing a m with
  | nil => exact ⟨hm, h⟩
  | cons b r ih =>
    have hd := ih (a + 1) (dropAt a m) (Memory.wf_of_sublist (dropAt_sublist a m) hm) (dropAt_gt hm h)
    refine ⟨Memory.wf_consCell hd.1 fun e he => hd.2 e he, ?_⟩
    intro e he
    simp only [writeBlk, consCell] at he
    split at he
    · exact Nat.le_trans (Nat.le_succ a) (hd.2 e he)
    · rcases List.mem_cons.1 he with rfl | he
      · exact Nat.le_refl _
      · exact Nat.le_trans (Nat.le_succ a) (hd.2 e he)

theorem Memory.wf_append {m n : Memory} (hm : m.wf = true) (hn : n.wf = true) (h : ∀ x ∈ m, ∀ y ∈ n, x.1 < y.1) :
    Memory.wf (m ++ n) = true := by
  rw [Memory.wf_iff] at *
  refine ⟨List.pairwise_append.2 ⟨hm.1, hn.1, h⟩, ?_⟩
  intro e he
  rcases List.mem_append.1 he with he | he
  · exact hm.2 e he
  · exact hn.2 e he

theorem Memory.wf_setBytes {m : Memory} (a : Nat) (bs : List Byte) (hm : m.wf = true) : (m.setBytes a bs).wf = true := by
  have h := wf_writeBlk bs a (m.from a) (Memory.wf_from a hm) (Memory.from_ge a hm)
  exact Memory.wf_append (Memory.wf_below a hm) h.1 fun x hx y hy =>
    Nat.lt_of_lt_of_le (Memory.below_lt a x hx) (h.2 y hy)

theorem Memory.wf_nil : Memory.wf [] = true := rfl

/-- A member of a table after a key has been set: the new entry, or an entry of the table. -/
theorem Tbl.mem_set {α : Type} (t : Tbl α) (n : Nat) (x : α) : ∀ e ∈ t.set n x, e = (n, x) ∨ e ∈ t := by
  induction t with
  | nil => intro e he; simp [Tbl.set] at he; exact .inl he
  | cons y r ih =>
    obtain ⟨k, v⟩ := y
    intro e he
    unfold Tbl.set at he
    split at he
    · rcases List.mem_cons.1 he with rfl | he
      · exact .inl rfl
      · exact .inr (List.mem_cons_of_mem _ he)
    · split at he
      · rcases List.mem_cons.1 he with rfl | he
        · exact .inl rfl
        · exact .inr he
      · rcases List.mem_cons.1 he with rfl | he
        · exact .inr (List.mem_cons_self ..)
        · rcases ih e he with h | h
          · exact .inl h
          · exact .inr (List.mem_cons_of_mem _ h)

theorem Tbl.get?_mem {α : Type} {t : Tbl α} {n : Nat} {x : α} (h : t.get? n = some x) : (n, x) ∈ t := by
  induction t with
  | nil => simp [Tbl.get?] at h
  | cons y r ih =>
    obtain ⟨k, v⟩ := y
    unfold Tbl.get? at h
    split at h
    · next hk => subst hk; simp_all
    · split at h
      · simp at h
      · exact List.mem_cons_of_mem _ (ih h)

/-- A member of a table after one key has been changed: an entry of the table, or the changed one. -/
theorem Tbl.mem_upd {α : Type} (t : Tbl α) (n : Nat) (f : α → α) :
    ∀ e ∈ t.upd n f, e ∈ t ∨ ∃ x, (n, x) ∈ t ∧ e = (n, f x) := by
  intro e he
  unfold Tbl.upd at he
  split at he
  · next x hx =>
    rcases Tbl.mem_set t n (f x) e he with rfl | h
    · exact .inr ⟨x, Tbl.get?_mem hx, rfl⟩
    · exact .inl h
  · exact .inl he

/-- A memory of the machine in canonical form. -/
theorem State.memOf_wf {s : State} (h : s.memoriesWf) (sp : Space) : (s.memOf sp).wf = true := by
  obtain ⟨h1, h2, h3, h4, h5, h6, h7, h8⟩ := h
  unfold State.memOf
  split
  · exact h1
  · exact h2
  · exact h3
  · exact h4
  · exact h5
  · next c =>
    cases hc : s.clusters.get? c with
    | none => rfl
    | some x => exact h6 (c, x) (Tbl.get?_mem hc)
  · next t =>
    cases hc : s.teams.get? t with
    | none => rfl
    | some x => exact h7 (t, x) (Tbl.get?_mem hc)
  · next g _ =>
    cases hc : s.groups.get? g with
    | none => rfl
    | some x => exact h8 (g, x) (Tbl.get?_mem hc)

/-- Replacing the memory of a space by one in canonical form keeps the forms. -/
theorem State.wf_setMem {s : State} (h : s.memoriesWf) (sp : Space) {m : Memory} (hm : m.wf = true) : (s.setMem sp m).memoriesWf := by
  obtain ⟨h1, h2, h3, h4, h5, h6, h7, h8⟩ := h
  unfold State.setMem
  split
  · exact ⟨hm, h2, h3, h4, h5, h6, h7, h8⟩
  · exact ⟨h1, hm, h3, h4, h5, h6, h7, h8⟩
  · exact ⟨h1, h2, hm, h4, h5, h6, h7, h8⟩
  · exact ⟨h1, h2, h3, hm, h5, h6, h7, h8⟩
  · exact ⟨h1, h2, h3, h4, hm, h6, h7, h8⟩
  · refine ⟨h1, h2, h3, h4, h5, fun c hc => ?_, h7, h8⟩
    rcases Tbl.mem_upd _ _ _ c hc with hc | ⟨x, _, rfl⟩
    · exact h6 c hc
    · exact hm
  · refine ⟨h1, h2, h3, h4, h5, h6, fun c hc => ?_, h8⟩
    rcases Tbl.mem_upd _ _ _ c hc with hc | ⟨x, _, rfl⟩
    · exact h7 c hc
    · exact hm
  · refine ⟨h1, h2, h3, h4, h5, h6, h7, fun c hc => ?_⟩
    rcases Tbl.mem_upd _ _ _ c hc with hc | ⟨x, _, rfl⟩
    · exact h8 c hc
    · exact hm

theorem State.wf_writeLoc {s : State} (h : s.memoriesWf) (x : Loc) (n v : Nat) : (s.writeLoc x n v).memoriesWf :=
  State.wf_setMem h _ (Memory.wf_setBytes _ _ (State.memOf_wf h _))

theorem State.wf_writeBytes {s : State} (h : s.memoriesWf) (x : Loc) (bs : List Byte) : (s.writeBytes x bs).memoriesWf :=
  State.wf_setMem h _ (Memory.wf_setBytes _ _ (State.memOf_wf h _))

/-- A group put in the machine keeps the forms when its slices hold theirs. -/
theorem State.wf_setG {s : State} (h : s.memoriesWf) (gid : Nat) {g : Group} (hg : g.slices.wf = true) : (s.setG gid g).memoriesWf := by
  obtain ⟨h1, h2, h3, h4, h5, h6, h7, h8⟩ := h
  refine ⟨h1, h2, h3, h4, h5, h6, h7, fun c hc => ?_⟩
  rcases Tbl.mem_set _ _ _ c hc with rfl | hc
  · exact hg
  · exact h8 c hc

theorem State.wf_putG {s : State} (h : s.memoriesWf) {g : Group} (hg : g.slices.wf = true) : (s.putG g).memoriesWf :=
  State.wf_setG h s.cur.gid hg

/-- A change of a group that leaves its slices keeps the forms. -/
theorem State.wf_updGroups {s : State} (h : s.memoriesWf) (gid : Nat) (f : Group → Group) (hf : ∀ g, (f g).slices = g.slices) :
    ({ s with groups := s.groups.upd gid f } : State).memoriesWf := by
  obtain ⟨h1, h2, h3, h4, h5, h6, h7, h8⟩ := h
  refine ⟨h1, h2, h3, h4, h5, h6, h7, fun c hc => ?_⟩
  rcases Tbl.mem_upd _ _ _ c hc with hc | ⟨x, hx, rfl⟩
  · exact h8 c hc
  · rw [show ((gid, f x).2).slices = (f x).slices from rfl, hf]
    exact h8 (gid, x) hx

theorem State.wf_updG {s : State} (h : s.memoriesWf) (f : Group → Group) (hf : ∀ g, (f g).slices = g.slices) :
    (s.updG f).memoriesWf := State.wf_updGroups h s.cur.gid f hf

/-- The slices of a group of the machine hold their canonical form. -/
theorem State.slices_wf {s : State} (h : s.memoriesWf) {gid : Nat} {g : Group} (hg : s.groups.get? gid = some g) :
    g.slices.wf = true := h.2.2.2.2.2.2.2 (gid, g) (Tbl.get?_mem hg)

end Sys2Proof.Machine
end

