-- ==== Sys2Proof/Laws/Caches.lean ====
section
/-! SUPPORT. What the caches and the writes of agents can change: the L2 its lines and the traffic of launches, the L1 its lines, a write the
memory of its place; and the layouts of near memory, which name every byte once. -/

namespace Sys2Proof.Machine

/-! ## Layouts -/

/-- No two offsets of cluster memory lie at one place of one core (09 R272): the flat numbering of a cluster's bytes loses none. -/
theorem cluHome_inj {n o p : Nat} (h : cluHome n o = cluHome n p) : o = p := by
  simp only [cluHome, Prod.mk.injEq, ← Nat.div_div_eq_div_mul] at h
  have ho := Nat.div_add_mod (o / 256) n
  have hp := Nat.div_add_mod (p / 256) n
  have hq : o / 256 / n = p / 256 / n ∧ o % 256 = p % 256 := by omega
  rw [hq.1, h.1] at ho
  omega

/-- Every granule spans all 32 slices (09 R272). -/
theorem chipSlice_granule (g k : Nat) (hk : k < 32) : ∃ b, 65536 * g ≤ b ∧ b < 65536 * (g + 1) ∧ chipSlice b = k :=
  ⟨65536 * g + 256 * k, by omega, by omega, by unfold chipSlice; omega⟩

/-! ## Lines -/

/-- A write back changes nothing but what launches have moved. -/
theorem State.writeBacks_launches (ls : List L2Line) (s : State) :
    ∃ t, ls.foldl (fun (s : State) y => s.writeBack y) s = { s with launches := t } := by
  induction ls generalizing s with
  | nil => exact ⟨_, rfl⟩
  | cons y r ih =>
    obtain ⟨t, ht⟩ := ih (s.writeBack y)
    refine ⟨t, ?_⟩
    rw [List.foldl_cons, ht]
    unfold State.writeBack
    split <;> rfl

/-- An access to a line of the L2 changes nothing but lines and what launches have moved. -/
theorem State.useLine_keeps (s : State) (u : User) (cls pa n : Nat) (w : Bool) :
    ∃ r t, s.useLine u cls pa n w = { s with rely := r, launches := t } := by
  unfold State.useLine
  split
  · exact ⟨_, _, rfl⟩
  · simp only
    split
    · exact ⟨_, _, rfl⟩
    · split
      · exact ⟨_, _, rfl⟩
      · obtain ⟨t, ht⟩ := State.writeBacks_launches _ s
        rw [ht]
        split <;> exact ⟨_, _, rfl⟩

theorem useLines_keeps (u : User) (w : Bool) (k : Nat) (l : Loc) (n : Nat) (s : State) :
    ∃ r t, useLines u w k l n s = { s with rely := r, launches := t } := by
  induction k generalizing l n s with
  | zero => exact ⟨_, _, rfl⟩
  | succ k ih =>
    unfold useLines
    split
    · exact ⟨_, _, rfl⟩
    · obtain ⟨r, t, h⟩ := State.useLine_keeps s u l.cls l.addr (min n (64 - l.addr % 64)) w
      obtain ⟨r', t', h'⟩ := ih (l.add (min n (64 - l.addr % 64))) (n - min n (64 - l.addr % 64)) { s with rely := r, launches := t }
      exact ⟨r', t', by simp only [h]; exact h'⟩

theorem State.useL2_keeps (s : State) (u : User) (l : Loc) (n : Nat) (w : Bool) :
    ∃ r t, s.useL2 u l n w = { s with rely := r, launches := t } := by
  unfold State.useL2
  split
  · exact useLines_keeps u w _ l n s
  · exact ⟨_, _, rfl⟩

/-- What an agent's write does to its core's L1 changes nothing but lines. -/
theorem State.l1Write_keeps (s : State) (core : Nat) (l : Loc) (bs : List Byte) : ∃ r, s.l1Write core l bs = { s with rely := r } := by
  unfold State.l1Write
  split
  · exact ⟨_, rfl⟩
  · have h : ∀ (ks : List Nat) (x : State × Loc × List Byte), ∃ r, (ks.foldl (fun (x : State × Loc × List Byte) _ =>
        let n := 64 - x.2.1.addr % 64
        (x.1.updL1 core x.2.1 (x.2.2.take n), x.2.1.add n, x.2.2.drop n)) x).1 = { x.1 with rely := r } := by
      intro ks
      induction ks with
      | nil => exact fun x => ⟨_, rfl⟩
      | cons k ks ih => exact fun x => (ih _).imp fun r h => h
    exact h _ _

/-! ## Writes keep the canonical forms -/

/-- The canonical forms rest on the memories alone. -/
theorem State.wf_keeps {s : State} (h : s.memoriesWf) (r : Rely) (t : Tbl Launch) : ({ s with rely := r, launches := t } : State).memoriesWf := h

theorem State.wf_putBytes {s : State} (h : s.memoriesWf) (x : Loc) (bs : List Byte) : (s.putBytes x bs).memoriesWf :=
  State.wf_setMem h _ (Memory.wf_setBytes _ _ (State.memOf_wf h _))

theorem State.wf_zeroFill {s : State} (h : s.memoriesWf) (x : Loc) (n : Nat) : (s.zeroFill x n).memoriesWf :=
  State.wf_setMem h _ (Memory.wf_clear _ _ (State.memOf_wf h _))

theorem State.wf_agentWrite {s : State} (h : s.memoriesWf) (agent : Nat) (l : Loc) (bs : List Byte) :
    (s.agentWrite agent l bs).memoriesWf := by
  unfold State.agentWrite
  split
  · exact State.wf_putBytes (s := s.see agent (s.unseen agent l bs.length)) h l bs
  · exact State.wf_putBytes h l bs

theorem State.wf_markUsed {s : State} (h : s.memoriesWf) (a : Nat) (p : BitVec 64) (acc : Nat) : (s.markUsed a p acc).memoriesWf := by
  unfold State.markUsed
  dsimp only
  (repeat' split) <;> first | exact h | exact State.wf_writeLoc h _ _ _

theorem State.wf_dirtied {s : State} (h : s.memoriesWf) (l : Loc) : (s.dirtied l).memoriesWf := by
  unfold State.dirtied
  split
  · exact h
  split
  · split
    · split
      · exact State.wf_markUsed h _ _ _
      · exact h
    · exact h
  · exact h

/-- A thread's write, and an engine's, keep the canonical forms. -/
theorem State.wf_writeThrough {s : State} (h : s.memoriesWf) (u : User) (l : Loc) (bs : List Byte) :
    (s.writeThrough u l bs).memoriesWf := by
  obtain ⟨r, hr⟩ := (s.dirtied l).l1Write_keeps u.core l bs
  obtain ⟨r', t, ht⟩ := State.useL2_keeps { s.dirtied l with rely := r } u l bs.length true
  have hd := State.wf_keeps (State.wf_dirtied h l) r' t
  unfold State.writeThrough
  simp only [hr, ht]
  split
  · exact hd
  · exact State.wf_agentWrite hd u.agent l bs

theorem State.wf_engineWrite {s : State} (h : s.memoriesWf) (u : User) (l : Loc) (bs : List Byte) :
    (s.engineWrite u l bs).memoriesWf := by
  obtain ⟨r, hr⟩ := (s.dirtied l).l1Write_keeps u.core l bs
  obtain ⟨r', t, ht⟩ := State.useL2_keeps { s.dirtied l with rely := r } u l bs.length true
  have hd := State.wf_keeps (State.wf_dirtied h l) r' t
  unfold State.engineWrite
  simp only [hr, ht]
  split
  · exact hd
  split
  · exact State.wf_agentWrite hd u.agent l bs
  · exact State.wf_writeBytes hd l bs

end Sys2Proof.Machine
end

