-- ==== Sys2Proof/Laws/Decode.lean ====
section
/-! SUPPORT. Taking a field out of a word that is written as its fields one after the other, and the operand fields of a C word: what
decoding needs to give back what the encoder was given. -/

namespace Sys2Proof

/-- A field above the low part of a word lies in the high part. -/
theorem extract_high {m n k w : Nat} (x : BitVec m) (y : BitVec n) (h : n ≤ k) :
    (x ++ y).extractLsb' k w = x.extractLsb' (k - n) w := by
  ext i hi
  simp only [BitVec.getElem_extractLsb', BitVec.getLsbD_append]
  rw [if_neg (by omega)]
  congr 1
  omega

/-- A field within the low part of a word lies in the low part. -/
theorem extract_low {m n k w : Nat} (x : BitVec m) (y : BitVec n) (h : k + w ≤ n) : (x ++ y).extractLsb' k w = y.extractLsb' k w := by
  ext i hi
  simp only [BitVec.getElem_extractLsb', BitVec.getLsbD_append]
  rw [if_pos (by omega)]

/-- A field that is all of a word. -/
theorem extract_all {m : Nat} (x : BitVec m) : x.extractLsb' 0 m = x := by
  ext i hi
  simp

/-- A field of a field. -/
theorem extract_extract {m j v k w : Nat} (x : BitVec m) (h : k + w ≤ v) :
    (x.extractLsb' j v).extractLsb' k w = x.extractLsb' (j + k) w := by
  ext i hi
  simp only [BitVec.getElem_extractLsb', BitVec.getLsbD_extractLsb', Nat.add_assoc]
  rw [decide_eq_true (by omega), Bool.true_and]

/-- A source operand from its two fields. -/
theorem Src.dec_enc (s : Src) : Src.dec (s.enc.extractLsb' 9 2) (s.enc.extractLsb' 0 9) = s := by
  cases s <;> simp (disch := omega) only [Src.enc, extract_high, extract_low, Nat.sub_self, extract_all] <;> rfl

/-- A destination from its two fields. -/
theorem Dst.dec_enc (d : Dst) : Dst.dec (d.enc.extractLsb' 9 2) (d.enc.extractLsb' 0 9) = d := by
  cases d <;> simp (disch := omega) only [Dst.enc, extract_high, extract_low, Nat.sub_self, extract_all] <;> rfl

/-- The guard and hints of a word from its fields. -/
theorem Ctl.dec_cWord (op mod : BitVec 8) (d s1 s2 s3 s4 : BitVec 11) (x : Ctl) (xf : BitVec 6) :
    Ctl.dec (cWord op mod d s1 s2 s3 s4 x xf) = x := by
  simp (disch := omega) only [Ctl.dec, cWord, Ctl.enc, extract_high, extract_low, Nat.reduceSub, Nat.sub_self, extract_all]

theorem Ctl.dec_flowWord (op : BitVec 8) (join target : BitVec 22) (x : Ctl) : Ctl.dec (flowWord op join target x) = x := by
  simp (disch := omega) only [Ctl.dec, flowWord, Ctl.enc, extract_high, extract_low, Nat.reduceSub, Nat.sub_self, extract_all]

/-- The operand fields of a C word. -/
theorem cWord_fields (op mod : BitVec 8) (d s1 s2 s3 s4 : BitVec 11) (x : Ctl) (xf : BitVec 6) :
    let w := cWord op mod d s1 s2 s3 s4 x xf
    w.extractLsb' 88 8 = op ∧ w.extractLsb' 80 8 = mod ∧ w.extractLsb' 69 11 = d ∧ w.extractLsb' 58 11 = s1 ∧
      w.extractLsb' 47 11 = s2 ∧ w.extractLsb' 36 11 = s3 ∧ w.extractLsb' 25 11 = s4 ∧ w.extractLsb' 0 6 = xf := by
  refine ⟨?_, ?_, ?_, ?_, ?_, ?_, ?_, ?_⟩ <;>
    simp (disch := omega) only [cWord, extract_high, extract_low, Nat.reduceSub, Nat.sub_self, extract_all]

end Sys2Proof
end

