-- ==== Sys2Proof/Laws/Table.lean ====
section
/-! SUPPORT. Lemmas on tables by key: reading after setting, and setting twice. -/

namespace Sys2Proof.Machine

@[simp] theorem Tbl.get?_set_same {α : Type} (t : Tbl α) (n : Nat) (x : α) : (t.set n x).get? n = some x := by
  induction t with
  | nil => simp [Tbl.set, Tbl.get?]
  | cons e r ih => unfold Tbl.set; split_ifs <;> simp_all [Tbl.get?]

theorem Tbl.get?_set_ne {α : Type} (t : Tbl α) {n m : Nat} (x : α) (h : m ≠ n) : (t.set n x).get? m = t.get? m := by
  induction t with
  | nil => simp [Tbl.set, Tbl.get?, h]
  | cons e r ih =>
    obtain ⟨k, v⟩ := e
    simp only [Tbl.set]
    split_ifs with h1 h2
    · subst h1; simp [Tbl.get?, h]
    · simp only [Tbl.get?]; split_ifs <;> first | rfl | omega
    · simp only [Tbl.get?, ih]

@[simp] theorem Tbl.set_set_same {α : Type} (t : Tbl α) (n : Nat) (x y : α) : (t.set n x).set n y = t.set n y := by
  induction t with
  | nil => simp [Tbl.set]
  | cons e r ih =>
    obtain ⟨k, v⟩ := e
    simp only [Tbl.set]
    split_ifs with h1 h2 <;> simp_all [Tbl.set]

@[simp] theorem Tbl.getD_set_same {α : Type} (t : Tbl α) (n : Nat) (x d : α) : (t.set n x).getD n d = x := by
  simp [Tbl.getD]

theorem Tbl.getD_set_ne {α : Type} (t : Tbl α) {n m : Nat} (x d : α) (h : m ≠ n) :
    (t.set n x).getD m d = t.getD m d := by
  simp [Tbl.getD, Tbl.get?_set_ne t x h]

theorem Tbl.upd_of_get? {α : Type} (t : Tbl α) {n : Nat} {v : α} (f : α → α) (h : t.get? n = some v) :
    t.upd n f = t.set n (f v) := by
  simp [Tbl.upd, h]

@[simp] theorem Tbl.upd_set_same {α : Type} (t : Tbl α) (n : Nat) (x : α) (f : α → α) :
    (t.set n x).upd n f = t.set n (f x) := by
  simp [Tbl.upd]

end Sys2Proof.Machine
end

