-- ==== Sys2Proof/Laws/State.lean ====
section
/-! SUPPORT. What each named update of the state, of a group and of its C side leaves of every field. -/

namespace Sys2Proof.Machine

@[simp] theorem State.putG_dev (s : State) (g : Group) : (s.putG g).dev = s.dev := rfl
@[simp] theorem State.putG_host0 (s : State) (g : Group) : (s.putG g).host0 = s.host0 := rfl
@[simp] theorem State.putG_host1 (s : State) (g : Group) : (s.putG g).host1 = s.host1 := rfl
@[simp] theorem State.putG_peer (s : State) (g : Group) : (s.putG g).peer = s.peer := rfl
@[simp] theorem State.putG_chip (s : State) (g : Group) : (s.putG g).chip = s.chip := rfl
@[simp] theorem State.putG_late (s : State) (g : Group) : (s.putG g).late = s.late := rfl
@[simp] theorem State.putG_watch (s : State) (g : Group) : (s.putG g).watch = s.watch := rfl
@[simp] theorem State.putG_teams (s : State) (g : Group) : (s.putG g).teams = s.teams := rfl
@[simp] theorem State.putG_clusters (s : State) (g : Group) : (s.putG g).clusters = s.clusters := rfl
@[simp] theorem State.putG_launches (s : State) (g : Group) : (s.putG g).launches = s.launches := rfl
@[simp] theorem State.putG_queues (s : State) (g : Group) : (s.putG g).queues = s.queues := rfl
@[simp] theorem State.putG_lastMapped (s : State) (g : Group) : (s.putG g).lastMapped = s.lastMapped := rfl
@[simp] theorem State.putG_eng (s : State) (g : Group) : (s.putG g).eng = s.eng := rfl
@[simp] theorem State.putG_sessions (s : State) (g : Group) : (s.putG g).sessions = s.sessions := rfl
@[simp] theorem State.putG_binds (s : State) (g : Group) : (s.putG g).binds = s.binds := rfl
@[simp] theorem State.putG_surge (s : State) (g : Group) : (s.putG g).surge = s.surge := rfl
@[simp] theorem State.putG_quads (s : State) (g : Group) : (s.putG g).quads = s.quads := rfl
@[simp] theorem State.putG_vfs (s : State) (g : Group) : (s.putG g).vfs = s.vfs := rfl
@[simp] theorem State.putG_tlb (s : State) (g : Group) : (s.putG g).tlb = s.tlb := rfl
@[simp] theorem State.putG_prq (s : State) (g : Group) : (s.putG g).prq = s.prq := rfl
@[simp] theorem State.putG_frames (s : State) (g : Group) : (s.putG g).frames = s.frames := rfl
@[simp] theorem State.putG_reclaim (s : State) (g : Group) : (s.putG g).reclaim = s.reclaim := rfl
@[simp] theorem State.putG_galley (s : State) (g : Group) : (s.putG g).galley = s.galley := rfl
@[simp] theorem State.putG_regs (s : State) (g : Group) : (s.putG g).regs = s.regs := rfl
@[simp] theorem State.putG_rely (s : State) (g : Group) : (s.putG g).rely = s.rely := rfl
@[simp] theorem State.putG_disp (s : State) (g : Group) : (s.putG g).disp = s.disp := rfl
@[simp] theorem State.putG_irqs (s : State) (g : Group) : (s.putG g).irqs = s.irqs := rfl
@[simp] theorem State.putG_debug (s : State) (g : Group) : (s.putG g).debug = s.debug := rfl
@[simp] theorem State.putG_cur (s : State) (g : Group) : (s.putG g).cur = s.cur := rfl
@[simp] theorem State.putG_agenda (s : State) (g : Group) : (s.putG g).agenda = s.agenda := rfl
@[simp] theorem State.putG_fresh (s : State) (g : Group) : (s.putG g).fresh = s.fresh := rfl
@[simp] theorem State.putG_nextId (s : State) (g : Group) : (s.putG g).nextId = s.nextId := rfl
@[simp] theorem State.putG_tick (s : State) (g : Group) : (s.putG g).tick = s.tick := rfl

@[simp] theorem State.updG_dev (s : State) (f : Group → Group) : (s.updG f).dev = s.dev := rfl
@[simp] theorem State.updG_host0 (s : State) (f : Group → Group) : (s.updG f).host0 = s.host0 := rfl
@[simp] theorem State.updG_host1 (s : State) (f : Group → Group) : (s.updG f).host1 = s.host1 := rfl
@[simp] theorem State.updG_peer (s : State) (f : Group → Group) : (s.updG f).peer = s.peer := rfl
@[simp] theorem State.updG_chip (s : State) (f : Group → Group) : (s.updG f).chip = s.chip := rfl
@[simp] theorem State.updG_late (s : State) (f : Group → Group) : (s.updG f).late = s.late := rfl
@[simp] theorem State.updG_watch (s : State) (f : Group → Group) : (s.updG f).watch = s.watch := rfl
@[simp] theorem State.updG_teams (s : State) (f : Group → Group) : (s.updG f).teams = s.teams := rfl
@[simp] theorem State.updG_clusters (s : State) (f : Group → Group) : (s.updG f).clusters = s.clusters := rfl
@[simp] theorem State.updG_launches (s : State) (f : Group → Group) : (s.updG f).launches = s.launches := rfl
@[simp] theorem State.updG_queues (s : State) (f : Group → Group) : (s.updG f).queues = s.queues := rfl
@[simp] theorem State.updG_lastMapped (s : State) (f : Group → Group) : (s.updG f).lastMapped = s.lastMapped := rfl
@[simp] theorem State.updG_eng (s : State) (f : Group → Group) : (s.updG f).eng = s.eng := rfl
@[simp] theorem State.updG_sessions (s : State) (f : Group → Group) : (s.updG f).sessions = s.sessions := rfl
@[simp] theorem State.updG_binds (s : State) (f : Group → Group) : (s.updG f).binds = s.binds := rfl
@[simp] theorem State.updG_surge (s : State) (f : Group → Group) : (s.updG f).surge = s.surge := rfl
@[simp] theorem State.updG_quads (s : State) (f : Group → Group) : (s.updG f).quads = s.quads := rfl
@[simp] theorem State.updG_vfs (s : State) (f : Group → Group) : (s.updG f).vfs = s.vfs := rfl
@[simp] theorem State.updG_tlb (s : State) (f : Group → Group) : (s.updG f).tlb = s.tlb := rfl
@[simp] theorem State.updG_prq (s : State) (f : Group → Group) : (s.updG f).prq = s.prq := rfl
@[simp] theorem State.updG_frames (s : State) (f : Group → Group) : (s.updG f).frames = s.frames := rfl
@[simp] theorem State.updG_reclaim (s : State) (f : Group → Group) : (s.updG f).reclaim = s.reclaim := rfl
@[simp] theorem State.updG_galley (s : State) (f : Group → Group) : (s.updG f).galley = s.galley := rfl
@[simp] theorem State.updG_regs (s : State) (f : Group → Group) : (s.updG f).regs = s.regs := rfl
@[simp] theorem State.updG_rely (s : State) (f : Group → Group) : (s.updG f).rely = s.rely := rfl
@[simp] theorem State.updG_disp (s : State) (f : Group → Group) : (s.updG f).disp = s.disp := rfl
@[simp] theorem State.updG_irqs (s : State) (f : Group → Group) : (s.updG f).irqs = s.irqs := rfl
@[simp] theorem State.updG_debug (s : State) (f : Group → Group) : (s.updG f).debug = s.debug := rfl
@[simp] theorem State.updG_cur (s : State) (f : Group → Group) : (s.updG f).cur = s.cur := rfl
@[simp] theorem State.updG_agenda (s : State) (f : Group → Group) : (s.updG f).agenda = s.agenda := rfl
@[simp] theorem State.updG_fresh (s : State) (f : Group → Group) : (s.updG f).fresh = s.fresh := rfl
@[simp] theorem State.updG_nextId (s : State) (f : Group → Group) : (s.updG f).nextId = s.nextId := rfl
@[simp] theorem State.updG_tick (s : State) (f : Group → Group) : (s.updG f).tick = s.tick := rfl

@[simp] theorem State.setG_dev (s : State) (n : Nat) (g : Group) : (s.setG n g).dev = s.dev := rfl
@[simp] theorem State.setG_host0 (s : State) (n : Nat) (g : Group) : (s.setG n g).host0 = s.host0 := rfl
@[simp] theorem State.setG_host1 (s : State) (n : Nat) (g : Group) : (s.setG n g).host1 = s.host1 := rfl
@[simp] theorem State.setG_peer (s : State) (n : Nat) (g : Group) : (s.setG n g).peer = s.peer := rfl
@[simp] theorem State.setG_chip (s : State) (n : Nat) (g : Group) : (s.setG n g).chip = s.chip := rfl
@[simp] theorem State.setG_late (s : State) (n : Nat) (g : Group) : (s.setG n g).late = s.late := rfl
@[simp] theorem State.setG_watch (s : State) (n : Nat) (g : Group) : (s.setG n g).watch = s.watch := rfl
@[simp] theorem State.setG_teams (s : State) (n : Nat) (g : Group) : (s.setG n g).teams = s.teams := rfl
@[simp] theorem State.setG_clusters (s : State) (n : Nat) (g : Group) : (s.setG n g).clusters = s.clusters := rfl
@[simp] theorem State.setG_launches (s : State) (n : Nat) (g : Group) : (s.setG n g).launches = s.launches := rfl
@[simp] theorem State.setG_queues (s : State) (n : Nat) (g : Group) : (s.setG n g).queues = s.queues := rfl
@[simp] theorem State.setG_lastMapped (s : State) (n : Nat) (g : Group) : (s.setG n g).lastMapped = s.lastMapped := rfl
@[simp] theorem State.setG_eng (s : State) (n : Nat) (g : Group) : (s.setG n g).eng = s.eng := rfl
@[simp] theorem State.setG_sessions (s : State) (n : Nat) (g : Group) : (s.setG n g).sessions = s.sessions := rfl
@[simp] theorem State.setG_binds (s : State) (n : Nat) (g : Group) : (s.setG n g).binds = s.binds := rfl
@[simp] theorem State.setG_surge (s : State) (n : Nat) (g : Group) : (s.setG n g).surge = s.surge := rfl
@[simp] theorem State.setG_quads (s : State) (n : Nat) (g : Group) : (s.setG n g).quads = s.quads := rfl
@[simp] theorem State.setG_vfs (s : State) (n : Nat) (g : Group) : (s.setG n g).vfs = s.vfs := rfl
@[simp] theorem State.setG_tlb (s : State) (n : Nat) (g : Group) : (s.setG n g).tlb = s.tlb := rfl
@[simp] theorem State.setG_prq (s : State) (n : Nat) (g : Group) : (s.setG n g).prq = s.prq := rfl
@[simp] theorem State.setG_frames (s : State) (n : Nat) (g : Group) : (s.setG n g).frames = s.frames := rfl
@[simp] theorem State.setG_reclaim (s : State) (n : Nat) (g : Group) : (s.setG n g).reclaim = s.reclaim := rfl
@[simp] theorem State.setG_galley (s : State) (n : Nat) (g : Group) : (s.setG n g).galley = s.galley := rfl
@[simp] theorem State.setG_regs (s : State) (n : Nat) (g : Group) : (s.setG n g).regs = s.regs := rfl
@[simp] theorem State.setG_rely (s : State) (n : Nat) (g : Group) : (s.setG n g).rely = s.rely := rfl
@[simp] theorem State.setG_disp (s : State) (n : Nat) (g : Group) : (s.setG n g).disp = s.disp := rfl
@[simp] theorem State.setG_irqs (s : State) (n : Nat) (g : Group) : (s.setG n g).irqs = s.irqs := rfl
@[simp] theorem State.setG_debug (s : State) (n : Nat) (g : Group) : (s.setG n g).debug = s.debug := rfl
@[simp] theorem State.setG_cur (s : State) (n : Nat) (g : Group) : (s.setG n g).cur = s.cur := rfl
@[simp] theorem State.setG_agenda (s : State) (n : Nat) (g : Group) : (s.setG n g).agenda = s.agenda := rfl
@[simp] theorem State.setG_fresh (s : State) (n : Nat) (g : Group) : (s.setG n g).fresh = s.fresh := rfl
@[simp] theorem State.setG_nextId (s : State) (n : Nat) (g : Group) : (s.setG n g).nextId = s.nextId := rfl
@[simp] theorem State.setG_tick (s : State) (n : Nat) (g : Group) : (s.setG n g).tick = s.tick := rfl

@[simp] theorem State.updL_dev (s : State) (n : Nat) (f : Launch → Launch) : (s.updL n f).dev = s.dev := rfl
@[simp] theorem State.updL_host0 (s : State) (n : Nat) (f : Launch → Launch) : (s.updL n f).host0 = s.host0 := rfl
@[simp] theorem State.updL_host1 (s : State) (n : Nat) (f : Launch → Launch) : (s.updL n f).host1 = s.host1 := rfl
@[simp] theorem State.updL_peer (s : State) (n : Nat) (f : Launch → Launch) : (s.updL n f).peer = s.peer := rfl
@[simp] theorem State.updL_chip (s : State) (n : Nat) (f : Launch → Launch) : (s.updL n f).chip = s.chip := rfl
@[simp] theorem State.updL_late (s : State) (n : Nat) (f : Launch → Launch) : (s.updL n f).late = s.late := rfl
@[simp] theorem State.updL_watch (s : State) (n : Nat) (f : Launch → Launch) : (s.updL n f).watch = s.watch := rfl
@[simp] theorem State.updL_groups (s : State) (n : Nat) (f : Launch → Launch) : (s.updL n f).groups = s.groups := rfl
@[simp] theorem State.updL_teams (s : State) (n : Nat) (f : Launch → Launch) : (s.updL n f).teams = s.teams := rfl
@[simp] theorem State.updL_clusters (s : State) (n : Nat) (f : Launch → Launch) : (s.updL n f).clusters = s.clusters := rfl
@[simp] theorem State.updL_queues (s : State) (n : Nat) (f : Launch → Launch) : (s.updL n f).queues = s.queues := rfl
@[simp] theorem State.updL_lastMapped (s : State) (n : Nat) (f : Launch → Launch) : (s.updL n f).lastMapped = s.lastMapped := rfl
@[simp] theorem State.updL_eng (s : State) (n : Nat) (f : Launch → Launch) : (s.updL n f).eng = s.eng := rfl
@[simp] theorem State.updL_sessions (s : State) (n : Nat) (f : Launch → Launch) : (s.updL n f).sessions = s.sessions := rfl
@[simp] theorem State.updL_binds (s : State) (n : Nat) (f : Launch → Launch) : (s.updL n f).binds = s.binds := rfl
@[simp] theorem State.updL_surge (s : State) (n : Nat) (f : Launch → Launch) : (s.updL n f).surge = s.surge := rfl
@[simp] theorem State.updL_quads (s : State) (n : Nat) (f : Launch → Launch) : (s.updL n f).quads = s.quads := rfl
@[simp] theorem State.updL_vfs (s : State) (n : Nat) (f : Launch → Launch) : (s.updL n f).vfs = s.vfs := rfl
@[simp] theorem State.updL_tlb (s : State) (n : Nat) (f : Launch → Launch) : (s.updL n f).tlb = s.tlb := rfl
@[simp] theorem State.updL_prq (s : State) (n : Nat) (f : Launch → Launch) : (s.updL n f).prq = s.prq := rfl
@[simp] theorem State.updL_frames (s : State) (n : Nat) (f : Launch → Launch) : (s.updL n f).frames = s.frames := rfl
@[simp] theorem State.updL_reclaim (s : State) (n : Nat) (f : Launch → Launch) : (s.updL n f).reclaim = s.reclaim := rfl
@[simp] theorem State.updL_galley (s : State) (n : Nat) (f : Launch → Launch) : (s.updL n f).galley = s.galley := rfl
@[simp] theorem State.updL_regs (s : State) (n : Nat) (f : Launch → Launch) : (s.updL n f).regs = s.regs := rfl
@[simp] theorem State.updL_rely (s : State) (n : Nat) (f : Launch → Launch) : (s.updL n f).rely = s.rely := rfl
@[simp] theorem State.updL_disp (s : State) (n : Nat) (f : Launch → Launch) : (s.updL n f).disp = s.disp := rfl
@[simp] theorem State.updL_irqs (s : State) (n : Nat) (f : Launch → Launch) : (s.updL n f).irqs = s.irqs := rfl
@[simp] theorem State.updL_debug (s : State) (n : Nat) (f : Launch → Launch) : (s.updL n f).debug = s.debug := rfl
@[simp] theorem State.updL_cur (s : State) (n : Nat) (f : Launch → Launch) : (s.updL n f).cur = s.cur := rfl
@[simp] theorem State.updL_agenda (s : State) (n : Nat) (f : Launch → Launch) : (s.updL n f).agenda = s.agenda := rfl
@[simp] theorem State.updL_fresh (s : State) (n : Nat) (f : Launch → Launch) : (s.updL n f).fresh = s.fresh := rfl
@[simp] theorem State.updL_nextId (s : State) (n : Nat) (f : Launch → Launch) : (s.updL n f).nextId = s.nextId := rfl
@[simp] theorem State.updL_tick (s : State) (n : Nat) (f : Launch → Launch) : (s.updL n f).tick = s.tick := rfl

@[simp] theorem State.newId_dev (s : State) : (s.newId.2).dev = s.dev := rfl
@[simp] theorem State.newId_host0 (s : State) : (s.newId.2).host0 = s.host0 := rfl
@[simp] theorem State.newId_host1 (s : State) : (s.newId.2).host1 = s.host1 := rfl
@[simp] theorem State.newId_peer (s : State) : (s.newId.2).peer = s.peer := rfl
@[simp] theorem State.newId_chip (s : State) : (s.newId.2).chip = s.chip := rfl
@[simp] theorem State.newId_late (s : State) : (s.newId.2).late = s.late := rfl
@[simp] theorem State.newId_watch (s : State) : (s.newId.2).watch = s.watch := rfl
@[simp] theorem State.newId_groups (s : State) : (s.newId.2).groups = s.groups := rfl
@[simp] theorem State.newId_teams (s : State) : (s.newId.2).teams = s.teams := rfl
@[simp] theorem State.newId_clusters (s : State) : (s.newId.2).clusters = s.clusters := rfl
@[simp] theorem State.newId_launches (s : State) : (s.newId.2).launches = s.launches := rfl
@[simp] theorem State.newId_queues (s : State) : (s.newId.2).queues = s.queues := rfl
@[simp] theorem State.newId_lastMapped (s : State) : (s.newId.2).lastMapped = s.lastMapped := rfl
@[simp] theorem State.newId_eng (s : State) : (s.newId.2).eng = s.eng := rfl
@[simp] theorem State.newId_sessions (s : State) : (s.newId.2).sessions = s.sessions := rfl
@[simp] theorem State.newId_binds (s : State) : (s.newId.2).binds = s.binds := rfl
@[simp] theorem State.newId_surge (s : State) : (s.newId.2).surge = s.surge := rfl
@[simp] theorem State.newId_quads (s : State) : (s.newId.2).quads = s.quads := rfl
@[simp] theorem State.newId_vfs (s : State) : (s.newId.2).vfs = s.vfs := rfl
@[simp] theorem State.newId_tlb (s : State) : (s.newId.2).tlb = s.tlb := rfl
@[simp] theorem State.newId_prq (s : State) : (s.newId.2).prq = s.prq := rfl
@[simp] theorem State.newId_frames (s : State) : (s.newId.2).frames = s.frames := rfl
@[simp] theorem State.newId_reclaim (s : State) : (s.newId.2).reclaim = s.reclaim := rfl
@[simp] theorem State.newId_galley (s : State) : (s.newId.2).galley = s.galley := rfl
@[simp] theorem State.newId_regs (s : State) : (s.newId.2).regs = s.regs := rfl
@[simp] theorem State.newId_rely (s : State) : (s.newId.2).rely = s.rely := rfl
@[simp] theorem State.newId_disp (s : State) : (s.newId.2).disp = s.disp := rfl
@[simp] theorem State.newId_irqs (s : State) : (s.newId.2).irqs = s.irqs := rfl
@[simp] theorem State.newId_debug (s : State) : (s.newId.2).debug = s.debug := rfl
@[simp] theorem State.newId_cur (s : State) : (s.newId.2).cur = s.cur := rfl
@[simp] theorem State.newId_agenda (s : State) : (s.newId.2).agenda = s.agenda := rfl
@[simp] theorem State.newId_fresh (s : State) : (s.newId.2).fresh = s.fresh := rfl
@[simp] theorem State.newId_tick (s : State) : (s.newId.2).tick = s.tick := rfl

@[simp] theorem State.draw_dev (s : State) : (s.draw.2).dev = s.dev := rfl
@[simp] theorem State.draw_host0 (s : State) : (s.draw.2).host0 = s.host0 := rfl
@[simp] theorem State.draw_host1 (s : State) : (s.draw.2).host1 = s.host1 := rfl
@[simp] theorem State.draw_peer (s : State) : (s.draw.2).peer = s.peer := rfl
@[simp] theorem State.draw_chip (s : State) : (s.draw.2).chip = s.chip := rfl
@[simp] theorem State.draw_late (s : State) : (s.draw.2).late = s.late := rfl
@[simp] theorem State.draw_watch (s : State) : (s.draw.2).watch = s.watch := rfl
@[simp] theorem State.draw_groups (s : State) : (s.draw.2).groups = s.groups := rfl
@[simp] theorem State.draw_teams (s : State) : (s.draw.2).teams = s.teams := rfl
@[simp] theorem State.draw_clusters (s : State) : (s.draw.2).clusters = s.clusters := rfl
@[simp] theorem State.draw_launches (s : State) : (s.draw.2).launches = s.launches := rfl
@[simp] theorem State.draw_queues (s : State) : (s.draw.2).queues = s.queues := rfl
@[simp] theorem State.draw_lastMapped (s : State) : (s.draw.2).lastMapped = s.lastMapped := rfl
@[simp] theorem State.draw_eng (s : State) : (s.draw.2).eng = s.eng := rfl
@[simp] theorem State.draw_sessions (s : State) : (s.draw.2).sessions = s.sessions := rfl
@[simp] theorem State.draw_binds (s : State) : (s.draw.2).binds = s.binds := rfl
@[simp] theorem State.draw_surge (s : State) : (s.draw.2).surge = s.surge := rfl
@[simp] theorem State.draw_quads (s : State) : (s.draw.2).quads = s.quads := rfl
@[simp] theorem State.draw_vfs (s : State) : (s.draw.2).vfs = s.vfs := rfl
@[simp] theorem State.draw_tlb (s : State) : (s.draw.2).tlb = s.tlb := rfl
@[simp] theorem State.draw_prq (s : State) : (s.draw.2).prq = s.prq := rfl
@[simp] theorem State.draw_frames (s : State) : (s.draw.2).frames = s.frames := rfl
@[simp] theorem State.draw_reclaim (s : State) : (s.draw.2).reclaim = s.reclaim := rfl
@[simp] theorem State.draw_galley (s : State) : (s.draw.2).galley = s.galley := rfl
@[simp] theorem State.draw_regs (s : State) : (s.draw.2).regs = s.regs := rfl
@[simp] theorem State.draw_rely (s : State) : (s.draw.2).rely = s.rely := rfl
@[simp] theorem State.draw_disp (s : State) : (s.draw.2).disp = s.disp := rfl
@[simp] theorem State.draw_irqs (s : State) : (s.draw.2).irqs = s.irqs := rfl
@[simp] theorem State.draw_debug (s : State) : (s.draw.2).debug = s.debug := rfl
@[simp] theorem State.draw_cur (s : State) : (s.draw.2).cur = s.cur := rfl
@[simp] theorem State.draw_agenda (s : State) : (s.draw.2).agenda = s.agenda := rfl
@[simp] theorem State.draw_nextId (s : State) : (s.draw.2).nextId = s.nextId := rfl
@[simp] theorem State.draw_tick (s : State) : (s.draw.2).tick = s.tick := rfl

@[simp] theorem State.irq_dev (s : State) (p : Nat) (f : Option Nat) (v : Nat) : (s.irq p f v).dev = s.dev := rfl
@[simp] theorem State.irq_host0 (s : State) (p : Nat) (f : Option Nat) (v : Nat) : (s.irq p f v).host0 = s.host0 := rfl
@[simp] theorem State.irq_host1 (s : State) (p : Nat) (f : Option Nat) (v : Nat) : (s.irq p f v).host1 = s.host1 := rfl
@[simp] theorem State.irq_peer (s : State) (p : Nat) (f : Option Nat) (v : Nat) : (s.irq p f v).peer = s.peer := rfl
@[simp] theorem State.irq_chip (s : State) (p : Nat) (f : Option Nat) (v : Nat) : (s.irq p f v).chip = s.chip := rfl
@[simp] theorem State.irq_late (s : State) (p : Nat) (f : Option Nat) (v : Nat) : (s.irq p f v).late = s.late := rfl
@[simp] theorem State.irq_watch (s : State) (p : Nat) (f : Option Nat) (v : Nat) : (s.irq p f v).watch = s.watch := rfl
@[simp] theorem State.irq_groups (s : State) (p : Nat) (f : Option Nat) (v : Nat) : (s.irq p f v).groups = s.groups := rfl
@[simp] theorem State.irq_teams (s : State) (p : Nat) (f : Option Nat) (v : Nat) : (s.irq p f v).teams = s.teams := rfl
@[simp] theorem State.irq_clusters (s : State) (p : Nat) (f : Option Nat) (v : Nat) : (s.irq p f v).clusters = s.clusters := rfl
@[simp] theorem State.irq_launches (s : State) (p : Nat) (f : Option Nat) (v : Nat) : (s.irq p f v).launches = s.launches := rfl
@[simp] theorem State.irq_queues (s : State) (p : Nat) (f : Option Nat) (v : Nat) : (s.irq p f v).queues = s.queues := rfl
@[simp] theorem State.irq_lastMapped (s : State) (p : Nat) (f : Option Nat) (v : Nat) :
    (s.irq p f v).lastMapped = s.lastMapped := rfl
@[simp] theorem State.irq_eng (s : State) (p : Nat) (f : Option Nat) (v : Nat) : (s.irq p f v).eng = s.eng := rfl
@[simp] theorem State.irq_sessions (s : State) (p : Nat) (f : Option Nat) (v : Nat) : (s.irq p f v).sessions = s.sessions := rfl
@[simp] theorem State.irq_binds (s : State) (p : Nat) (f : Option Nat) (v : Nat) : (s.irq p f v).binds = s.binds := rfl
@[simp] theorem State.irq_surge (s : State) (p : Nat) (f : Option Nat) (v : Nat) : (s.irq p f v).surge = s.surge := rfl
@[simp] theorem State.irq_quads (s : State) (p : Nat) (f : Option Nat) (v : Nat) : (s.irq p f v).quads = s.quads := rfl
@[simp] theorem State.irq_vfs (s : State) (p : Nat) (f : Option Nat) (v : Nat) : (s.irq p f v).vfs = s.vfs := rfl
@[simp] theorem State.irq_tlb (s : State) (p : Nat) (f : Option Nat) (v : Nat) : (s.irq p f v).tlb = s.tlb := rfl
@[simp] theorem State.irq_prq (s : State) (p : Nat) (f : Option Nat) (v : Nat) : (s.irq p f v).prq = s.prq := rfl
@[simp] theorem State.irq_frames (s : State) (p : Nat) (f : Option Nat) (v : Nat) : (s.irq p f v).frames = s.frames := rfl
@[simp] theorem State.irq_reclaim (s : State) (p : Nat) (f : Option Nat) (v : Nat) : (s.irq p f v).reclaim = s.reclaim := rfl
@[simp] theorem State.irq_galley (s : State) (p : Nat) (f : Option Nat) (v : Nat) : (s.irq p f v).galley = s.galley := rfl
@[simp] theorem State.irq_regs (s : State) (p : Nat) (f : Option Nat) (v : Nat) : (s.irq p f v).regs = s.regs := rfl
@[simp] theorem State.irq_rely (s : State) (p : Nat) (f : Option Nat) (v : Nat) : (s.irq p f v).rely = s.rely := rfl
@[simp] theorem State.irq_disp (s : State) (p : Nat) (f : Option Nat) (v : Nat) : (s.irq p f v).disp = s.disp := rfl
@[simp] theorem State.irq_debug (s : State) (p : Nat) (f : Option Nat) (v : Nat) : (s.irq p f v).debug = s.debug := rfl
@[simp] theorem State.irq_cur (s : State) (p : Nat) (f : Option Nat) (v : Nat) : (s.irq p f v).cur = s.cur := rfl
@[simp] theorem State.irq_agenda (s : State) (p : Nat) (f : Option Nat) (v : Nat) : (s.irq p f v).agenda = s.agenda := rfl
@[simp] theorem State.irq_fresh (s : State) (p : Nat) (f : Option Nat) (v : Nat) : (s.irq p f v).fresh = s.fresh := rfl
@[simp] theorem State.irq_nextId (s : State) (p : Nat) (f : Option Nat) (v : Nat) : (s.irq p f v).nextId = s.nextId := rfl
@[simp] theorem State.irq_tick (s : State) (p : Nat) (f : Option Nat) (v : Nat) : (s.irq p f v).tick = s.tick := rfl

@[simp] theorem State.setBar_dev (s : State) (t n : Nat) (b : Bar) : (s.setBar t n b).dev = s.dev := rfl
@[simp] theorem State.setBar_host0 (s : State) (t n : Nat) (b : Bar) : (s.setBar t n b).host0 = s.host0 := rfl
@[simp] theorem State.setBar_host1 (s : State) (t n : Nat) (b : Bar) : (s.setBar t n b).host1 = s.host1 := rfl
@[simp] theorem State.setBar_peer (s : State) (t n : Nat) (b : Bar) : (s.setBar t n b).peer = s.peer := rfl
@[simp] theorem State.setBar_chip (s : State) (t n : Nat) (b : Bar) : (s.setBar t n b).chip = s.chip := rfl
@[simp] theorem State.setBar_late (s : State) (t n : Nat) (b : Bar) : (s.setBar t n b).late = s.late := rfl
@[simp] theorem State.setBar_watch (s : State) (t n : Nat) (b : Bar) : (s.setBar t n b).watch = s.watch := rfl
@[simp] theorem State.setBar_groups (s : State) (t n : Nat) (b : Bar) : (s.setBar t n b).groups = s.groups := rfl
@[simp] theorem State.setBar_clusters (s : State) (t n : Nat) (b : Bar) : (s.setBar t n b).clusters = s.clusters := rfl
@[simp] theorem State.setBar_launches (s : State) (t n : Nat) (b : Bar) : (s.setBar t n b).launches = s.launches := rfl
@[simp] theorem State.setBar_queues (s : State) (t n : Nat) (b : Bar) : (s.setBar t n b).queues = s.queues := rfl
@[simp] theorem State.setBar_lastMapped (s : State) (t n : Nat) (b : Bar) : (s.setBar t n b).lastMapped = s.lastMapped := rfl
@[simp] theorem State.setBar_eng (s : State) (t n : Nat) (b : Bar) : (s.setBar t n b).eng = s.eng := rfl
@[simp] theorem State.setBar_sessions (s : State) (t n : Nat) (b : Bar) : (s.setBar t n b).sessions = s.sessions := rfl
@[simp] theorem State.setBar_binds (s : State) (t n : Nat) (b : Bar) : (s.setBar t n b).binds = s.binds := rfl
@[simp] theorem State.setBar_surge (s : State) (t n : Nat) (b : Bar) : (s.setBar t n b).surge = s.surge := rfl
@[simp] theorem State.setBar_quads (s : State) (t n : Nat) (b : Bar) : (s.setBar t n b).quads = s.quads := rfl
@[simp] theorem State.setBar_vfs (s : State) (t n : Nat) (b : Bar) : (s.setBar t n b).vfs = s.vfs := rfl
@[simp] theorem State.setBar_tlb (s : State) (t n : Nat) (b : Bar) : (s.setBar t n b).tlb = s.tlb := rfl
@[simp] theorem State.setBar_prq (s : State) (t n : Nat) (b : Bar) : (s.setBar t n b).prq = s.prq := rfl
@[simp] theorem State.setBar_frames (s : State) (t n : Nat) (b : Bar) : (s.setBar t n b).frames = s.frames := rfl
@[simp] theorem State.setBar_reclaim (s : State) (t n : Nat) (b : Bar) : (s.setBar t n b).reclaim = s.reclaim := rfl
@[simp] theorem State.setBar_galley (s : State) (t n : Nat) (b : Bar) : (s.setBar t n b).galley = s.galley := rfl
@[simp] theorem State.setBar_regs (s : State) (t n : Nat) (b : Bar) : (s.setBar t n b).regs = s.regs := rfl
@[simp] theorem State.setBar_rely (s : State) (t n : Nat) (b : Bar) : (s.setBar t n b).rely = s.rely := rfl
@[simp] theorem State.setBar_disp (s : State) (t n : Nat) (b : Bar) : (s.setBar t n b).disp = s.disp := rfl
@[simp] theorem State.setBar_irqs (s : State) (t n : Nat) (b : Bar) : (s.setBar t n b).irqs = s.irqs := rfl
@[simp] theorem State.setBar_debug (s : State) (t n : Nat) (b : Bar) : (s.setBar t n b).debug = s.debug := rfl
@[simp] theorem State.setBar_cur (s : State) (t n : Nat) (b : Bar) : (s.setBar t n b).cur = s.cur := rfl
@[simp] theorem State.setBar_agenda (s : State) (t n : Nat) (b : Bar) : (s.setBar t n b).agenda = s.agenda := rfl
@[simp] theorem State.setBar_fresh (s : State) (t n : Nat) (b : Bar) : (s.setBar t n b).fresh = s.fresh := rfl
@[simp] theorem State.setBar_nextId (s : State) (t n : Nat) (b : Bar) : (s.setBar t n b).nextId = s.nextId := rfl
@[simp] theorem State.setBar_tick (s : State) (t n : Nat) (b : Bar) : (s.setBar t n b).tick = s.tick := rfl

@[simp] theorem State.endA_dev (s : State) : (s.endA).dev = s.dev := rfl
@[simp] theorem State.endA_host0 (s : State) : (s.endA).host0 = s.host0 := rfl
@[simp] theorem State.endA_host1 (s : State) : (s.endA).host1 = s.host1 := rfl
@[simp] theorem State.endA_peer (s : State) : (s.endA).peer = s.peer := rfl
@[simp] theorem State.endA_chip (s : State) : (s.endA).chip = s.chip := rfl
@[simp] theorem State.endA_late (s : State) : (s.endA).late = s.late := rfl
@[simp] theorem State.endA_watch (s : State) : (s.endA).watch = s.watch := rfl
@[simp] theorem State.endA_teams (s : State) : (s.endA).teams = s.teams := rfl
@[simp] theorem State.endA_clusters (s : State) : (s.endA).clusters = s.clusters := rfl
@[simp] theorem State.endA_launches (s : State) : (s.endA).launches = s.launches := rfl
@[simp] theorem State.endA_queues (s : State) : (s.endA).queues = s.queues := rfl
@[simp] theorem State.endA_lastMapped (s : State) : (s.endA).lastMapped = s.lastMapped := rfl
@[simp] theorem State.endA_eng (s : State) : (s.endA).eng = s.eng := rfl
@[simp] theorem State.endA_sessions (s : State) : (s.endA).sessions = s.sessions := rfl
@[simp] theorem State.endA_binds (s : State) : (s.endA).binds = s.binds := rfl
@[simp] theorem State.endA_surge (s : State) : (s.endA).surge = s.surge := rfl
@[simp] theorem State.endA_quads (s : State) : (s.endA).quads = s.quads := rfl
@[simp] theorem State.endA_vfs (s : State) : (s.endA).vfs = s.vfs := rfl
@[simp] theorem State.endA_tlb (s : State) : (s.endA).tlb = s.tlb := rfl
@[simp] theorem State.endA_prq (s : State) : (s.endA).prq = s.prq := rfl
@[simp] theorem State.endA_frames (s : State) : (s.endA).frames = s.frames := rfl
@[simp] theorem State.endA_reclaim (s : State) : (s.endA).reclaim = s.reclaim := rfl
@[simp] theorem State.endA_galley (s : State) : (s.endA).galley = s.galley := rfl
@[simp] theorem State.endA_regs (s : State) : (s.endA).regs = s.regs := rfl
@[simp] theorem State.endA_rely (s : State) : (s.endA).rely = s.rely := rfl
@[simp] theorem State.endA_disp (s : State) : (s.endA).disp = s.disp := rfl
@[simp] theorem State.endA_irqs (s : State) : (s.endA).irqs = s.irqs := rfl
@[simp] theorem State.endA_debug (s : State) : (s.endA).debug = s.debug := rfl
@[simp] theorem State.endA_cur (s : State) : (s.endA).cur = s.cur := rfl
@[simp] theorem State.endA_agenda (s : State) : (s.endA).agenda = s.agenda := rfl
@[simp] theorem State.endA_fresh (s : State) : (s.endA).fresh = s.fresh := rfl
@[simp] theorem State.endA_nextId (s : State) : (s.endA).nextId = s.nextId := rfl
@[simp] theorem State.endA_tick (s : State) : (s.endA).tick = s.tick := rfl

@[simp] theorem State.begin_dev (s : State) (t : Turn) : (s.begin t).dev = s.dev := rfl
@[simp] theorem State.begin_host0 (s : State) (t : Turn) : (s.begin t).host0 = s.host0 := rfl
@[simp] theorem State.begin_host1 (s : State) (t : Turn) : (s.begin t).host1 = s.host1 := rfl
@[simp] theorem State.begin_peer (s : State) (t : Turn) : (s.begin t).peer = s.peer := rfl
@[simp] theorem State.begin_chip (s : State) (t : Turn) : (s.begin t).chip = s.chip := rfl
@[simp] theorem State.begin_late (s : State) (t : Turn) : (s.begin t).late = s.late := rfl
@[simp] theorem State.begin_watch (s : State) (t : Turn) : (s.begin t).watch = s.watch := rfl
@[simp] theorem State.begin_groups (s : State) (t : Turn) : (s.begin t).groups = s.groups := rfl
@[simp] theorem State.begin_teams (s : State) (t : Turn) : (s.begin t).teams = s.teams := rfl
@[simp] theorem State.begin_clusters (s : State) (t : Turn) : (s.begin t).clusters = s.clusters := rfl
@[simp] theorem State.begin_launches (s : State) (t : Turn) : (s.begin t).launches = s.launches := rfl
@[simp] theorem State.begin_queues (s : State) (t : Turn) : (s.begin t).queues = s.queues := rfl
@[simp] theorem State.begin_lastMapped (s : State) (t : Turn) : (s.begin t).lastMapped = s.lastMapped := rfl
@[simp] theorem State.begin_eng (s : State) (t : Turn) : (s.begin t).eng = s.eng := rfl
@[simp] theorem State.begin_sessions (s : State) (t : Turn) : (s.begin t).sessions = s.sessions := rfl
@[simp] theorem State.begin_binds (s : State) (t : Turn) : (s.begin t).binds = s.binds := rfl
@[simp] theorem State.begin_surge (s : State) (t : Turn) : (s.begin t).surge = s.surge := rfl
@[simp] theorem State.begin_quads (s : State) (t : Turn) : (s.begin t).quads = s.quads := rfl
@[simp] theorem State.begin_vfs (s : State) (t : Turn) : (s.begin t).vfs = s.vfs := rfl
@[simp] theorem State.begin_tlb (s : State) (t : Turn) : (s.begin t).tlb = s.tlb := rfl
@[simp] theorem State.begin_prq (s : State) (t : Turn) : (s.begin t).prq = s.prq := rfl
@[simp] theorem State.begin_frames (s : State) (t : Turn) : (s.begin t).frames = s.frames := rfl
@[simp] theorem State.begin_reclaim (s : State) (t : Turn) : (s.begin t).reclaim = s.reclaim := rfl
@[simp] theorem State.begin_galley (s : State) (t : Turn) : (s.begin t).galley = s.galley := rfl
@[simp] theorem State.begin_regs (s : State) (t : Turn) : (s.begin t).regs = s.regs := rfl
@[simp] theorem State.begin_rely (s : State) (t : Turn) : (s.begin t).rely = s.rely := rfl
@[simp] theorem State.begin_disp (s : State) (t : Turn) : (s.begin t).disp = s.disp := rfl
@[simp] theorem State.begin_irqs (s : State) (t : Turn) : (s.begin t).irqs = s.irqs := rfl
@[simp] theorem State.begin_debug (s : State) (t : Turn) : (s.begin t).debug = s.debug := rfl
@[simp] theorem State.begin_agenda (s : State) (t : Turn) : (s.begin t).agenda = s.agenda := rfl
@[simp] theorem State.begin_fresh (s : State) (t : Turn) : (s.begin t).fresh = s.fresh := rfl
@[simp] theorem State.begin_nextId (s : State) (t : Turn) : (s.begin t).nextId = s.nextId := rfl

@[simp] theorem Group.wa_who (g : Group) (n : Nat) (x : Word) : (g.wa n x).who = g.who := by
  unfold Group.wa; split <;> rfl
@[simp] theorem Group.wa_apc (g : Group) (n : Nat) (x : Word) : (g.wa n x).apc = g.apc := by
  unfold Group.wa; split <;> rfl
@[simp] theorem Group.wa_stop (g : Group) (n : Nat) (x : Word) : (g.wa n x).stop = g.stop := by
  unfold Group.wa; split <;> rfl
@[simp] theorem Group.wa_ablk (g : Group) (n : Nat) (x : Word) : (g.wa n x).ablk = g.ablk := by
  unfold Group.wa; split <;> rfl
@[simp] theorem Group.wa_asince (g : Group) (n : Nat) (x : Word) : (g.wa n x).asince = g.asince := by
  unfold Group.wa; split <;> rfl
@[simp] theorem Group.wa_cs (g : Group) (n : Nat) (x : Word) : (g.wa n x).cs = g.cs := by
  unfold Group.wa; split <;> rfl
@[simp] theorem Group.wa_cf (g : Group) (n : Nat) (x : Word) : (g.wa n x).cf = g.cf := by
  unfold Group.wa; split <;> rfl
@[simp] theorem Group.wa_b (g : Group) (n : Nat) (x : Word) : (g.wa n x).b = g.b := by
  unfold Group.wa; split <;> rfl
@[simp] theorem Group.wa_t (g : Group) (n : Nat) (x : Word) : (g.wa n x).t = g.t := by
  unfold Group.wa; split <;> rfl
@[simp] theorem Group.wa_q (g : Group) (n : Nat) (x : Word) : (g.wa n x).q = g.q := by
  unfold Group.wa; split <;> rfl
@[simp] theorem Group.wa_sys (g : Group) (n : Nat) (x : Word) : (g.wa n x).sys = g.sys := by
  unfold Group.wa; split <;> rfl
@[simp] theorem Group.wa_pend (g : Group) (n : Nat) (x : Word) : (g.wa n x).pend = g.pend := by
  unfold Group.wa; split <;> rfl
@[simp] theorem Group.wa_mu (g : Group) (n : Nat) (x : Word) : (g.wa n x).mu = g.mu := by
  unfold Group.wa; split <;> rfl
@[simp] theorem Group.wa_lane (g : Group) (n : Nat) (x : Word) : (g.wa n x).lane = g.lane := by
  unfold Group.wa; split <;> rfl
@[simp] theorem Group.wa_unwaited (g : Group) (n : Nat) (x : Word) : (g.wa n x).unwaited = g.unwaited := by
  unfold Group.wa; split <;> rfl
@[simp] theorem Group.wa_shadow (g : Group) (n : Nat) (x : Word) : (g.wa n x).shadow = g.shadow := by
  unfold Group.wa; split <;> rfl
@[simp] theorem Group.wa_trap (g : Group) (n : Nat) (x : Word) : (g.wa n x).trap = g.trap := by
  unfold Group.wa; split <;> rfl
@[simp] theorem Group.wa_pushed (g : Group) (n : Nat) (x : Word) : (g.wa n x).pushed = g.pushed := by
  unfold Group.wa; split <;> rfl
@[simp] theorem Group.wa_ended (g : Group) (n : Nat) (x : Word) : (g.wa n x).ended = g.ended := by
  unfold Group.wa; split <;> rfl
@[simp] theorem Group.wa_cEnded (g : Group) (n : Nat) (x : Word) : (g.wa n x).cEnded = g.cEnded := by
  unfold Group.wa; split <;> rfl
@[simp] theorem Group.wa_slices (g : Group) (n : Nat) (x : Word) : (g.wa n x).slices = g.slices := by
  unfold Group.wa; split <;> rfl
@[simp] theorem Group.wa_lastQ (g : Group) (n : Nat) (x : Word) : (g.wa n x).lastQ = g.lastQ := by
  unfold Group.wa; split <;> rfl
@[simp] theorem Group.wa_saved (g : Group) (n : Nat) (x : Word) : (g.wa n x).saved = g.saved := by
  unfold Group.wa; split <;> rfl
@[simp] theorem Group.wa_saveReq (g : Group) (n : Nat) (x : Word) : (g.wa n x).saveReq = g.saveReq := by
  unfold Group.wa; split <;> rfl
@[simp] theorem Group.wa_saving (g : Group) (n : Nat) (x : Word) : (g.wa n x).saving = g.saving := by
  unfold Group.wa; split <;> rfl
@[simp] theorem Group.wa_commits (g : Group) (n : Nat) (x : Word) : (g.wa n x).commits = g.commits := by
  unfold Group.wa; split <;> rfl
@[simp] theorem Group.wa_arrivals (g : Group) (n : Nat) (x : Word) : (g.wa n x).arrivals = g.arrivals := by
  unfold Group.wa; split <;> rfl
@[simp] theorem Group.wa_arrived (g : Group) (n : Nat) (x : Word) : (g.wa n x).arrived = g.arrived := by
  unfold Group.wa; split <;> rfl
@[simp] theorem Group.wa_fenced (g : Group) (n : Nat) (x : Word) : (g.wa n x).fenced = g.fenced := by
  unfold Group.wa; split <;> rfl
@[simp] theorem Group.wa_due (g : Group) (n : Nat) (x : Word) : (g.wa n x).due = g.due := by
  unfold Group.wa; split <;> rfl
@[simp] theorem Group.wa_freed (g : Group) (n : Nat) (x : Word) : (g.wa n x).freed = g.freed := by
  unfold Group.wa; split <;> rfl
@[simp] theorem Group.wa_outer (g : Group) (n : Nat) (x : Word) : (g.wa n x).outer = g.outer := by
  unfold Group.wa; split <;> rfl
@[simp] theorem Group.wa_session (g : Group) (n : Nat) (x : Word) : (g.wa n x).session = g.session := by
  unfold Group.wa; split <;> rfl
@[simp] theorem Group.wa_regroup (g : Group) (n : Nat) (x : Word) : (g.wa n x).regroup = g.regroup := by
  unfold Group.wa; split <;> rfl
@[simp] theorem Group.wa_upTo (g : Group) (n : Nat) (x : Word) : (g.wa n x).upTo = g.upTo := by
  unfold Group.wa; split <;> rfl

@[simp] theorem Group.adv_who (g : Group) (n : Nat) : (g.adv n).who = g.who := rfl
@[simp] theorem Group.adv_a (g : Group) (n : Nat) : (g.adv n).a = g.a := rfl
@[simp] theorem Group.adv_stop (g : Group) (n : Nat) : (g.adv n).stop = g.stop := rfl
@[simp] theorem Group.adv_ablk (g : Group) (n : Nat) : (g.adv n).ablk = g.ablk := rfl
@[simp] theorem Group.adv_asince (g : Group) (n : Nat) : (g.adv n).asince = g.asince := rfl
@[simp] theorem Group.adv_cs (g : Group) (n : Nat) : (g.adv n).cs = g.cs := rfl
@[simp] theorem Group.adv_cf (g : Group) (n : Nat) : (g.adv n).cf = g.cf := rfl
@[simp] theorem Group.adv_b (g : Group) (n : Nat) : (g.adv n).b = g.b := rfl
@[simp] theorem Group.adv_t (g : Group) (n : Nat) : (g.adv n).t = g.t := rfl
@[simp] theorem Group.adv_q (g : Group) (n : Nat) : (g.adv n).q = g.q := rfl
@[simp] theorem Group.adv_sys (g : Group) (n : Nat) : (g.adv n).sys = g.sys := rfl
@[simp] theorem Group.adv_pend (g : Group) (n : Nat) : (g.adv n).pend = g.pend := rfl
@[simp] theorem Group.adv_mu (g : Group) (n : Nat) : (g.adv n).mu = g.mu := rfl
@[simp] theorem Group.adv_lane (g : Group) (n : Nat) : (g.adv n).lane = g.lane := rfl
@[simp] theorem Group.adv_unwaited (g : Group) (n : Nat) : (g.adv n).unwaited = g.unwaited := rfl
@[simp] theorem Group.adv_shadow (g : Group) (n : Nat) : (g.adv n).shadow = g.shadow := rfl
@[simp] theorem Group.adv_trap (g : Group) (n : Nat) : (g.adv n).trap = g.trap := rfl
@[simp] theorem Group.adv_pushed (g : Group) (n : Nat) : (g.adv n).pushed = g.pushed := rfl
@[simp] theorem Group.adv_ended (g : Group) (n : Nat) : (g.adv n).ended = g.ended := rfl
@[simp] theorem Group.adv_cEnded (g : Group) (n : Nat) : (g.adv n).cEnded = g.cEnded := rfl
@[simp] theorem Group.adv_slices (g : Group) (n : Nat) : (g.adv n).slices = g.slices := rfl
@[simp] theorem Group.adv_lastQ (g : Group) (n : Nat) : (g.adv n).lastQ = g.lastQ := rfl
@[simp] theorem Group.adv_saved (g : Group) (n : Nat) : (g.adv n).saved = g.saved := rfl
@[simp] theorem Group.adv_saveReq (g : Group) (n : Nat) : (g.adv n).saveReq = g.saveReq := rfl
@[simp] theorem Group.adv_saving (g : Group) (n : Nat) : (g.adv n).saving = g.saving := rfl
@[simp] theorem Group.adv_commits (g : Group) (n : Nat) : (g.adv n).commits = g.commits := rfl
@[simp] theorem Group.adv_arrivals (g : Group) (n : Nat) : (g.adv n).arrivals = g.arrivals := rfl
@[simp] theorem Group.adv_arrived (g : Group) (n : Nat) : (g.adv n).arrived = g.arrived := rfl
@[simp] theorem Group.adv_fenced (g : Group) (n : Nat) : (g.adv n).fenced = g.fenced := rfl
@[simp] theorem Group.adv_due (g : Group) (n : Nat) : (g.adv n).due = g.due := rfl
@[simp] theorem Group.adv_freed (g : Group) (n : Nat) : (g.adv n).freed = g.freed := rfl
@[simp] theorem Group.adv_outer (g : Group) (n : Nat) : (g.adv n).outer = g.outer := rfl
@[simp] theorem Group.adv_session (g : Group) (n : Nat) : (g.adv n).session = g.session := rfl
@[simp] theorem Group.adv_regroup (g : Group) (n : Nat) : (g.adv n).regroup = g.regroup := rfl
@[simp] theorem Group.adv_upTo (g : Group) (n : Nat) : (g.adv n).upTo = g.upTo := rfl

@[simp] theorem Group.attach_who (g : Group) (n : Nat) : (g.attach n).who = g.who := by
  unfold Group.attach; split <;> rfl
@[simp] theorem Group.attach_a (g : Group) (n : Nat) : (g.attach n).a = g.a := by
  unfold Group.attach; split <;> rfl
@[simp] theorem Group.attach_apc (g : Group) (n : Nat) : (g.attach n).apc = g.apc := by
  unfold Group.attach; split <;> rfl
@[simp] theorem Group.attach_stop (g : Group) (n : Nat) : (g.attach n).stop = g.stop := by
  unfold Group.attach; split <;> rfl
@[simp] theorem Group.attach_ablk (g : Group) (n : Nat) : (g.attach n).ablk = g.ablk := by
  unfold Group.attach; split <;> rfl
@[simp] theorem Group.attach_asince (g : Group) (n : Nat) : (g.attach n).asince = g.asince := by
  unfold Group.attach; split <;> rfl
@[simp] theorem Group.attach_cs (g : Group) (n : Nat) : (g.attach n).cs = g.cs := by
  unfold Group.attach; split <;> rfl
@[simp] theorem Group.attach_b (g : Group) (n : Nat) : (g.attach n).b = g.b := by
  unfold Group.attach; split <;> rfl
@[simp] theorem Group.attach_t (g : Group) (n : Nat) : (g.attach n).t = g.t := by
  unfold Group.attach; split <;> rfl
@[simp] theorem Group.attach_q (g : Group) (n : Nat) : (g.attach n).q = g.q := by
  unfold Group.attach; split <;> rfl
@[simp] theorem Group.attach_sys (g : Group) (n : Nat) : (g.attach n).sys = g.sys := by
  unfold Group.attach; split <;> rfl
@[simp] theorem Group.attach_pend (g : Group) (n : Nat) : (g.attach n).pend = g.pend := by
  unfold Group.attach; split <;> rfl
@[simp] theorem Group.attach_mu (g : Group) (n : Nat) : (g.attach n).mu = g.mu := by
  unfold Group.attach; split <;> rfl
@[simp] theorem Group.attach_lane (g : Group) (n : Nat) : (g.attach n).lane = g.lane := by
  unfold Group.attach; split <;> rfl
@[simp] theorem Group.attach_unwaited (g : Group) (n : Nat) : (g.attach n).unwaited = g.unwaited := by
  unfold Group.attach; split <;> rfl
@[simp] theorem Group.attach_shadow (g : Group) (n : Nat) : (g.attach n).shadow = g.shadow := by
  unfold Group.attach; split <;> rfl
@[simp] theorem Group.attach_trap (g : Group) (n : Nat) : (g.attach n).trap = g.trap := by
  unfold Group.attach; split <;> rfl
@[simp] theorem Group.attach_pushed (g : Group) (n : Nat) : (g.attach n).pushed = g.pushed := by
  unfold Group.attach; split <;> rfl
@[simp] theorem Group.attach_ended (g : Group) (n : Nat) : (g.attach n).ended = g.ended := by
  unfold Group.attach; split <;> rfl
@[simp] theorem Group.attach_cEnded (g : Group) (n : Nat) : (g.attach n).cEnded = g.cEnded := by
  unfold Group.attach; split <;> rfl
@[simp] theorem Group.attach_slices (g : Group) (n : Nat) : (g.attach n).slices = g.slices := by
  unfold Group.attach; split <;> rfl
@[simp] theorem Group.attach_lastQ (g : Group) (n : Nat) : (g.attach n).lastQ = g.lastQ := by
  unfold Group.attach; split <;> rfl
@[simp] theorem Group.attach_saved (g : Group) (n : Nat) : (g.attach n).saved = g.saved := by
  unfold Group.attach; split <;> rfl
@[simp] theorem Group.attach_saveReq (g : Group) (n : Nat) : (g.attach n).saveReq = g.saveReq := by
  unfold Group.attach; split <;> rfl
@[simp] theorem Group.attach_saving (g : Group) (n : Nat) : (g.attach n).saving = g.saving := by
  unfold Group.attach; split <;> rfl
@[simp] theorem Group.attach_commits (g : Group) (n : Nat) : (g.attach n).commits = g.commits := by
  unfold Group.attach; split <;> rfl
@[simp] theorem Group.attach_arrivals (g : Group) (n : Nat) : (g.attach n).arrivals = g.arrivals := by
  unfold Group.attach; split <;> rfl
@[simp] theorem Group.attach_arrived (g : Group) (n : Nat) : (g.attach n).arrived = g.arrived := by
  unfold Group.attach; split <;> rfl
@[simp] theorem Group.attach_fenced (g : Group) (n : Nat) : (g.attach n).fenced = g.fenced := by
  unfold Group.attach; split <;> rfl
@[simp] theorem Group.attach_due (g : Group) (n : Nat) : (g.attach n).due = g.due := by
  unfold Group.attach; split <;> rfl
@[simp] theorem Group.attach_freed (g : Group) (n : Nat) : (g.attach n).freed = g.freed := by
  unfold Group.attach; split <;> rfl
@[simp] theorem Group.attach_outer (g : Group) (n : Nat) : (g.attach n).outer = g.outer := by
  unfold Group.attach; split <;> rfl
@[simp] theorem Group.attach_session (g : Group) (n : Nat) : (g.attach n).session = g.session := by
  unfold Group.attach; split <;> rfl
@[simp] theorem Group.attach_regroup (g : Group) (n : Nat) : (g.attach n).regroup = g.regroup := by
  unfold Group.attach; split <;> rfl
@[simp] theorem Group.attach_upTo (g : Group) (n : Nat) : (g.attach n).upTo = g.upTo := by
  unfold Group.attach; split <;> rfl

@[simp] theorem Group.raiseFl_who (g : Group) (f : Fl) : (g.raiseFl f).who = g.who := rfl
@[simp] theorem Group.raiseFl_a (g : Group) (f : Fl) : (g.raiseFl f).a = g.a := rfl
@[simp] theorem Group.raiseFl_apc (g : Group) (f : Fl) : (g.raiseFl f).apc = g.apc := rfl
@[simp] theorem Group.raiseFl_stop (g : Group) (f : Fl) : (g.raiseFl f).stop = g.stop := rfl
@[simp] theorem Group.raiseFl_ablk (g : Group) (f : Fl) : (g.raiseFl f).ablk = g.ablk := rfl
@[simp] theorem Group.raiseFl_asince (g : Group) (f : Fl) : (g.raiseFl f).asince = g.asince := rfl
@[simp] theorem Group.raiseFl_cs (g : Group) (f : Fl) : (g.raiseFl f).cs = g.cs := rfl
@[simp] theorem Group.raiseFl_cf (g : Group) (f : Fl) : (g.raiseFl f).cf = g.cf := rfl
@[simp] theorem Group.raiseFl_b (g : Group) (f : Fl) : (g.raiseFl f).b = g.b := rfl
@[simp] theorem Group.raiseFl_t (g : Group) (f : Fl) : (g.raiseFl f).t = g.t := rfl
@[simp] theorem Group.raiseFl_q (g : Group) (f : Fl) : (g.raiseFl f).q = g.q := rfl
@[simp] theorem Group.raiseFl_pend (g : Group) (f : Fl) : (g.raiseFl f).pend = g.pend := rfl
@[simp] theorem Group.raiseFl_mu (g : Group) (f : Fl) : (g.raiseFl f).mu = g.mu := rfl
@[simp] theorem Group.raiseFl_lane (g : Group) (f : Fl) : (g.raiseFl f).lane = g.lane := rfl
@[simp] theorem Group.raiseFl_unwaited (g : Group) (f : Fl) : (g.raiseFl f).unwaited = g.unwaited := rfl
@[simp] theorem Group.raiseFl_shadow (g : Group) (f : Fl) : (g.raiseFl f).shadow = g.shadow := rfl
@[simp] theorem Group.raiseFl_trap (g : Group) (f : Fl) : (g.raiseFl f).trap = g.trap := rfl
@[simp] theorem Group.raiseFl_pushed (g : Group) (f : Fl) : (g.raiseFl f).pushed = g.pushed := rfl
@[simp] theorem Group.raiseFl_ended (g : Group) (f : Fl) : (g.raiseFl f).ended = g.ended := rfl
@[simp] theorem Group.raiseFl_cEnded (g : Group) (f : Fl) : (g.raiseFl f).cEnded = g.cEnded := rfl
@[simp] theorem Group.raiseFl_slices (g : Group) (f : Fl) : (g.raiseFl f).slices = g.slices := rfl
@[simp] theorem Group.raiseFl_lastQ (g : Group) (f : Fl) : (g.raiseFl f).lastQ = g.lastQ := rfl
@[simp] theorem Group.raiseFl_saved (g : Group) (f : Fl) : (g.raiseFl f).saved = g.saved := rfl
@[simp] theorem Group.raiseFl_saveReq (g : Group) (f : Fl) : (g.raiseFl f).saveReq = g.saveReq := rfl
@[simp] theorem Group.raiseFl_saving (g : Group) (f : Fl) : (g.raiseFl f).saving = g.saving := rfl
@[simp] theorem Group.raiseFl_commits (g : Group) (f : Fl) : (g.raiseFl f).commits = g.commits := rfl
@[simp] theorem Group.raiseFl_arrivals (g : Group) (f : Fl) : (g.raiseFl f).arrivals = g.arrivals := rfl
@[simp] theorem Group.raiseFl_arrived (g : Group) (f : Fl) : (g.raiseFl f).arrived = g.arrived := rfl
@[simp] theorem Group.raiseFl_fenced (g : Group) (f : Fl) : (g.raiseFl f).fenced = g.fenced := rfl
@[simp] theorem Group.raiseFl_due (g : Group) (f : Fl) : (g.raiseFl f).due = g.due := rfl
@[simp] theorem Group.raiseFl_freed (g : Group) (f : Fl) : (g.raiseFl f).freed = g.freed := rfl
@[simp] theorem Group.raiseFl_outer (g : Group) (f : Fl) : (g.raiseFl f).outer = g.outer := rfl
@[simp] theorem Group.raiseFl_session (g : Group) (f : Fl) : (g.raiseFl f).session = g.session := rfl
@[simp] theorem Group.raiseFl_regroup (g : Group) (f : Fl) : (g.raiseFl f).regroup = g.regroup := rfl
@[simp] theorem Group.raiseFl_upTo (g : Group) (f : Fl) : (g.raiseFl f).upTo = g.upTo := rfl

@[simp] theorem Group.writePred_who (g : Group) (d : Dst) (m : Mask) (f : Nat → Bool) : (g.writePred d m f).who = g.who := by
  unfold Group.writePred; split <;> rfl
@[simp] theorem Group.writePred_a (g : Group) (d : Dst) (m : Mask) (f : Nat → Bool) : (g.writePred d m f).a = g.a := by
  unfold Group.writePred; split <;> rfl
@[simp] theorem Group.writePred_apc (g : Group) (d : Dst) (m : Mask) (f : Nat → Bool) : (g.writePred d m f).apc = g.apc := by
  unfold Group.writePred; split <;> rfl
@[simp] theorem Group.writePred_stop (g : Group) (d : Dst) (m : Mask) (f : Nat → Bool) : (g.writePred d m f).stop = g.stop := by
  unfold Group.writePred; split <;> rfl
@[simp] theorem Group.writePred_ablk (g : Group) (d : Dst) (m : Mask) (f : Nat → Bool) : (g.writePred d m f).ablk = g.ablk := by
  unfold Group.writePred; split <;> rfl
@[simp] theorem Group.writePred_asince (g : Group) (d : Dst) (m : Mask) (f : Nat → Bool) :
    (g.writePred d m f).asince = g.asince := by
  unfold Group.writePred; split <;> rfl
@[simp] theorem Group.writePred_cf (g : Group) (d : Dst) (m : Mask) (f : Nat → Bool) : (g.writePred d m f).cf = g.cf := by
  unfold Group.writePred; split <;> rfl
@[simp] theorem Group.writePred_b (g : Group) (d : Dst) (m : Mask) (f : Nat → Bool) : (g.writePred d m f).b = g.b := by
  unfold Group.writePred; split <;> rfl
@[simp] theorem Group.writePred_t (g : Group) (d : Dst) (m : Mask) (f : Nat → Bool) : (g.writePred d m f).t = g.t := by
  unfold Group.writePred; split <;> rfl
@[simp] theorem Group.writePred_q (g : Group) (d : Dst) (m : Mask) (f : Nat → Bool) : (g.writePred d m f).q = g.q := by
  unfold Group.writePred; split <;> rfl
@[simp] theorem Group.writePred_sys (g : Group) (d : Dst) (m : Mask) (f : Nat → Bool) : (g.writePred d m f).sys = g.sys := by
  unfold Group.writePred; split <;> rfl
@[simp] theorem Group.writePred_pend (g : Group) (d : Dst) (m : Mask) (f : Nat → Bool) : (g.writePred d m f).pend = g.pend := by
  unfold Group.writePred; split <;> rfl
@[simp] theorem Group.writePred_mu (g : Group) (d : Dst) (m : Mask) (f : Nat → Bool) : (g.writePred d m f).mu = g.mu := by
  unfold Group.writePred; split <;> rfl
@[simp] theorem Group.writePred_lane (g : Group) (d : Dst) (m : Mask) (f : Nat → Bool) : (g.writePred d m f).lane = g.lane := by
  unfold Group.writePred; split <;> rfl
@[simp] theorem Group.writePred_unwaited (g : Group) (d : Dst) (m : Mask) (f : Nat → Bool) :
    (g.writePred d m f).unwaited = g.unwaited := by
  unfold Group.writePred; split <;> rfl
@[simp] theorem Group.writePred_shadow (g : Group) (d : Dst) (m : Mask) (f : Nat → Bool) :
    (g.writePred d m f).shadow = g.shadow := by
  unfold Group.writePred; split <;> rfl
@[simp] theorem Group.writePred_trap (g : Group) (d : Dst) (m : Mask) (f : Nat → Bool) : (g.writePred d m f).trap = g.trap := by
  unfold Group.writePred; split <;> rfl
@[simp] theorem Group.writePred_pushed (g : Group) (d : Dst) (m : Mask) (f : Nat → Bool) :
    (g.writePred d m f).pushed = g.pushed := by
  unfold Group.writePred; split <;> rfl
@[simp] theorem Group.writePred_ended (g : Group) (d : Dst) (m : Mask) (f : Nat → Bool) :
    (g.writePred d m f).ended = g.ended := by
  unfold Group.writePred; split <;> rfl
@[simp] theorem Group.writePred_cEnded (g : Group) (d : Dst) (m : Mask) (f : Nat → Bool) :
    (g.writePred d m f).cEnded = g.cEnded := by
  unfold Group.writePred; split <;> rfl
@[simp] theorem Group.writePred_slices (g : Group) (d : Dst) (m : Mask) (f : Nat → Bool) :
    (g.writePred d m f).slices = g.slices := by
  unfold Group.writePred; split <;> rfl
@[simp] theorem Group.writePred_lastQ (g : Group) (d : Dst) (m : Mask) (f : Nat → Bool) :
    (g.writePred d m f).lastQ = g.lastQ := by
  unfold Group.writePred; split <;> rfl
@[simp] theorem Group.writePred_saved (g : Group) (d : Dst) (m : Mask) (f : Nat → Bool) :
    (g.writePred d m f).saved = g.saved := by
  unfold Group.writePred; split <;> rfl
@[simp] theorem Group.writePred_saveReq (g : Group) (d : Dst) (m : Mask) (f : Nat → Bool) :
    (g.writePred d m f).saveReq = g.saveReq := by
  unfold Group.writePred; split <;> rfl
@[simp] theorem Group.writePred_saving (g : Group) (d : Dst) (m : Mask) (f : Nat → Bool) :
    (g.writePred d m f).saving = g.saving := by
  unfold Group.writePred; split <;> rfl
@[simp] theorem Group.writePred_commits (g : Group) (d : Dst) (m : Mask) (f : Nat → Bool) :
    (g.writePred d m f).commits = g.commits := by
  unfold Group.writePred; split <;> rfl
@[simp] theorem Group.writePred_arrivals (g : Group) (d : Dst) (m : Mask) (f : Nat → Bool) :
    (g.writePred d m f).arrivals = g.arrivals := by
  unfold Group.writePred; split <;> rfl
@[simp] theorem Group.writePred_arrived (g : Group) (d : Dst) (m : Mask) (f : Nat → Bool) :
    (g.writePred d m f).arrived = g.arrived := by
  unfold Group.writePred; split <;> rfl
@[simp] theorem Group.writePred_fenced (g : Group) (d : Dst) (m : Mask) (f : Nat → Bool) :
    (g.writePred d m f).fenced = g.fenced := by
  unfold Group.writePred; split <;> rfl
@[simp] theorem Group.writePred_due (g : Group) (d : Dst) (m : Mask) (f : Nat → Bool) : (g.writePred d m f).due = g.due := by
  unfold Group.writePred; split <;> rfl
@[simp] theorem Group.writePred_freed (g : Group) (d : Dst) (m : Mask) (f : Nat → Bool) :
    (g.writePred d m f).freed = g.freed := by
  unfold Group.writePred; split <;> rfl
@[simp] theorem Group.writePred_outer (g : Group) (d : Dst) (m : Mask) (f : Nat → Bool) :
    (g.writePred d m f).outer = g.outer := by
  unfold Group.writePred; split <;> rfl
@[simp] theorem Group.writePred_session (g : Group) (d : Dst) (m : Mask) (f : Nat → Bool) :
    (g.writePred d m f).session = g.session := by
  unfold Group.writePred; split <;> rfl
@[simp] theorem Group.writePred_regroup (g : Group) (d : Dst) (m : Mask) (f : Nat → Bool) :
    (g.writePred d m f).regroup = g.regroup := by
  unfold Group.writePred; split <;> rfl
@[simp] theorem Group.writePred_upTo (g : Group) (d : Dst) (m : Mask) (f : Nat → Bool) : (g.writePred d m f).upTo = g.upTo := by
  unfold Group.writePred; split <;> rfl

@[simp] theorem Group.stepped_who (g : Group) (k : Nat) : (g.stepped k).who = g.who := rfl
@[simp] theorem Group.stepped_a (g : Group) (k : Nat) : (g.stepped k).a = g.a := rfl
@[simp] theorem Group.stepped_apc (g : Group) (k : Nat) : (g.stepped k).apc = g.apc := rfl
@[simp] theorem Group.stepped_stop (g : Group) (k : Nat) : (g.stepped k).stop = g.stop := rfl
@[simp] theorem Group.stepped_ablk (g : Group) (k : Nat) : (g.stepped k).ablk = g.ablk := rfl
@[simp] theorem Group.stepped_asince (g : Group) (k : Nat) : (g.stepped k).asince = g.asince := rfl
@[simp] theorem Group.stepped_cf (g : Group) (k : Nat) : (g.stepped k).cf = g.cf := rfl
@[simp] theorem Group.stepped_b (g : Group) (k : Nat) : (g.stepped k).b = g.b := rfl
@[simp] theorem Group.stepped_t (g : Group) (k : Nat) : (g.stepped k).t = g.t := rfl
@[simp] theorem Group.stepped_q (g : Group) (k : Nat) : (g.stepped k).q = g.q := rfl
@[simp] theorem Group.stepped_sys (g : Group) (k : Nat) : (g.stepped k).sys = g.sys := rfl
@[simp] theorem Group.stepped_pend (g : Group) (k : Nat) : (g.stepped k).pend = g.pend := rfl
@[simp] theorem Group.stepped_mu (g : Group) (k : Nat) : (g.stepped k).mu = g.mu := rfl
@[simp] theorem Group.stepped_lane (g : Group) (k : Nat) : (g.stepped k).lane = g.lane := rfl
@[simp] theorem Group.stepped_unwaited (g : Group) (k : Nat) : (g.stepped k).unwaited = g.unwaited := rfl
@[simp] theorem Group.stepped_shadow (g : Group) (k : Nat) : (g.stepped k).shadow = g.shadow := rfl
@[simp] theorem Group.stepped_trap (g : Group) (k : Nat) : (g.stepped k).trap = g.trap := rfl
@[simp] theorem Group.stepped_pushed (g : Group) (k : Nat) : (g.stepped k).pushed = g.pushed := rfl
@[simp] theorem Group.stepped_ended (g : Group) (k : Nat) : (g.stepped k).ended = g.ended := rfl
@[simp] theorem Group.stepped_cEnded (g : Group) (k : Nat) : (g.stepped k).cEnded = g.cEnded := rfl
@[simp] theorem Group.stepped_slices (g : Group) (k : Nat) : (g.stepped k).slices = g.slices := rfl
@[simp] theorem Group.stepped_lastQ (g : Group) (k : Nat) : (g.stepped k).lastQ = g.lastQ := rfl
@[simp] theorem Group.stepped_saved (g : Group) (k : Nat) : (g.stepped k).saved = g.saved := rfl
@[simp] theorem Group.stepped_saveReq (g : Group) (k : Nat) : (g.stepped k).saveReq = g.saveReq := rfl
@[simp] theorem Group.stepped_saving (g : Group) (k : Nat) : (g.stepped k).saving = g.saving := rfl
@[simp] theorem Group.stepped_commits (g : Group) (k : Nat) : (g.stepped k).commits = g.commits := rfl
@[simp] theorem Group.stepped_arrivals (g : Group) (k : Nat) : (g.stepped k).arrivals = g.arrivals := rfl
@[simp] theorem Group.stepped_arrived (g : Group) (k : Nat) : (g.stepped k).arrived = g.arrived := rfl
@[simp] theorem Group.stepped_fenced (g : Group) (k : Nat) : (g.stepped k).fenced = g.fenced := rfl
@[simp] theorem Group.stepped_due (g : Group) (k : Nat) : (g.stepped k).due = g.due := rfl
@[simp] theorem Group.stepped_freed (g : Group) (k : Nat) : (g.stepped k).freed = g.freed := rfl
@[simp] theorem Group.stepped_outer (g : Group) (k : Nat) : (g.stepped k).outer = g.outer := rfl
@[simp] theorem Group.stepped_session (g : Group) (k : Nat) : (g.stepped k).session = g.session := rfl
@[simp] theorem Group.stepped_regroup (g : Group) (k : Nat) : (g.stepped k).regroup = g.regroup := rfl
@[simp] theorem Group.stepped_upTo (g : Group) (k : Nat) : (g.stepped k).upTo = g.upTo := rfl

@[simp] theorem Group.popped_who (g : Group) (now : Nat) (b : Bool) : (g.popped now b).who = g.who := by
  unfold Group.popped; split <;> rfl
@[simp] theorem Group.popped_a (g : Group) (now : Nat) (b : Bool) : (g.popped now b).a = g.a := by
  unfold Group.popped; split <;> rfl
@[simp] theorem Group.popped_apc (g : Group) (now : Nat) (b : Bool) : (g.popped now b).apc = g.apc := by
  unfold Group.popped; split <;> rfl
@[simp] theorem Group.popped_stop (g : Group) (now : Nat) (b : Bool) : (g.popped now b).stop = g.stop := by
  unfold Group.popped; split <;> rfl
@[simp] theorem Group.popped_ablk (g : Group) (now : Nat) (b : Bool) : (g.popped now b).ablk = g.ablk := by
  unfold Group.popped; split <;> rfl
@[simp] theorem Group.popped_asince (g : Group) (now : Nat) (b : Bool) : (g.popped now b).asince = g.asince := by
  unfold Group.popped; split <;> rfl
@[simp] theorem Group.popped_cs (g : Group) (now : Nat) (b : Bool) : (g.popped now b).cs = g.cs := by
  unfold Group.popped; split <;> rfl
@[simp] theorem Group.popped_cf (g : Group) (now : Nat) (b : Bool) : (g.popped now b).cf = g.cf := by
  unfold Group.popped; split <;> rfl
@[simp] theorem Group.popped_b (g : Group) (now : Nat) (b : Bool) : (g.popped now b).b = g.b := by
  unfold Group.popped; split <;> rfl
@[simp] theorem Group.popped_t (g : Group) (now : Nat) (b : Bool) : (g.popped now b).t = g.t := by
  unfold Group.popped; split <;> rfl
@[simp] theorem Group.popped_q (g : Group) (now : Nat) (b : Bool) : (g.popped now b).q = g.q := by
  unfold Group.popped; split <;> rfl
@[simp] theorem Group.popped_sys (g : Group) (now : Nat) (b : Bool) : (g.popped now b).sys = g.sys := by
  unfold Group.popped; split <;> rfl
@[simp] theorem Group.popped_pend (g : Group) (now : Nat) (b : Bool) : (g.popped now b).pend = g.pend := by
  unfold Group.popped; split <;> rfl
@[simp] theorem Group.popped_mu (g : Group) (now : Nat) (b : Bool) : (g.popped now b).mu = g.mu := by
  unfold Group.popped; split <;> rfl
@[simp] theorem Group.popped_lane (g : Group) (now : Nat) (b : Bool) : (g.popped now b).lane = g.lane := by
  unfold Group.popped; split <;> rfl
@[simp] theorem Group.popped_unwaited (g : Group) (now : Nat) (b : Bool) : (g.popped now b).unwaited = g.unwaited := by
  unfold Group.popped; split <;> rfl
@[simp] theorem Group.popped_shadow (g : Group) (now : Nat) (b : Bool) : (g.popped now b).shadow = g.shadow := by
  unfold Group.popped; split <;> rfl
@[simp] theorem Group.popped_trap (g : Group) (now : Nat) (b : Bool) : (g.popped now b).trap = g.trap := by
  unfold Group.popped; split <;> rfl
@[simp] theorem Group.popped_pushed (g : Group) (now : Nat) (b : Bool) : (g.popped now b).pushed = g.pushed := by
  unfold Group.popped; split <;> rfl
@[simp] theorem Group.popped_ended (g : Group) (now : Nat) (b : Bool) : (g.popped now b).ended = g.ended := by
  unfold Group.popped; split <;> rfl
@[simp] theorem Group.popped_cEnded (g : Group) (now : Nat) (b : Bool) : (g.popped now b).cEnded = g.cEnded := by
  unfold Group.popped; split <;> rfl
@[simp] theorem Group.popped_slices (g : Group) (now : Nat) (b : Bool) : (g.popped now b).slices = g.slices := by
  unfold Group.popped; split <;> rfl
@[simp] theorem Group.popped_saved (g : Group) (now : Nat) (b : Bool) : (g.popped now b).saved = g.saved := by
  unfold Group.popped; split <;> rfl
@[simp] theorem Group.popped_saveReq (g : Group) (now : Nat) (b : Bool) : (g.popped now b).saveReq = g.saveReq := by
  unfold Group.popped; split <;> rfl
@[simp] theorem Group.popped_saving (g : Group) (now : Nat) (b : Bool) : (g.popped now b).saving = g.saving := by
  unfold Group.popped; split <;> rfl
@[simp] theorem Group.popped_commits (g : Group) (now : Nat) (b : Bool) : (g.popped now b).commits = g.commits := by
  unfold Group.popped; split <;> rfl
@[simp] theorem Group.popped_arrivals (g : Group) (now : Nat) (b : Bool) : (g.popped now b).arrivals = g.arrivals := by
  unfold Group.popped; split <;> rfl
@[simp] theorem Group.popped_arrived (g : Group) (now : Nat) (b : Bool) : (g.popped now b).arrived = g.arrived := by
  unfold Group.popped; split <;> rfl
@[simp] theorem Group.popped_fenced (g : Group) (now : Nat) (b : Bool) : (g.popped now b).fenced = g.fenced := by
  unfold Group.popped; split <;> rfl
@[simp] theorem Group.popped_due (g : Group) (now : Nat) (b : Bool) : (g.popped now b).due = g.due := by
  unfold Group.popped; split <;> rfl
@[simp] theorem Group.popped_freed (g : Group) (now : Nat) (b : Bool) : (g.popped now b).freed = g.freed := by
  unfold Group.popped; split <;> rfl
@[simp] theorem Group.popped_outer (g : Group) (now : Nat) (b : Bool) : (g.popped now b).outer = g.outer := by
  unfold Group.popped; split <;> rfl
@[simp] theorem Group.popped_session (g : Group) (now : Nat) (b : Bool) : (g.popped now b).session = g.session := by
  unfold Group.popped; split <;> rfl
@[simp] theorem Group.popped_regroup (g : Group) (now : Nat) (b : Bool) : (g.popped now b).regroup = g.regroup := by
  unfold Group.popped; split <;> rfl
@[simp] theorem Group.popped_upTo (g : Group) (now : Nat) (b : Bool) : (g.popped now b).upTo = g.upTo := by
  unfold Group.popped; split <;> rfl

@[simp] theorem CSide.wv_c (c : CSide) (n : Nat) (m : Mask) (x : Lanes) : (c.wv n m x).c = c.c := rfl
@[simp] theorem CSide.wv_p (c : CSide) (n : Nat) (m : Mask) (x : Lanes) : (c.wv n m x).p = c.p := rfl
@[simp] theorem CSide.wv_splits (c : CSide) (n : Nat) (m : Mask) (x : Lanes) : (c.wv n m x).splits = c.splits := rfl
@[simp] theorem CSide.wv_tags (c : CSide) (n : Nat) (m : Mask) (x : Lanes) : (c.wv n m x).tags = c.tags := rfl
@[simp] theorem CSide.wv_present (c : CSide) (n : Nat) (m : Mask) (x : Lanes) : (c.wv n m x).present = c.present := rfl
@[simp] theorem CSide.wv_exited (c : CSide) (n : Nat) (m : Mask) (x : Lanes) : (c.wv n m x).exited = c.exited := rfl
@[simp] theorem CSide.wv_threadId (c : CSide) (n : Nat) (m : Mask) (x : Lanes) : (c.wv n m x).threadId = c.threadId := rfl
@[simp] theorem CSide.wv_stuck (c : CSide) (n : Nat) (m : Mask) (x : Lanes) : (c.wv n m x).stuck = c.stuck := rfl

@[simp] theorem CSide.wp_v (c : CSide) (n : Nat) (m x : Mask) : (c.wp n m x).v = c.v := rfl
@[simp] theorem CSide.wp_c (c : CSide) (n : Nat) (m x : Mask) : (c.wp n m x).c = c.c := rfl
@[simp] theorem CSide.wp_splits (c : CSide) (n : Nat) (m x : Mask) : (c.wp n m x).splits = c.splits := rfl
@[simp] theorem CSide.wp_tags (c : CSide) (n : Nat) (m x : Mask) : (c.wp n m x).tags = c.tags := rfl
@[simp] theorem CSide.wp_present (c : CSide) (n : Nat) (m x : Mask) : (c.wp n m x).present = c.present := rfl
@[simp] theorem CSide.wp_exited (c : CSide) (n : Nat) (m x : Mask) : (c.wp n m x).exited = c.exited := rfl
@[simp] theorem CSide.wp_threadId (c : CSide) (n : Nat) (m x : Mask) : (c.wp n m x).threadId = c.threadId := rfl
@[simp] theorem CSide.wp_stuck (c : CSide) (n : Nat) (m x : Mask) : (c.wp n m x).stuck = c.stuck := rfl

@[simp] theorem CSide.setSp_v (c : CSide) (k : Nat) (x : Split) : (c.setSp k x).v = c.v := rfl
@[simp] theorem CSide.setSp_c (c : CSide) (k : Nat) (x : Split) : (c.setSp k x).c = c.c := rfl
@[simp] theorem CSide.setSp_p (c : CSide) (k : Nat) (x : Split) : (c.setSp k x).p = c.p := rfl
@[simp] theorem CSide.setSp_tags (c : CSide) (k : Nat) (x : Split) : (c.setSp k x).tags = c.tags := rfl
@[simp] theorem CSide.setSp_present (c : CSide) (k : Nat) (x : Split) : (c.setSp k x).present = c.present := rfl
@[simp] theorem CSide.setSp_exited (c : CSide) (k : Nat) (x : Split) : (c.setSp k x).exited = c.exited := rfl
@[simp] theorem CSide.setSp_threadId (c : CSide) (k : Nat) (x : Split) : (c.setSp k x).threadId = c.threadId := rfl
@[simp] theorem CSide.setSp_stuck (c : CSide) (k : Nat) (x : Split) : (c.setSp k x).stuck = c.stuck := rfl

@[simp] theorem CSide.updSp_v (c : CSide) (k : Nat) (f : Split → Split) : (c.updSp k f).v = c.v := rfl
@[simp] theorem CSide.updSp_c (c : CSide) (k : Nat) (f : Split → Split) : (c.updSp k f).c = c.c := rfl
@[simp] theorem CSide.updSp_p (c : CSide) (k : Nat) (f : Split → Split) : (c.updSp k f).p = c.p := rfl
@[simp] theorem CSide.updSp_tags (c : CSide) (k : Nat) (f : Split → Split) : (c.updSp k f).tags = c.tags := rfl
@[simp] theorem CSide.updSp_present (c : CSide) (k : Nat) (f : Split → Split) : (c.updSp k f).present = c.present := rfl
@[simp] theorem CSide.updSp_exited (c : CSide) (k : Nat) (f : Split → Split) : (c.updSp k f).exited = c.exited := rfl
@[simp] theorem CSide.updSp_threadId (c : CSide) (k : Nat) (f : Split → Split) : (c.updSp k f).threadId = c.threadId := rfl
@[simp] theorem CSide.updSp_stuck (c : CSide) (k : Nat) (f : Split → Split) : (c.updSp k f).stuck = c.stuck := rfl

@[simp] theorem State.putG_grp? (s : State) (g : Group) : (s.putG g).grp? = some g := by
  simp [State.putG, State.grp?]

@[simp] theorem State.putG_putG (s : State) (g h : Group) : (s.putG g).putG h = s.putG h := by
  simp [State.putG]

theorem State.putG_updG (s : State) (g : Group) (f : Group → Group) : (s.putG g).updG f = s.putG (f g) := by
  simp [State.putG, State.updG]

theorem State.putG_endA (s : State) (g : Group) : (s.putG g).endA = s.putG { g with ablk := none } := by
  simp [State.endA, State.putG_updG]

@[simp] theorem Group.raiseFl_zero (g : Group) : g.raiseFl 0 = g := by
  simp [Group.raiseFl]

end Sys2Proof.Machine
end

