-- ==== Sys2Proof/Laws/Issue.lean ====
section
/-! SUPPORT. What issuing an instruction comes to when it may issue: its own meaning, then the end of the instruction. -/

namespace Sys2Proof.Machine

theorem issueA_grp? {s : State} {i : Instr} {g : Group} (h : issueA s i = some g) : s.grp? = some g := by
  simp only [issueA] at h
  split at h
  · simp at h
  · next g' hg => split at h <;> simp_all

theorem aIssue_of_issueA {s : State} {i : Instr} {g : Group} (h : issueA s i = some g) (body : Group → State → Res) :
    aIssue i body s = finishA i (body g s) := by
  have hg := issueA_grp? h
  simp only [issueA, hg] at h
  split at h
  · next hc =>
    simp only [Bool.and_eq_true, Option.isNone_iff_eq_none, Bool.not_eq_eq_eq_not, Bool.not_true] at hc
    simp [aIssue, hg, hc.1, hc.2]
  · simp at h

theorem finishA_done (i : Instr) (s : State) (g : Group) : finishA i (.done (s.putG g)) = .next (s.doneA g) := by
  simp [finishA, State.putG_endA, State.doneA]

theorem aWrite_of_issueA {s : State} {i : Instr} {g : Group} (h : issueA s i = some g) (d : BitVec 6) (f : Group → Word) :
    aWrite i d f s = .next (s.doneA ((g.wa d.toNat (f g)).adv)) := by
  rw [aWrite, aIssue_of_issueA h, finishA_done]

theorem cIssueN_of_issueC {s : State} {i : Instr} {n : Nat} {x : Issue} (h : issueC s i n = some x)
    (body : CEnv → State → Res) :
    cIssueN i n body s = finishC i x.h ((encodeC i).getD 0) (x.env s) s x.g (body (x.env s) (s.putG (x.past s))) := by
  unfold issueC at h
  split at h
  · next g hh hg hs =>
    split at h
    · simp at h
    · next p hp =>
      split at h
      · simp at h
      · next hc =>
        simp only [Bool.or_eq_true, not_or, Option.isSome_iff_ne_none, not_not] at hc
        obtain ⟨⟨⟨⟨h1, h2⟩, h3⟩, h4⟩, h5⟩ := hc
        simp only [Bool.not_eq_true, bne_eq_false_iff_eq] at h2 h3 h5
        simp only [Bool.and_eq_true, decide_eq_true_eq, not_and] at h4
        split at h
        · next g' es hf =>
          split at h
          · simp at h
          · next hr =>
            simp only [Option.isSome_iff_ne_none, not_not] at hr
            simp only [Option.some.injEq] at h
            subst h
            have h4' : ¬(s.shadowed g = true ∧ 64 ≤ g.behind) := fun a => h4 a.1 a.2
            simp only [cIssueN, hg, hs, hp, h1, h2, h3, h4', h5, hf, hr, if_false, Issue.env, Issue.past, and_false,
              Bool.false_eq_true, Group.popped_cs]
        · simp at h
  · simp at h

theorem cIssue_of_issueC {s : State} {i : Instr} {x : Issue} (h : issueC s i = some x) (body : CEnv → Group → State → Res) :
    cIssue i body s =
      finishC i x.h ((encodeC i).getD 0) (x.env s) s x.g (body (x.env s) (x.past s) (s.putG (x.past s))) := by
  simp only [cIssue, cIssueN_of_issueC h, State.putG_grp?]

theorem issueC_mode {s : State} {i : Instr} {n : Nat} {x : Issue} (h : issueC s i n = some x) : s.cur.mode = 0 := by
  unfold issueC at h
  split at h
  · split at h
    · simp at h
    · split at h
      · simp at h
      · next hc => simp_all
  · simp at h

theorem finishC_done (x : Issue) (s : State) (i : Instr) (w : BitVec 96) (t : State) :
    finishC i x.h w (x.env s) s x.g (.done t) = .next (x.done s i t) := rfl

theorem cLanes_of_issueC {s : State} {i : Instr} {x : Issue} (h : issueC s i = some x) (d : Dst) (ops : List (OpTy × Src))
    (f : Nat → List Word → LRes) :
    cLanes i d ops f s =
      .next (x.done s i
        (((s.putG (((x.past s).writeDst s.cur.split d (x.env s).en (fun l => (f l (x.words s ops l)).w) s.tick).raiseFl
            (flOr ((lanesOf (x.env s).en).map fun l => f l (x.words s ops l))))).countEv
          ((x.past s).writeDst s.cur.split d (x.env s).en (fun l => (f l (x.words s ops l)).w) s.tick).who.lid
          (((lanesOf (x.env s).en).map fun l => f l (x.words s ops l)).map (·.ev)).flatten))) := by
  rw [cLanes, cIssue_of_issueC h]
  simp only [putLanes, State.putG_cur, issueC_mode h, State.putG_putG, State.putG_tick]
  rfl

end Sys2Proof.Machine
end

