-- ==== Sys2Proof/Laws/Ops.lean ====
section
/-! SUPPORT. What the shared operations can answer: issue in either stream, and raising a trap. -/

namespace Sys2Proof.Machine

/-- The end of an A instruction: the next state, a wait, the trap of its group, or the fault of a missing address. -/
theorem finishA_cases (i : Instr) (r : Res) :
    (∃ s, r = .done s ∧ finishA i r = .next s.endA) ∨ (∃ k s, r = .wait k s ∧ finishA i r = .next (s.waitA k)) ∨
      (∃ c s g, r = .trap c s ∧ s.grp? = some g ∧ finishA i r = .next (raise s s.cur.gid (aPending g i c))) ∨
      (∃ c s, r = .trap c s ∧ s.grp? = none ∧ finishA i r = .next s) ∨ ∃ f, r = .stop f ∧ finishA i r = .fault f := by
  cases r with
  | done s => exact .inl ⟨s, rfl, rfl⟩
  | wait k s => exact .inr (.inl ⟨k, s, rfl, rfl⟩)
  | trap c s =>
    cases h : s.grp? with
    | some g => exact .inr (.inr (.inl ⟨c, s, g, rfl, h, by simp [finishA, h]⟩))
    | none => exact .inr (.inr (.inr (.inl ⟨c, s, rfl, h, by simp [finishA, h]⟩)))
  | stop f => exact .inr (.inr (.inr (.inr ⟨f, rfl, rfl⟩)))

/-- Issue of an A instruction: nothing without a group, its trap where a check fails, a wait at the interlock, else its meaning. -/
theorem aIssue_cases (i : Instr) (body : Group → State → Res) (s : State) :
    (s.grp? = none ∧ aIssue i body s = .next s) ∨
      (∃ g c, s.grp? = some g ∧ aCheck s g i = some c ∧ aIssue i body s = .next (raise s s.cur.gid (aPending g i c))) ∨
      (∃ g, s.grp? = some g ∧ aCheck s g i = none ∧ g.locked i = true ∧ aIssue i body s = .next (s.waitA .other)) ∨
      ∃ g, issueA s i = some g ∧ aIssue i body s = finishA i (body g s) := by
  cases h : s.grp? with
  | none => exact .inl ⟨rfl, by simp [aIssue, h]⟩
  | some g =>
    cases hc : aCheck s g i with
    | some c => exact .inr (.inl ⟨g, c, rfl, hc, by simp [aIssue, finishA, h, hc]⟩)
    | none =>
      cases hl : g.locked i with
      | true => exact .inr (.inr (.inl ⟨g, rfl, hc, hl, by simp [aIssue, finishA, h, hc, hl]⟩))
      | false => exact .inr (.inr (.inr ⟨g, by simp [issueA, h, hc, hl], by simp [aIssue, h, hc, hl]⟩))

theorem finishA_ne_refused (i : Instr) (r : Res) (e : Refusal) : finishA i r ≠ .refused e := by
  rcases finishA_cases i r with ⟨_, _, h⟩ | ⟨_, _, _, h⟩ | ⟨_, _, _, _, _, h⟩ | ⟨_, _, _, _, h⟩ | ⟨_, _, h⟩ <;> simp [h]

theorem aIssue_ne_refused (i : Instr) (body : Group → State → Res) (s : State) (e : Refusal) : aIssue i body s ≠ .refused e := by
  rcases aIssue_cases i body s with ⟨_, h⟩ | ⟨_, _, _, _, h⟩ | ⟨_, _, _, _, h⟩ | ⟨g, _, h⟩
  · simp [h]
  · simp [h]
  · simp [h]
  · rw [h]; exact finishA_ne_refused i _ e

theorem finishC_ne_refused (i : Instr) (h : CShape) (w : BitVec 96) (env : CEnv) (s : State) (g : Group) (r : Res) (e : Refusal) :
    finishC i h w env s g r ≠ .refused e := by
  cases r <;> simp [finishC]

theorem cIssueN_ne_refused (i : Instr) (n : Nat) (body : CEnv → State → Res) (s : State) (e : Refusal) :
    cIssueN i n body s ≠ .refused e := by
  unfold cIssueN
  repeat' (first | split | simp only)
  all_goals first
    | exact finishC_ne_refused _ _ _ _ _ _ _ e
    | nofun

theorem cIssue_ne_refused (i : Instr) (body : CEnv → Group → State → Res) (s : State) (e : Refusal) : cIssue i body s ≠ .refused e := by
  unfold cIssue
  exact cIssueN_ne_refused i _ _ s e

/-- Raising a trap: nothing for a group that is gone or has one already, the end of a group in a handler, the entry where nothing of
the group has still to end, else a trap that waits. -/
theorem raise_cases (s : State) (gid : Nat) (p : Pending) :
    raise s gid p = s ∨ (∃ g, s.groups.get? gid = some g ∧ g.sys.frame = true ∧ raise s gid p = doubleTrap s gid p) ∨
      (∃ g, s.groups.get? gid = some g ∧ g.sys.frame = false ∧ raise s gid p = takeTrap s gid p) ∨
      ∃ g, s.groups.get? gid = some g ∧ raise s gid p = (s.unwait gid).setG gid { g with trap := some { p with since := s.tick } } := by
  unfold raise
  split
  · exact .inl rfl
  · next g hg =>
    split
    · exact .inl rfl
    · split
      · next h => exact .inr (.inl ⟨g, hg, h, rfl⟩)
      · next h =>
        split
        · exact .inr (.inr (.inl ⟨g, hg, by simpa using h, rfl⟩))
        · exact .inr (.inr (.inr ⟨g, hg, rfl⟩))

end Sys2Proof.Machine
end

