-- ==== Sys2Proof/Tests/Slice0.lean ====
section
/-! SUPPORT. Tests of the model: ill-formed terms that the checks refuse, words that the spec's encodings give, single steps
whose results the spec states, and for every statement with hypotheses a machine and operands that meet them. -/

namespace Sys2Proof.Tests

open Sys2Proof Sys2Proof.Machine

-- The theorems below are checked one after another: a thread for each would need more memory than the check allows.
set_option Elab.async false

/-! ## Small machines -/

/-- The machine on the first turn of a placed group, before its instruction. -/
def placed (cside : Bool) : State :=
  let t := (placeInstr State.reset cside 4 0).nextTurn
  t.2.begin t.1

/-- The turn of an A-stream with something changed in its group. -/
def tA (f : Group → Group := id) : State := (placed false).updG f

/-- The turn of split 0 within a clause whose SETA is flag 0, with something changed in its group. -/
def tC (f : Group → Group := id) : State := (placed true).updG f

/-- A group with words in A registers. -/
def regs (ws : List (Nat × Nat)) (g : Group) : Group := ws.foldl (fun g w => g.wa w.1 (BitVec.ofNat 32 w.2)) g

/-- A group with a loaded record in B0, and one in a T register. -/
def withB (img : Nat) (g : Group) : Group := { g with b := g.b.set 0 { img := BitVec.ofNat 512 img, loaded := true, busy := 0 } }

def withT (k img : Nat) (g : Group) : Group := { g with t := g.t.set k { img := BitVec.ofNat 512 img, loaded := true, busy := 0 } }

/-- A record of 4,096 words from address 0x1000 (01 R24, 04 R124). -/
def words : Nat := 0x1000 + 4096 * 2 ^ 64 + 4 * 2 ^ 96 + 2 * 2 ^ 120

/-- A filled entry of a vector queue: each lane its number times 4, and all lanes. -/
def entry : VEntry :=
  { data := mkLanes fun l => BitVec.ofNat 32 l, mask := allLanes, fill := .filled, held := false, op := 0, need := [] }

/-- What an instruction leaves in the group whose turn it is. -/
def after (i : Instr) (s : State) : Option Group :=
  match exec i s with
  | .next t => t.grp?
  | _ => none

/-- Whether an A-stream instruction may issue and a condition holds of its group. -/
def issuesA (s : State) (i : Instr) (f : Group → Bool := fun _ => true) : Bool := (issueA s i).any f

/-- The same of a C-stream instruction. -/
def issuesC (s : State) (i : Instr) (f : Issue → Bool := fun _ => true) (n : Nat := 1) : Bool := (issueC s i n).any f

/-- Whether checks of elements pass, with places that no engine owns. -/
def passes (g : Group) (r : State × Checked) (f : State → List (Nat × Loc) → Bool := fun _ _ => true) : Bool :=
  match r with
  | (s, .ok ps) => decide (s.firstOwned g.who.gid s.nextId (ps.map (·.2)) = .free) && f s ps
  | _ => false

/-! ## What the statements of the A-stream assume -/

theorem witness_AluResults : ([Instr.add 1 2 3, .addi 1 2 0x2000, .sub 1 2 3, .and 1 2 3, .andi 1 2 0x3FFF, .or 1 2 3, .ori 1 2 3,
    .xor 1 2 3, .xori 1 2 3, .andn 1 2 3, .shlA 1 2 3, .shli 1 2 31, .shrA 1 2 3, .shri 1 2 0, .sra 1 2 3, .srai 1 2 3,
    .rot 1 2 3, .roti 1 2 3, .slt 1 2 3, .slti 1 2 3, .sltu 1 2 3, .sltiu 1 2 3, .min 1 2 3, .max 1 2 3, .minu 1 2 3,
    .maxu 1 2 3, .mul 1 2 3, .muli 1 2 3, .mulh 1 2 3, .mulhu 1 2 3, .div 1 2 3, .rem 1 2 3, .divu 1 2 3, .remu 1 2 3,
    .clzA 1 2, .popcA 1 2, .brevA 1 2, .sextb 1 2, .sexth 1 2, .lui 0 0xFFFFF].all fun i =>
      issuesA tA i fun g => (Claims.alu g i).isSome) = true := by decide +kernel

theorem witness_BitFieldResults : (issuesA tA (.bfeA 1 2 3) && issuesA tA (.bfiA 1 2 3)) = true := by decide +kernel

theorem witness_BranchResults : (([Instr.beq 1 2 3, .bne 1 2 3, .blt 1 2 3, .bge 1 2 3, .bltu 1 2 3, .bgeu 1 2 0x3FFF].all fun i =>
      issuesA tA i fun g => (Claims.branch g i).isSome) &&
    issuesA tA (.dbnz 1 5) && issuesA tA (.jal 1 5) && issuesA tA (.jalr 1 2 8 ) && tA.grp?.isSome &&
    issuesA (tA (regs [(2, 6)])) (.jalr 1 2 8) fun g => (g.ra 2 + 8).toNat % 4 != 0) = true := by decide +kernel

theorem witness_FeedPushes :
    ([Instr.cls 7, .clsr 1, .spush 1].all fun i =>
      issuesA (tA fun g => { g with cEnded := true }) i &&
      issuesA tA i (fun g => !g.cEnded && decide (g.occ 5 < (tA.pk g).depth 5) && decide (g.occ 4 < (tA.pk g).depth 4)) &&
      issuesA (tA fun g => { g with q := { g.q with clq := List.replicate 4 { val := 0, need := [] },
                                                    svq := List.replicate 16 { val := 0, need := [] } } }) i fun g =>
        !g.cEnded && decide ((tA.pk g).depth 5 ≤ g.occ 5) && decide ((tA.pk g).depth 4 ≤ g.occ 4)) = true := by
  decide +kernel

theorem witness_BpopResult :
    (issuesA tA (.bpop 1) (fun g => g.q.bq.isEmpty) &&
      issuesA (tA fun g => { g with q := { g.q with bq := [{ val := 7, need := [] }] } }) (.bpop 1) (fun g =>
        (g.q.bq.head?).any fun e => g.performed e.need) &&
      issuesA (tA fun g => { g.addPend { id := 9, who := 0, pc := 0, kind := .lda 9 4 false, els := [], acq := 0, rel := 0, got := [] } with
        q := { g.q with bq := [{ val := 7, need := [9] }] } }) (.bpop 1) fun g =>
        (g.q.bq.head?).any fun e => !g.performed e.need) = true := by decide +kernel

theorem witness_MemoryUnitIssues :
    let s := tA (withB words)
    (issuesA s (.ldv 0 0 3 0 0 5) (fun g => (g.record 0).any fun b => s.ldqRoom g 3 &&
        passes g (checkElems s g { code := 1 } 0 b false (packedEls b (g.first 0 (5 : BitVec 9))))) &&
      issuesA s (.ldg 0 0 3 0 0 5) (fun g => (g.record 0).any fun b => decide (b.esz ≤ 2 ∧ g.mu.length < 8) && s.ldqRoom g 3) &&
      issuesA s (.stv 0 0 0 0 5) (fun g => (g.record 0).any fun b => decide (g.mu.length < 8) &&
        passes g (checkElems s g { code := 1 } 1 b false (packedEls b (g.first 0 (5 : BitVec 9))))) &&
      issuesA s (.stx 0 0 0 0 5) (fun g => (g.record 0).any fun b => decide (b.esz ≤ 2 ∧ g.mu.length < 8)) &&
      ([0, 1].all fun ret => issuesA s (.atv 0 0 0 ret 0 0 4) fun g => (g.record 0).any fun b =>
        decide (b.esz = 2 ∧ g.mu.length < 8) && s.ldqRoom g 0)) = true := by decide +kernel

/-- The placed machine with the second page of VF 0 mapped on the frame window (10 R299). -/
def windowed : State := (tA (withB words)).writeLoc { space := .dev, addr := 0xC008 } 8 0x1C2F

theorem witness_ScalarAccessIssues :
    let s := tA (withB words)
    let one := fun (acc : Nat) (g : Group) (b : Buf) => passes g (checkElems s g { code := 1 } acc b true [(0, 5)])
    let w := windowed
    (issuesA s (.lda 1 0 0 0 5) (fun g => (g.record 0).any fun b => decide (b.level ≠ 4 ∧ b.esz ≤ 2) && one 0 g b) &&
      issuesA s (.sta 1 0 0 0 5) (fun g => (g.record 0).any fun b => decide (b.level ≠ 4 ∧ b.esz ≤ 2) && one 1 g b) &&
      issuesA s (.ata 0 1 0 2 3 0 0 4) (fun g => (g.record 0).any fun b => decide (b.level ≠ 4 ∧ b.esz = 2) &&
        decide ((scalarWindow s g b (g.ra 2)).2 = none) &&
        passes g (checkElems (scalarWindow s g b (g.ra 2)).1 g { code := 1 } 2 b true [(0, (g.ra 2).toNat)])) &&
      issuesA (w.updG (regs [(2, 0xC00)])) (.ata 0 1 0 2 3 0 0 4) fun g => (g.record 0).any fun b =>
        decide (b.level ≠ 4 ∧ b.esz = 2) && ((scalarWindow w g b (g.ra 2)).2).any fun off => windowOp 0 off) = true := by
  decide +kernel

/-- Whether an address of VF 0 can be accessed, at a place that no engine owns. -/
def reaches (s : State) (g : Group) (acc va : Nat) (f : State → Loc → Bool := fun _ _ => true) : Bool :=
  match globalAt s (s.lau g).qd.vf g.sys.priv (g.agent { code := 1 }) acc va with
  | (s, .ok l) => decide (s.firstOwned g.who.gid s.nextId [l] = .free) && f s l
  | _ => false

theorem witness_RecordIssues :
    (issuesA (tA (withB words)) (.prf 0 0 0 5) (fun g => (g.record 0).isSome) &&
      issuesA tA (.bld 3 0 4) (fun g => decide ((g.rb 3).busy = 0) && !g.tracing &&
        reaches tA g 0 (((tA.pk g).rtbase + 128) % 2 ^ 64)) &&
      issuesA tA (.tld 3 0 4) (fun g => decide ((g.rt 3).busy = 0) && reaches tA g 0 (((tA.pk g).rtbase + 256) % 2 ^ 64)) &&
      issuesA (tA (withB words)) (.bset 0 1 2) fun g => decide ((g.rb 0).busy = 0) && !g.tracing && (g.rb 0).loaded) = true := by
  decide +kernel

/-! ## Waiting, system instructions, records and engines -/

/-- Whether a wait of the A-stream finds no fault. -/
def quiet (s : State) (g : Group) (mu : Bool) (w : Waits) : Bool := (deliver s g mu w).isNone

theorem witness_CounterWaits :
    ([0, 1].all fun n => [Instr.cwait 1 2, .yieldc 1 2].all fun i =>
      let s := tA (regs [(1, 0x100), (2, n)])
      issuesA s i fun g => decide ((g.ra 1).toNat % 4 = 0) && reaches s g 0 (g.ra 1).toNat fun s1 l =>
        decide (s1.grp? = some g) && quiet s1 g true (.counter 0x100) && !g.acqBefore s1.nextId &&
          !(g.pend.any fun o => overlap o (aOp s1.nextId g.apc (.lda 0 4 false) [(0, l)] 0 0)) &&
          decide (0 ≤ (BitVec.ofNat 32 (leNat (s1.readPast (s1.user g) l 4).2) - g.ra 2).toInt) == (n == 0)) = true := by decide +kernel

theorem witness_WaitfResults :
    (issuesA tA (.waitf 0xFFF) (fun g => quiet tA g true .none && (List.range 12).all fun n => g.cfn n == 0) &&
      issuesA (tA fun g => g.attach 11) (.waitf 0x800) fun g => quiet tA g true .none && g.cfn 11 != 0) = true := by
  decide +kernel

/-- A machine with barrier 0 of its team set. -/
def withBar (b : Bar) (s : State) : State := s.setBar ((s.grp?.map (·.who.tid)).getD 0) 0 b

/-- A barrier of two with an arrival. -/
def halfway : Bar := { exp := 2, init := 2, cnt := 1, phase := false, owed := [7], rel := [], wait := [(7, 4)], go := [], engZero := [] }

/-- A group with a store in flight, which an arrival waits for. -/
def storing (g : Group) : Group :=
  g.addPend { id := 9, who := 4, pc := 0, kind := .sta 0 4, els := [], acq := 0, rel := 0, got := [] }

theorem witness_BarrierResults :
    (issuesA (tA (regs [(1, 65535)])) (.binit 1 15) (fun g => decide (15 < (tA.pk g).bars ∧ 1 ≤ (g.ra 1).toNat ∧
        (g.ra 1).toNat ≤ 65535 ∧ (tA.bar g.who.tid 15).cnt = 0) && !g.arriving 15 4) &&
      (let s := withBar halfway (tA (regs [(1, 65533)]))
       issuesA s (.bexp 1 0) (fun g => decide ((s.bar g.who.tid 0).exp ≠ 0 ∧ (s.bar g.who.tid 0).exp + (g.ra 1).toNat ≤ 65535) &&
          !g.arriving 0 4) &&
        issuesA s (.barv 0) (fun g => decide ((s.bar g.who.tid 0).exp ≠ 0) && g.performed g.aPend && !g.arriving 0 4) &&
        issuesA (s.updG storing) (.barv 0) (fun g => decide ((s.bar g.who.tid 0).exp ≠ 0) && !g.performed g.aPend) &&
        issuesA s (.btry 1 0) (fun g => quiet s g false (.bar 0) && decide (g.who.gid ∉ (s.bar g.who.tid 0).rel))) &&
      (let s := withBar { halfway with rel := [1] } tA
       issuesA s (.btry 1 0) fun g => quiet s g false (.bar 0) && decide (g.who.gid ∈ (s.bar g.who.tid 0).rel))) = true := by
  decide +kernel

theorem witness_BarrierWaits :
    ([halfway, { halfway with rel := [1] }, { halfway with wait := [(1, 4)] }, { halfway with go := [(1, 4)] }].all fun b =>
      let s := withBar b (tA fun g => { g with arrived := some g.apc })
      [Instr.bwaita 0, .barvw 0].all fun i => issuesA s i fun g => quiet s g true (.bar 0) && decide (g.arrived = some g.apc) &&
        !g.arriving 0 4) = true ∧
    (let s := withBar halfway (tA fun g => { g with arrived := some g.apc, arrivals := [{ nb := 0, stream := 4, need := [9] }] })
     [Instr.bwaita 0, .barvw 0].all fun i => issuesA s i fun g => quiet s g true (.bar 0) && g.arriving 0 4) = true := by decide +kernel

/-- The first arrival of a BARVW, at once or later, and a BARVW and a BWAITA that complete. -/
theorem witness_BarrierCompletions :
    (let s := withBar halfway tA
     issuesA s (.barvw 0) fun g => quiet s g true (.bar 0) && decide (g.arrived ≠ some g.apc ∧ (s.bar g.who.tid 0).exp ≠ 0) &&
       g.performed g.aPend && !g.arriving 0 4 && decide ((g.who.gid, 4) ∉ (s.bar g.who.tid 0).go ∧ (g.who.gid, 4) ∉ (s.bar g.who.tid 0).wait ∧
         (s.bar g.who.tid 0).cnt + 1 = (s.bar g.who.tid 0).exp)) = true ∧
    (let s := withBar halfway (tA storing)
     issuesA s (.barvw 0) fun g => quiet s g true (.bar 0) && decide (g.arrived ≠ some g.apc ∧ (s.bar g.who.tid 0).exp ≠ 0) &&
       !g.performed g.aPend) = true ∧
    (let s := withBar { halfway with rel := [1] } tA
     issuesA s (.bwaita 0) fun g => quiet s g true (.bar 0) && !g.arriving 0 4 && decide (g.who.gid ∈ (s.bar g.who.tid 0).rel ∧
       (g.who.gid, 4) ∉ (s.bar g.who.tid 0).go ∧ (g.who.gid, 4) ∉ (s.bar g.who.tid 0).wait)) = true ∧
    halfway.cnt + 1 = halfway.exp := by decide +kernel

/-- 04 R145: the arrival of a BARVW that meets the expected count completes the phase, and the A-stream goes on. -/
theorem test_barvw_completes : (after (.barvw 0) (withBar halfway tA)).map (fun g => (g.apc, g.arrived)) = some (4, none) := by
  decide +kernel

theorem witness_FenceResults :
    ([Instr.fenceAcq 4 1, .fenceRel 4 1, .fenceAcqrel 4 1].all fun i => issuesA tA i fun g =>
      quiet tA g true .none && !tA.engBusy g && !g.lanesBusy tA.nextId && !g.loadsPending && !g.cLoads tA.nextId && !g.opsPending &&
        g.fenced.isNone) = true := by decide +kernel

theorem witness_SystemResults :
    (issuesA tA .nop && issuesA tA .yield && issuesA tA .csync (fun g => quiet tA g true .none && g.cQuiet) &&
      issuesA (tA fun g => { g with pushed := 1 }) .csync (fun g => quiet tA g true .none && !g.cQuiet) &&
      issuesA tA .haltd (fun g => g.atBoundary) && issuesA tC .haltd fun g => !g.atBoundary) = true := by decide +kernel

theorem witness_SpecialRegisters :
    ((tA.grp?.any fun g => (Claims.special tA g).all fun r => issuesA tA (.rdsr 1 (BitVec.ofNat 10 r.1)) fun h =>
        decide (r ∈ Claims.special tA h)) &&
      issuesA tA (.rdtime 60) && [0x000, 0x001, 0x100, 0x101, 0x102, 0x103, 0x104, 0x014].all fun n =>
        issuesA tA (.wrsr 1 n)) = true := by decide +kernel

theorem witness_PrivilegeTraps :
    let s := tA fun g => { g with sys.priv := false }
    ([Instr.rdsr 1 0x100, .wrsr 1 0x107, .tret, .haltd].all fun i => s.grp?.any fun g => !g.sys.priv && (violation i).isNone &&
      (aNamed i).all fun r => decide (r.1 < (s.pk g).aregs ∨ 61 ≤ r.1 ∧ r.1 ≤ 63)) = true := by decide +kernel

/-- VF 0 of the placed machine with its first 32 MiB in the memory of host port 0, where a save slot is written. -/
def slotted (f : Group → Group := id) : State := (tA f).writeLoc { space := .dev, addr := 0x8000 } 8 0x191F

theorem witness_TretResult :
    let s := slotted fun g => { g with sys.frame := true }
    (issuesA tA .tret (fun g => !g.sys.frame) && issuesA s .tret fun g => quiet s g true .none && g.cQuiet &&
      ((List.range 12).all fun n => decide (g.cfn n ≤ s.feedCount g n)) && !s.tretWaits g && g.pend.isEmpty &&
      decide (s.groups.get? g.who.gid = some g) && (returnTrap s g.who.gid).2.isNone &&
      match (s.readVa (s.lau g).qd.vf true g.frameVa 256).2 with | .ok _ => true | .error _ => false) = true := by
  decide +kernel

theorem witness_ExitResult :
    let ok := fun (s : State) (g : Group) => decide (g.pushed ≤ g.ended) && (g.pend.all fun o => o.who == 4) && quiet s g true .all && !g.storesLeft &&
      !s.engLeft g && g.lane.isEmpty && g.shadow.isNone
    let s := tA fun g => { g with session := some (9, 1) }
    (issuesA tA .exit (fun g => ok tA g && g.session.isNone) && issuesA s .exit fun g => ok s g && g.session.isSome) = true := by
  decide +kernel

/-- The placed machine with queue 0 enabled for VF 0, and node 0 of its work graph, whose pool has 8 records (11 R305, R324). -/
def graph (f : Group → Group) (y : Galley) : State :=
  let s := tA f
  let s := (s.writeLoc { space := .dev, addr := 0x2000C } 4 0x40000).writeLoc { space := .dev, addr := 0x20018 } 1 1
  let s := s.writeLoc { space := .dev, addr := placePage + 0x0A } 1 4
  { s with regs.qtbase := 0x20001, regs.sched := [0x10000], galley := [(0, y)] }

def pool8 : Galley := { Galley.new with pooln := 8 }

theorem witness_RecordPoolResults :
    let s := graph (regs [(2, 0), (3, 8)]) pool8
    let y := { pool8 with used := [0, 1, 2], handles := [{ idx := 0, n := 3, done := 1, gid := 1, node := 0, depth := 0 }] }
    let u := fun n => graph (regs [(2, 0), (3, n)]) y
    (issuesA s (.ralloc 1 2 3) (fun g => decide (g.stop ≠ .ralloc ∧ g.saveReq = none) && quiet s g true .none &&
        (let r := s.node 0 0
         rallocOk r.1 g 0 0 8 r.2 && (r.1.gal 0).waits.isEmpty && ((r.1.gal 0).grant 8 (numAt r.2 0x10 2)).isSome)) &&
      ([0, 2].all fun n => issuesA (u n) (.rcommit 2 3) fun g => decide (g.saveReq = none ∧ (u n).cur.gid = g.who.gid) &&
        g.performed g.aPend && g.commits.isEmpty &&
        (((u n).gal 0).handle? g.who.gid 0).any fun h => decide (h.done + (g.ra 3).toNat ≤ h.n)) &&
      issuesA (u 0) (.rdone 2) (fun g => decide (g.saveReq = none) && (((u 0).gal 0).handle? g.who.gid 0).isSome) &&
      issuesA tA (.rinput 1 2) (fun g => g.saveReq.isNone) && issuesA tA (.rdepth 1) fun g => g.saveReq.isNone) = true := by
  decide +kernel

/-- A tensor record from 0x2000: format, extents, and in bits 97 to 96 its kind (04 R139). -/
def tensor (fmt : Nat) (exts : List Nat) (kind : Nat := 0) (slot : Nat := 0) : Nat :=
  0x2000 + slot * 0x400 + fmt * 2 ^ 53 + exts.length * 2 ^ 58 + kind * 2 ^ 96 +
    (exts.zipIdx.map fun e => (e.1 + 2 ^ 24 + 8 ^ e.2 * 2 ^ 32) * 2 ^ (128 + 64 * e.2)).sum

theorem witness_EngineIssues :
    let s := tA fun g => withT 0 (tensor 0 [4, 4]) (withT 1 (tensor 0 [4, 4] 0 1) (regs [(9, 0x100)] g))
    let shapes := fun (g : Group) => (g.tensor 0).any fun t => (g.tensor 1).any fun u =>
      decide (g.saveReq = none ∧ t.kind ≠ 2 ∧ u.kind ≠ 2 ∧ t.ndim = u.ndim ∧ fmtBits t.fmt = fmtBits u.fmt) &&
        ((g.copyRegs 0 4).all fun r => decide (r ≤ 63 ∧ (r < (s.pk g).aregs ∨ 61 ≤ r))) && !g.lockedAt (g.copyRegs 0 4)
    let seg := 0x1000 + 16 * 2 ^ 64 + 32 * 2 ^ 96 + 5 * 2 ^ 120
    let c := tA fun g => withB seg (withT 0 (tensor 7 [4, 4]) (withT 1 (tensor 7 [4, 4] 1 1) g))
    (issuesA s (.cpyBar 0 1 4 15 4 0) (fun g => shapes g && decide (15 < (s.pk g).bars ∧ s.copySlots g.who.core ≠ 0)) &&
      issuesA s (.cpyCnt 0 1 4 9 4 0) (fun g => shapes g && decide ((g.ra 9).toNat % 4 = 0) &&
        reaches s g 2 (g.ra 9).toNat fun t _ => decide (t.copySlots g.who.core ≠ 0)) &&
      issuesA c (.cover 0 0 1 2 0 4 15) (fun g => decide (g.saveReq = none ∧ (g.rb 0).busy = 0) && (g.rb 0).loaded &&
        (Buf.of ((g.rb 0).img.toNat % 2 ^ 256)).okSeg && (g.tensor 0).any fun t =>
          (coverCheck c g (Buf.of ((g.rb 0).img.toNat % 2 ^ 256)) t 15 (g.ra 2).toNat).isNone) &&
      issuesA c (.tstore 0 1 4 15 0) fun g => decide (g.saveReq = none ∧ 15 < (c.pk g).bars) && (g.tensor 0).any fun t =>
        (g.tensor 1).any fun u => tstoreOk t u) = true := by decide +kernel

/-- A session of the placed group alone, bound from V0 (07 R220). -/
def session (fa fb fo : Nat) : Session :=
  { quad := 0, entry := 0, formed := 0, order := 0, lid := 1, words := 0, fa, fb, fo, dist := false, tiles := 4, prio := 0,
    parts := [{ gid := 1, tid := 1, nb := 0, left := false, vb := 0, feeds := 0, latched := 0, flags := [] }], steps := 0,
    lastRows := [], lastCnt := [], resident := false, zero := [0, 1, 2, 3], z := [], saved := false, passes := [], doneN := 0,
    empty := false, lastGrant := 0 }

/-- The placed group as the leader of a session. -/
def leading (ss : Session) (f : Group → Group := id) : State :=
  { tA (fun g => { f g with session := some (9, 0) }) with sessions := [(9, ss)] }

/-- The placed group with the cluster of one quad and a save slot that holds a matrix area (07 R221, 12 R331). -/
def binding : State :=
  tA.updL 1 fun l => { l with pk := { l.pk with w := 2, h := 2, vregs := 64 }, qd := { l.qd with slot64 := 2 } }

/-- A convolution record of a 3 by 3 kernel over 16 channels (04 R140). -/
def conv33 : Nat := 2 * 2 ^ 96 + 3 * 2 ^ 128 + 3 * 2 ^ 136 + 2 ^ 144 + 2 ^ 152 + 2 ^ 160 + 2 ^ 168 + 16 * 2 ^ 208 + 16 * 2 ^ 224

theorem witness_MatrixIssues :
    let free := fun (s : State) (g : Group) (z : Nat) => decide (g.saveReq = none) &&
      (s.mySession g).any fun x => x.2.2 == 0 && mayPass x.2.1 0 z && decide (x.2.1.passes.length < 4)
    let s := leading (session 0 0 0) fun g => withT 1 (tensor 0 [64, 64]) (withT 2 (tensor 0 [64, 64, 4, 4]) (withT 3 conv33 g))
    let u := leading (session 19 19 9) fun g => withT 1 (tensor 8 [64, 64]) g
    (issuesA binding (.mxbind 0 0 0 0 0 3 0 0 15) (fun g => decide (g.stop ≠ .bind ∧ g.saveReq = none ∧
        2 * bankRegs 0 ≤ (binding.pk g).vregs ∧ g.session = none ∧ (binding.pk g).w % 2 = 0 ∧ (binding.pk g).h % 2 = 0 ∧
        15 < (binding.pk g).bars ∧ spillOff (binding.pk g).vregs + 49408 ≤ 65536 * (binding.lau g).qd.slot64) &&
        (binding.mates g).isEmpty) &&
      issuesA s (.mxloop 1 4 3 1 8 15 0 0 0) (fun g => free s g 3 && (g.tensor 1).any fun t => t.is 2 0) &&
      issuesA s (.mxconv 2 3 4 3 1 8 15 0 0 0) (fun g => free s g 3 && ((g.tensor 2).any fun t => t.is 4 0) &&
        ((g.tensor 3).any fun t => t.kind == 2) && !isBq 0 && !(Conv.of (g.rt 3).img.toNat).dw1) &&
      issuesA u (.mxsel 3 16 0 1 4) (fun g => free u g 3 && (g.tensor 1).any fun t => t.is 2 8) &&
      issuesA s (.mxstat 1) (fun g => decide (g.saveReq = none) && (s.mySession g).isSome) &&
      issuesA s .mxrel fun g => decide (g.saveReq = none) && quiet s g false .session &&
        (s.mySession g).any fun x => x.2.1.passes.all (·.told)) = true := by decide +kernel

/-! ## What the statements of the C-stream assume -/

/-- Control fields of an unguarded instruction with its guard (02 R65, R66). -/
def ctl (ga : BitVec 4 := 7) : Ctl := { ga, gb := 7, gc := 0, ch := 0, stall := 0, yld := 0, reuse := 0 }

/-- The inline integer of a small number (02 R62). -/
def inl (n : Nat) : Src := .konst (BitVec.ofNat 9 (n + 384))

theorem witness_DestinationRules :
    (lowLane allLanes == some 0 && lowLane 0 == none && tC.grp?.any fun g => (g.cs.sp 0).isSome && (g.cs.sp 1).isNone) = true := by
  decide +kernel

theorem witness_IntegerResults :
    let d : Dst := .v 1
    let a : Src := .v 2
    let b : Src := .c 3
    ([Instr.iadd 0 0 d a b ctl, .isub 1 1 d a b ctl, .imul 0 1 d a b ctl, .imad 0 0 d a b a ctl, .imulh 1 d a b ctl, .imin 0 d a b ctl,
      .imax 1 d a b ctl, .iabs 1 d a ctl, .iadd3 0 0 d a b a ctl, .isad 1 1 d a b a ctl, .iclamp 0 d a b a ctl, .ltab 0x96 d a b a ctl,
      .shl d a b ctl, .shr d a b ctl, .shra d a b ctl, .shf d a b a ctl, .bfe d a b ctl, .bfes d a b ctl, .bfi d a b a ctl,
      .popc d a ctl, .clz d a ctl, .brev d a ctl, .idp4 0 1 1 d a b a ctl, .idp2 1 1 0 d a b a ctl, .rnenc 0 d a ctl, .rndec 1 d a ctl,
      .rnmad d a b a ctl, .mov d a ctl, .mov (.queue 3) (inl 1) ctl, .mov (.c 0) (inl 127) ctl, .mov (.none 0) a ctl].all fun i =>
      issuesC tC i && (Claims.int i).isSome) = true := by decide +kernel

theorem witness_ResidueArithmetic : (0 : Int) ≤ 16515839 ∧ (-8257920 : Int) ≤ 8257919 := by decide

theorem witness_FloatResults :
    let d : Dst := .v 1
    let a : Src := .v 2
    let b : Src := .c 3
    let v : Src := .v 6
    ([Instr.fadd 0 0 d a b ctl, .fsub 1 1 d a b ctl, .fmul 2 0 d a b ctl, .ffma 3 1 d a b a ctl, .fmin 0 d a b ctl, .fmax 1 d a b ctl,
      .fminn 0 d a b ctl, .fmaxn 1 d a b ctl, .fclamp 0 d a b a ctl, .frnd 3 0 d a ctl, .fclass d a ctl, .fldexp 0 0 d a b ctl,
      .fexpo 0 d a ctl, .fdiv 0 0 d a b ctl, .fsqrt 0 0 d a ctl, .frcp d a ctl, .frsq d a ctl, .fexp2 d a ctl, .flog2 d a ctl,
      .fsin d a ctl, .fcos d a ctl, .flerp 0 0 d a b a ctl, .fdot3 0 0 d a v ctl, .hadd2 0 0 0 d a b ctl, .hmul2 1 0 0 d a b ctl,
      .hfma2 0 0 1 d a b a ctl, .hmin2 0 0 d a b ctl, .hmax2 1 1 d a b ctl, .hdot2 0 0 0 d a b a ctl, .cvt 11 0 1 0 12 d a ctl,
      .cvt 3 0 0 0 0 d a ctl, .pack 1 0 0 0 0 d a b (.v 0) (.v 0) ctl, .pack 15 0 1 0 11 d a b a b ctl, .unpk 10 7 d a ctl,
      .unpk 16 3 d a ctl].all fun i => issuesC tC i && (Claims.float i).isSome) = true := by decide +kernel

theorem witness_LaneResults :
    let d : Dst := .v 1
    let a : Src := .v 2
    let b : Src := .c 3
    ([Instr.sel 0 1 d a b ctl, .perm 1 d a a b ctl, .shflup 5 0 d a b a ctl, .shfldn 0 1 d a b a ctl, .shflx 4 0 d a b a ctl,
      .shflr 5 1 d a b a ctl, .bcast d a b ctl, .bcastf d a ctl, .voteballot 6 0 2 d ctl, .matchany 2 d a ctl, .matchlead d a ctl,
      .pmov 0 3 d (.v 0) ctl, .pmovw 0 2 3 d (.v 0) ctl].all fun i => issuesC tC i && (Claims.lanes i).isSome) = true := by
  decide +kernel

theorem witness_laneReads :
    let c := CSide.start 0x7FFFFFFFFFFFFFFFFFFFFFFF 0 []
    c.present.getLsbD 95 = false ∧ c.present.getLsbD 94 = true ∧ (0 : Mask).getLsbD 95 = false := by decide +kernel

theorem witness_PredicateResults :
    let d : Dst := .v 6
    let a : Src := .v 2
    let b : Src := .c 3
    (([Instr.fset 11 1 d a b ctl, .hset2 0 1 0 3 d a b ctl, .iset 5 1 d a b ctl].all fun i => issuesC tC i) &&
      ([Instr.voteall 7 1 d ctl, .voteany 0 0 d ctl, .votesame 1 0 d ctl, .matchall d a ctl, .pltab 0xE8 d (.v 0) (.v 1) (.v 7) ctl,
        .pmov 1 0 d a ctl].all fun i => issuesC tC i && (Claims.preds i).isSome) &&
      issuesC tC (.pmovw 1 2 0 d b ctl)) = true := by decide +kernel

theorem witness_ReduceAndScanResults :
    (([0, 4, 5, 12].all fun op => issuesC tC (.reduce op 0 0 (.v 1) (.v 2) ctl)) &&
      [0, 1].all fun ex => issuesC tC (.scan 5 0 0 ex (.v 1) (.v 2) ctl)) = true := by decide +kernel

theorem witness_IdentityReads : ([0, 1, 2, 3, 4].all fun sel => issuesC tC (.sreg sel (.v 1) ctl)) = true := by decide +kernel

theorem witness_RegroupResults :
    issuesC tC (.regroup 3 0 (.v 8) (.v 2) ctl) (fun x =>
      let g := x.past tC
      let s := tC.putG g
      g.regroup.isNone && decide (g.cs.splits.length ≤ 1) && x.p.stack.isEmpty && g.shadow.isNone &&
        (s.groups.all fun m => m.1 == g.who.gid) &&
        (regroupSet s g 1).any fun set => set == [g.who.gid] && (s.groups.get? g.who.gid).isSome) = true := by decide +kernel

/-- Two entries in LDQ0 and in the SVQ. -/
def filled (g : Group) : Group :=
  { g with q := { g.q with ldq := setAt g.q.ldq 0 [entry, entry], svq := [{ val := 5, need := [] }, { val := 6, need := [] }] } }

theorem witness_QueueResults :
    let ready := fun (hs : List Head) => hs.all fun h => match h with | .ready _ => true | _ => false
    let s := tC filled
    (([(0, 0), (1, 0), (1, 4)].all fun (n, q) => issuesC s (.pop (BitVec.ofNat 4 n) (.queue (BitVec.ofNat 9 q)) ctl) fun x =>
        let hs := (x.past s).firstN q (n + 1)
        decide (x.p.owed = 0 ∧ hs.length = n + 1) && ready hs) &&
      ([0, 3, 4].all fun q => issuesC s (.drop (.v 1) (.queue (BitVec.ofNat 9 q)) ctl) fun x =>
        x.p.dropN.isNone && ready ((x.past s).firstN q ((x.past s).held q))) &&
      issuesC s (.push 3 (.queue 3) ctl) (fun x => x.p.owed == 0) 4) = true := by decide +kernel

theorem witness_NearMemoryIssues :
    let t := tC fun g => { g with cs := g.cs.updSp 0 fun p => { p with act := 1 } }
    let ok := fun (x : Issue) (level sz : Nat) (a b : Src) =>
      let s := Claims.here t x
      let els := Claims.near t x a b
      (els.all fun e => decide (e.2 % min sz 4 = 0 ∧ e.2 + sz ≤ s.allot (x.past t) level)) &&
        decide (s.firstOwned (x.past t).who.gid s.nextId ((nearPieces s (x.past t) level sz els).map (·.2)) = .free)
    let a : Src := .v 2
    (([4, 3, 2].all fun level =>
        let i := fun (sz : BitVec 3) => if level = 4 then Instr.ldl sz 0 1 (.v 8) a (inl 112) ctl
          else if level = 3 then .lds sz 1 1 (.v 8) a (inl 112) ctl else .ldc sz 0 1 (.v 8) a (inl 112) ctl
        let j := fun (sz : BitVec 3) => if level = 4 then Instr.stl sz 0 a (inl 112) a ctl
          else if level = 3 then .sts sz 1 a (inl 112) a ctl else .stc sz 0 a (inl 112) a ctl
        [0, 6].all fun sz => issuesC t (i sz) (fun x => ok x level (nearSize sz).1 a (inl 112) &&
            decide ((x.env t).flag 1 < 12 ∧ (x.past t).cfn ((x.env t).flag 1) < 63)) &&
          issuesC t (j sz) fun x => ok x level (nearSize sz).1 a (inl 112)) &&
      ([(0, 0), (1, 1)].all fun (ret, fl) =>
        let d : Dst := if ret = 1 then .v 8 else .v 0
        issuesC t (.atoms 12 ret 0 fl d a (inl 4) a (.v 0) ctl) (fun x => ok x 3 4 a (inl 4)) &&
          issuesC t (.atomc 9 ret 3 fl d a (inl 4) a a ctl) fun x => ok x 2 4 a (inl 4))) = true := by decide +kernel

/-- A clause header of one instruction with its join bit (02 R69). -/
def header : Nat := 255 * 2 ^ 88 + 2 ^ 68 + 2 ^ 63 + 2 ^ 62

/-- The turn of a split whose clause is followed by two headers. -/
def beforeHeaders (f : Group → Group := id) : State :=
  ((tC f).writeLoc { space := .dev, addr := placePage + 24 } 12 header).writeLoc { space := .dev, addr := placePage + 36 } 12 header

/-- Whether the entries that a flow instruction uses fill back, and a condition holds of what follows. -/
def filledBack (s : State) (g : Group) (i : Instr) (f : State → Group → Bool) : Bool :=
  match fillStack s g s.cur.split (g.cs.usesStack s.cur.split i (guardMask g.cs ctl) (s.pk g).stack) with
  | (t, .ok h) => decide (t.cur.mode = 0) && f t h
  | _ => false

theorem witness_FlowResults :
    let called := fun (g : Group) => { g with cs := g.cs.updSp 0 fun p => { p with stack := [(2, allLanes)] } }
    ([Instr.brd 3 2 (ctl 0), .jmp 2 ctl, .callc 2 ctl, .endc ctl, .join ctl, .retc ctl].all fun i =>
      let s := beforeHeaders called
      issuesC s i fun x => [(some 2, some 3), (some 2, none), (none, none)].any fun tj =>
        match flowCheck (Claims.here s x) (x.past s) x.p tj.1 tj.2 with
        | (s1, none) => decide (s1.cur.mode = 0) && filledBack s1 (x.past s) i fun s2 g =>
            (Claims.flow s2 g s.cur.split i).any fun r => r.1 == tj.1 && r.2.1 == tj.2 && (stackIo s2 g r.2.2).2.isNone
        | _ => false) = true ∧
    (let s := beforeHeaders
     issuesC s (.kill ctl) fun x => filledBack (Claims.here s x) (x.past s) (.kill ctl) fun s1 g =>
       (stackIo s1 g (g.cs.kill 0 (x.env s).en)).2.isNone) = true := by
  decide +kernel

/-- A side whose only split has masks, a stack and a tag. -/
def lone (p : Split → Split) (tags : Tbl TagRec := []) : CSide :=
  { (CSide.region (CSide.start allLanes 0 []) 0).updSp 0 p with tags }

/-- A division record with its depth. -/
def division (base : Nat) : TagRec := { join := 9, encl := 0, base, alone := false }

theorem witness_FlowMoves :
    let stack := [(5, (1 : Mask)), (7, 6)]
    let has := fun (c : CSide) (f : Split → Bool) => (c.sp 0).any f
    let left := fun (p : Split) => Claims.clipped p.stack (~~~p.act) == [(5, 0)] ++ [(7, 6)]
    let pop := lone fun p => { p with stack }
    let base := lone (fun p => { p with stack := [(7, 3)], tag := 1 }) [(1, division 1)]
    let here := lone fun p => { p with stack, act := 1 }
    let out := lone (fun p => { p with stack, act := 1, tag := 1 }) [(1, division 1)]
    (has pop (fun p => p.stack == [(5, 1)] ++ [(7, 6)] && decide (pop.base p.tag ≤ 1)) &&
      has (lone id) (fun p => decide (p.tag = 0 ∧ p.stack.length ≤ (lone id).base p.tag)) &&
      has base (fun p => decide (p.tag = 1 ∧ p.stack.length ≤ base.base p.tag) && (base.tags.get? 1).isSome) &&
      has here (fun p => left p && decide (here.base p.tag ≤ 0)) &&
      has out (fun p => left p && decide (p.tag = 1 ∧ 0 < (division 1).base ∧ out.base (division 1).encl ≤ 0)) &&
      has (lone id) (fun p => p.stack.isEmpty) && decide (pop.splits.keys.Pairwise (· < ·))) = true := by decide +kernel

theorem witness_BrdMoves :
    let two := lone fun p => { p with act := 3 }
    let ids := { two with splits := (List.range 4).map fun n => (n, Split.fresh 0 1 .running) }
    let tags := { two with tags := (List.range 7).map fun n => (n + 1, division 0) }
    let on := fun (c : CSide) (gm : Mask) (f : Split → Bool) => (c.sp 0).any fun p => f p &&
      decide (gm = 0 ↔ p.act &&& gm = 0) && decide (gm = 3 ↔ p.act &&& ~~~gm = 0)
    ([0, 1, 3].all fun gm => on two gm fun _ => (two.sp 1).isNone && (two.tags.get? 1).isNone) = true ∧
    (on ids 0 fun _ => (List.range 4).all fun n => (ids.sp n).isSome) = true ∧
    (on tags 1 fun _ => (List.range 7).all fun n => (tags.tags.get? (n + 1)).isSome) = true := by decide +kernel

/-- A side with one split keeps the partition of its lanes. -/
theorem witness_FlowKeepsPartition : Claims.partition (CSide.region (CSide.start allLanes 0 []) 0) := by
  have sp : ∀ k p, (CSide.region (CSide.start allLanes 0 []) 0).sp k = some p →
      k = 0 ∧ p = Split.fresh 0 (CSide.start allLanes 0 []).alive .running := by
    intro k p h
    match k, h with
    | 0, h => exact ⟨rfl, (Option.some.inj h).symm⟩
    | k + 1, h => cases h
  refine ⟨List.pairwise_singleton _ _, ?_, ?_, ?_⟩
  · intro k j p q hp hq hk
    exact absurd ((sp k p hp).1.trans (sp j q hq).1.symm) hk
  · intro k p hp
    rw [(sp k p hp).2]
    decide +kernel
  · intro l _ hl
    exact ⟨0, _, rfl, hl⟩

/-- The turn of split 0 of a group that leads a session whose bank starts at V100. -/
def feeding : State :=
  let ss := session 0 0 0
  { tC (fun g => { g with session := some (9, 0) }) with
    sessions := [(9, { ss with parts := ss.parts.map fun p => { p with vb := 100 } })] }

theorem witness_ControlResults :
    let bars := fun (b : Bar) => withBar b tC
    (issuesC tC (.nopc ctl) &&
      issuesC tC (.tfence ctl) (fun x => x.g.pend.isEmpty && x.g.lane.isEmpty && (List.range 12).all (fun n => x.g.cfn n == 0) &&
        !tC.leadsPass x.g && decide (x.g.sys.sticky &&& x.g.sys.gten = 0)) &&
      issuesC (bars { halfway with rel := [1] }) (.bwait (inl 0) ctl) (fun x =>
        let s := bars { halfway with rel := [1] }
        let b := s.bar x.g.who.tid 0
        decide ((lane ((x.vals s (ints [inl 0])).getD 0 []) 0).toNat % 1024 = 0 ∧ 0 < (s.pk x.g).bars) && x.g.due.isEmpty &&
          b.engZero.isEmpty && b.go.isEmpty && !b.wait.contains (x.g.who.gid, 0) && b.rel.contains x.g.who.gid &&
          !x.g.arriving 0 s.cur.split) &&
      ([false, true].all fun near =>
        let s := (bars halfway).updG fun g => if near then
          g.addPend { id := 9, who := 0, pc := 8, kind := .nearStore 4 [], els := [], got := [], acq := 0, rel := 0 } else g
        issuesC s (.barvc (inl 0) ctl) fun x => x.g.pend.isEmpty != near && !x.g.arriving 0 s.cur.split &&
          decide ((lane ((x.vals s (ints [inl 0])).getD 0 []) 0).toNat % 1024 = 0 ∧ 0 < (s.pk x.g).bars) &&
          (s.bar x.g.who.tid 0).exp != 0) &&
      issuesC tC (.ctrap 0xFF (ctl 15)) (fun x => (x.env tC).en == 0) &&
      issuesC feeding (.mxfeed 1 ctl) fun x => x.g.due.isEmpty && decide ((x.past feeding).cs.splits.length ≤ 1) &&
        ((Claims.here feeding x).mySession (x.past feeding)).any fun y => (y.2.1.parts[y.2.2]?).any fun p =>
          decide (p.feeds < p.latched + 2 ∧ (x.env feeding).flag 1 < 12 ∧ x.g.cfn ((x.env feeding).flag 1) < 63) &&
            !x.g.writesPending (p.vb + bankRegs y.2.1.fb * (p.feeds % 2)) (bankRegs y.2.1.fb)) = true := by decide +kernel

theorem witness_TrapInstructions :
    (issuesA tA (.trap 1023) (fun g => g.who.gid == tA.cur.gid) && issuesC tC (.ctrap 7 ctl) (fun x => (x.env tC).en != 0 && x.g.trap.isNone) &&
      issuesC tC (.ctrap 7 (ctl 15)) fun x => (x.env tC).en == 0) = true := by decide +kernel

/-- The record of a bounding-volume hierarchy (13 R350). -/
def bvh : Nat := 0x1000 + 64 * 2 ^ 64 + 16 * 2 ^ 96 + 4 * 2 ^ 120

theorem witness_LaneEngineIssues :
    let s := tC fun g => withB bvh (withT 0 (tensor 7 [4, 4, 4]) g)
    let flag := fun (x : Issue) => decide ((x.env s).flag 1 < 12 ∧ (x.past s).cfn ((x.env s).flag 1) < 63)
    let rays := fun (x : Issue) => (x.past s).pend.isEmpty && ((x.past s).record 0).any fun v =>
      decide (v.level = 0 ∧ v.esz = 4 ∧ v.swz = 0 ∧ v.stride = 16 ∧ 64 + 64 ≤ (Claims.here s x).allot (x.past s) 4) &&
        decide ((Claims.here s x).firstOwned (x.past s).who.gid (Claims.here s x).nextId
          ((lanesOf (x.env s).en).map fun l => rayLoc (x.past s) l 64) = .free)
    (([0, 2].all fun f => issuesC s (.sample 0 f 0 1 (.v 8) (.v 16) (inl 0) ctl) fun x =>
        flag x && ((x.past s).tensor 0).any Ten.isTexture) &&
      issuesC s (.gath4 2 3 0 1 (.v 8) (.v 16) (inl 0) ctl) (fun x => flag x && ((x.past s).tensor 0).any Ten.isTexture) &&
      issuesC s (.trace 0 0 1 (.v 20) (.v 8) (inl 64) (inl 0) (inl 1) ctl) (fun x => flag x && rays x) &&
      issuesC s (.tresume 0 1 (.v 20) (.v 8) (inl 64) ctl) fun x => flag x && rays x) = true := by decide +kernel

theorem witness_RayStateResults :
    ([Instr.tcand (.v 20) (inl 64) ctl, .tquery (.v 20) (inl 64) ctl, .treport (.v 6) (inl 64) (.v 2) (.v 3) ctl,
      .tabort (inl 64) ctl].all fun i => issuesC tC i fun x =>
        let h := Claims.here tC x
        let offs := (lanesOf (x.env tC).en).map fun l => (l, (lane ((x.vals tC (ints [inl 64])).getD 0 []) l).toNat)
        (offs.all fun e => decide (e.2 % 64 = 0 ∧ e.2 + 64 ≤ h.allot (x.past tC) 4)) && (x.past tC).pend.isEmpty &&
          decide (h.firstOwned (x.past tC).who.gid h.nextId (offs.map fun e => rayLoc (x.past tC) e.1 e.2) = .free)) = true := by
  decide +kernel

/-! ## What the statements of agents' steps assume -/

/-- The machine after an instruction or event. -/
def ran (i : Instr) (s : State) : State :=
  match exec i s with
  | .next t => t
  | _ => s

/-- A pending trap. -/
def pending : Pending :=
  { cause := { grp := 3, code := 1, detail := 1, va := 0, lanes := 1 }, aside := true, cside := false, split := 255, apc := 0, cpc := 0,
    slot := 0, word := 0, fpc := 0, pop := 0, displaced := 0 }

/-- A group whose streams have both waited on queues for the deadlock count. -/
def stuck (f : Group → Group) : State :=
  { tA (fun g => f { g with ablk := some (.queue 0), asince := 0 }) with tick := deadlockT }

/-- An entry that carries a fault. -/
def token : VEntry := { entry with fill := .token pending.cause, op := 9 }

theorem witness_ControlSteps :
    let s := tC fun g => { g with cs := g.cs.updSp 0 fun p => { p with idx := 0, slot := 0 } }
    let q := tA fun g => { g with pushed := 1, q := { g.q with clq := [{ val := 5, need := [] }] } }
    let w := { tA (fun g => { g.addPend { id := 9, who := 4, pc := 8, kind := .sta 0 4, els := [], got := [], acq := 0, rel := 0 } with
        stop := .sleep (2 * deadlockT) }) with
      watch := [{ gid := 1, line := { space := .dev, addr := placePage }, hit := true }] }
    let t := tA fun g => { g with stop := .sleep 0 }
    ((s.grp?.any fun g => (g.cs.sp 0).any fun p => g.cRuns && decide (p.st = .running ∧ p.slot = 0) && !g.halts && !p.cmp &&
        g.shadow.isNone && !p.noWait && g.lane.isEmpty && (g.cs.splits.all fun e => g.cs.sp e.1 == some e.2) &&
        match fetchC s g p.idx with
        | (_, .ok x) => x.extractLsb' 88 8 == 0xFF && (match decodeHeader x with
            | .ok h => (List.range 12).all fun n => !h.wait.getLsbD n || g.cfn n == 0
            | .error _ => false) && CSide.settleAt (joinBit x) 16 0 g.cs == (g.cs, some 0)
        | _ => false) &&
      (q.grp?.any fun g => (g.cs.sp 0).any fun p => g.cRuns && !g.halts && decide (p.st = .parkedEnd ∧ g.cs.splits.length = 1) &&
        g.shadow.isNone && (g.q.clq.head?).any fun e => g.performed e.need) &&
      (tC.grp?.any fun g => g.cRuns && g.shadow.isNone && !g.saved && decide (g.stop ≠ .gone ∧ g.stop ≠ .halt)) &&
      ((tA fun g => { g with stop := .halt }).grp?.any fun g => g.stop == .halt) &&
      ((tA fun g => { g with trap := some pending }).grp?.any fun g => g.trap.isSome && g.drained && !g.saved && decide (g.stop ≠ .halt)) &&
      ([([token], true), ([], false)].all fun e =>
        let s := stuck fun g => { g with q := { g.q with ldq := setAt g.q.ldq 0 e.1 } }
        s.grp?.any fun g => (g.aStuck s.tick).isSome && g.trap.isNone && !g.saved && decide (g.lastQ + deadlockT ≤ s.tick) &&
          (g.cs.splits.all fun x => (x.2.stuckSince g.q.clq.isEmpty s.tick).isSome) && g.firstToken.isSome == e.2) &&
      (w.grp?.any fun g => w.writeAt g 8 && g.stop == .sleep (2 * deadlockT) &&
        w.watch.any fun x => x.gid == g.who.gid && x.hit) &&
      t.grp?.any fun g => g.stop == .sleep 0 && decide (0 ≤ t.tick)) = true := by decide +kernel

/-- Whether an operation in flight is there to be performed, of a kind. -/
def inFlight (s : State) (op : Nat) (f : MemKind → Bool) : Bool :=
  (s.memLive op).any fun x => !s.readCut x.1 && !x.1.els.isEmpty && f x.1.kind

theorem witness_MemorySteps :
    let s := tA (withB words)
    let go := fun (s : State) (i : Instr) (f : MemKind → Bool) => inFlight (ran i s) s.nextId f
    let a : Src := .v 2
    (go s (.ldv 0 0 0 0 0 0) (fun k => match k with | .ldv .. => true | _ => false) &&
      go s (.lda 1 0 0 0 0) (fun k => match k with | .lda .. => true | _ => false) &&
      go s (.ata 0 1 0 2 3 0 0 4) (fun k => match k with | .ata _ _ _ _ none => true | _ => false) &&
      go s (.bld 3 0 0) (fun k => match k with | .bld _ => true | _ => false) &&
      go s (.tld 3 0 0) (fun k => match k with | .tld _ => true | _ => false) &&
      go s (.sta 1 0 0 0 0) (fun k => match k with | .sta .. => true | _ => false) &&
      go tC (.stl 6 0 a (inl 0) a ctl) (fun k => match k with | .nearStore .. => true | _ => false) &&
      go tC (.lds 0 0 0 (.v 8) a (inl 0) ctl) (fun k => match k with | .near .. => true | _ => false) &&
      go tC (.atoms 0 0 0 0 (.v 0) a (inl 0) a (.v 0) ctl) (fun k => match k with | .nearAtom _ _ false .. => true | _ => false) &&
      go tC (.atomc 0 1 0 0 (.v 8) a (inl 0) a (.v 0) ctl) (fun k => match k with | .nearAtom _ _ true .. => true | _ => false)) =
      true := by decide +kernel

theorem witness_MemoryUnitSteps :
    let s := tA fun g => withB words { g with q := { g.q with xq := [entry], sdq0 := [entry], sdq1 := [entry] } }
    ([Instr.ldg 0 0 0 0 0 0, .stx 0 1 0 0 0, .atv 9 0 0 1 0 0 4].all fun i =>
      let t := ran i s
      (t.muLive s.nextId).any fun x => x.1.indexed && (x.1.takes.mapM (x.2.vHead x.1)).any fun es =>
        let b := Buf.of x.1.buf.toNat
        match checkElems t x.2 { code := 2 } x.1.access b false
          (indexedEls x.1.first (es.foldl (fun (m : Mask) e => m &&& e.mask) allLanes) (((es[0]?).map (·.data)).getD zeroLanes)) with
        | (t1, .ok ps) => !x.1.begun && x.2.muOrder x.1 ps && decide (t1.firstOwned x.2.who.gid x.1.id (ps.map (·.2)) = .free) && !t1.peerCut
        | _ => false) &&
    (let t := ran (.stv 0 1 0 0 0) s
     (t.muLive s.nextId).any fun x => !x.1.indexed && (x.1.sdqs.head?).any fun q => (x.2.vHead x.1 (q + 1)).any fun e =>
      x.1.places.any fun ps => !x.1.begun && x.2.muOrder x.1 (maskedParts e.mask ps) &&
        decide (t.firstOwned x.2.who.gid x.1.id ((maskedParts e.mask ps).map (·.2)) = .free) && !t.peerCut) &&
    ([Instr.ldg 0 0 0 0 0 0, .stx 0 1 0 0 0, .stv 0 1 0 0 0].all fun i =>
      let ps := [(0, ({ space := .dev, addr := placePage } : Loc))]
      let t := (ran i s).updG fun g => { g with mu := g.mu.map fun o => { o with begun := true, places := some ps } }
      (t.muLive s.nextId).any fun x => x.1.begun && x.1.places == some ps && (x.1.takes.mapM (x.2.vHead x.1)).isSome &&
        decide (t.firstOwned x.2.who.gid x.1.id (ps.map (·.2)) = .free) && !t.peerCut) = true := by decide +kernel

/-- The turn of a split with one lane active, whose ray and texture coordinates are no numbers (13 R349, R353). -/
def oneLane : State :=
  tC fun g => withB bvh (withT 0 (tensor 7 [4, 4, 4]) { g with cs := { g.cs.updSp 0 (fun p => { p with act := 1 }) with
    v := [(8, mkLanes fun _ => 0x7FC00000), (16, mkLanes fun _ => 0x7FC00000)] } })

/-- A placed machine with one engine operation in progress, of a kind. -/
def engineOp (kind : EngKind) : EngOp :=
  { id := 7, gid := 1, pc := 0, instr := .nop, kind, bar := some 15, at_ := 0, fault := none, told := false, need := [], lines := [],
    got := [], cells := [], coarse := false }

def running (kind : EngKind) : State := { tA with eng := [engineOp kind] }

/-- Whether the operation runs to its end, or to a fault. -/
def runsTo (kind : EngKind) (ends : Bool) : Bool :=
  ((running kind).engLive 7).any fun x => match runEng ((running kind).engBegin x.2 x.1) x.2 x.1 with
    | (s, _, .done) => (match counterAt s x.2 x.1 with
        | (s, .ok c) => ends && c.all fun l => decide (s.owner x.1.gid (x.1.id - 1) l = .free)
        | (_, .error (.ok _)) => !ends
        | _ => false)
    | (_, _, .fail (.ok _)) => !ends
    | _ => false

theorem witness_EngineSteps :
    let copy := fun (far : Nat) (counter : Option (Nat × Loc)) => EngKind.copy (BitVec.ofNat 512 (tensor 0 [4, 4] + far))
      (BitVec.ofNat 512 (tensor 0 [4, 4] 0 1)) [3, 3] [0, 0] 0 4 counter
    let ctr : Loc := { space := .dev, addr := placePage }
    (runsTo (copy 0 none) true && runsTo (copy 0 (some (0, ctr))) true && runsTo (copy (2 ^ 40) none) false &&
      runsTo (copy 0 (some (2 ^ 40, ctr))) false && runsTo (.tstore (BitVec.ofNat 512 (3 * 2 ^ 58)) 0 0 0 0 0 0) true &&
      (tA.grp?.any fun g => (tA.lau g).qd.vf == 0 && g.sys.priv) && tA.tlb.isEmpty &&
      (match walk tA 0 0 with | .leaf p _ _ => pteAllows p 0 true | _ => false) &&
      match walk tA 0 (2 ^ 14) with | .leaf .. => false | _ => true) = true := by decide +kernel

/-- A tensor of one dimension without elements. -/
def nowhere : BitVec 512 := BitVec.ofNat 512 (2 ^ 58)

theorem nowhere_inside (cs : List Int) : (Ten.of nowhere.toNat).inside cs = false := by
  have h : (Ten.of nowhere.toNat).ndim = 1 ∧ ((Ten.of nowhere.toNat).dims.getD 0 ⟨0, 0, 0⟩).ext = 0 := by decide +kernel
  simp only [Ten.inside, h.1, List.range_succ, List.range_zero, List.nil_append, List.all_cons, List.all_nil, h.2]
  simp

theorem foldl_stays {α β : Type} (f : β → α → β) (b : β) (h : ∀ x, f b x = b) (xs : List α) : xs.foldl f b = b := by
  induction xs with
  | nil => rfl
  | cons x r ih => rw [List.foldl_cons, h, ih]

theorem writeElems_outside (s : State) (g : Group) (n : Nat) (t : Ten) (xs : List (List Int × Nat))
    (h : ∀ cs, t.inside cs = false) : writeElems s g n t xs = (s, none) := by
  unfold writeElems
  rw [foldl_stays _ _ fun x => by simp [h]]

theorem endCover_outside (s : State) (g : Group) (t : Ten) (eo : Bool) (o : EngOp) (h : ∀ cs, t.inside cs = false) :
    endCover g t eo o s = (s, o, .done) := by
  rw [endCover, writeElems_outside _ _ _ _ _ h, EngOp.wrote]

theorem runEng_cover (s : State) (g : Group) (o : EngOp) (seg : BitVec 256) (t : BitVec 512) (f n : Nat) (x y : Int) (eo : Bool)
    (h : o.kind = .cover seg t f n x y eo) (hn : n - o.at_ = 0) : runEng s g o = endCover g (Ten.of t.toNat) eo o s := by
  unfold runEng
  rw [h]
  dsimp only
  rw [hn, coverSegs]

theorem witness_CoverStep :
    ((running (.cover 0 nowhere 0 0 0 0 true)).engLive 7).isSome = true ∧
      ∀ (s : State) (g : Group), (runEng s g (engineOp (.cover 0 nowhere 0 0 0 0 true))).2.2 = .done := by
  refine ⟨by decide +kernel, fun s g => ?_⟩
  rw [runEng_cover s g _ 0 nowhere 0 0 0 0 true rfl rfl, endCover_outside _ _ _ _ _ nowhere_inside]

/-- Whether the last lane of an operation on the lanes is run and completes. -/
def laneEnds (i : Instr) (f : State → LaneOp → Group → LaneRun × Bool) : Bool :=
  let t := ran i oneLane
  (t.laneLive oneLane.nextId).any fun x =>
    let r := f t x.1 (x.2.running x.1)
    !r.2 && r.1.stop.isNone && r.1.faults.isEmpty && r.1.later.isEmpty &&
      (r.1.s.groups.any fun e => e.2.shadow.isNone && e.2.lane.any fun y => y.id == x.1.id)

theorem witness_LaneSteps_fault :
    (let far := oneLane.updG fun g => withT 0 (tensor 7 [4, 4, 4] + 2 ^ 40) { g with cs.v := [] }
     let t := ran (.sample 0 0 0 0 (.v 8) (.v 16) (inl 0) ctl) far
     (t.laneLive far.nextId).any fun x =>
        let r := runLanes x.1 (fun s l => sampleLane s (x.2.running x.1) (Ten.of x.1.img.toNat) 0 0 ((x.1.words l).take 2)
          ((x.1.words l).getD 2 0)) t
        (t.engLive far.nextId).isNone && r.stop.isNone && !r.faults.isEmpty &&
          r.s.groups.any fun e => e.2.lane.any fun y => y.id == x.1.id) = true := by decide +kernel

theorem witness_LaneSteps_sample :
    laneEnds (.sample 0 0 0 0 (.v 8) (.v 16) (inl 0) ctl) (fun t o g =>
        (runLanes o (fun s l => sampleLane s g (Ten.of o.img.toNat) 0 0 ((o.words l).take 2) ((o.words l).getD 2 0)) t, false)) = true := by decide +kernel

theorem witness_LaneSteps_gath4 :
    laneEnds (.gath4 0 0 0 0 (.v 8) (.v 16) (inl 0) ctl) (fun t o g =>
        (runLanes o (fun s l => gatherLane s g (Ten.of o.img.toNat) 0 0 ((o.words l).take 2) ((o.words l).getD 2 0)) t, false)) = true := by decide +kernel

theorem witness_LaneSteps_trace :
    laneEnds (.trace 0 0 0 (.v 20) (.v 8) (inl 64) (inl 0) (inl 1) ctl) (fun t o g =>
        runRays o g true (Buf.of (o.img.toNat % 2 ^ 256)) (some 0) t) = true := by decide +kernel

theorem witness_LaneSteps_tresume :
    laneEnds (.tresume 0 0 (.v 20) (.v 8) (inl 64) ctl) (fun t o g =>
        runRays o g true (Buf.of (o.img.toNat % 2 ^ 256)) none t) = true := by decide +kernel

/-- A session of the placed group with its bank fed and an issued pass of one step, whose A record has one row of some elements. -/
def fed (f : Pass → Pass := id) (i : Instr := .mxloop 1 4 0 1 1 15 0 0 0) (n : Nat := 64) : State :=
  let ss := session 0 0 0
  let s := leading { ss with parts := ss.parts.map fun p => { p with feeds := 1 } }
  let p := { Pass.new i [0, 0, 0, 0, 0, 0, 0] [BitVec.ofNat 512 (tensor 0 [n, 64]), 0, 0] with id := 50 }
  { s with sessions := s.sessions.map fun e => (e.1, { e.2 with passes := [f p] }) }

/-- Whether a condition holds of the pass on the arrays. -/
def onArrays (s : State) (f : Session → Pass → Group → Bool) : Bool := (s.running 0).any fun x => f x.2.1 x.2.2.1 x.2.2.2

def grantedPass : State := fed fun p => { p with granted := true }

theorem witness_MatrixSteps_grant :
    (!fed.arraysBusy 0 && (fed.quads.getD 0 Quad.reset).preempt.isNone &&
      (match sortBy (fun (a b : Nat × Session) => decide (b.2.prio ≤ a.2.prio)) ((fed.sessionsOf 0).filter fun e => e.2.ready) with
        | (k, _) :: _ => ((reload (makeRoom 0 k 17 fed) k).sessions.get? k).any fun ss => !ss.passes.isEmpty
        | [] => false) &&
      (let s := fed fun p => { p with surge := some 0 }
       s.surging.any fun x => (s.sessions.get? x.2.1).any fun ss => ss.quad == 0 && s.surge.isNone)) = true := by decide +kernel

theorem witness_MatrixSteps_start :
    onArrays grantedPass (fun ss p g => !p.inStep && p.surge.isNone && p.fault.isNone && decide (p.step < (mxArgs p.instr).ks) && ss.fed &&
        g.engReady p.need && match firstStep grantedPass g ss p with
          | (_, .ok _) => true
          | _ => false) = true := by decide +kernel

theorem witness_MatrixSteps_row :
    (let begun := ran (.stepStart 0) (fed (fun p => { p with granted := true }) (n := 1))
     onArrays begun fun ss p g => p.inStep && p.fault.isNone && decide (p.rows.getD 0 0 < p.rowsOf 0) &&
        let parts := rowAhead begun g ss p 0 (p.rows.getD 0 0)
        parts.2.isNone && match takeRow parts.1 g ss p 0 (p.rows.getD 0 0) with
          | (_, .ok raw) =>
            [none, some ({ col := 0, chan := 1, delta := 1 } : ResidueError)].all fun err => err.isNone ==
              (rowStep ss.fa ss.fb ss.dist raw p.panel (ss.row (mxArgs p.instr).z 0 (p.rows.getD 0 0)) (errAt err)).isSome
          | _ => false) = true := by decide +kernel

theorem witness_MatrixSteps_end :
    (let done := fed fun p => { p with granted := true, step := 1 }
     (done.quads.getD 0 Quad.reset).preempt.isNone && onArrays done fun _ p g => !p.inStep && p.fault.isNone && decide ((mxArgs p.instr).ks ≤ p.step) && g.engReady p.need &&
        done.engTurn p.id (p.lines.map (·.1)) && (match readTable done g p with | (_, .ok _) => true | _ => false) && p.outRows.isEmpty) = true := by decide +kernel

theorem witness_MatrixSteps_select :
    (let sel := fed (fun p => p) (.mxsel 0 16 0 1 4)
     [[], [1]].all fun cnt =>
        let sel : State := { sel with sessions := sel.sessions.map fun (e : Nat × Session) => (e.1, { e.2 with lastCnt := cnt }) }
        ((sel.sessionsOf 0).find? fun e => e.2.entry == 0).any fun e => (e.2.passes.head?).any fun p => !p.onArrays && p.fault.isNone &&
          sel.engTurn p.id (p.lines.map (·.1)) && (sel.quads.getD 0 Quad.reset).preempt.isNone && (sel.grp?.any fun g => g.engReady p.need) &&
          match (e.2.wrote (mxArgs p.instr).z)[p.step]? with
          | none => cnt.isEmpty
          | some (i, m) => match selRow sel e.2 (mxArgs p.instr).z i m with
            | (t, .ok row) => sel.grp?.any fun g => (writeElems t g 2 p.oRec ((((rankRow (tileF32 e.2.fa) (selBig p.instr) row).take
                (selK p.instr)).zipIdx.map fun b =>
                  let c := selCoord p (e.2.lastRows.getD (mxArgs p.instr).z 0) i m b.2
                  [(c.1, b.1), (c.2, (lane row b.1).toNat)]).flatten)).2.isNone
            | _ => false) = true := by decide +kernel

/-- Four groups of one quad, one on each core, that wait with the same MXBIND (07 R221). -/
def quartet : State :=
  let b : Bind := { gid := 1, q := 0, word := 0, vb := 0, fa := 0, fb := 0, fo := 0, dist := false, tiles := 1, prio := 0, nb := 0 }
  { tA with
    groups := (tA.groups.map fun e => (List.range 4).map fun i =>
      (i + 1, { e.2 with who := { e.2.who with gid := i + 1, core := [0, 1, 8, 9].getD i 0 } })).flatten,
    binds := (List.range 4).map fun i => { b with gid := i + 1, q := i } }

theorem witness_SessionForms :
    ((quartet.binds.filter fun b => (quartet.groups.get? b.gid).any fun g => quadOf g.who.core == 0).findSome? quartet.fullSet).any
      (fun bs => bs.length == 4) = true := by decide +kernel

/-- The turn of a group that has been saved, its quad asked and its save requested, as wanted. -/
def asked (f : Group → Group) : State := tA fun g => f { g with saveReq := some 0 }

theorem witness_PreemptionSteps :
    let log := fun (it : LogItem) => tC fun g => { g with shadow := some { cs := g.cs, log := [it] } }
    let it : LogItem := { split := 0, at_ := [], instr := none, pops := [], writes := [], ctl := none, cmp := false }
    let bad : State := { tA with quads := setAt tA.quads 0 { Quad.reset with st := 1 } }
    let due : State := { asked id with tick := 1000 * 8 * nsT }
    let quad : State := { tA with quads := setAt tA.quads 0 { Quad.reset with preempt := some 0 }, groups := [] }
    let back : State := { tA (fun g => { g with saved := true }) with
      queues := [(0, { t := 0, u := 0, slot := some 0, arrivals := [], serial := 0, live := true, pendSince := none, port := 0, starved := false })],
      regs.part := setAt tA.regs.part 0 [0xFFFFFF, 0, 0, 1] }
    let windows : State := { tA with regs.wincnt := 2, regs.win := [0x000101F4, 0x000201F4], tick := 499990 * nsT }
    let may := fun (s : State) (g : Group) => !g.saved && g.saveReq == some 0 && decide (g.stop ≠ .gone) && g.trap.isNone &&
      s.canSave { g with saving := true }
    let kill : LogItem := { it with instr := some (.kill (ctl 0)), cmp := true }
    let split := fun (m : Mask) => (log kill).updG fun g => { g with shadow := g.shadow.map fun x => { x with
      cs := { x.cs with p := x.cs.p.set 0 m } } }
    let of := fun (i : Instr) => { it with instr := some i }
    (([{ it with ctl := some .alone }, it].all fun i => (log i).grp?.any fun g => (log i).issues g && g.shadow.any fun x => !x.log.isEmpty) &&
      ([((Instr.ldl 0 0 0 (.v 8) (.v 2) (inl 0) ctl), true, false, false), (.sreg 0 (.v 1) ctl, false, true, false),
        (.nopc ctl, false, false, true), (.kill (ctl 0), false, false, false)].all fun x =>
        (log (of x.1)).grp?.any fun g => (log (of x.1)).issues g && (late x.1, replayed x.1, inert x.1) == x.2) &&
      ([0, 5].all fun m => let s := split m
        s.grp?.any fun g => s.issues g && g.shadow.any fun x => g.trap.isNone &&
          match runC (.kill (ctl 0)) { s with cur := { gid := g.who.gid, split := 0, mode := 2 } } with
          | .next t => (t.groups.get? g.who.gid).any fun h => ((h.cs.sp 0).all fun p => !p.cmp) &&
              (mismatch (.kill (ctl 0)) 0 g h x.cs (shadowRun s g x.cs kill (.kill (ctl 0)))).isNone == (m == 0)
          | _ => false) &&
      (bad.quads.getD 0 Quad.reset).preempt.isNone && bad.wantsQuad 0 &&
      ((asked id).grp?.any fun g => may (asked id) g && g.atPoint) &&
      (due.grp?.any fun g => may due g && !g.saving && decide (0 + 1000 * (due.lau g).qd.window * nsT ≤ due.tick)) &&
      (quad.quads.getD 0 Quad.reset).preempt.isSome && quad.groups.isEmpty && (quad.sessionsOf 0).isEmpty &&
      (back.groups.all fun e => back.mayRestore e.2) &&
      ((back.groups.get? back.cur.gid).any fun g => (makePlace back g).isSome && (restoreAll (back.groups.map (·.1)) back).isSome) &&
      windows.windowEnds 0 && tA.winOpen 0 tA.time && !tA.windowEnds 0) = true := by decide +kernel

/-- The queue of `graph`, with unread packets, in a device that has booted (11 R305, R307). -/
def queued (f : QueueSt → QueueSt) : State :=
  let s := graph id pool8
  { s with regs.boot := 6, regs.part := setAt s.regs.part 0 [0xFFFFFF, 0, 0, 1],
           queues := [(0, f { t := 1, u := 1, slot := none, arrivals := [0], serial := 0, live := true, pendSince := none, port := 0,
                              starved := false })] }

theorem witness_SchedulingSteps :
    let s := queued id
    let late : State := { queued (fun x => { x with pendSince := some 0 }) with tick := 50000 * nsT }
    let run := fun (f : Launch → Launch) (t : Nat) => ({ s.updL 1 f with tick := t } : State)
    let spread := (run (fun l => { l with placedAll := false, qd := { l.qd with part := 0 }, start := none }) 0).updL 1 id
    let place : State := { spread with queues := [(0, { s.qst 0 with slot := some 0 })], groups := [], teams := [], clusters := [] }
    let past := run (fun l => { l with pk := { l.pk with deadline := 1 }, cycles := 1 }) 0
    let watch := run (fun l => { l with qd := { l.qd with watchdog := 1 } }) (2000 * nsT)
    let held : State := { late with launches := late.launches ++ (List.range 127).map fun n => (n + 2, { Launch.blank with
      qno := n + 2, start := some 0, pk := { Launch.blank.pk with nonpreempt := true } }) }
    let full : State := { held with queues := late.queues ++ (List.range 128).map fun n => (n + 1, { late.qst 0 with
      u := 0, slot := some n, pendSince := none }) }
    let waits := graph id { pool8 with waits := [{ gid := 1, d := 3, node := 0, cnt := 4 }] }
    ((let s1 := s.refreshQueue 0;
      s.booted && s.regs.vfmap.getLsbD 0 == false && s.regs.qtbase.getLsbD 0 && ((s1.desc? 0).any fun d => !d.pf && d.vf == 0 && d.k == 0) &&
        decide ((2 + 4096 - (s1.qst 0).t) % 4096 ≠ 0 ∧ 2 ^ 0 < (s1.qst 0).u + 1)) &&
      (let s := queued fun x => { x with t := 0, u := 0 };
       ((s.refreshQueue 0).desc? 0).any fun d => decide (((s.refreshQueue 0).qst 0).u + 1 ≤ 2 ^ d.k)) &&
      s.needsSlot 0 && (s.qst 0).pendSince.isNone && s.nextPending.isNone && s.freeSlot.isSome &&
      late.needsSlot 0 && late.nextPending == some 0 && late.freeSlot.isSome &&
      full.needsSlot 0 && full.nextPending == some 0 && full.freeSlot.isNone &&
      (full.unmapChoice.any fun v => (full.qst v).slot.isSome) &&
      ((late.qst 0).pendSince == some 0 && !(late.qst 0).starved && decide (50000 * nsT ≤ late.tick)) &&
      (let s := queued fun x => { x with slot := some 0 };
       (s.desc? 0).any fun d => (s.qst 0).live && decide ((s.qst 0).u ≠ 0 ∧ (s.qst 0).slot ≠ none) && !s.regs.hot &&
        match s.readVa d.vf true ((d.ring + 128 * (((s.qst 0).t + 4096 - (s.qst 0).u) % 4096 % 2 ^ d.k)) % 2 ^ 47) 128 with
        | (_, .ok bs) => !(parsePacket bs).after
        | _ => false) &&
      ((place.launches.get? 1).any fun l => !l.placedAll && !l.killed && (place.qst l.qno).slot.isSome && place.winOpen l.qd.part place.time &&
        place.mayStart l && (findAll ((place.quadsFor l.qd.part l.pk.diverse l.inst).filter fun q =>
          (place.quads.getD q Quad.reset).preempt.isNone) l.pk (if l.pk.progress = 0 then l.pk.clusters.filter fun c => decide (l.nextC ≤ c)
            else (l.pk.clusters.filter fun c => decide (l.nextC ≤ c)).take 1) place.usage []).isSome) &&
      (let done : State := { tA with groups := [] };
       done.ended 1 && (done.launches.get? 1).any fun l => l.twin.isNone) &&
      ((past.launches.get? 1).any fun l => past.overran l) &&
      ((watch.launches.get? 1).any fun l => (watch.startOf l).any fun t => l.qd.watchdog == 1 && !l.watched && !l.killed &&
        decide (t + 2000 * l.qd.watchdog * nsT ≤ watch.tick)) &&
      (((waits.gal 0).waits.head?).any fun w => let r := waits.node 0 w.node;
        ((r.1.gal 0).grant w.cnt (numAt r.2 0x10 2)).isSome && (r.1.groups.get? w.gid).isSome) &&
      ((graph id { pool8 with comm := [{ idx := 0, node := 0, depth := 0, time := 0, seq := 0 }] }).galleyTime 0).2.isSome &&
      tA.pick tA.groups == some 1) = true := by decide +kernel

/-- A device that has booted with its semaphore held by a port, or free. -/
def holding (n : Nat) : State := { tA with regs.boot := 6, regs.sem := n }

theorem witness_RegisterWriteSteps :
    ([Instr.vfmapWrite 0 false 0, .qtbaseWrite 0 true 0, .pwrcapWrite 0 3, .grant 0 0x81FF, .prqheadWrite 0 8191, .retest 0 0xFFFFFF,
      .colophonUnfreeze 0 1, .lretrain 0 3, .partitionWrite 0 15 3 1, .windowTableWrite 0 16 0, .tlbinv 0 63 false 0, .splinter 0 63 true 0,
      .framePoolWrite 0 1 0, .safesetWrite 0 1 0, .registerWrite 0 0x30000 0].all fun i =>
      ([1, 2, 0].all fun n => (Claims.write (holding n) (Claims.port i) i).isSome) && decide (Claims.port i < 2)) = true ∧
    ((Claims.write (holding 2) 0 (.pwrcapWrite 0 0)).any fun x => !x.2.1) = true ∧
    ((Claims.write (holding 0) 0 (.grant 0 0x8000)).any fun x => x.2.1) = true ∧
    ((holding 2).regs.semAt = (holding 2).tick / clkT) ∧
    Claims.holds (holding 1) 0 ∧ Claims.holds { holding 2 with regs.semAt := 7 } 1 ∧ ¬Claims.holds (holding 2) 1 ∧
    (holding 0).booted = true ∧ State.reset.booted = false := by
  unfold Claims.holds
  decide +kernel

/-- A surface descriptor of one line and one pixel, from (offset, value) pairs (14 R360). -/
def surface (fs : List (Nat × Nat)) : List Byte :=
  natLe 448 (([(8, 1), (10, 1), (12, 3), (16, 1000), (20, 2)] ++ fs).map fun (f : Nat × Nat) => f.2 * 256 ^ f.1).sum

/-- A device at 5 µs with one surface in force, whose descriptor is the first of the table. -/
def showing (fs : List (Nat × Nat)) (f : Surf → Surf) : State :=
  let s : State := { holding 0 with tick := 5000 * nsT }
  let s : State := { s with dev := s.dev.setBytes 0 (surface fs) }
  { s with disp.surfs := [(0, f { Surf.new (surface fs) 0 0 with served := true })] }

/-- One layer entry: enabled, one pixel, and its Imposition level (14 R360, R363). -/
def layer (ilvl : Nat) : List (Nat × Nat) := [(64 + 36, 1), (64 + 38, 1), (64 + 40, 4), (64 + 44, 8 + ilvl)]

theorem witness_DisplaySteps :
    (let s := showing [] id;
      s.booted && decide (s.disp.lastRead ≠ some (s.time / 1000000) ∧ s.surfAt 64 ≤ usable) &&
      ((s.disp.surfs.get? 0).any fun x => let s1 := readSurf s 0 (s.surfBytes 0);
        decide (x.met ≠ some (s.time / (surfHdr x.desc).period) ∧ x.found < s.time / (surfHdr x.desc).period * (surfHdr x.desc).period ∧
          s.surfAt 1 ≤ usable ∧ s1.time = s.time) &&
        (s1.disp.surfs.get? 0).any fun y => !y.bad && y.served && decide (surfHdr y.desc = surfHdr x.desc))) = true ∧
    ([0, 16].all fun n =>
      let others := (List.range n).map fun k => (k + 1, { Surf.new (surface []) 0 0 with served := true })
      let s := showing [] id
      let s : State := { s with disp.surfs := (0, { Surf.new (surface []) 1 0 with served := false }) :: others }
      let s1 := readSurf s 0 (s.surfBytes 0)
      (s1.disp.surfs.get? 0).any fun y => !y.bad && !y.served && (s1.dpWaiting.take (16 - s1.dpServed)).contains 0 == (n == 0)) = true ∧
    (let s := showing (layer 0) fun x => { x with frame := some 5 };
     (s.disp.surfs.get? 0).any fun x => let h := surfHdr x.desc;
       decide (x.line < h.h ∧ 5 * h.period + h.lineNs (h.first + x.line) ≤ s.time) && h.dp && !h.warp && !x.bad && x.served) = true ∧
    (let s := showing [(12, 64)] id;
     (s.disp.surfs.get? 0).any fun x => let h := surfHdr x.desc;
       let f := (((s.time : Int) - ((h.lineNs h.first : Int) - 1000 * (h.latch : Int))) / (h.period : Int)).toNat;
       h.dp && h.warp && decide (x.warpFor ≠ some f ∧ x.found < f * h.period) &&
         match s.readVa h.vf true h.mailva 64 with | (_, .ok _) => true | (_, .error _) => false) = true ∧
    (let s := showing (layer 1) id;
     (s.disp.surfs.get? 0).any fun x => let h := surfHdr x.desc;
       let l := surfLayer x.desc 0;
       let f := (((s.time : Int) - proofNs h l) / (h.period : Int)).toNat;
       l.en && l.ilvl == 1 && l.shows h && (x.proofs.get? (8 * f)).isNone && decide (x.found < f * h.period) && s.disp.renders.isEmpty) = true ∧
    ([0, 8].all fun delta =>
      let s := showing (layer 1 ++ [(64 + 16, delta)]) id
      let s : State := { s with disp.renders := [{ surface := 0, layer := 0, buf := 0, qslot := 0, serial := 0, time := 0 }] }
      let s := (s.writeLoc { space := .dev, addr := placePage } 8 (2 ^ 32)).writeLoc { space := .dev, addr := placePage + 8 } 8 (2 ^ 32 + 1)
      (s.disp.surfs.get? 0).any fun x => let h := surfHdr x.desc
        let l := surfLayer x.desc 0
        let f := (((s.time : Int) - proofNs h l) / (h.period : Int)).toNat
        let clk := (((f * h.period : Nat) : Int) + proofNs h l).toNat * nsT / clkT
        !x.bad && x.served && decide (x.proofT.getD 0 0 ≤ 0 ∧ 0 < clk) && s.disp.renders.all fun r =>
          match (s.pairs h.vf l r).2 with
          | [.agree] => delta == 0
          | [.mismatch ..] => delta == 8
          | _ => false) = true := by
  decide +kernel

theorem witness_DeviceSteps :
    (let v := fun (f : VfSt → VfSt) => tA.setVf 0 (f (tA.vf 0));
     (({ tA with reclaim := [7] } : State).reclaim.contains 7 && ((v fun x => { x with inval := some none, purged := true }).vf 0).inval.isSome &&
      ((v fun x => { x with splint := some (0, 0), purged := true }).vf 0).busyOps.isEmpty && (largeEntry tA 0 0).isNone &&
      ((largeEntry slotted 0 0).isSome && decide ((slotted.vf 0).sframe + 2 ^ 14 ≤ usable)) &&
      ({ tA with regs.zeroing := some (511, 63) } : State).regs.zeroing.isSome)) = true ∧
    ([(1, 0), (2, 0), (2, 2)].all fun (st, pass) =>
      let s : State := { tA with quads := setAt tA.quads 5 { Quad.reset with st, pass, ready := some 0, testing := if st = 2 then some 0 else none } }
      let q := s.quads.getD 5 Quad.reset
      q.st == st && q.ready.isSome && q.preempt.isNone && (s.failingBit 5).isNone && q.testing.isSome == (st == 2)) = true ∧
    ([0, 4].all fun n =>
      let d : Defect := { core := 2, slot := 1, row := 9, lane := 3, bit := 4, val := true }
      let s : State := { tA with rely.defects := [d], rely.spares := (List.range n).map fun k => { core := 2, slot := 1, row := k, spare := k },
                                 quads := setAt tA.quads 1 { Quad.reset with st := 2, testing := some 0 } }
      s.failingBit 1 == some d && (s.sparesUsed 2 1 == n)) = true ∧
    ((outsideWrite (holding 0) 0x2000 [1, 2]).bind fun t => outsideWrite t 0x3000 [3]).isSome = true ∧
    (let x : Flit := { pa := 0x2000, bytes := [1, 2], sound := false }
     let y : Flit := { pa := 0x3000, bytes := [3], sound := true }
     [[x], [x, y]].all fun q =>
       let s : State := { holding 0 with regs.lrate := [5, 5], regs.rx := [q, []] };
       s.linkUp 0 && s.regs.rx.getD 0 [] == q && q.all fun z => (z.pa, z.bytes) != (0x3000, [4])) = true ∧
    (tA.grp?.any fun g => decide (g.stop ≠ .gone) && !g.saved) = true ∧
    (let s : State := { holding 0 with regs.lrate := [5, 5], regs.replays := [List.replicate 16 0, []] };
     s.linkUp 0 && (s.regs.rx.getD 0 []).isEmpty && decide (16 ≤ (s.regs.replays.getD 0 []).length) &&
       decide ((s.regs.replays.getD 0 []).getLastD 0 ≤ (s.regs.replays.getD 0 []).headD 0 + 1000000 * nsT)) = true ∧
    (0 + 1) * dayT ≤ ({ State.reset with tick := dayT } : State).tick := by decide +kernel

/-! ## What the statements over the whole machine assume -/

theorem witness_PredicateRegisters :
    (tC.grp?.any fun g => (g.cs.sp tC.cur.split).isSome && g.trap.isNone) = true ∧ (6 : BitVec 9).toNat < 7 ∧ (0 : BitVec 9).toNat < 7 := by
  decide +kernel

theorem witness_NearMemoryTraps :
    let s := tC fun g => { g with cs := { g.cs with v := [(2, mkLanes fun l => if l = 5 then 127 else 0)] } }
    let a : Src := .v 2
    let mis := fun (e : Nat × Nat) => e.2 % 4 != 0
    ([(Instr.ldl 4 0 0 (.v 8) a (inl 0) ctl, inl 0), (.stl 4 0 a (inl 0) a ctl, inl 0), (.lds 4 0 0 (.v 8) a (inl 0) ctl, inl 0),
      (.sts 4 0 a (inl 0) a ctl, inl 0), (.ldc 4 0 0 (.v 8) a (inl 0) ctl, inl 0), (.stc 4 0 a (inl 0) a ctl, inl 0),
      (.atoms 0 0 0 0 (.v 0) a (inl 0) a (.v 0) ctl, inl 0), (.atomc 0 1 0 1 (.v 8) a (inl 0) a (.v 0) ctl, inl 0)].all fun ib =>
        issuesC s ib.1 fun x => (Claims.near s x a ib.2).any mis && x.g.trap.isNone &&
          decide ((x.env s).flag 1 < 12 ∧ (x.past s).cfn ((x.env s).flag 1) < 63)) = true ∧
    ([(4, Instr.ldl 4 0 0 (.v 8) a (inl 0) ctl), (4, .stl 4 0 a (inl 0) a ctl), (3, .lds 4 0 0 (.v 8) a (inl 0) ctl),
      (2, .stc 4 0 a (inl 0) a ctl), (3, .atoms 0 0 0 0 (.v 0) a (inl 0) a (.v 0) ctl)].all fun li =>
      let size := (tC.grp?.map fun g => tC.allot g li.1).getD 0
      let s := tC fun g => { g with cs := { g.cs with v := [(2, mkLanes fun l => if l = 5 then BitVec.ofNat 32 size else 0)] } }
      issuesC s li.2 fun x => (Claims.near s x a (inl 0)).all (fun e => e.2 % 4 == 0) && x.g.trap.isNone &&
        (Claims.near s x a (inl 0)).any fun e => e.2 == size &&
          decide ((Claims.here s x).allot (x.past s) li.1 < e.2 + 4)) = true := by decide +kernel

theorem witness_MemoryReadsBack : Memory.wf [(3, 1), (7, 255)] = true := by decide +kernel

theorem witness_RegisterFrames :
    ([Instr.add 1 2 3, .bfeA 0 2 3, .beq 1 2 3, .dbnz 1 5, .jal 1 5, .rinput 1 2, .rdtime 60, .nop].all fun i =>
      issuesA tA i (fun g => (Claims.writesA g i).isSome) && match exec i tA with | .next _ => true | _ => false) = true ∧
    ([Instr.iadd 0 0 (.v 1) (.v 2) (.c 3) ctl, .mov (.c 3) (.v 2) ctl, .fadd 0 0 (.v 1) (.v 2) (.v 3) ctl,
      .bcastf (.v 1) (.v 2) ctl].all fun i =>
      issuesC tC i (fun _ => (Claims.writesV i).isSome) && match exec i tC with | .next _ => true | _ => false) = true := by
  decide +kernel

theorem witness_StoreFrames :
    let s := ran (.sta 1 0 0 0 0) (tA (withB words))
    let c := ran (.stl 6 0 (.v 2) (inl 0) (.v 2) ctl) tC
    (Claims.named s ∧ s.memoriesWf) ∧ (Claims.named c ∧ c.memoriesWf) ∧
      (s.memLive (tA (withB words)).nextId).isSome = true ∧ (c.memLive tC.nextId).isSome = true := by
  unfold Claims.named State.memoriesWf
  decide +kernel

/-- A place whose page has D clear in its entry: its write sets A and D there, bits 11 and 12 (10 R291, R293). -/
theorem test_write_sets_D :
    let s := tA id
    let l : Loc := { space := .dev, addr := placePage, leaf := some (0, 0) }
    (match walk s 0 0 with
      | .leaf p level a => [p.getLsbD 12, decide (level = 3), decide (a % 2 ^ 14 = 8 * vaIndex 0 level)] ++
        (match walk ((s.setMem .dev (s.dev.setBytes (a + 1) [0]) : State).dirtied l) 0 0 with
          | .leaf q _ _ => [q.getLsbD 11, q.getLsbD 12]
          | _ => [])
      | _ => []) = [true, true, true, true, true] := by decide +kernel

/-- The machine of `slotted` with a packet that declares no vector register and no queue entry. -/
def small : State := slotted.updL 1 fun l => { l with pk := { l.pk with vregs := 0, depths := [] }, qd := { l.qd with hen := true } }

theorem witness_TrapEntry :
    (let s := small
     (s.groups.get? 1).any fun g => !g.sys.frame && let r := writeImage (s.unwait 1) (Claims.atTrap g)
      r.2.isNone && r.1.hasHandler (Claims.atTrap g) &&
        (r.1.writeVaBlk (r.1.lau (Claims.atTrap g)).qd.vf true (some (r.1.user (Claims.atTrap g))) (Claims.atTrap g).frameVa
          (frameBytes r.1 (Claims.atTrap g) pending)).2.isNone) = true ∧
    (let s := small.updL 1 fun l => { l with qd := { l.qd with hen := false } }
     (s.groups.get? 1).any fun g => !g.sys.frame && let r := writeImage (s.unwait 1) (Claims.atTrap g)
      let h := Claims.atTrap g
      r.2.isNone && let w := r.1.writeVaBlk (r.1.lau h).qd.vf true (some (r.1.user h)) h.frameVa (frameBytes r.1 h pending)
        w.2.isNone && !w.1.hasHandler (Claims.atTrap g)) = true ∧
    (let s := small.updG fun g => { g with sys.save := 512 }
     (s.groups.get? 1).any fun g => !g.sys.frame && (writeImage (s.unwait 1) (Claims.atTrap g)).2.isSome) = true ∧
    (let s := small.updG fun g => { g with sys.tframe := 0x2000000 }
     (s.groups.get? 1).any fun g => let r := writeImage (s.unwait 1) (Claims.atTrap g)
       r.2.isNone && (r.1.writeVaBlk (r.1.lau (Claims.atTrap g)).qd.vf true (some (r.1.user (Claims.atTrap g)))
         (Claims.atTrap g).frameVa (frameBytes r.1 (Claims.atTrap g) pending)).2.isSome) = true ∧
    ((tA fun g => { g with sys.wroteTvec := true }).grp?.any fun g => tA.hasHandler g) = true ∧
    ((tA fun g => { g with sys.frame := true }).grp?.any fun g => g.sys.frame && g.trap.isNone && decide (g.stop ≠ .gone)) = true := by
  decide +kernel

theorem witness_RoundTrips :
    (encodeA (.add 1 2 3)).isSome = true ∧ (encodeA (.mxrel)).isSome = true ∧
      (violation (.mxfeed 1 ctl) = none ∧ (encodeC (.mxfeed 1 ctl)).isSome = true) := by decide +kernel

theorem witness_StepRunsDecoded :
    (let s := State.reset.withFetchWord 32 0xB0001400
     let t := s.nextTurn
     let s0 := (t.2.galleyTo t.1.adv).begin t.1
     decide (t.1.what = .a ∧ s.haltedAt .a = none) && s0.grp?.any fun g => g.aRuns && s0.issues g &&
       match fetchBytes s0 g (((s0.pk g).abase + g.apc) % 2 ^ 64) 4 with
       | (_, .ok b) => !aTwoWords (BitVec.ofNat 32 (leNat b)) && (match decodeA (BitVec.ofNat 32 (leNat b)) 0 with
         | .ok i => decide (i = .exit)
         | .error _ => false)
       | _ => false) = true ∧
    (let s := State.reset.withFetchWord 96 0x030080300300782000EE0000
     let t := s.nextTurn
     let s0 := (t.2.galleyTo t.1.adv).begin t.1
     decide (t.1.what = .c ∧ s.haltedAt .c = none) && s0.grp?.any fun g => g.cRuns && s0.issues g &&
       (g.cs.sp s0.cur.split).any fun p => decide (p.st = .running ∧ p.slot ≠ 0 ∧ p.cnt ≠ 0) && !p.cmp &&
         match fetchC s0 g p.idx with
         | (_, .ok w) => (match decodeC w with | .ok _ => true | .error _ => false)
         | _ => false) = true ∧
    (let s := { State.reset with agenda := [{ adv := 0, gid := 0, split := 0, what := .ev .memoryScrub }] }
     decide (s.nextTurn.1.what = .ev .memoryScrub ∧ s.haltedAt (.ev .memoryScrub) = none)) = true := by decide +kernel

/-- A step on the first instruction after a load goes to the next word, and time does not go back. -/
theorem witness_StepKeepsInvariant :
    (match step (State.reset.withFetchWord 32 0) with
      | .next t => decide (t.time = 0)
      | _ => false) = true := by decide +kernel

theorem witness_StopsOnlyByName :
    (match step { State.reset with rely.stopped := true, agenda := [{ adv := 0, gid := 0, split := 0, what := .a }] } with
      | .fault .thermallyStopped => true
      | _ => false) = true ∧
    (match step { State.reset with regs.boot := 17, agenda := [{ adv := 0, gid := 0, split := 0, what := .a }] } with
      | .fault .bootHalted => true
      | _ => false) = true ∧
    (let lost := fun (s : State) => s.setVf 0 { s.vf 0 with troot := BitVec.ofNat 64 (2 ^ 40 + 1) }
     (match globalAt (lost tA) 0 true { code := 3 } 0 0 with | (_, .error (.hole a)) => decide (usable ≤ a) | _ => false) &&
     pteTgt 0x181F == 0 && decide (ptePa 0x181F + 5 < usable ∧ usable ≤ ptePa (BitVec.ofNat 64 (2 ^ 40)) + 5) &&
     let s := lost (State.reset.withFetchWord 32 0)
     let t := s.nextTurn
     let s0 := (t.2.galleyTo t.1.adv).begin t.1
     decide (t.1.what = .a ∧ s.haltedAt .a = none) && s0.grp?.any fun g => g.aRuns && s0.issues g &&
       match fetchBytes s0 g (((s0.pk g).abase + g.apc) % 2 ^ 64) 4 with
       | (_, .error (.hole _)) => true
       | _ => false) = true := by decide +kernel

theorem witness_CompositionRule :
    (let s := showing (layer 1) fun x => { x with proofs := [(40, .proved 0), (48, .proved 1)] }
     (s.disp.surfs.get? 0).any fun x => let l := surfLayer x.desc 0;
       l.en && decide (l.ilvl ≠ 0 ∧ l.x ≤ 0 ∧ (0 : Int) < l.x + l.w) && x.proofs.get? (8 * 5) == some (.proved 0) &&
         x.proofs.get? (8 * 6) == some (.proved 1) && (x.proofs.get? (8 * 7)).isNone) = true ∧
    (let l := surfLayer (surface (layer 0)) 0
     l.en && l.ilvl == 0) = true := by decide +kernel

/-! ## Decoding (words written out from the encodings of 02 R50-R72 and 04-07) -/

/-- Whether the decoder reads each word as its instruction. -/
def reads (nbits : Nat) (l : List (Nat × Instr)) : Bool := l.all fun e => decodeTableWord nbits e.1 == some e.2

/-- The bits of a one-word instruction: MAJ in [31:26], then the fields (02 R51-R58). -/
def aw (maj : Nat) (fs : List (Nat × Nat)) : Nat := maj * 2 ^ 26 + (fs.map fun f => f.2 * 2 ^ f.1).sum

theorem test_decode_a : reads 32
    [(aw 0x00 [(20, 1), (14, 2), (8, 3)], .add 1 2 3), (aw 0x01 [(20, 1), (14, 2), (0, 0x3FFF)], .addi 1 2 0x3FFF),
     (aw 0x00 [(20, 1), (14, 2), (8, 3), (0, 0x1D)], .bfiA 1 2 3), (aw 0x08 [(20, 63), (0, 0xABCDE)], .lui 63 0xABCDE),
     (aw 0x0A [(20, 1), (14, 2), (0, 5)], .beq 1 2 5), (aw 0x12 [(20, 1), (0, 0x3FFF)], .dbnz 1 0x3FFF),
     (aw 0x10 [(20, 1), (0, 0xFFFFF)], .jal 1 0xFFFFF), (aw 0x11 [(20, 1), (14, 2), (0, 8)], .jalr 1 2 8),
     (0x4C000000, .cls 0), (aw 0x14 [(14, 9)], .clsr 9), (aw 0x15 [(14, 9)], .spush 9), (aw 0x16 [(20, 9)], .bpop 9)] = true := by
  decide +kernel

theorem test_decode_memory : reads 32
    [(0x5C000200, .ldv 0 0 0 0 1 0), (0x601107FC, .ldg 0 0 1 2 3 0x1FC), (0x64008200, .stv 0 0 1 1 0),
     (aw 0x1A [(22, 5), (20, 1), (15, 31), (9, 63), (0, 1)], .stx 5 1 31 63 1),
     (aw 0x1C [(20, 1), (15, 2), (9, 3), (6, 4), (0, 5)], .lda 1 2 3 4 5),
     (aw 0x1D [(20, 1), (15, 2), (9, 3), (6, 4), (0, 5)], .sta 1 2 3 4 5), (aw 0x1F [(25, 1), (15, 2), (9, 3), (0, 5)], .prf 1 2 3 5),
     (0x80000000, .bld 0 0 0), (0x80100001, .bld 1 0 1), (aw 0x21 [(20, 31), (14, 2), (0, 11)], .bset 31 2 11),
     (aw 0x22 [(20, 15), (14, 2), (0, 1)], .tld 15 2 1)] = true ∧
    reads 64 [(0xE00000006C22C000, .atv 0 2 5 1 0 3 4)] = true := by decide +kernel

theorem test_decode_system : reads 32
    [(aw 0x24 [(14, 1), (8, 2)], .cwait 1 2), (aw 0x2B [(0, 0x801)], .waitf 0x801), (aw 0x25 [(14, 1), (0, 7)], .binit 1 7),
     (0x94000C07, .barvw 7), (aw 0x26 [(11, 4), (8, 1)], .fenceAcq 4 1), (aw 0x29 [(20, 1), (14, 2), (8, 3)], .ralloc 1 2 3),
     (0xA4200004, .rdepth 2), (0xA4510003, .rinput 5 4), (0xB0001C00, .csync), (0xB0001400, .exit),
     (aw 0x2C [(20, 1), (10, 1), (0, 0x107)], .rdsr 1 0x107), (aw 0x2C [(10, 3), (0, 9)], .trap 9)] = true ∧
    reads 64 [(0x003422829C48A400, .mxloop 2 10 1 3 8 4 20 0 2), (0x12003000A0085160, .cover 0 4 10 11 1 8 3)] = true := by
  decide +kernel

/-- The bits of a C instruction without a guard (02 R61, R65): OP, MOD, destination kind and number, operands, XF. -/
def cw (op mod dk d : Nat) (ss : List (Nat × Nat)) (xf : Nat := 0) : Nat :=
  op * 2 ^ 88 + mod * 2 ^ 80 + dk * 2 ^ 78 + d * 2 ^ 69 +
    ((ss.zip [58, 47, 36, 25]).map fun e => (e.1.1 * 2 ^ 9 + e.1.2) * 2 ^ e.2).sum + 0xEE0000 + xf

theorem test_decode_float : reads 96
    [(cw 0x00 0 0 1 [(0, 2), (1, 3)], .fadd 0 0 (.v 1) (.v 2) (.c 3) ctl), (0x030080300300782000EE0000, .ffma 0 0 (.queue 1) (.queue 0) (.konst 0) (.konst 386) ctl),
     (0x03020060050277F0004E0000, .ffma 1 0 (.v 3) (.v 1) (.c 4) (.konst 383) (ctl 2)), (cw 0x08 0xB8 0 6 [(0, 2), (0, 3)], .fset 11 1 (.v 6) (.v 2) (.v 3) ctl),
     (cw 0x12 0 0 1 [(2, 4)], .fexp2 (.v 1) (.queue 4) ctl), (cw 0x20 0x0D 0 1 [(0, 2), (0, 3)], .hadd2 1 2 1 (.v 1) (.v 2) (.v 3) ctl),
     (cw 0x25 0x51 0 2 [(0, 2), (0, 3)] 3, .hset2 5 1 0 3 (.v 2) (.v 2) (.v 3) ctl),
     (cw 0x50 0x69 0 1 [(0, 2)] 12, .cvt 13 0 1 0 12 (.v 1) (.v 2) ctl)] = true := by decide +kernel

theorem test_decode_integer : reads 96
    [(cw 0x30 0x11 0 1 [(0, 2), (0, 3)], .iadd 1 1 (.v 1) (.v 2) (.v 3) ctl), (cw 0x39 0xB0 0 5 [(0, 2), (0, 3)], .iset 5 1 (.v 5) (.v 2) (.v 3) ctl),
     (cw 0x3A 0x96 0 1 [(0, 2), (0, 3), (0, 4)], .ltab 0x96 (.v 1) (.v 2) (.v 3) (.v 4) ctl), (cw 0x3C 0x10 0 1 [(0, 2), (3, 388)], .shra (.v 1) (.v 2) (.konst 388) ctl),
     (cw 0x43 0x21 0 1 [(0, 2), (0, 3), (0, 4)], .idp4 0 1 1 (.v 1) (.v 2) (.v 3) (.v 4) ctl), (cw 0x55 0 0 1 [(0, 2), (0, 3), (0, 4)], .rnmad (.v 1) (.v 2) (.v 3) (.v 4) ctl)] =
      true := by decide +kernel

theorem test_decode_lanes : reads 96
    [(cw 0x60 0 1 63 [(0, 511)], .mov (.c 63) (.v 511) ctl), (cw 0x62 1 0 1 [(0, 2), (0, 3), (1, 4)], .perm 1 (.v 1) (.v 2) (.v 3) (.c 4) ctl),
     (cw 0x64 1 0 1 [(0, 2)], .bcastf (.v 1) (.v 2) ctl), (cw 0x6A 3 0 1 [], .sreg 3 (.v 1) ctl), (cw 0x6B 15 0 0 [(2, 4)], .pop 15 (.queue 4) ctl),
     (cw 0x6D 3 2 3 [], .push 3 (.queue 3) ctl), (0x72000000000480000C2E0000, .brd 9 6 (ctl 1)), (0x750000000000000000EE0000, .endc ctl),
     (cw 0x7D 9 0 0 [], .ctrap 9 ctl)] = true := by decide +kernel

theorem test_decode_units : reads 96
    [(0x9200028023C0780EFEEE0000, .trace 0 0 0 (.v 20) (.v 8) (.konst 384) (.konst 384) (.konst 383) ctl),
     (cw 0x95 0 0 20 [(3, 384)], .tcand (.v 20) (.konst 384) ctl), (cw 0xA0 0 0 0 [] 1, .mxfeed 1 ctl)] = true ∧
    decodeTableWord 96 0xFF000FF1000000003FC00000 = none ∧ decodeTableWord 32 0xFC000000 = none := by decide +kernel

/-! ## Ill-formed instructions: each check refuses its term (02 R73) -/

theorem test_ill_formed : ([(Instr.dbnz 0 1, 4), (.ldv 0 7 0 0 0 0, 4), (.stv 0 2 0 0 0, 4), (.stx 7 0 0 0 0, 4), (.lda 1 0 0 7 0, 4),
    (.sta 1 0 0 7 0, 4), (.atv 15 0 0 0 0 0 4, 4), (.atv 0 1 0 0 0 0 4, 2), (.atv 9 0 0 1 1 0 4, 2), (.atv 0 0 0 1 0 0 0, 4),
    (.ata 15 1 0 2 3 0 0 4, 4), (.ata 0 1 0 2 3 4 0 4, 2), (.ata 0 1 0 2 3 0 0 7, 4), (.bset 0 1 12, 1), (.cpyBar 0 1 4 0 0 0, 4),
    (.cpyCnt 0 1 4 0 4 5, 4), (.fenceAcq 7 0, 4), (.mxbind 0 24 0 0 0 0 0 0 0, 4), (.mxbind 0 0 6 0 0 0 0 0 0, 4),
    (.mxbind 0 9 9 1 9 0 0 0 0, 4), (.mxbind 0 0 0 0 2 0 0 0 0, 4), (.mxloop 0 4 0 0 1 15 0 0 0, 4), (.mxloop 0 4 0 1 0 15 0 0 0, 4),
    (.mxloop 0 4 0 1 1 15 0 0 1, 4), (.mxloop 0 63 0 1 1 15 0 0 0, 4), (.mxconv 0 1 4 0 1 1 0 63 0 0, 4), (.mxsel 0 17 0 1 4, 4),
    (.cover 0 0 1 2 0 63 0, 4), (.tstore 0 1 63 0 0, 4), (.rdsr 1 0x007, 4), (.wrsr 1 0x108, 4), (.rdtime 3, 4)].all fun e =>
      (violation e.1).map (·.code) == some e.2) = true := by decide +kernel

theorem test_ill_formed_c :
    let v : Dst := .v 1
    let a : Src := .v 2
    ([(Instr.fadd 0 0 (.c 64) a a ctl, 3), (.fadd 0 0 (.none 1) a a ctl, 3), (.fadd 0 0 v (.c 64) a ctl, 3), (.fadd 0 0 v (.queue 5) a ctl, 3),
      (.fadd 0 0 v a (.konst 1) ctl, 3), (.fadd 0 0 v a a { ctl with ch := 1 }, 4), (.fset 12 0 v a a ctl, 4), (.fset 0 0 (.v 7) a a ctl, 3),
      (.fset 0 0 (.v 8) a a ctl, 2), (.iset 6 0 v a a ctl, 4), (.fdot3 0 0 v (.c 3) a ctl, 3), (.iadd 1 0 v a a ctl, 4),
      (.cvt 17 0 0 0 0 v a ctl, 4), (.cvt 0 0 1 0 0 v a ctl, 2), (.cvt 11 0 0 1 12 v a ctl, 2), (.pack 0 0 0 0 0 v a a a a ctl, 4),
      (.pack 1 0 0 0 0 v a a a (.v 0) ctl, 2), (.unpk 4 2 v a ctl, 4), (.perm 0 v (.c 3) a a ctl, 3), (.shflup 6 0 v a (.c 3) a ctl, 4),
      (.shflup 0 0 v a a a ctl, 3), (.voteballot 0 0 3 v ctl, 4), (.reduce 13 0 0 v a ctl, 4), (.reduce 5 1 0 v a ctl, 2),
      (.regroup 0 0 v a (ctl 0), 4), (.sreg 5 v ctl, 4), (.pop 0 (.queue 8) ctl, 3), (.push 0 v ctl, 3), (.pltab 0 v (.v 8) a a ctl, 2),
      (.pmov 1 1 v a ctl, 2), (.jmp 0 (ctl 0), 4), (.bwait a ctl, 3), (.ldl 7 0 0 v a a ctl, 4), (.stl 6 0 a a (.c 3) ctl, 3),
      (.atoms 15 0 0 0 (.v 0) a a a (.v 0) ctl, 4), (.atoms 0 0 0 0 v a a a (.v 0) ctl, 2), (.atoms 0 1 0 0 v a a a a ctl, 2),
      (.sample 3 0 0 0 v a a ctl, 4), (.gath4 3 0 0 0 v a a ctl, 4), (.trace 0 0 0 v (.c 3) a a a ctl, 3), (.tcand (.c 3) a ctl, 3),
      (.mxfeed 0 { ctl with stall := 1 }, 2)].all fun e => (violation e.1).map (·.code) == some e.2) = true ∧
    violation (.sample 0 0 0 0 v a a { ctl with ch := 3 }) = none := by decide +kernel

/-! ## Results that the spec's text and worked examples state -/

/-- What an A-stream instruction leaves in A1, from words in A2 and A3. -/
def a1 (i : Instr) (x y : Nat) : Option Nat := (after i (tA (regs [(1, 0xFFFFFFFF), (2, x), (3, y)]))).map fun g => (g.ra 1).toNat

theorem test_add_wraps : a1 (.add 1 2 3) 0xFFFFFFFF 2 = some 1 := by decide +kernel
theorem test_div_corner : a1 (.div 1 2 3) 0x80000000 0xFFFFFFFF = some 0x80000000 := by decide +kernel
theorem test_div_towards_zero : a1 (.div 1 2 3) 0xFFFFFFF9 2 = some 0xFFFFFFFD := by decide +kernel
theorem test_divu_zero : a1 (.divu 1 2 3) 7 0 = some 0xFFFFFFFF := by decide +kernel
theorem test_rem_sign : a1 (.rem 1 2 3) 0xFFFFFFF9 2 = some 0xFFFFFFFF := by decide +kernel
theorem test_remu_zero : a1 (.remu 1 2 3) 7 0 = some 7 := by decide +kernel
theorem test_mulh : a1 (.mulh 1 2 3) 0xFFFFFFFF 2 = some 0xFFFFFFFF := by decide +kernel
theorem test_mulhu : a1 (.mulhu 1 2 3) 0xFFFFFFFF 2 = some 1 := by decide +kernel
theorem test_slt_signed : a1 (.slt 1 2 3) 0xFFFFFFFF 0 = some 1 := by decide +kernel
theorem test_sra : a1 (.sra 1 2 3) 0x80000000 36 = some 0xF8000000 := by decide +kernel
theorem test_rot : a1 (.rot 1 2 3) 1 1 = some 0x80000000 := by decide +kernel
theorem test_clz_zero : a1 (.clzA 1 2) 0 0 = some 32 := by decide +kernel
theorem test_sextb : a1 (.sextb 1 2) 0x180 0 = some 0xFFFFFF80 := by decide +kernel
theorem test_bfe_top : a1 (.bfeA 1 2 3) 0xF0000000 0x11C = some 0xF := by decide +kernel
theorem test_bfi : a1 (.bfiA 1 2 3) 0 0x84 = some 0xFFFFFF0F := by decide +kernel
theorem test_a0_reads_zero : ((after (.addi 0 0 5) tA).map fun g => (g.ra 0).toNat) = some 0 := by decide +kernel

/-- What a C-stream instruction leaves in C10, from words in C11, C12 and C13: uniform operands, and the result of the lowest
enabled lane. -/
def c10 (i : Instr) (ws : List Nat) : Option Nat :=
  (after i (tC fun g => { g with cs.c := ((List.range ws.length).foldl (fun c k => c.set (k + 11) (BitVec.ofNat 32 (ws.getD k 0))) g.cs.c) })).map
    fun g => (g.cs.rc 0 10).toNat

theorem test_ltab : c10 (.ltab 0xCA (.c 10) (.c 11) (.c 12) (.c 13) ctl) [0x0F0F, 0x3333, 0x00FF] = some 0x0F33 := by decide +kernel
theorem test_bfe_lane : c10 (.bfe (.c 10) (.c 11) (.c 12) ctl) [0xF1A0, 0xA4] = some 0x1A := by decide +kernel
theorem test_bfes_lane : c10 (.bfes (.c 10) (.c 11) (.c 12) ctl) [0xF1A0, 0xA4] = some 0xFFFFFFFA := by decide +kernel
theorem test_shl_full : c10 (.shl (.c 10) (.c 11) (inl 32) ctl) [0xFFFFFFFF] = some 0 := by decide +kernel
theorem test_shra_full : c10 (.shra (.c 10) (.c 11) (inl 40) ctl) [0x80000000] = some 0xFFFFFFFF := by decide +kernel
theorem test_iadd_sat : c10 (.iadd 0 1 (.c 10) (.c 11) (.c 12) ctl) [0x7FFFFFFF, 1] = some 0x7FFFFFFF := by decide +kernel
theorem test_rnmad : c10 (.rnmad (.c 10) (.c 11) (.c 12) (.c 13) ctl) [0x0C1418, 0x030303, 0x050505] = some 0x29414D := by decide +kernel
theorem test_rndec : c10 (.rndec 0 (.c 10) (.c 11) ctl) [0x29414D] = some 0xFFFFF44D := by decide +kernel
theorem test_rndecu : c10 (.rndec 1 (.c 10) (.c 11) ctl) [0x29414D] = some 0xFBF74D := by decide +kernel
theorem test_rnenc : c10 (.rnenc 0 (.c 10) (.c 11) ctl) [0xFFFFFC18] = some 0x0C1418 := by decide +kernel
theorem test_cvt_f8a : c10 (.cvt 5 0 0 0 0 (.c 10) (.c 11) ctl) [0x43960000] = some 0x79 := by decide +kernel
theorem test_cvt_f8a_beyond : c10 (.cvt 5 0 0 0 0 (.c 10) (.c 11) ctl) [0x43FA0000] = some 0x7E := by decide +kernel
theorem test_ffma_rz : c10 (.ffma 1 0 (.c 10) (.c 11) (.c 12) (.konst 383) ctl) [0x3F800001, 0x3F800001] = some 0x34800000 := by decide +kernel
theorem test_hfma2b_rn : c10 (.hfma2 1 0 0 (.c 10) (.c 11) (.c 12) (.c 13) ctl) [0x40003F80, 0x40403F81, 0xC0C03B80] = some 0x3F82 := by
  decide +kernel
theorem test_hfma2b_rd : c10 (.hfma2 1 3 0 (.c 10) (.c 11) (.c 12) (.c 13) ctl) [0x40003F80, 0x40403F81, 0xC0C03B80] = some 0x80003F81 := by
  decide +kernel
theorem test_inline_float : c10 (.fadd 0 0 (.c 10) (.konst 382) (inl 0) ctl) [] = some 0xC0000000 := by decide +kernel
theorem test_fexpo_subnormal : c10 (.fexpo 0 (.c 10) (.c 11) ctl) [1] = some 0xFFFFFF6B := by decide +kernel
theorem test_fdiv_by_zero : c10 (.fdiv 0 0 (.c 10) (.c 11) (.c 12) ctl) [0x3F800000, 0x80000000] = some 0xFF800000 := by decide +kernel

/-- A lane of V1 after a C-stream instruction, with V2 holding each lane's number times 4. -/
def v1 (i : Instr) (l : Nat) : Option Nat := (after i (tC fun g => { g with cs.v := g.cs.v.set 2 (mkLanes fun l => BitVec.ofNat 32 (4 * l)) })).map
    fun g => (lane (g.cs.rv 1) l).toNat

theorem test_shfldn : v1 (.shfldn 3 0 (.v 1) (.v 2) (inl 1) (inl 9) ctl) 6 = some 28 ∧
    v1 (.shfldn 3 0 (.v 1) (.v 2) (inl 1) (inl 9) ctl) 7 = some 9 := by decide +kernel
theorem test_bcastf : v1 (.bcastf (.v 1) (.v 2) ctl) 95 = some 0 := by decide +kernel
theorem test_perm_fill : v1 (.perm 0 (.v 1) (.v 2) (.v 2) (inl 5) ctl) 24 = some 5 ∧
    v1 (.perm 0 (.v 1) (.v 2) (.v 2) (inl 5) ctl) 23 = some 368 := by decide +kernel
theorem test_scan_ballot : c10 (.voteballot 7 0 1 (.c 10) ctl) [] = some 0xFFFFFFFF := by decide +kernel

end Sys2Proof.Tests
end

/-! ## Register writes of the ports (15 R377-R380, R385) -/

namespace Sys2Proof.Machine

/-- The Boolean test of the model and the statement's own words say the same of a port that holds the semaphore. -/
theorem State.semOwns_iff_holds (s : State) (port : Nat) : s.semOwns port = true ↔ Claims.holds s port := by
  simp only [State.semOwns, Claims.holds, Bool.and_eq_true, beq_iff_eq, Bool.not_eq_true', Bool.and_eq_false_iff,
    beq_eq_false_iff_ne, ← Decidable.imp_iff_not_or]

/-- A write that only the holder may make, over the two tests that decide it (15 R379). -/
theorem portWrite_unbooted {s : State} (h : s.booted = false) (port off : Nat) (may : Bool) (f : State → State) :
    portWrite s port off may f = .next s := by
  simp [portWrite, h]

theorem portWrite_allowed {s : State} {port : Nat} {may : Bool} (hb : s.booted = true) (hp : port < 2)
    (h : Claims.holds s port ∨ may = true) (off : Nat) (f : State → State) : portWrite s port off may f = .next (f s) := by
  rw [← State.semOwns_iff_holds] at h
  simp [portWrite, hb, Nat.not_le.mpr hp, h]

theorem portWrite_ignored {s : State} {port : Nat} (hb : s.booted = true) (hp : port < 2) (h : ¬Claims.holds s port)
    (off : Nat) (f : State → State) :
    portWrite s port off false f = .next (s.colophon 2 4 0xFF 0xFF (natLe 4 off ++ natLe 1 port)) := by
  rw [← State.semOwns_iff_holds] at h
  simp [portWrite, hb, Nat.not_le.mpr hp, h]

theorem portWrite_congr {s t : State} {port off : Nat} {may : Bool} {f : State → State} (h : f s = t) :
    portWrite s port off may f = portWrite s port off may fun _ => t := by
  subst h; rfl

/-- Every register write that the statement gives an effect is a guarded write of that effect at its port and offset. -/
theorem exec_of_write {s t : State} {i : Instr} {off : Nat} {may : Bool}
    (h : Claims.write s (Claims.port i) i = some (off, may, t)) :
    exec i s = portWrite s (Claims.port i) off may fun _ => t := by
  cases i
  case vfmapWrite | qtbaseWrite | pwrcapWrite | prqheadWrite | retest | colophonUnfreeze | lretrain =>
    simp only [Claims.write, Option.some.injEq, Prod.mk.injEq] at h
    obtain ⟨rfl, rfl, rfl⟩ := h
    unfold exec
    exact portWrite_congr rfl
  case grant port w =>
    simp only [Claims.write, Option.some.injEq, Prod.mk.injEq] at h
    obtain ⟨rfl, rfl, rfl⟩ := h
    change execGrant port w s = _
    unfold execGrant
    refine portWrite_congr ?_
    cases hz : s.regs.zeroing
    · cases w.getLsbD 15 <;> simp only [hz, Option.isSome_none, Bool.false_eq_true, if_false, if_true]
    · rfl
  case partitionWrite | windowTableWrite | tlbinv | splinter | framePoolWrite =>
    simp only [Claims.write, Option.ite_none_right_eq_some, Option.some.injEq, Prod.mk.injEq] at h
    obtain ⟨hr, rfl, rfl, rfl⟩ := h
    exact if_neg (by omega)
  case safesetWrite port which w =>
    simp only [Claims.write, Option.ite_none_right_eq_some, Option.some.injEq, Prod.mk.injEq] at h
    obtain ⟨hr, rfl, rfl, rfl⟩ := h
    exact (if_neg (by omega)).trans (portWrite_congr (if_congr bne_iff_ne rfl rfl))
  case registerWrite port off w =>
    simp only [Claims.write, Option.ite_none_right_eq_some, Option.some.injEq, Prod.mk.injEq] at h
    obtain ⟨⟨ho, ha⟩, rfl, rfl, rfl⟩ := h
    exact if_neg (by simp [ho, ha])
  all_goals simp [Claims.write] at h

theorem State.semGrants_iff (s : State) (port : Nat) :
    s.semGrants port = true ↔ s.regs.sem = 0 ∨ s.regs.sem = port + 1 ∨
      (port = 0 ∧ s.regs.sem = 2 ∧ s.regs.semAt = s.tick / clkT) := by
  simp [State.semGrants, and_assoc, or_assoc]

theorem readReg_zero {s : State} (h : s.booted = true) (port : Nat) : s.readReg port 0 = BitVec.ofNat 32 (s.semValue port) := by
  simp [State.readReg, wordOf, h]

theorem readReg_bootstat (s : State) (port : Nat) : s.readReg port 4 = BitVec.ofNat 32 s.regs.boot := by
  simp [State.readReg, wordOf]

theorem readReg_unreadable {s : State} {off : Nat} (h : s.booted = false ∨ off % 4 ≠ 0) (ho : off ≠ 4) (port : Nat) :
    s.readReg port off = 0 := by
  rcases h with h | h <;> simp [State.readReg, h, ho]

theorem State.semValue_of_holds {s : State} {port : Nat} (h : Claims.holds s port) : s.semValue port = 2 * (port + 1) + 1 := by
  simp [State.semValue, (s.semOwns_iff_holds port).mpr h]

/-- The semaphore's answer to a port whose read does not get it: the owner, or 0 to a port 1 whose own clk is not over. -/
theorem State.semValue_of_not_granted {s : State} {port : Nat} (h : ¬Claims.holds s port) (h0 : port = 0 → s.semGrants 0 = false) :
    s.semValue port = if s.regs.sem = port + 1 then 0 else 2 * s.regs.sem := by
  have ho : s.semOwns port = false := by simpa [← State.semOwns_iff_holds] using h
  by_cases hp : port = 0
  · simp [State.semValue, hp, h0 hp, hp ▸ ho]
  · simp [State.semValue, hp, ho]

theorem execSemAcquire_grants {s : State} {port : Nat} (hb : s.booted = true) (hp : port < 2) (hg : s.semGrants port = true)
    (hs : s.regs.sem ≠ port + 1) :
    execSemAcquire port s = .next { s with regs.sem := port + 1, regs.semAt := s.tick / clkT } := by
  simp [execSemAcquire, hb, hp, hg, hs]

theorem execSemAcquire_keeps {s : State} {port : Nat} (h : s.semGrants port = false ∨ s.regs.sem = port + 1) :
    execSemAcquire port s = .next s := by
  rcases h with h | h <;> simp [execSemAcquire, h]

theorem execSemRelease_of_holds {s : State} {port : Nat} {w : Word} (hb : s.booted = true) (h : Claims.holds s port)
    (hw : w.getLsbD 0 = false) : execSemRelease port w s = .next { s with regs.sem := 0 } := by
  simp only [execSemRelease, hb, (s.semOwns_iff_holds port).mpr h, hw, Bool.and_true, Bool.not_false, if_true]

/-- What a machine that boots and what its boot records leave alike: residents, launches, the semaphore and BOOTSTAT (15 R385). -/
structure SameBoot (s t : State) : Prop where
  groups : t.groups = s.groups
  launches : t.launches = s.launches
  sem : t.regs.sem = s.regs.sem
  boot : t.regs.boot = s.regs.boot

theorem SameBoot.trans {s t u : State} (h : SameBoot s t) (k : SameBoot t u) : SameBoot s u :=
  ⟨k.groups.trans h.groups, k.launches.trans h.launches, k.sem.trans h.sem, k.boot.trans h.boot⟩

theorem sameBoot_colophon (s : State) (cls code quad vf : Nat) (detail : List Byte) :
    SameBoot s (s.colophon cls code quad vf detail) := by
  unfold State.colophon
  split
  · exact ⟨rfl, rfl, rfl, rfl⟩
  · dsimp only
    split <;> exact ⟨rfl, rfl, rfl, rfl⟩

theorem sameBoot_spareRow (s : State) (quad : Nat) (d : Defect) : SameBoot s (spareRow s quad d) := by
  unfold spareRow
  refine SameBoot.trans ?_ (sameBoot_colophon _ _ _ _ _ _)
  exact ⟨rfl, rfl, rfl, rfl⟩

theorem sameBoot_bootPass (s : State) (quad : Nat) : SameBoot s (bootPass s quad) := by
  unfold bootPass
  dsimp only
  split
  · split
    · exact (sameBoot_spareRow s quad _).trans ⟨rfl, rfl, rfl, rfl⟩
    · exact ⟨rfl, rfl, rfl, rfl⟩
  · split <;> exact ⟨rfl, rfl, rfl, rfl⟩

theorem sameBoot_foldl_bootPass (l : List Nat) (s : State) : SameBoot s (l.foldl bootPass s) :=
  List.foldlRecOn l bootPass ⟨rfl, rfl, rfl, rfl⟩ fun _ h q _ => h.trans (sameBoot_bootPass _ q)

/-- A device reset leaves nothing resident and the semaphore free, booted or halted at step 1 (15 R385). -/
theorem execDeviceReset_next (s : State) :
    ∃ t, execDeviceReset s = .next t ∧ t.groups = [] ∧ t.launches = [] ∧ t.regs.sem = 0 ∧
      (t.regs.boot = 6 ∨ t.regs.boot = 17) := by
  unfold execDeviceReset
  dsimp only
  split
  · refine ⟨_, rfl, ?_⟩
    obtain ⟨hg, hl, hs, hb⟩ := sameBoot_foldl_bootPass (List.range 24) { s.afterReset with regs.boot := 6 }
    rw [hg, hl, hs, hb]
    exact ⟨rfl, rfl, rfl, .inl rfl⟩
  · exact ⟨_, rfl, rfl, rfl, rfl, .inr rfl⟩

/-- Settles O44: each register write is a guarded write of its effect, and the guard, the semaphore and the reads are taken by cases. -/
theorem registerWriteSteps : Obligations.RegisterWriteSteps := by
  refine ⟨fun s t i off may h => ?_, fun s port hb hp => ?_, fun s port off => ?_, execDeviceReset_next⟩
  · rw [exec_of_write h]
    refine ⟨fun hb hp => ⟨fun hm => portWrite_allowed hb hp hm _ _, fun hn hm => ?_⟩, fun hb => portWrite_unbooted hb ..⟩
    rw [hm]
    exact portWrite_ignored hb hp hn ..
  · refine ⟨fun hg => ?_, fun hs => execSemAcquire_keeps (.inr hs), fun hh => ?_, fun hs hn => ?_, fun h0 hs hf => ?_,
      fun w hh hw => execSemRelease_of_holds hb hh hw, fun hs => ?_⟩
    · have hne : s.regs.sem ≠ port + 1 := by omega
      have hg' : s.semGrants port = true := (s.semGrants_iff port).mpr (hg.imp_right .inr)
      refine ⟨execSemAcquire_grants hb hp hg' hne, ?_⟩
      rintro rfl
      simp [readReg_zero hb, State.semValue, hg']
    · rw [readReg_zero hb, State.semValue_of_holds hh]
    · have h1 : port = 1 := by
        by_contra h
        exact hn ⟨hs, fun h' => absurd h' h⟩
      subst h1
      rw [readReg_zero hb, State.semValue_of_not_granted hn (by simp), if_pos hs]
      rfl
    · have hn : ¬Claims.holds s port := fun h => hs h.1
      have hg : s.semGrants port = false := by
        rw [← Bool.not_eq_true, s.semGrants_iff]
        simp only [h0, hs, false_or]
        exact hf
      refine ⟨execSemAcquire_keeps (.inl hg), ?_⟩
      rw [readReg_zero hb, State.semValue_of_not_granted hn (by rintro rfl; exact hg), if_neg hs]
    · exact congrArg Host.Outcome.next (if_pos hs)
  · exact ⟨readReg_bootstat s port, fun h ho => readReg_unreadable h ho port⟩

end Sys2Proof.Machine

/-! ## What the model stops at: the faults that an answer may hold (00 R4)

An answer is a next state, or the fault of an address that no memory stands at; the two faults of a machine that runs no more come from
`State.haltedAt` alone. -/

namespace Sys2Proof.Machine

/-- The fault of an address that no memory stands at. -/
def Fault.AtHole : Fault → Prop
  | .noSuchAddress _ => True
  | _ => False

/-- A computation that fails, if it does, with what satisfies `P`: no definition by cases, so that a long computation is not run to
decide which case it is. -/
inductive OnError {ε α : Type} (P : ε → Prop) : Except ε α → Prop
  | ok (a : α) : OnError P (.ok a)
  | error {e : ε} (h : P e) : OnError P (.error e)

/-- A stop of a unit that is a cause, or the fault of a missing address. -/
abbrev StopAtHole (e : Except Fault Cause) : Prop := OnError Fault.AtHole e

/-- A read or run whose failure is such a stop. -/
abbrev ReadAtHole {α : Type} (r : Except (Except Fault Cause) α) : Prop := OnError StopAtHole r

/-- The same of the failure, if any, of a write. -/
inductive WriteAtHole : Option (Except Fault Cause) → Prop
  | none : WriteAtHole none
  | some {e : Except Fault Cause} (h : StopAtHole e) : WriteAtHole (some e)

/-- What an instruction's own meaning answers: it stops the machine at a missing address alone. -/
def ResAtHole : Res → Prop
  | .stop f => f.AtHole
  | _ => True

/-- What exec answers: a next state, or the fault of a missing address. -/
def Answers : Out → Prop
  | .next _ => True
  | .fault f => f.AtHole
  | .refused _ => False

/-- A fold keeps what holds of the failure of its accumulator. -/
theorem foldl_onError {σ ε α β : Type} {P : ε → Prop} (l : List β)
    {f : σ × Except ε α → β → σ × Except ε α} {x : σ × Except ε α}
    (h0 : OnError P x.2) (h : ∀ x b, OnError P x.2 → OnError P (f x b).2) : OnError P (l.foldl f x).2 :=
  List.foldlRecOn (motive := fun x => OnError P x.2) l f h0 fun x hx b _ => h x b hx

theorem foldl_writeAtHole {σ β : Type} (l : List β) {f : σ × Option (Except Fault Cause) → β → σ × Option (Except Fault Cause)}
    {x : σ × Option (Except Fault Cause)} (h0 : WriteAtHole x.2) (h : ∀ x b, WriteAtHole x.2 → WriteAtHole (f x b).2) :
    WriteAtHole (l.foldl f x).2 :=
  List.foldlRecOn (motive := fun x => WriteAtHole x.2) l f h0 fun x hx b _ => h x b hx

/-! ### Issue -/

theorem finishA_answers {r : Res} (h : ResAtHole r) (i : Instr) : Answers (finishA i r) := by
  rcases finishA_cases i r with ⟨_, _, hf⟩ | ⟨_, _, _, hf⟩ | ⟨_, _, _, _, _, hf⟩ | ⟨_, _, _, _, hf⟩ | ⟨f, rfl, hf⟩ <;> rw [hf]
  case inr.inr.inr.inr => exact h
  all_goals trivial

theorem aIssue_answers (i : Instr) {body : Group → State → Res} (h : ∀ g s, ResAtHole (body g s)) (s : State) :
    Answers (aIssue i body s) := by
  rcases aIssue_cases i body s with ⟨_, hs⟩ | ⟨_, _, _, _, hs⟩ | ⟨_, _, _, _, hs⟩ | ⟨g, _, hs⟩ <;> rw [hs]
  case inr.inr.inr => exact finishA_answers (h g s) i
  all_goals trivial

theorem aWrite_answers (i : Instr) (d : BitVec 6) (f : Group → Word) (s : State) : Answers (aWrite i d f s) :=
  aIssue_answers i (by intros; trivial) s

theorem finishC_answers {r : Res} (hr : ResAtHole r) (i : Instr) (h : CShape) (w : BitVec 96) (env : CEnv) (s : State) (g : Group) :
    Answers (finishC i h w env s g r) := by
  cases r
  case stop => exact hr
  all_goals trivial

theorem cIssueN_answers (i : Instr) (n : Nat) {body : CEnv → State → Res} (h : ∀ e s, ResAtHole (body e s)) (s : State) :
    Answers (cIssueN i n body s) := by
  fun_cases cIssueN i n body s
  case case2 =>
    refine finishC_answers ?_ ..
    trivial
  case case9 => exact finishC_answers (h _ _) ..
  all_goals trivial

theorem cIssue_answers (i : Instr) {body : CEnv → Group → State → Res} (h : ∀ e g s, ResAtHole (body e g s)) (s : State) :
    Answers (cIssue i body s) := by
  refine cIssueN_answers i 1 (fun e s => ?_) s
  split
  · exact h ..
  · trivial

theorem cLanes_answers (i : Instr) (d : Dst) (ops : List (OpTy × Src)) (f : Nat → List Word → LRes) (s : State) :
    Answers (cLanes i d ops f s) :=
  cIssue_answers i (by intros; trivial) s

theorem cPred_answers (i : Instr) (d : Dst) (ops : List (OpTy × Src)) (f : Nat → List Word → Bool × Fl) (s : State) :
    Answers (cPred i d ops f s) :=
  cIssue_answers i (by intros; trivial) s

theorem laneOp_answers (i : Instr) (d : Dst) (ops : List (OpTy × Src)) (f : CEnv → CSide → List Lanes → Nat → Word) (s : State) :
    Answers (laneOp i d ops f s) :=
  cIssue_answers i (by intros; trivial) s

theorem lanePred_answers (i : Instr) (d : Dst) (ops : List (OpTy × Src)) (f : CEnv → CSide → List Lanes → Nat → Bool) (s : State) :
    Answers (lanePred i d ops f s) :=
  cIssue_answers i (by intros; trivial) s

theorem portWrite_answers (s : State) (port off : Nat) (may : Bool) (f : State → State) : Answers (portWrite s port off may f) := by
  fun_cases portWrite s port off may f <;> trivial

/-! ### What meanings share: each goes on, waits, traps, or stops at a missing address -/

theorem withB_resAtHole (g : Group) (s : State) (n : Nat) {f : Buf → Res} (h : ∀ b, ResAtHole (f b)) : ResAtHole (withB g s n f) := by
  fun_cases withB g s n f
  case case3 => exact h _
  all_goals trivial

theorem withT_resAtHole (g : Group) (s : State) (n : Nat) {f : Ten → Res} (h : ∀ t, ResAtHole (f t)) : ResAtHole (withT g s n f) := by
  fun_cases withT g s n f
  case case3 => exact h _
  all_goals trivial

theorem withBar_resAtHole (s : State) (g : Group) (nb : Nat) {f : Bar → Res} (h : ∀ b, ResAtHole (f b)) :
    ResAtHole (withBar s g nb f) := by
  fun_cases withBar s g nb f
  case case2 => exact h _
  all_goals trivial

theorem withFlag_resAtHole (e : CEnv) (g : Group) (s : State) (fl : BitVec 1) {f : Nat → Res} (h : ∀ n, ResAtHole (f n)) :
    ResAtHole (withFlag e g s fl f) := by
  fun_cases withFlag e g s fl f
  case case2 => exact h _
  all_goals trivial

theorem withOut_resAtHole (g : Group) (s : State) (o : BitVec 4) {f : Option Ten → Res} (h : ∀ t, ResAtHole (f t)) :
    ResAtHole (withOut g s o f) := by
  fun_cases withOut g s o f
  · exact h _
  · exact withT_resAtHole g s _ fun t => h _

theorem notWhileSaving_resAtHole (g : Group) (s : State) {f : Unit → Res} (h : ResAtHole (f ())) : ResAtHole (notWhileSaving g s f) := by
  fun_cases notWhileSaving g s f
  case case2 => exact h
  all_goals trivial

theorem whenFree_resAtHole (i : Instr) (s : State) (g : Group) (ls : List Loc) {f : State → Res} (h : ∀ s, ResAtHole (f s)) :
    ResAtHole (whenFree i s g ls f) := by
  fun_cases whenFree i s g ls f
  case case1 => exact h _
  all_goals trivial

theorem onChecked_resAtHole (r : State × Checked) {f : State → List (Nat × Loc) → Res} (h : ∀ s ps, ResAtHole (f s ps)) :
    ResAtHole (onChecked r f) := by
  fun_cases onChecked r f
  case case1 => exact h _ _
  all_goals trivial

end Sys2Proof.Machine

namespace Sys2Proof.Machine

/-! ### The meanings of the A-stream -/

theorem issueMu_resAtHole (s : State) (g : Group) (i : Instr) (k : BitVec 5) (first : Word) (q : Option Nat) (n : Nat)
    (places : Option (List (Nat × Loc))) : ResAtHole (issueMu s g i k first q n places) := by
  fun_cases issueMu s g i k first q n places <;> trivial

theorem placeToken_resAtHole (s : State) (g : Group) (i : Instr) (q : Nat) (c : Cause) : ResAtHole (placeToken s g i q c) := by
  fun_cases placeToken s g i q c <;> trivial

theorem loadRecord_resAtHole (i : Instr) (s : State) (g : Group) (n : Nat) (x : Word) (kind : MemKind) (mark : Group → Group) :
    ResAtHole (loadRecord i s g n x kind mark) := by
  fun_cases loadRecord i s g n x kind mark
  case case3 => exact whenFree_resAtHole _ _ _ _ (by intros; trivial)
  all_goals trivial

theorem execLdv_answers (byp : BitVec 1) (ord : BitVec 3) (q : BitVec 2) (k : BitVec 5) (ai : BitVec 6) (off : BitVec 9) (s : State) :
    Answers (execLdv byp ord q k ai off s) := by
  refine aIssue_answers _ (fun g s => withB_resAtHole _ _ _ fun b => ?_) s
  split
  · trivial
  · dsimp only
    split
    · exact placeToken_resAtHole ..
    · trivial
    · exact whenFree_resAtHole _ _ _ _ (by intros; trivial)

theorem execLdg_answers (byp : BitVec 1) (ord : BitVec 3) (q : BitVec 2) (k : BitVec 5) (ai : BitVec 6) (off : BitVec 9) (s : State) :
    Answers (execLdg byp ord q k ai off s) := by
  refine aIssue_answers _ (fun g s => withB_resAtHole _ _ _ fun b => ?_) s
  split
  · trivial
  · exact issueMu_resAtHole ..

theorem execStv_answers (ord : BitVec 3) (q : BitVec 2) (k : BitVec 5) (ai : BitVec 6) (off : BitVec 9) (s : State) :
    Answers (execStv ord q k ai off s) := by
  refine aIssue_answers _ (fun g s => withB_resAtHole _ _ _ fun b => ?_) s
  split
  · trivial
  · exact onChecked_resAtHole _ fun s ps => whenFree_resAtHole _ _ _ _ fun s => issueMu_resAtHole ..

theorem execStx_answers (ord : BitVec 3) (q : BitVec 2) (k : BitVec 5) (ai : BitVec 6) (off : BitVec 9) (s : State) :
    Answers (execStx ord q k ai off s) := by
  refine aIssue_answers _ (fun g s => withB_resAtHole _ _ _ fun b => ?_) s
  split
  · trivial
  · exact issueMu_resAtHole ..

theorem execLda_answers (d : BitVec 6) (k : BitVec 5) (ai : BitVec 6) (ord : BitVec 3) (off : BitVec 6) (s : State) :
    Answers (execLda d k ai ord off s) := by
  refine aIssue_answers _ (fun g s => withB_resAtHole _ _ _ fun b => ?_) s
  split
  · trivial
  · exact onChecked_resAtHole _ fun s ps => whenFree_resAtHole _ _ _ _ (by intros; trivial)

theorem execSta_answers (v : BitVec 6) (k : BitVec 5) (ai : BitVec 6) (ord : BitVec 3) (off : BitVec 6) (s : State) :
    Answers (execSta v k ai ord off s) := by
  refine aIssue_answers _ (fun g s => withB_resAtHole _ _ _ fun b => ?_) s
  split
  · trivial
  · exact onChecked_resAtHole _ fun s ps => whenFree_resAtHole _ _ _ _ (by intros; trivial)

theorem execPrf_answers (l2 : BitVec 1) (k : BitVec 5) (ai : BitVec 6) (off : BitVec 9) (s : State) :
    Answers (execPrf l2 k ai off s) :=
  aIssue_answers _ (fun _ _ => withB_resAtHole _ _ _ (by intros; trivial)) s

theorem execAtv_answers (op : BitVec 4) (q : BitVec 2) (k : BitVec 5) (ret sdq : BitVec 1) (ord : BitVec 2) (scope : BitVec 3)
    (s : State) : Answers (execAtv op q k ret sdq ord scope s) := by
  refine aIssue_answers _ (fun g s => withB_resAtHole _ _ _ fun b => ?_) s
  split
  · trivial
  · exact issueMu_resAtHole ..

theorem execAta_answers (op : BitVec 4) (d : BitVec 6) (k : BitVec 5) (ai x y : BitVec 6) (ord : BitVec 2) (scope : BitVec 3)
    (s : State) : Answers (execAta op d k ai x y ord scope s) := by
  refine aIssue_answers _ (fun g s => withB_resAtHole _ _ _ fun b => ?_) s
  split
  · trivial
  · dsimp only
    split
    · exact whenFree_resAtHole _ _ _ _ (by intros; trivial)
    · exact onChecked_resAtHole _ fun s ps => whenFree_resAtHole _ _ _ _ (by intros; trivial)

theorem execBld_answers (r : BitVec 5) (a : BitVec 6) (imm : BitVec 14) (s : State) : Answers (execBld r a imm s) := by
  refine aIssue_answers _ (fun g s => ?_) s
  dsimp only
  split
  · trivial
  · exact loadRecord_resAtHole ..

theorem execTld_answers (r : BitVec 4) (a : BitVec 6) (imm : BitVec 14) (s : State) : Answers (execTld r a imm s) := by
  refine aIssue_answers _ (fun g s => ?_) s
  dsimp only
  split
  · trivial
  · exact loadRecord_resAtHole ..

theorem execBset_answers (r : BitVec 5) (a : BitVec 6) (fn : BitVec 8) (s : State) : Answers (execBset r a fn s) := by
  refine aIssue_answers _ (fun g s => ?_) s
  dsimp only
  split_ifs <;> trivial

theorem issueCopy_resAtHole (i : Instr) (src dst : BitVec 4) (c : BitVec 6) (opt scope : BitVec 3) (bar : Option Nat)
    (cnt : Option (BitVec 6)) (g : Group) (s : State) : ResAtHole (issueCopy i src dst c opt scope bar cnt g s) := by
  refine notWhileSaving_resAtHole _ _ ?_
  extract_lets regs
  split
  · trivial
  split
  · trivial
  split
  · trivial
  refine withT_resAtHole _ _ _ fun ts => withT_resAtHole _ _ _ fun td => ?_
  split
  · trivial
  split
  · trivial
  extract_lets sc dc go
  have hgo : ∀ s ctr, ResAtHole (go s ctr) := fun s ctr => by
    dsimp only [go]
    split <;> trivial
  split
  · exact hgo ..
  · extract_lets a
    split
    · trivial
    · split
      case h_1 => exact hgo ..
      all_goals trivial

theorem counterTest_resAtHole (i : Instr) (g : Group) (s : State) (a b : BitVec 6) {hit : State → Res} {miss : State → Loc → Res}
    (hhit : ∀ s, ResAtHole (hit s)) (hmiss : ∀ s l, ResAtHole (miss s l)) : ResAtHole (counterTest i g s a b hit miss) := by
  have hfree : ∀ (s : State) (l : Loc), ResAtHole (whenFree i s g [l] fun s =>
      let r := s.readPast (s.user g) l 4
      if 0 ≤ (BitVec.ofNat 32 (leNat r.2) - g.ra b.toNat).toInt then hit (r.1.acquire g 4) else miss r.1 l) := fun s l => by
    refine whenFree_resAtHole _ _ _ _ fun s => ?_
    extract_lets r
    split
    · exact hhit _
    · exact hmiss _ _
  fun_cases counterTest i g s a b hit miss
  case case6 => exact hfree ..
  all_goals trivial

theorem execYieldc_answers (a b : BitVec 6) (s : State) : Answers (execYieldc a b s) :=
  aIssue_answers _ (fun _ _ => counterTest_resAtHole _ _ _ _ _ (by intros; trivial) (by intros; trivial)) s

theorem execCwait_answers (a b : BitVec 6) (s : State) : Answers (execCwait a b s) :=
  aIssue_answers _ (fun _ _ => counterTest_resAtHole _ _ _ _ _ (by intros; trivial) (by intros; trivial)) s

theorem execWaitf_answers (mask : BitVec 12) (s : State) : Answers (execWaitf mask s) := by
  refine aIssue_answers _ (fun g s => ?_) s
  split
  · trivial
  · split <;> trivial

theorem execBinit_answers (a : BitVec 6) (nb : BitVec 10) (s : State) : Answers (execBinit a nb s) := by
  refine aIssue_answers _ (fun g s => withBar_resAtHole _ _ _ fun b => ?_) s
  dsimp only
  split_ifs <;> trivial

theorem barArrive_resAtHole (s : State) (g : Group) (nb stream : Nat) (need : List Nat) (b : Bar) {f : State → Group → Res}
    (h : ∀ s g, ResAtHole (f s g)) : ResAtHole (barArrive s g nb stream need b f) := by
  fun_cases barArrive s g nb stream need b f
  case case1 => trivial
  all_goals exact h _ _

theorem barWaitA_resAtHole (s : State) (g : Group) (nb : Nat) : ResAtHole (barWaitA s g nb) := by
  fun_cases barWaitA s g nb <;> trivial

theorem execBarv_answers (nb : BitVec 10) (s : State) : Answers (execBarv nb s) :=
  aIssue_answers _ (fun _ _ => withBar_resAtHole _ _ _ fun _ => barArrive_resAtHole _ _ _ _ _ _ (by intros; trivial)) s

theorem execBwaita_answers (nb : BitVec 10) (s : State) : Answers (execBwaita nb s) := by
  refine aIssue_answers _ (fun g s => withBar_resAtHole _ _ _ fun b => ?_) s
  split
  · trivial
  · exact barWaitA_resAtHole ..

theorem execBarvw_answers (nb : BitVec 10) (s : State) : Answers (execBarvw nb s) := by
  refine aIssue_answers _ (fun g s => withBar_resAtHole _ _ _ fun b => ?_) s
  split
  · trivial
  · split
    · exact barWaitA_resAtHole ..
    · exact barArrive_resAtHole _ _ _ _ _ _ fun s g => barWaitA_resAtHole ..

theorem execBexp_answers (a : BitVec 6) (nb : BitVec 10) (s : State) : Answers (execBexp a nb s) := by
  refine aIssue_answers _ (fun g s => withBar_resAtHole _ _ _ fun b => ?_) s
  dsimp only
  split_ifs <;> trivial

theorem execBtry_answers (d : BitVec 6) (nb : BitVec 10) (s : State) : Answers (execBtry d nb s) := by
  refine aIssue_answers _ (fun g s => withBar_resAtHole _ _ _ fun b => ?_) s
  split
  · trivial
  · split_ifs <;> trivial

theorem fence_resAtHole (rel acq : Bool) (scope : BitVec 3) (eng : BitVec 1) (g : Group) (s : State) :
    ResAtHole (fence rel acq scope eng g s) := by
  fun_cases fence rel acq scope eng g s <;> trivial

theorem execMxbind_answers (vb : BitVec 9) (fa fb : BitVec 5) (dist : BitVec 1) (fo : BitVec 5) (tiles : BitVec 2)
    (prio : BitVec 3) (q : BitVec 2) (nb : BitVec 10) (s : State) : Answers (execMxbind vb fa fb dist fo tiles prio q nb s) := by
  unfold execMxbind
  refine aIssue_answers _ (fun g s => ?_) s
  extract_lets pk
  split
  · trivial
  refine notWhileSaving_resAtHole _ _ ?_
  split
  · trivial
  split
  · trivial
  split
  · trivial
  split
  · trivial
  split_ifs <;> trivial

theorem issuePass_resAtHole (s : State) (g : Group) (k : Nat) (ss : Session) (p : Pass) (lines : Pass → List (Loc × Nat)) :
    ResAtHole (issuePass s g k ss p lines) := by
  fun_cases issuePass s g k ss p lines <;> trivial

theorem execMxloop_answers (ta : BitVec 4) (c : BitVec 6) (z : BitVec 2) (ks : BitVec 12) (mr : BitVec 5) (o : BitVec 4)
    (ob : BitVec 6) (acc : BitVec 1) (epi : BitVec 4) (s : State) : Answers (execMxloop ta c z ks mr o ob acc epi s) := by
  refine aIssue_answers _ (fun g s => notWhileSaving_resAtHole _ _ (withT_resAtHole _ _ _ fun t => withOut_resAtHole _ _ _ fun to_ => ?_)) s
  split
  · trivial
  split
  · trivial
  split
  · trivial
  · exact issuePass_resAtHole ..

theorem execMxconv_answers (ti tc : BitVec 4) (c : BitVec 6) (z : BitVec 2) (ks : BitVec 12) (mr : BitVec 5) (o : BitVec 4)
    (ob : BitVec 6) (acc : BitVec 1) (epi : BitVec 4) (s : State) : Answers (execMxconv ti tc c z ks mr o ob acc epi s) := by
  refine aIssue_answers _ (fun g s => notWhileSaving_resAtHole _ _ (withT_resAtHole _ _ _ fun t => withT_resAtHole _ _ _ fun tcv =>
    withOut_resAtHole _ _ _ fun to_ => ?_)) s
  split
  · trivial
  extract_lets cv
  split
  · trivial
  split
  · trivial
  split
  · trivial
  · exact issuePass_resAtHole ..

theorem execMxsel_answers (z : BitVec 2) (kk : BitVec 5) (big : BitVec 1) (o : BitVec 4) (ob : BitVec 6) (s : State) :
    Answers (execMxsel z kk big o ob s) := by
  refine aIssue_answers _ (fun g s => notWhileSaving_resAtHole _ _ (withT_resAtHole _ _ _ fun t => ?_)) s
  split
  · trivial
  split
  · trivial
  split
  · trivial
  · exact issuePass_resAtHole ..

theorem execMxrel_answers (s : State) : Answers (execMxrel s) := by
  refine aIssue_answers _ (fun g s => notWhileSaving_resAtHole _ _ ?_) s
  split
  · trivial
  split
  · trivial
  split <;> trivial

theorem execMxstat_answers (d : BitVec 6) (s : State) : Answers (execMxstat d s) := by
  refine aIssue_answers _ (fun g s => notWhileSaving_resAtHole _ _ ?_) s
  split <;> trivial

theorem execCover_answers (eo : BitVec 1) (bs : BitVec 5) (f k : BitVec 6) (t : BitVec 4) (o : BitVec 6) (nb : BitVec 10)
    (s : State) : Answers (execCover eo bs f k t o nb s) := by
  refine aIssue_answers _ (fun g s => notWhileSaving_resAtHole _ _ ?_) s
  extract_lets r
  split
  · trivial
  split
  · trivial
  refine withT_resAtHole _ _ _ fun tt => ?_
  split <;> trivial

theorem execTstore_answers (ts td : BitVec 4) (p : BitVec 6) (nb : BitVec 10) (sig : BitVec 14) (s : State) :
    Answers (execTstore ts td p nb sig s) := by
  refine aIssue_answers _ (fun g s => notWhileSaving_resAtHole _ _ (withT_resAtHole _ _ _ fun t => withT_resAtHole _ _ _ fun u => ?_)) s
  split
  · trivial
  split <;> trivial

theorem execCsync_answers (s : State) : Answers (execCsync s) := by
  refine aIssue_answers _ (fun g s => ?_) s
  split
  · trivial
  · split <;> trivial

theorem execTret_answers (s : State) : Answers (execTret s) := by
  refine aIssue_answers _ (fun g s => ?_) s
  split
  · trivial
  split
  · trivial
  split
  · trivial
  split
  · trivial
  split
  · trivial
  extract_lets st
  split <;> trivial

theorem execExit_answers (s : State) : Answers (execExit s) := by
  refine aIssue_answers _ (fun g s => ?_) s
  split
  · trivial
  split
  · trivial
  split_ifs <;> trivial

theorem execHaltd_answers (s : State) : Answers (execHaltd s) := by
  refine aIssue_answers _ (fun g s => ?_) s
  split <;> trivial

theorem aBranch_answers (i : Instr) (a b : BitVec 6) (off : BitVec 14) (c : Word → Word → Bool) (s : State) :
    Answers (aBranch i a b off c s) :=
  aIssue_answers i (by intros; trivial) s

theorem execJalr_answers (d a : BitVec 6) (imm : BitVec 14) (s : State) : Answers (execJalr d a imm s) := by
  refine aIssue_answers _ (fun g s => ?_) s
  extract_lets t
  split <;> trivial

theorem execRalloc_answers (d a b : BitVec 6) (s : State) : Answers (execRalloc d a b s) := by
  refine aIssue_answers _ (fun g s => ?_) s
  split
  · trivial
  refine notWhileSaving_resAtHole _ _ ?_
  split
  · trivial
  dsimp only
  split
  · trivial
  split <;> trivial

theorem execRcommit_answers (a b : BitVec 6) (s : State) : Answers (execRcommit a b s) := by
  refine aIssue_answers _ (fun g s => notWhileSaving_resAtHole _ _ ?_) s
  extract_lets v n
  split
  · trivial
  split_ifs <;> trivial

theorem execRdone_answers (a : BitVec 6) (s : State) : Answers (execRdone a s) := by
  refine aIssue_answers _ (fun g s => notWhileSaving_resAtHole _ _ ?_) s
  extract_lets v y
  split <;> trivial

theorem execRinput_answers (d a : BitVec 6) (s : State) : Answers (execRinput d a s) :=
  aIssue_answers _ (fun _ _ => notWhileSaving_resAtHole _ _ (by trivial)) s

theorem execRdepth_answers (d : BitVec 6) (s : State) : Answers (execRdepth d s) :=
  aIssue_answers _ (fun _ _ => notWhileSaving_resAtHole _ _ (by trivial)) s

theorem pushClq_resAtHole (s : State) (g : Group) (x : Word) : ResAtHole (pushClq s g x) := by
  fun_cases pushClq s g x <;> trivial

theorem execSpush_answers (a : BitVec 6) (s : State) : Answers (execSpush a s) := by
  refine aIssue_answers _ (fun g s => ?_) s
  split_ifs <;> trivial

theorem execBpop_answers (d : BitVec 6) (s : State) : Answers (execBpop d s) := by
  refine aIssue_answers _ (fun g s => ?_) s
  split
  · trivial
  · split <;> trivial

end Sys2Proof.Machine

namespace Sys2Proof.Machine

/-! ### What the machine reads and writes for a stream or an engine -/

theorem onError_of_error {ε α : Type} {P : ε → Prop} {e : ε} (h : OnError P (.error e : Except ε α)) : P e := by
  cases h
  assumption

theorem stopAtHole_of_some {e : Except Fault Cause} (h : WriteAtHole (some e)) : StopAtHole e := by
  cases h
  assumption

theorem stopAtHole_of_read {σ α : Type} {r : σ × Except (Except Fault Cause) α} (h : ReadAtHole r.2) {s : σ} {e : Except Fault Cause}
    (he : r = (s, .error e)) : StopAtHole e := by
  subst he
  exact onError_of_error h

theorem stopAtHole_of_write {σ : Type} {r : σ × Option (Except Fault Cause)} (h : WriteAtHole r.2) {s : σ} {e : Except Fault Cause}
    (he : r = (s, some e)) : StopAtHole e := by
  subst he
  exact stopAtHole_of_some h

theorem stopAtHole_of_rows {σ : Type} {r : σ × Nat × Option (Except Fault Cause)} (h : WriteAtHole r.2.2) {s : σ} {n : Nat}
    {e : Except Fault Cause} (he : r = (s, n, some e)) : StopAtHole e := by
  subst he
  exact stopAtHole_of_some h

theorem spillCause_atHole (code k : Nat) (f : AFault) : StopAtHole (spillCause code k f) := by
  cases f <;> constructor
  trivial

theorem engine_atHole (f : AFault) (acc engine : Nat) : StopAtHole (f.engine acc engine) := by
  cases f <;> constructor
  trivial

theorem stackIo_atHole (s : State) (g : Group) (new : CSide) : WriteAtHole (stackIo s g new).2 := by
  refine foldl_writeAtHole _ .none ?_
  rintro ⟨t, _ | e⟩ b hx
  · dsimp only
    split
    · exact .some (.ok _)
    split
    · exact .none
    · exact .some (spillCause_atHole ..)
  · exact hx

theorem fillStack_atHole (s : State) (g : Group) (k n : Nat) : ReadAtHole (fillStack s g k n).2 := by
  unfold fillStack
  split
  · exact .ok _
  extract_lets depth r
  have hr : ReadAtHole r.2 := by
    refine foldl_onError _ (.ok _) ?_
    rintro ⟨t, e | st⟩ j hx
    · exact hx
    · dsimp only
      split
      · exact .error (.ok _)
      split
      · exact .ok _
      · exact .error (spillCause_atHole ..)
  clear_value r
  obtain ⟨t, e | st⟩ := r
  · exact .error (onError_of_error hr)
  · exact .ok _

theorem srcElem_atHole (s : State) (g : Group) (engine : Nat) (t : Ten) (cs : List Int) (u : User) :
    ReadAtHole (srcElem s g engine t cs u).2 := by
  fun_cases srcElem s g engine t cs u
  case case2 => exact .error (engine_atHole ..)
  all_goals repeat constructor

theorem partElem_atHole (s : State) (g : Group) (engine : Nat) (t : Ten) (got : List (Nat × Nat)) (k : Nat) (cs : List Int)
    (u : User) : ReadAtHole (partElem s g engine t got k cs u).2 := by
  have h := srcElem_atHole s g engine t cs u
  fun_cases partElem s g engine t got k cs u
  case case3 => exact h
  all_goals constructor

theorem readParts_atHole (s : State) (g : Group) (engine : Nat) (t : Ten) (got : List (Nat × Nat)) (pick : Nat → Bool)
    (es : List (Nat × List Int)) (u : User) : ReadAtHole (readParts s g engine t got pick es u).2 := by
  refine foldl_onError _ (.ok _) ?_
  rintro ⟨s, f | vs⟩ e hx
  · exact hx
  · have h := srcElem_atHole s g engine t e.2.2 u
    dsimp only
    split
    · exact .ok _
    split
    · exact .ok _
    case h_2 hf => exact .error (stopAtHole_of_read h hf)

theorem readRow_atHole (s : State) (g : Group) (ss : Session) (p : Pass) (i m : Nat) (got : List (Nat × Nat)) :
    ReadAtHole (readRow s g ss p i m got).2 := by
  refine foldl_onError _ (.ok _) ?_
  rintro ⟨s, f | xs⟩ e hx
  · exact hx
  · dsimp only
    split
    · exact .ok _
    · exact .ok _
    case h_3 cs _ =>
      have h := partElem_atHole s g 2 p.aRec got e.2 cs (s.user g)
      split
      · exact .ok _
      case h_2 hf => exact .error (stopAtHole_of_read h hf)

theorem loadAccin_atHole (s : State) (g : Group) (ss : Session) (p : Pass) : ReadAtHole (loadAccin s g ss p).2 := by
  refine foldl_onError _ (.ok _) ?_
  rintro ⟨s, x⟩ im hx
  extract_lets row
  have hrow : ReadAtHole row.2 := by
    refine foldl_onError _ (.ok _) ?_
    rintro ⟨s, e | y⟩ n hr
    · exact hr
    · dsimp only
      split
      · exact .ok _
      split
      · split
        · exact .ok _
        · exact .error (engine_atHole ..)
      · exact .ok _
  clear_value row
  obtain ⟨s', e | r⟩ := row <;> cases x
  case error.ok => exact .error (onError_of_error hrow)
  case ok.ok => exact .ok _
  all_goals exact .error (onError_of_error hx)

theorem firstStep_atHole (s : State) (g : Group) (ss : Session) (p : Pass) : ReadAtHole (firstStep s g ss p).2 := by
  fun_cases firstStep s g ss p
  case case2 => exact loadAccin_atHole ..
  all_goals constructor

theorem readTable_atHole (s : State) (g : Group) (p : Pass) : ReadAtHole (readTable s g p).2 := by
  fun_cases readTable s g p
  case case2 => exact .error (engine_atHole ..)
  all_goals constructor

theorem writeRow_atHole (s : State) (g : Group) (ss : Session) (p : Pass) (tab : List Nat) (i m : Nat) :
    ReadAtHole (writeRow s g ss p tab i m).2 := by
  unfold writeRow
  -- any list of columns will do; named, it keeps the kernel from running the fold over 96 of them
  obtain ⟨columns, hcolumns⟩ : ∃ l, l = List.range 96 := ⟨_, rfl⟩
  rw [← hcolumns]
  extract_lets a t row weight r
  have hr : ReadAtHole r.2 := by
    refine foldl_onError _ (.ok _) ?_
    rintro ⟨s, e | x⟩ n hx
    · exact hx
    · dsimp only
      split
      · exact .ok _
      split
      · exact .ok _
      split
      · exact .ok _
      · exact .error (engine_atHole ..)
  clear_value r
  obtain ⟨s', e | x⟩ := r
  · exact .error (onError_of_error hr)
  · exact .ok _

/-- One row at a time: the model's own equation for `writeRows` would run `writeRow`, so it is stated over any function in its place. -/
theorem writeRows_cons (g : Group) (ss : Session) (p : Pass) (tab : List Nat) (row : Nat × Nat) (rows : List (Nat × Nat)) (n : Nat)
    (s : State) : writeRows g ss p tab (row :: rows) n s =
      match writeRow s g ss p tab row.1 row.2 with
      | (s, .ok (fl, ev)) => writeRows g ss p tab rows (n + 1) ((s.leaderFl g fl).countEv ss.lid ev)
      | (s, .error e) => (s, n, some e) := by
  delta writeRows writeRows._f
  obtain ⟨w, hw⟩ : ∃ w, w = @writeRow := ⟨_, rfl⟩
  rewrite [← hw]
  rfl

theorem writeRows_atHole (g : Group) (ss : Session) (p : Pass) (tab : List Nat) (rows : List (Nat × Nat)) (n : Nat) (s : State) :
    WriteAtHole (writeRows g ss p tab rows n s).2.2 := by
  induction rows generalizing n s with
  | nil => exact .none
  | cons row rows ih =>
    have h := writeRow_atHole s g ss p tab row.1 row.2
    rw [writeRows_cons]
    obtain ⟨w, hw⟩ : ∃ w, w = writeRow s g ss p tab row.1 row.2 := ⟨_, rfl⟩
    rw [← hw] at h ⊢
    clear hw
    obtain ⟨s', e | ⟨fl, ev⟩⟩ := w
    · exact .some (onError_of_error h)
    · exact ih ..

theorem writeElems_atHole (s : State) (g : Group) (engine : Nat) (t : Ten) (xs : List (List Int × Nat)) :
    WriteAtHole (writeElems s g engine t xs).2 := by
  unfold writeElems
  extract_lets r
  have hr : WriteAtHole r.2 := by
    refine foldl_writeAtHole _ .none ?_
    rintro ⟨s, _ | e⟩ x hx
    · dsimp only
      split
      · split
        · exact .none
        · exact .some (engine_atHole ..)
      · exact .none
    · exact hx
  clear_value r
  obtain ⟨s', _ | e⟩ := r
  · exact .none
  · exact hr

end Sys2Proof.Machine

namespace Sys2Proof.Machine

/-! ### The meanings of the C-stream -/

theorem putFlow_resAtHole (s : State) (g : Group) (c : CSide) : ResAtHole (putFlow s g c) := by
  have h := stackIo_atHole s g c
  fun_cases putFlow s g c
  case case3 he =>
    rw [he] at h
    exact onError_of_error (P := Fault.AtHole) (stopAtHole_of_some h)
  all_goals trivial

theorem withFill_resAtHole (i : Instr) (x : Ctl) (e : CEnv) (g : Group) (s : State) {f : Group → State → Res}
    (hf : ∀ g s, ResAtHole (f g s)) : ResAtHole (withFill i x e g s f) := by
  have h := fillStack_atHole s g e.k (g.cs.usesStack e.k i (guardMask g.cs x) (s.pk g).stack)
  fun_cases withFill i x e g s f
  case case3 => trivial
  case case4 he =>
    rw [he] at h
    exact onError_of_error (P := Fault.AtHole) (onError_of_error h)
  all_goals exact hf ..

theorem flow_answers (i : Instr) (x : Ctl) (target join : Option Nat) (f : State → Group → CEnv → Except Cause CSide) (s : State) :
    Answers (flow i x target join f s) := by
  refine cIssue_answers _ (fun e g s => ?_) s
  split
  · trivial
  refine withFill_resAtHole _ _ _ _ _ fun g s => ?_
  split
  · trivial
  · exact putFlow_resAtHole ..

theorem execKill_answers (x : Ctl) (s : State) : Answers (execKill x s) :=
  cIssue_answers _ (fun _ _ _ => withFill_resAtHole _ _ _ _ _ fun _ _ => putFlow_resAtHole ..) s

theorem execTfence_answers (x : Ctl) (s : State) : Answers (execTfence x s) := by
  refine cIssue_answers _ (fun e g s => ?_) s
  split
  · trivial
  extract_lets busy
  split
  · trivial
  split <;> trivial

theorem execBwait_answers (a : Src) (x : Ctl) (s : State) : Answers (execBwait a x s) := by
  refine cIssue_answers _ (fun e g s => ?_) s
  extract_lets nb
  split
  · trivial
  split
  · trivial
  split_ifs <;> trivial

theorem execBarvc_answers (a : Src) (x : Ctl) (s : State) : Answers (execBarvc a x s) := by
  refine cIssue_answers _ (fun e g s => ?_) s
  extract_lets nb
  split
  · trivial
  · exact barArrive_resAtHole _ _ _ _ _ _ (by intros; trivial)

theorem execCtrap_answers (code : BitVec 8) (x : Ctl) (s : State) : Answers (execCtrap code x s) := by
  refine cIssue_answers _ (fun e g s => ?_) s
  split <;> trivial

theorem nearAccess_resAtHole (s : State) (g : Group) (e : CEnv) (i : Instr) (level acc sz : Nat) (a b : Lanes)
    {f : State → List (Nat × Loc) → Res} (h : ∀ s ps, ResAtHole (f s ps)) : ResAtHole (nearAccess s g e i level acc sz a b f) := by
  fun_cases nearAccess s g e i level acc sz a b f
  case case2 => exact h _ _
  all_goals trivial

theorem nearLoad_answers (i : Instr) (level : Nat) (size : BitVec 3) (acq fl : BitVec 1) (d : Dst) (a b : Src) (s : State) :
    Answers (nearLoad i level size acq fl d a b s) :=
  cIssue_answers _ (fun _ _ _ => withFlag_resAtHole _ _ _ _ fun _ => nearAccess_resAtHole _ _ _ _ _ _ _ _ _ (by intros; trivial)) s

theorem nearStore_answers (i : Instr) (level : Nat) (size : BitVec 3) (rel : BitVec 1) (a b c : Src) (s : State) :
    Answers (nearStore i level size rel a b c s) :=
  cIssue_answers _ (fun _ _ _ => nearAccess_resAtHole _ _ _ _ _ _ _ _ _ (by intros; trivial)) s

theorem nearAtomic_answers (i : Instr) (level : Nat) (op : BitVec 4) (ret : BitVec 1) (ord : BitVec 2) (fl : BitVec 1) (d : Dst)
    (a b x y : Src) (s : State) : Answers (nearAtomic i level op ret ord fl d a b x y s) := by
  refine cIssue_answers _ (fun e g s => ?_) s
  extract_lets ty vs go
  have hgo : ∀ n, ResAtHole (go n) := fun n => nearAccess_resAtHole _ _ _ _ _ _ _ _ _ (by intros; trivial)
  split
  · exact withFlag_resAtHole _ _ _ _ hgo
  · exact hgo _

theorem execRegroup_answers (c : BitVec 5) (n : BitVec 2) (d : Dst) (key : Src) (x : Ctl) (s : State) :
    Answers (execRegroup c n d key x s) := by
  refine cIssue_answers (.regroup c n d key x) (fun e g s => ?_) s
  extract_lets base cnt bad members w
  clear_value base members
  cases members with
  | none => trivial
  | some set =>
    dsimp only
    split
    · trivial
    split
    · trivial
    split <;> trivial

theorem execPop_answers (n : BitVec 4) (q : Src) (x : Ctl) (s : State) : Answers (execPop n q x s) := by
  refine cIssue_answers (.pop n q x) (fun e g s => ?_) s
  extract_lets q w r g g p owing
  clear_value r g owing
  split
  · trivial
  · split <;> trivial

theorem execDrop_answers (d : Dst) (q : Src) (x : Ctl) (s : State) : Answers (execDrop d q x s) := by
  refine cIssue_answers (.drop d q x) (fun e g s => ?_) s
  extract_lets q w n hs
  clear_value hs
  split
  · trivial
  · generalize List.findSome? _ hs = token
    cases token <;> trivial

theorem execPush_answers (n : BitVec 2) (d : Dst) (x : Ctl) (s : State) : Answers (execPush n d x s) := by
  refine cIssue_answers (.push n d x) (fun e g s => ?_) s
  split
  · extract_lets r
    split <;> trivial
  · trivial

theorem execPmov_answers (toPred : BitVec 1) (pr : BitVec 3) (d : Dst) (a : Src) (x : Ctl) (s : State) :
    Answers (execPmov toPred pr d a x s) := by
  unfold execPmov
  split
  · exact lanePred_answers ..
  · exact laneOp_answers ..

theorem execPmovw_answers (toPred : BitVec 1) (w : BitVec 2) (pr : BitVec 3) (d : Dst) (a : Src) (x : Ctl) (s : State) :
    Answers (execPmovw toPred w pr d a x s) := by
  unfold execPmovw
  split
  · exact cIssue_answers _ (by intros; trivial) s
  · exact laneOp_answers ..

theorem issueSample_answers (i : Instr) (n : Nat) (t : BitVec 4) (fl : BitVec 1) (d : Dst) (a lod : Src) (s : State) :
    Answers (issueSample i n t fl d a lod s) :=
  cIssue_answers _ (fun _ _ _ => withFlag_resAtHole _ _ _ _ fun _ => withT_resAtHole _ _ _ (by intros; trivial)) s

theorem withRays_resAtHole (s : State) (g : Group) (e : CEnv) (i : Instr) (acc : Nat) (off : Lanes)
    {f : State → List (Nat × Nat) → Res} (h : ∀ s els, ResAtHole (f s els)) : ResAtHole (withRays s g e i acc off f) := by
  fun_cases withRays s g e i acc off f
  case case5 => exact h _ _
  all_goals trivial

theorem issueTrace_answers (i : Instr) (b : BitVec 5) (fl : BitVec 1) (d : Dst) (ray s0 : Src) (more : List Src) (s : State) :
    Answers (issueTrace i b fl d ray s0 more s) :=
  cIssue_answers _ (fun _ _ _ => withFlag_resAtHole _ _ _ _ fun _ => withB_resAtHole _ _ _ fun _ =>
    withRays_resAtHole _ _ _ _ _ _ (by intros; trivial)) s

theorem execTreport_answers (d : Dst) (s0 t w : Src) (x : Ctl) (s : State) : Answers (execTreport d s0 t w x s) :=
  cIssue_answers _ (fun _ _ _ => withRays_resAtHole _ _ _ _ _ _ (by intros; trivial)) s

theorem rayQuery_answers (i : Instr) (d : Dst) (s0 : Src) (f : RayState → List Nat) (s : State) : Answers (rayQuery i d s0 f s) :=
  cIssue_answers _ (fun _ _ _ => withRays_resAtHole _ _ _ _ _ _ (by intros; trivial)) s

theorem execTabort_answers (s0 : Src) (x : Ctl) (s : State) : Answers (execTabort s0 x s) :=
  cIssue_answers _ (fun _ _ _ => withRays_resAtHole _ _ _ _ _ _ (by intros; trivial)) s

theorem execMxfeed_answers (fl : BitVec 1) (x : Ctl) (s : State) : Answers (execMxfeed fl x s) := by
  refine cIssue_answers _ (fun e g s => ?_) s
  split
  · trivial
  split
  · trivial
  split
  · trivial
  split
  · trivial
  split
  · trivial
  extract_lets n lo
  split
  · trivial
  · exact withFlag_resAtHole _ _ _ _ (by intros; trivial)

/-! ### The steps of passes -/

theorem onPassFault_answers (s : State) (k : Nat) (ss : Session) (p : Pass) {e : Except Fault Cause} (h : StopAtHole e) :
    Answers (onPassFault s k ss p e) := by
  cases h
  case ok => trivial
  case error h => exact h

theorem execStepStart_answers (quad : Nat) (s : State) : Answers (execStepStart quad s) := by
  fun_cases execStepStart quad s
  case case3 he => exact onPassFault_answers _ _ _ _ (stopAtHole_of_read (firstStep_atHole ..) he)
  all_goals trivial

theorem execRowDecode_answers (quad array : Nat) (err : Option ResidueError) (s : State) :
    Answers (execRowDecode quad array err s) := by
  fun_cases execRowDecode quad array err s
  case case4 he => exact onPassFault_answers _ _ _ _ (stopAtHole_of_read (readRow_atHole ..) he)
  all_goals trivial

theorem execPassComplete_answers (quad : Nat) (s : State) : Answers (execPassComplete quad s) := by
  fun_cases execPassComplete quad s
  case case3 he => exact onPassFault_answers _ _ _ _ (stopAtHole_of_read (readTable_atHole ..) he)
  case case4 he _ => exact onPassFault_answers _ _ _ _ (stopAtHole_of_rows (writeRows_atHole ..) he)
  all_goals trivial

theorem execTopkSelect_answers (quad entry : Nat) (s : State) : Answers (execTopkSelect quad entry s) := by
  fun_cases execTopkSelect quad entry s
  case case5 he => exact onPassFault_answers _ _ _ _ (stopAtHole_of_write (writeElems_atHole ..) he)
  all_goals trivial

end Sys2Proof.Machine

namespace Sys2Proof.Machine

/-! ### The engines -/

/-- A run of an engine operation that fails, if it does, at such a stop. -/
inductive EndAtHole : RunEnd → Prop
  | done : EndAtHole .done
  | pause : EndAtHole .pause
  | fail {e : Stop} (h : StopAtHole e) : EndAtHole (.fail e)

theorem stopAtHole_of_end {σ : Type} {r : σ × EngOp × RunEnd} (h : EndAtHole r.2.2) {s : σ} {o : EngOp} {e : Stop}
    (he : r = (s, o, .fail e)) : StopAtHole e := by
  subst he
  cases h
  assumption

theorem unitElem_atHole (s : State) (g : Group) (o : EngOp) (engine : Nat) (t : Ten) (zero : Bool) (k : Nat) (cs : List Int) :
    ReadAtHole (unitElem s g o engine t zero k cs).2 := by
  fun_cases unitElem s g o engine t zero k cs
  case case3 he => exact .error (stopAtHole_of_read (partElem_atHole ..) he)
  all_goals constructor

theorem unitElems_atHole (s : State) (g : Group) (o : EngOp) (engine : Nat) (t : Ten) (zero : Bool) (es : List (Nat × List Int)) :
    ReadAtHole (unitElems s g o engine t zero es).2 := by
  refine foldl_onError _ (.ok _) ?_
  rintro ⟨s, f | vs⟩ e hx
  · exact hx
  · dsimp only
    split
    · exact .ok _
    case h_2 he => exact .error (stopAtHole_of_read (unitElem_atHole ..) he)

theorem copyChunk_atHole (s : State) (g : Group) (o : EngOp) (ts td : Ten) (zero : Bool) (sc dc : List Int) :
    WriteAtHole (copyChunk s g o ts td zero sc dc).2 := by
  unfold copyChunk
  extract_lets r
  have hr : WriteAtHole r.2 := by
    refine foldl_writeAtHole _ .none ?_
    rintro ⟨s, _ | f⟩ e hx
    · dsimp only
      split
      case h_1 he => exact .some (stopAtHole_of_read (unitElem_atHole ..) he)
      · split
        · split
          · exact .none
          · exact .some (engine_atHole ..)
        · exact .none
    · exact hx
  clear_value r
  obtain ⟨s', _ | f⟩ := r
  · exact .none
  · exact .some (stopAtHole_of_some hr)

theorem readSeg_atHole (s : State) (g : Group) (b : Buf) (n : Nat) (u : User) (got : List (Nat × Nat)) (from_ : Nat) :
    ReadAtHole (readSeg s g b n u got from_).2 := by
  fun_cases readSeg s g b n u got from_
  case case1 => split <;> repeat constructor
  case case4 => exact .error (engine_atHole ..)
  all_goals repeat constructor

theorem segCurve_atHole (s : State) (g : Group) (b : Buf) (f k count : Nat) (ox oy : Int) (u : User) (got : List (Nat × Nat)) :
    ReadAtHole (segCurve s g b f k count ox oy u got).2 := by
  fun_cases segCurve s g b f k count ox oy u got
  case case1 he => exact .error (stopAtHole_of_read (readSeg_atHole ..) he)
  case case5 he => exact .error (stopAtHole_of_read (readSeg_atHole ..) he)
  all_goals repeat constructor

theorem segAhead_atHole (s : State) (g : Group) (b : Buf) (f k count : Nat) (u : User) (got : List (Nat × Nat)) {e : Stop}
    (h : (segAhead s g b f k count u got).2 = some (.error e)) : StopAtHole e := by
  revert h
  fun_cases segAhead s g b f k count u got
  case case2 he => exact fun h => by cases h; exact stopAtHole_of_read (readSeg_atHole ..) he
  case case4 he => exact fun h => by cases h; exact stopAtHole_of_read (readSeg_atHole ..) he
  all_goals exact nofun

theorem copyUnits_atHole (g : Group) (ts td : Ten) (zero : Bool) (sc dc : List Int) (n : Nat) (o : EngOp) (s : State) :
    EndAtHole (copyUnits g ts td zero sc dc n o s).2.2 := by
  fun_induction copyUnits g ts td zero sc dc n o s
  case case3 he => exact .fail (stopAtHole_of_read (readParts_atHole ..) he)
  case case4 he => exact .fail (stopAtHole_of_write (copyChunk_atHole ..) he)
  case case6 ih => exact ih
  all_goals constructor

theorem coverSegs_atHole (g : Group) (b : Buf) (f count : Nat) (ox oy : Int) (n : Nat) (o : EngOp) (s : State) :
    EndAtHole (coverSegs g b f count ox oy n o s).2.2 := by
  fun_induction coverSegs g b f count ox oy n o s
  case case3 he => exact .fail (segAhead_atHole _ _ _ _ _ _ _ _ (congrArg Prod.snd he))
  case case5 he => exact .fail (stopAtHole_of_read (segCurve_atHole ..) he)
  case case6 ih => exact ih
  all_goals constructor

theorem writeSig_atHole (s : State) (g : Group) (va v : Nat) : WriteAtHole (writeSig s g va v).2 := by
  fun_cases writeSig s g va v
  case case1 => exact .some (engine_atHole ..)
  all_goals constructor

theorem storeTile_atHole (s : State) (g : Group) (o : EngOp) (t u : Ten) (tx ty : Int) (sigVa : Nat) :
    WriteAtHole (storeTile s g o t u tx ty sigVa).2 := by
  fun_cases storeTile s g o t u tx ty sigVa
  case case1 he => exact .some (stopAtHole_of_read (unitElems_atHole ..) he)
  case case2 he => exact .some (stopAtHole_of_write (writeElems_atHole ..) he)
  case case3 he => exact .some (stopAtHole_of_write (writeSig_atHole ..) he)
  case case4 => exact .none

theorem wrote_atHole (o : EngOp) {r : State × Option Stop} (h : WriteAtHole r.2) : EndAtHole (o.wrote r).2.2 := by
  obtain ⟨s, _ | e⟩ := r
  · exact .done
  · exact .fail (stopAtHole_of_some h)

theorem endCover_atHole (g : Group) (t : Ten) (eo : Bool) (o : EngOp) (s : State) : EndAtHole (endCover g t eo o s).2.2 := by
  unfold endCover
  exact wrote_atHole _ (writeElems_atHole ..)

theorem runEng_atHole (s : State) (g : Group) (o : EngOp) : EndAtHole (runEng s g o).2.2 := by
  fun_cases runEng s g o
  case case1 => exact copyUnits_atHole ..
  case case2 => exact endCover_atHole ..
  case case3 => exact coverSegs_atHole ..
  case case4 => exact .pause
  case case5 he => exact .fail (stopAtHole_of_read (readParts_atHole ..) he)
  case case6 => exact wrote_atHole _ (storeTile_atHole ..)

theorem counterAt_atHole (s : State) (g : Group) (o : EngOp) : ReadAtHole (counterAt s g o).2 := by
  fun_cases counterAt s g o
  case case2 => exact .error (engine_atHole ..)
  all_goals constructor

theorem completeEng_answers (s : State) (op : Nat) (is : EngKind → Bool) : Answers (completeEng s op is) := by
  fun_cases completeEng s op is <;> trivial

theorem faultEng_answers (s : State) (o : EngOp) (g : Group) : Answers (faultEng s o g) := by
  fun_cases faultEng s o g
  case case2 he => exact onError_of_error (P := Fault.AtHole) (stopAtHole_of_end (runEng_atHole ..) he)
  case case4 he => exact onError_of_error (P := Fault.AtHole) (stopAtHole_of_read (counterAt_atHole ..) he)
  all_goals trivial

end Sys2Proof.Machine

namespace Sys2Proof.Machine

/-! ### The sampler -/

/-- A run of lanes whose fault, if it has one, is that of a missing address. -/
def LaneRun.AtHole (r : LaneRun) : Prop := ∀ f, r.stop = some f → f.AtHole

theorem fetchTexel_atHole (s : State) (g : Group) (t : Ten) (l x y c : Nat) : ReadAtHole (fetchTexel s g t l x y c).2 := by
  fun_cases fetchTexel s g t l x y c
  case case3 => exact .error (engine_atHole ..)
  all_goals constructor

theorem fetchAll_atHole (s : State) (g : Group) (t : Ten) (l : Nat) (ps : List (Nat × Nat)) (chans : List Nat) :
    ReadAtHole (fetchAll s g t l ps chans).2 := by
  refine foldl_onError _ (.ok _) ?_
  rintro ⟨s, e | rows⟩ p hx
  · exact hx
  · dsimp only
    split
    · exact .ok _
    case h_2 he =>
      refine .error (stopAtHole_of_read (foldl_onError _ (.ok _) ?_) he)
      rintro ⟨s, e | vs⟩ c hy
      · exact hy
      · dsimp only
        split
        · exact .ok _
        case h_2 he => exact .error (stopAtHole_of_read (fetchTexel_atHole ..) he)

theorem bilinear_atHole (s : State) (g : Group) (t : Ten) (mode l u v : Nat) : ReadAtHole (bilinear s g t mode l u v).2 := by
  fun_cases bilinear s g t mode l u v
  case case2 he => exact .error (stopAtHole_of_read (fetchAll_atHole ..) he)
  all_goals constructor

theorem sampleLane_atHole (s : State) (g : Group) (t : Ten) (mode filt : Nat) (v : List Nat) (lod : Nat) :
    ReadAtHole (sampleLane s g t mode filt v lod).2 := by
  fun_cases sampleLane s g t mode filt v lod
  case case4 he => exact .error (stopAtHole_of_read (fetchAll_atHole ..) he)
  case case6 he => exact .error (stopAtHole_of_read (bilinear_atHole ..) he)
  case case8 he _ _ => exact .error (stopAtHole_of_read (bilinear_atHole ..) he)
  case case9 he _ _ =>
    refine .error (stopAtHole_of_read ?_ he)
    split
    · exact .ok _
    · exact bilinear_atHole ..
  all_goals constructor

theorem gatherLane_atHole (s : State) (g : Group) (t : Ten) (mode chan : Nat) (v : List Nat) (lod : Nat) :
    ReadAtHole (gatherLane s g t mode chan v lod).2 := by
  fun_cases gatherLane s g t mode chan v lod
  case case4 he => exact .error (stopAtHole_of_read (fetchAll_atHole ..) he)
  all_goals constructor

theorem runLanes_atHole (o : LaneOp)
    {f : State → Nat → State × Except Stop (List Nat)} (h : ∀ s l, ReadAtHole (f s l).2) (s : State) :
    (runLanes o f s).AtHole := by
  refine List.foldlRecOn (motive := LaneRun.AtHole) _ _ nofun fun r hr l _ => ?_
  split
  · exact hr
  · exact hr
  case h_3 he =>
    intro e hs
    rcases Option.or_eq_some_iff.mp hs with hs | ⟨_, hs⟩
    · exact hr e hs
    · cases hs
      exact onError_of_error (P := Fault.AtHole) (stopAtHole_of_read (h ..) he)

theorem finishLanes_answers (s : State) (faulty : Bool) (o : LaneOp) (d : Nat) {r : LaneRun} (h : r.AtHole) :
    Answers (finishLanes s faulty o d r) := by
  fun_cases finishLanes s faulty o d r
  case case1 hf _ => exact h _ hf
  all_goals trivial

theorem runSample_answers (s : State) (faulty : Bool) (o : LaneOp) (g : Group) : Answers (runSample s faulty o g) := by
  fun_cases runSample s faulty o g
  case case1 => exact finishLanes_answers _ _ _ _ (runLanes_atHole _ (fun _ _ => sampleLane_atHole ..) _)
  case case2 => exact finishLanes_answers _ _ _ _ (runLanes_atHole _ (fun _ _ => gatherLane_atHole ..) _)
  case case3 => trivial

end Sys2Proof.Machine

namespace Sys2Proof.Machine

/-! ### The traversal -/

/-- What a walk answers, if it is a fault, is such a stop. -/
inductive Walk.AtHole : Walk → Prop
  | more : Walk.AtHole .more
  | paused : Walk.AtHole .paused
  | ended : Walk.AtHole .ended
  | never : Walk.AtHole .never
  | fault {e : Stop} (h : StopAtHole e) : Walk.AtHole (.fault e)

/-- The same of what a leaf's record answers. -/
inductive RecRes.AtHole : RecRes → Prop
  | cont : RecRes.AtHole .cont
  | susp : RecRes.AtHole .susp
  | enter : RecRes.AtHole .enter
  | fault {e : Stop} (h : StopAtHole e) : RecRes.AtHole (.fault e)

theorem stopAtHole_of_record {σ : Type} {r : σ × RecRes} (h : r.2.AtHole) {w : σ} {e : Stop} (he : r = (w, .fault e)) :
    StopAtHole e := by
  subst he
  cases h
  assumption

theorem stopAtHole_of_walk {σ τ : Type} {r : σ × Walk × τ} (h : r.2.1.AtHole) {s : σ} {e : Stop} {ws : τ}
    (he : r = (s, .fault e, ws)) :
    StopAtHole e := by
  subst he
  cases h
  assumption

theorem badBvh_atHole : StopAtHole badBvh := .ok _

theorem fetchUnits_atHole (s : State) (g : Group) (b : Buf) (u n : Nat) : ReadAtHole (fetchUnits s g b u n).2 := by
  fun_cases fetchUnits s g b u n
  case case3 => exact .error (engine_atHole ..)
  all_goals repeat constructor

theorem fetchNode_atHole (s : State) (g : Group) (b : Buf) (i : Nat) : ReadAtHole (fetchNode s g b i).2 := by
  fun_cases fetchNode s g b i
  · exact .error badBvh_atHole
  · exact fetchUnits_atHole ..

theorem enterRay_atHole (g : Group) (c : RayCtx) (b : List Byte) (rmask : Nat) : ReadAtHole (enterRay g c b rmask) := by
  fun_cases enterRay g c b rmask
  all_goals repeat constructor

theorem leafRecords_atHole (g : Group) (c : RayCtx) (j kind u0 n k : Nat) (w : WalkSt) :
    (leafRecords g c j kind u0 n k w).2.AtHole := by
  fun_induction leafRecords g c j kind u0 n k w
  case case2 he => exact .fault (stopAtHole_of_read (fetchUnits_atHole ..) he)
  case case3 hk _ ih =>
    subst hk
    exact ih
  case case5 hk _ _ ih =>
    subst hk
    exact ih
  case case6 => exact .fault badBvh_atHole
  case case7 he _ _ =>
    have h := enterRay_atHole g c
    exact .fault (onError_of_error (he ▸ h ..))
  case case8 ih => exact ih
  all_goals constructor

theorem leafList_atHole (g : Group) (c : RayCtx) (nd : List Byte) (todo : List (Nat × Nat × Option Nat)) (w : WalkSt) :
    (leafList g c nd todo w).2.AtHole := by
  fun_induction leafList g c nd todo w
  case case1 => exact .cont
  case case2 ih => exact ih
  case case3 => exact .fault badBvh_atHole
  case case4 ih => exact ih
  case case5 =>
    split
    · exact .cont
    · exact leafRecords_atHole ..

theorem processNode_atHole (g : Group) (c : RayCtx) (nd : List Byte) (from_ : Option (Nat × Nat)) (w : WalkSt) :
    (processNode g c nd from_ w).2.AtHole := by
  fun_cases processNode g c nd from_ w
  case case3 he => exact .fault (stopAtHole_of_record (leafList_atHole ..) he)
  case case4 => exact .fault badBvh_atHole
  all_goals constructor

theorem visitNode_atHole (g : Group) (c : RayCtx) (i : Nat) (pop : Bool) (w : WalkSt) : (visitNode g c i pop w).2.AtHole := by
  fun_cases visitNode g c i pop w
  case case1 he => exact .fault (stopAtHole_of_read (fetchNode_atHole ..) he)
  case case2 => exact processNode_atHole ..

theorem backtrack_atHole (g : Group) (c : RayCtx) (tmax n cur : Nat) (s : State) :
    OnError WriteAtHole (backtrack g c tmax n cur s).2 := by
  fun_induction backtrack g c tmax n cur s
  case case1 => exact .error .none
  case case2 he => exact .error (.some (stopAtHole_of_read (fetchNode_atHole ..) he))
  case case4 he => exact .error (.some (stopAtHole_of_read (fetchNode_atHole ..) he))
  case case6 ih => exact ih
  all_goals constructor

theorem endLevel_atHole (g : Group) (c : RayCtx) (w : WalkSt) : (endLevel g c w).2.AtHole := by
  fun_cases endLevel g c w
  case case1 he => exact .fault (stopAtHole_of_read (fetchNode_atHole ..) he)
  all_goals constructor

theorem reenter_atHole (g : Group) (c : RayCtx) (w : WalkSt) : ReadAtHole (reenter g c w).2 := by
  fun_cases reenter g c w
  case case1 he => exact .error (stopAtHole_of_read (fetchNode_atHole ..) he)
  case case2 he => exact .error (stopAtHole_of_read (fetchUnits_atHole ..) he)
  case case3 he =>
    have h := enterRay_atHole g c
    exact .error (onError_of_error (he ▸ h ..))
  case case4 => exact .ok _

theorem levelStep_atHole (g : Group) (world c : RayCtx) (w : WalkSt) : (levelStep g world c w).2.AtHole := by
  fun_cases levelStep g world c w
  case case2 he => exact .fault (stopAtHole_of_read (fetchNode_atHole ..) he)
  case case3 => exact processNode_atHole ..
  case case5 he =>
    have h := backtrack_atHole g c w.r.tmax 65537 w.r.cur w.s
    rw [he] at h
    exact .fault (stopAtHole_of_some (onError_of_error h))
  case case6 => exact .never
  case case8 => exact endLevel_atHole ..
  case case9 => exact endLevel_atHole ..
  all_goals exact visitNode_atHole ..

theorem walkStep_atHole (g : Group) (world : RayCtx) (w : WalkSt) : (walkStep g world w).2.AtHole := by
  fun_cases walkStep g world w
  case case2 he => exact .fault (stopAtHole_of_read (reenter_atHole ..) he)
  case case4 => exact endLevel_atHole ..
  all_goals exact levelStep_atHole ..

theorem walkRay_atHole (g : Group) (world : RayCtx) (stops : Bool) (n : Nat) (w : WalkSt) : (walkRay g world stops n w).2.AtHole := by
  fun_induction walkRay g world stops n w
  case case1 => exact .never
  case case2 ih => exact ih
  case case3 => exact .paused
  case case4 ih => exact ih
  case case5 => exact walkStep_atHole ..

theorem traceLane_atHole (g : Group) (stops : Bool) (bvh : Buf) (init : Option Nat) (v : List Nat) (l : Nat) (s : State) :
    (traceLane g stops bvh init v l s).2.1.AtHole := by
  fun_cases traceLane g stops bvh init v l s
  case case2 => exact .fault badBvh_atHole
  case case3 => exact walkRay_atHole ..
  case case6 => exact walkRay_atHole ..
  all_goals exact .ended

theorem runRays_atHole (o : LaneOp) (g : Group) (stops : Bool) (bvh : Buf) (init : Option Nat) (s : State) :
    (runRays o g stops bvh init s).1.AtHole := by
  refine List.foldlRecOn (motive := fun r : LaneRun × Bool => r.1.AtHole) _ _ nofun fun r hr l _ => ?_
  have h := traceLane_atHole g stops bvh init (o.words l) l r.1.s
  split
  case h_4 he =>
    intro e hs
    rcases Option.or_eq_some_iff.mp hs with hs | ⟨_, hs⟩
    · exact hr e hs
    · cases hs
      exact onError_of_error (P := Fault.AtHole) (stopAtHole_of_walk h he)
  all_goals exact hr

theorem runTrace_answers (s : State) (faulty : Bool) (o : LaneOp) (g : Group) : Answers (runTrace s faulty o g) := by
  unfold runTrace
  extract_lets bvh run
  have hrun : ∀ d init, Answers (run d init) := fun d init => by
    have h := runRays_atHole o (g.running o) (!faulty) bvh (if o.resume then none else init) s
    dsimp only [run]
    split
    · trivial
    case h_2 he =>
      rw [he] at h
      exact finishLanes_answers _ _ _ _ h
  split
  · exact hrun _ _
  · exact hrun _ _
  · trivial

theorem execTraversalComplete_answers (op : Nat) (s : State) : Answers (execTraversalComplete op s) := by
  fun_cases execTraversalComplete op s
  case case1 => trivial
  case case2 => exact runTrace_answers ..

theorem execSampleComplete_answers (op : Nat) (s : State) : Answers (execSampleComplete op s) := by
  fun_cases execSampleComplete op s
  case case1 => trivial
  case case2 => exact runSample_answers ..

theorem execEngineFault_answers (op : Nat) (s : State) : Answers (execEngineFault op s) := by
  fun_cases execEngineFault op s
  case case1 => exact faultEng_answers ..
  case case4 => exact runSample_answers ..
  case case5 => trivial
  all_goals exact runTrace_answers ..

end Sys2Proof.Machine

namespace Sys2Proof.Machine

/-! ### The other steps of agents that may stop -/

theorem execSplinterComplete_answers (v : Nat) (s : State) : Answers (execSplinterComplete v s) := by
  fun_cases execSplinterComplete v s <;> trivial

theorem execScalarAccessReturn_answers (op : Nat) (s : State) : Answers (execScalarAccessReturn op s) := by
  fun_cases execScalarAccessReturn op s <;> trivial

theorem performMu_answers (s : State) (g : Group) (o : MuOp) (checked : State × Checked) (d0 d1 : Lanes) :
    Answers (performMu s g o checked d0 d1) := by
  fun_cases performMu s g o checked d0 d1 <;> trivial

theorem execXqOperationPerform_answers (op : Nat) (s : State) : Answers (execXqOperationPerform op s) := by
  fun_cases execXqOperationPerform op s
  case case5 => exact performMu_answers ..
  all_goals trivial

theorem execStorePerform_answers (op : Nat) (s : State) : Answers (execStorePerform op s) := by
  fun_cases execStorePerform op s
  case case6 => exact performMu_answers ..
  all_goals trivial

theorem execClauseStart_answers (s : State) : Answers (execClauseStart s) := by
  fun_cases execClauseStart s
  case case8 he => exact onError_of_error (P := Fault.AtHole) (stopAtHole_of_write (stackIo_atHole ..) he)
  all_goals trivial

theorem execSurfaceTableRead_answers (s : State) : Answers (execSurfaceTableRead s) := by
  fun_cases execSurfaceTableRead s <;> trivial

theorem execFrameStart_answers (surf : Nat) (s : State) : Answers (execFrameStart surf s) := by
  fun_cases execFrameStart surf s <;> trivial

end Sys2Proof.Machine

namespace Sys2Proof.Machine

/-! ### The steps of agents that always go on -/

theorem execIllegalInstruction_answers (cside : Bool) (code bit : Nat) (word : BitVec 96) (s : State) :
    Answers (execIllegalInstruction cside code bit word s) := by
  fun_cases execIllegalInstruction cside code bit word s <;> trivial

theorem execFetchFault_answers (cside : Bool) (va level : Nat) (perm : Bool) (s : State) :
    Answers (execFetchFault cside va level perm s) := by
  fun_cases execFetchFault cside va level perm s <;> trivial

theorem execHostBreak_answers (s : State) : Answers (execHostBreak s) := by
  fun_cases execHostBreak s <;> trivial

theorem execHostDebugControl_answers (s : State) : Answers (execHostDebugControl s) := by
  fun_cases execHostDebugControl s <;> trivial

theorem execWritePerformed_answers (op : Nat) (s : State) : Answers (execWritePerformed op s) := by
  fun_cases execWritePerformed op s <;> trivial

theorem execRegionEntry_answers (s : State) : Answers (execRegionEntry s) := by
  fun_cases execRegionEntry s <;> trivial

theorem execParkedJoinTimeout_answers (s : State) : Answers (execParkedJoinTimeout s) := by
  fun_cases execParkedJoinTimeout s <;> trivial

theorem execLoadComplete_answers (op : Nat) (s : State) : Answers (execLoadComplete op s) := by
  fun_cases execLoadComplete op s <;> trivial

theorem execRecordLoadComplete_answers (op : Nat) (s : State) : Answers (execRecordLoadComplete op s) := by
  fun_cases execRecordLoadComplete op s <;> trivial

theorem execNearMemoryComplete_answers (op : Nat) (s : State) : Answers (execNearMemoryComplete op s) := by
  unfold execNearMemoryComplete
  split
  · trivial
  extract_lets r m run
  have hrun : ∀ flag words reg f, Answers (run flag words reg f) := fun flag words reg f => by
    dsimp only [run]
    split <;> trivial
  split
  · exact hrun ..
  · exact hrun ..
  · trivial

theorem execTranslationWalk_answers (v va acc : Nat) (sup : Bool) (s : State) : Answers (execTranslationWalk v va acc sup s) := by
  fun_cases execTranslationWalk v va acc sup s <;> trivial

theorem execSessionForm_answers (quad : Nat) (s : State) : Answers (execSessionForm quad s) := by
  fun_cases execSessionForm quad s <;> trivial

theorem execPassGrant_answers (quad : Nat) (s : State) : Answers (execPassGrant quad s) := by
  fun_cases execPassGrant quad s <;> trivial

theorem execSurgeGrant_answers (quad : Nat) (s : State) : Answers (execSurgeGrant quad s) := by
  fun_cases execSurgeGrant quad s <;> trivial

theorem execTrapEntry_answers (s : State) : Answers (execTrapEntry s) := by
  fun_cases execTrapEntry s <;> trivial

theorem execDecouplingDeadlock_answers (s : State) : Answers (execDecouplingDeadlock s) := by
  fun_cases execDecouplingDeadlock s <;> trivial

theorem execLateStoreError_answers (pc : Word) (s : State) : Answers (execLateStoreError pc s) := by
  fun_cases execLateStoreError pc s <;> trivial

theorem execYieldcWake_answers (s : State) : Answers (execYieldcWake s) := by
  fun_cases execYieldcWake s <;> trivial

theorem execQuadPreempt_answers (quad : Nat) (s : State) : Answers (execQuadPreempt quad s) := by
  fun_cases execQuadPreempt quad s <;> trivial

theorem execGroupSave_answers (s : State) : Answers (execGroupSave s) := by
  fun_cases execGroupSave s <;> trivial

theorem execForcedFullSave_answers (s : State) : Answers (execForcedFullSave s) := by
  fun_cases execForcedFullSave s <;> trivial

theorem execPreemptComplete_answers (quad : Nat) (s : State) : Answers (execPreemptComplete quad s) := by
  fun_cases execPreemptComplete quad s <;> trivial

theorem execGroupRestore_answers (s : State) : Answers (execGroupRestore s) :=
  trivial

theorem execNotify_answers (port : Nat) (fn : Option Nat) (w : Word) (s : State) : Answers (execNotify port fn w s) := by
  fun_cases execNotify port fn w s <;> trivial

theorem execQueueMap_answers (q : Nat) (s : State) : Answers (execQueueMap q s) := by
  fun_cases execQueueMap q s <;> trivial

theorem execStarvationEvent_answers (q : Nat) (s : State) : Answers (execStarvationEvent q s) := by
  fun_cases execStarvationEvent q s <;> trivial

theorem execLaunchPacket_answers (q : Nat) (s : State) : Answers (execLaunchPacket q s) := by
  fun_cases execLaunchPacket q s <;> trivial

theorem execTeamPlace_answers (lid : Nat) (s : State) : Answers (execTeamPlace lid s) := by
  fun_cases execTeamPlace lid s <;> trivial

theorem execLaunchComplete_answers (lid : Nat) (s : State) : Answers (execLaunchComplete lid s) := by
  fun_cases execLaunchComplete lid s <;> trivial

theorem execLaunchOverrun_answers (lid : Nat) (s : State) : Answers (execLaunchOverrun lid s) := by
  fun_cases execLaunchOverrun lid s <;> trivial

theorem execLaunchWatchdog_answers (lid : Nat) (s : State) : Answers (execLaunchWatchdog lid s) := by
  fun_cases execLaunchWatchdog lid s <;> trivial

theorem execLaunchKill_answers (lid : Nat) (s : State) : Answers (execLaunchKill lid s) := by
  fun_cases execLaunchKill lid s <;> trivial

theorem execWindowEndPreempt_answers (p : Nat) (s : State) : Answers (execWindowEndPreempt p s) := by
  fun_cases execWindowEndPreempt p s <;> trivial

theorem execWindowOpen_answers (p : Nat) (s : State) : Answers (execWindowOpen p s) := by
  fun_cases execWindowOpen p s <;> trivial

theorem execRallocGrant_answers (v : Nat) (s : State) : Answers (execRallocGrant v s) := by
  fun_cases execRallocGrant v s <;> trivial

theorem execGalleyTimeout_answers (v : Nat) (s : State) : Answers (execGalleyTimeout v s) := by
  fun_cases execGalleyTimeout v s <;> trivial

theorem execFrameReclaim_answers (f : Nat) (s : State) : Answers (execFrameReclaim f s) := by
  fun_cases execFrameReclaim f s <;> trivial

theorem execTlbInvalidationComplete_answers (v : Nat) (s : State) : Answers (execTlbInvalidationComplete v s) := by
  fun_cases execTlbInvalidationComplete v s <;> trivial

theorem execGranuleZeroFill_answers (s : State) : Answers (execGranuleZeroFill s) := by
  fun_cases execGranuleZeroFill s <;> trivial

theorem execScanoutLine_answers (surf : Nat) (s : State) : Answers (execScanoutLine surf s) := by
  fun_cases execScanoutLine surf s <;> trivial

theorem execWarpLatch_answers (surf : Nat) (s : State) : Answers (execWarpLatch surf s) := by
  fun_cases execWarpLatch surf s <;> trivial

theorem execProofPoint_answers (surf layer : Nat) (s : State) : Answers (execProofPoint surf layer s) := by
  fun_cases execProofPoint surf layer s <;> trivial

theorem execFennelPassStart_answers (quad : Nat) (s : State) : Answers (execFennelPassStart quad s) := by
  fun_cases execFennelPassStart quad s <;> trivial

theorem execFennelPassEnd_answers (quad : Nat) (sound : Bool) (s : State) : Answers (execFennelPassEnd quad sound s) := by
  fun_cases execFennelPassEnd quad sound s <;> trivial

theorem execSramCorrectedError_answers (site : SramSite) (s : State) : Answers (execSramCorrectedError site s) := by
  fun_cases execSramCorrectedError site s <;> trivial

theorem execSramUncorrectableError_answers (site : SramSite) (s : State) : Answers (execSramUncorrectableError site s) := by
  fun_cases execSramUncorrectableError site s <;> trivial

theorem execMemoryScrub_answers (s : State) : Answers (execMemoryScrub s) := by
  fun_cases execMemoryScrub s <;> trivial

theorem execThermalTrip_answers (degrees : Nat) (s : State) : Answers (execThermalTrip degrees s) := by
  fun_cases execThermalTrip degrees s <;> trivial

theorem execCoolantHot_answers (hot : Bool) (s : State) : Answers (execCoolantHot hot s) :=
  trivial

theorem execHousekeepingWatchdog_answers (s : State) : Answers (execHousekeepingWatchdog s) :=
  trivial

theorem execHostMemoryWrite_answers (port pa : Nat) (bytes : List Byte) (s : State) :
    Answers (execHostMemoryWrite port pa bytes s) := by
  fun_cases execHostMemoryWrite port pa bytes s <;> trivial

theorem execLinkFlitReceive_answers (port : Nat) (sound : Bool) (pa : Nat) (bytes : List Byte) (s : State) :
    Answers (execLinkFlitReceive port sound pa bytes s) := by
  fun_cases execLinkFlitReceive port sound pa bytes s <;> trivial

theorem execLinkReplayLimit_answers (port trained : Nat) (s : State) : Answers (execLinkReplayLimit port trained s) := by
  fun_cases execLinkReplayLimit port trained s <;> trivial

theorem execPortReset_answers (port : Nat) (s : State) : Answers (execPortReset port s) :=
  trivial

theorem execDeviceReset_answers (s : State) : Answers (execDeviceReset s) := by
  fun_cases execDeviceReset s <;> trivial

theorem execSemAcquire_answers (port : Nat) (s : State) : Answers (execSemAcquire port s) := by
  fun_cases execSemAcquire port s <;> trivial

theorem execSemRelease_answers (port : Nat) (w : Word) (s : State) : Answers (execSemRelease port w s) := by
  fun_cases execSemRelease port w s <;> trivial

theorem execPartitionWrite_answers (port p word : Nat) (w : Word) (s : State) : Answers (execPartitionWrite port p word w s) := by
  fun_cases execPartitionWrite port p word w s
  · trivial
  · exact portWrite_answers ..

theorem execWindowTableWrite_answers (port idx : Nat) (w : Word) (s : State) : Answers (execWindowTableWrite port idx w s) := by
  fun_cases execWindowTableWrite port idx w s
  · trivial
  · exact portWrite_answers ..

theorem execGrant_answers (port : Nat) (w : Word) (s : State) : Answers (execGrant port w s) := by
  fun_cases execGrant port w s
  exact portWrite_answers ..

theorem execTlbinv_answers (port vf : Nat) (hi : Bool) (w : Word) (s : State) : Answers (execTlbinv port vf hi w s) := by
  fun_cases execTlbinv port vf hi w s
  · trivial
  · exact portWrite_answers ..

theorem execSplinter_answers (port vf : Nat) (hi : Bool) (w : Word) (s : State) : Answers (execSplinter port vf hi w s) := by
  fun_cases execSplinter port vf hi w s
  · trivial
  · exact portWrite_answers ..

theorem execFramePoolWrite_answers (port which : Nat) (w : Word) (s : State) : Answers (execFramePoolWrite port which w s) := by
  fun_cases execFramePoolWrite port which w s
  · trivial
  · exact portWrite_answers ..

theorem execSafesetWrite_answers (port which : Nat) (w : Word) (s : State) : Answers (execSafesetWrite port which w s) := by
  fun_cases execSafesetWrite port which w s
  · trivial
  · exact portWrite_answers ..

theorem execRegisterWrite_answers (port off : Nat) (w : Word) (s : State) : Answers (execRegisterWrite port off w s) := by
  fun_cases execRegisterWrite port off w s
  · trivial
  · exact portWrite_answers ..

/-! ### Every instruction and step -/

theorem aBin_answers (i : Instr) (d a b : BitVec 6) (f : Word → Word → Word) (s : State) : Answers (aBin i d a b f s) :=
  aWrite_answers i d _ s

theorem aUn_answers (i : Instr) (d a : BitVec 6) (f : Word → Word) (s : State) : Answers (aUn i d a f s) :=
  aWrite_answers i d _ s

theorem intOp_answers (i : Instr) (d : Dst) (ss : List Src) (f : List Word → Word) (s : State) : Answers (intOp i d ss f s) :=
  cLanes_answers i d _ _ s

theorem f32Op_answers (i : Instr) (d : Dst) (ss : List Src) (f : List Nat → FRes) (s : State) : Answers (f32Op i d ss f s) :=
  cLanes_answers i d _ _ s

theorem packedOp_answers (i : Instr) (bf : BitVec 1) (d : Dst) (ss : List Src) (f : List Nat → FRes) (s : State) :
    Answers (packedOp i bf d ss f s) :=
  cLanes_answers i d _ _ s

theorem shfl_answers (i : Instr) (w : BitVec 3) (act : BitVec 1) (d : Dst) (a n f : Src) (t : Nat → Nat → Nat → Int) (s : State) :
    Answers (shfl i w act d a n f t s) :=
  laneOp_answers i d _ _ s

theorem exec_answers_of_ne (i : Instr) (hi : i ≠ .shadowReplay) (s : State) : Answers (exec i s) := by
  cases i <;> unfold exec
  case add | sub | and | or | xor | andn | shlA | shrA | sra | rot | slt | sltu | min | max | minu | maxu | mul | mulh | mulhu | div
      | divu | rem | remu | bfeA => exact aBin_answers ..
  case clzA | popcA | brevA | sextb | sexth | addi | andi | ori | xori | slti | sltiu | shli | shri | srai | roti | muli =>
    exact aUn_answers ..
  case bfiA | lui => exact aWrite_answers ..
  case beq | bne | blt | bge | bltu | bgeu => exact aBranch_answers ..
  case dbnz | jal | nop | rdsr | wrsr | trap | yield | rdtime => exact aIssue_answers _ (by intros; trivial) s
  case cls | clsr => exact aIssue_answers _ (fun _ _ => pushClq_resAtHole ..) s
  case cpyBar | cpyCnt => exact aIssue_answers _ (fun _ _ => issueCopy_resAtHole ..) s
  case fenceAcq | fenceRel | fenceAcqrel => exact aIssue_answers _ (fun _ _ => fence_resAtHole ..) s
  case iadd | isub | imul | imad | imulh | imin | imax | iabs | iadd3 | ltab | shl | shr | shra | shf | bfe | bfes | bfi | popc
      | clz | brev | idp4 | idp2 | isad | iclamp | rnenc | rndec | rnmad | mov => exact intOp_answers ..
  case fadd | fsub | fmul | ffma | fmin | fmax | fminn | fmaxn | fclamp | frnd | fdiv | fsqrt | flerp | fdot3 => exact f32Op_answers ..
  case hadd2 | hmul2 | hfma2 | hmin2 | hmax2 => exact packedOp_answers ..
  case fclass | fldexp | fexpo | frcp | frsq | fexp2 | flog2 | fsin | fcos | hdot2 | cvt | pack | unpk => exact cLanes_answers ..
  case fset | hset2 | iset => exact cPred_answers ..
  case sel | perm | bcast | bcastf | voteballot | matchany | matchlead => exact laneOp_answers ..
  case shflup | shfldn | shflx | shflr => exact shfl_answers ..
  case voteall | voteany | votesame | matchall | pltab => exact lanePred_answers ..
  case reduce | scan | sreg | nopc => exact cIssue_answers _ (by intros; trivial) s
  case brd | jmp | join | endc | callc | retc => exact flow_answers ..
  case ldl | lds | ldc => exact nearLoad_answers ..
  case stl | sts | stc => exact nearStore_answers ..
  case atoms | atomc => exact nearAtomic_answers ..
  case sample | gath4 => exact issueSample_answers ..
  case trace | tresume => exact issueTrace_answers ..
  case tcand | tquery => exact rayQuery_answers ..
  case copyComplete | coverComplete | tstoreComplete => exact completeEng_answers ..
  case lretrain | vfmapWrite | pwrcapWrite | qtbaseWrite | prqheadWrite | retest | colophonUnfreeze => exact portWrite_answers ..
  case jalr => exact execJalr_answers ..
  case spush => exact execSpush_answers ..
  case bpop => exact execBpop_answers ..
  case ldv => exact execLdv_answers ..
  case ldg => exact execLdg_answers ..
  case stv => exact execStv_answers ..
  case stx => exact execStx_answers ..
  case lda => exact execLda_answers ..
  case sta => exact execSta_answers ..
  case prf => exact execPrf_answers ..
  case atv => exact execAtv_answers ..
  case ata => exact execAta_answers ..
  case bld => exact execBld_answers ..
  case bset => exact execBset_answers ..
  case tld => exact execTld_answers ..
  case cwait => exact execCwait_answers ..
  case yieldc => exact execYieldc_answers ..
  case binit => exact execBinit_answers ..
  case barv => exact execBarv_answers ..
  case bwaita => exact execBwaita_answers ..
  case barvw => exact execBarvw_answers ..
  case bexp => exact execBexp_answers ..
  case btry => exact execBtry_answers ..
  case mxbind => exact execMxbind_answers ..
  case mxloop => exact execMxloop_answers ..
  case mxconv => exact execMxconv_answers ..
  case mxsel => exact execMxsel_answers ..
  case mxrel => exact execMxrel_answers ..
  case mxstat => exact execMxstat_answers ..
  case cover => exact execCover_answers ..
  case ralloc => exact execRalloc_answers ..
  case rcommit => exact execRcommit_answers ..
  case rdone => exact execRdone_answers ..
  case rinput => exact execRinput_answers ..
  case rdepth => exact execRdepth_answers ..
  case tstore => exact execTstore_answers ..
  case waitf => exact execWaitf_answers ..
  case tret => exact execTret_answers ..
  case exit => exact execExit_answers ..
  case csync => exact execCsync_answers ..
  case haltd => exact execHaltd_answers ..
  case regroup => exact execRegroup_answers ..
  case pop => exact execPop_answers ..
  case drop => exact execDrop_answers ..
  case push => exact execPush_answers ..
  case pmov => exact execPmov_answers ..
  case pmovw => exact execPmovw_answers ..
  case kill => exact execKill_answers ..
  case tfence => exact execTfence_answers ..
  case bwait => exact execBwait_answers ..
  case barvc => exact execBarvc_answers ..
  case ctrap => exact execCtrap_answers ..
  case treport => exact execTreport_answers ..
  case tabort => exact execTabort_answers ..
  case mxfeed => exact execMxfeed_answers ..
  case clauseStart => exact execClauseStart_answers ..
  case scalarAccessReturn => exact execScalarAccessReturn_answers ..
  case xqOperationPerform => exact execXqOperationPerform_answers ..
  case storePerform => exact execStorePerform_answers ..
  case sampleComplete => exact execSampleComplete_answers ..
  case traversalComplete => exact execTraversalComplete_answers ..
  case engineFault => exact execEngineFault_answers ..
  case stepStart => exact execStepStart_answers ..
  case rowDecode => exact execRowDecode_answers ..
  case passComplete => exact execPassComplete_answers ..
  case topkSelect => exact execTopkSelect_answers ..
  case splinterComplete => exact execSplinterComplete_answers ..
  case surfaceTableRead => exact execSurfaceTableRead_answers ..
  case frameStart => exact execFrameStart_answers ..
  case illegalInstruction => exact execIllegalInstruction_answers ..
  case fetchFault => exact execFetchFault_answers ..
  case hostBreak => exact execHostBreak_answers ..
  case hostDebugControl => exact execHostDebugControl_answers ..
  case writePerformed => exact execWritePerformed_answers ..
  case regionEntry => exact execRegionEntry_answers ..
  case parkedJoinTimeout => exact execParkedJoinTimeout_answers ..
  case loadComplete => exact execLoadComplete_answers ..
  case recordLoadComplete => exact execRecordLoadComplete_answers ..
  case nearMemoryComplete => exact execNearMemoryComplete_answers ..
  case translationWalk => exact execTranslationWalk_answers ..
  case sessionForm => exact execSessionForm_answers ..
  case passGrant => exact execPassGrant_answers ..
  case surgeGrant => exact execSurgeGrant_answers ..
  case trapEntry => exact execTrapEntry_answers ..
  case decouplingDeadlock => exact execDecouplingDeadlock_answers ..
  case lateStoreError => exact execLateStoreError_answers ..
  case yieldcWake => exact execYieldcWake_answers ..
  case quadPreempt => exact execQuadPreempt_answers ..
  case groupSave => exact execGroupSave_answers ..
  case forcedFullSave => exact execForcedFullSave_answers ..
  case preemptComplete => exact execPreemptComplete_answers ..
  case groupRestore => exact execGroupRestore_answers ..
  case notify => exact execNotify_answers ..
  case queueMap => exact execQueueMap_answers ..
  case starvationEvent => exact execStarvationEvent_answers ..
  case launchPacket => exact execLaunchPacket_answers ..
  case teamPlace => exact execTeamPlace_answers ..
  case launchComplete => exact execLaunchComplete_answers ..
  case launchOverrun => exact execLaunchOverrun_answers ..
  case launchWatchdog => exact execLaunchWatchdog_answers ..
  case launchKill => exact execLaunchKill_answers ..
  case windowEndPreempt => exact execWindowEndPreempt_answers ..
  case windowOpen => exact execWindowOpen_answers ..
  case rallocGrant => exact execRallocGrant_answers ..
  case galleyTimeout => exact execGalleyTimeout_answers ..
  case frameReclaim => exact execFrameReclaim_answers ..
  case tlbInvalidationComplete => exact execTlbInvalidationComplete_answers ..
  case granuleZeroFill => exact execGranuleZeroFill_answers ..
  case scanoutLine => exact execScanoutLine_answers ..
  case warpLatch => exact execWarpLatch_answers ..
  case proofPoint => exact execProofPoint_answers ..
  case fennelPassStart => exact execFennelPassStart_answers ..
  case fennelPassEnd => exact execFennelPassEnd_answers ..
  case sramCorrectedError => exact execSramCorrectedError_answers ..
  case sramUncorrectableError => exact execSramUncorrectableError_answers ..
  case memoryScrub => exact execMemoryScrub_answers ..
  case thermalTrip => exact execThermalTrip_answers ..
  case coolantHot => exact execCoolantHot_answers ..
  case housekeepingWatchdog => exact execHousekeepingWatchdog_answers ..
  case hostMemoryWrite => exact execHostMemoryWrite_answers ..
  case linkFlitReceive => exact execLinkFlitReceive_answers ..
  case linkReplayLimit => exact execLinkReplayLimit_answers ..
  case portReset => exact execPortReset_answers ..
  case deviceReset => exact execDeviceReset_answers ..
  case semAcquire => exact execSemAcquire_answers ..
  case semRelease => exact execSemRelease_answers ..
  case partitionWrite => exact execPartitionWrite_answers ..
  case windowTableWrite => exact execWindowTableWrite_answers ..
  case grant => exact execGrant_answers ..
  case tlbinv => exact execTlbinv_answers ..
  case splinter => exact execSplinter_answers ..
  case framePoolWrite => exact execFramePoolWrite_answers ..
  case safesetWrite => exact execSafesetWrite_answers ..
  case registerWrite => exact execRegisterWrite_answers ..
  case shadowReplay => exact absurd rfl hi

end Sys2Proof.Machine

namespace Sys2Proof.Machine

/-! ### The shadow -/

/-- What the shadow re-executes is an instruction as `exec` means it; what it does not, it leaves alone. -/
theorem runC_eq (i : Instr) (s : State) : runC i s = .next s ∨ (runC i s = exec i s ∧ i ≠ .shadowReplay) := by
  fun_cases runC i s
  case case99 => exact .inl rfl
  all_goals exact .inr ⟨rfl, nofun⟩

theorem runC_answers (i : Instr) (s : State) : Answers (runC i s) := by
  rcases runC_eq i s with h | ⟨h, hi⟩
  · rw [h]
    trivial
  · rw [h]
    exact exec_answers_of_ne i hi s

theorem replayCompared_answers (s : State) (g : Group) (c : CSide) (it : LogItem) (i : Instr) :
    Answers (replayCompared s g c it i) := by
  fun_cases replayCompared s g c it i
  case case5 => exact runC_answers ..
  all_goals trivial

theorem execShadowReplay_answers (s : State) : Answers (execShadowReplay s) := by
  fun_cases execShadowReplay s
  case case4 => exact replayCompared_answers ..
  all_goals trivial

/-- An instruction or a step of an agent goes on, or stops the machine at an address that no memory stands at. -/
theorem exec_answers (i : Instr) (s : State) : Answers (exec i s) := by
  by_cases hi : i = .shadowReplay
  · subst hi
    exact execShadowReplay_answers s
  · exact exec_answers_of_ne i hi s

end Sys2Proof.Machine

namespace Sys2Proof.Machine

/-! ### A turn and a step -/

/-- What a turn runs, if it is a fault, is that of a missing address. -/
inductive Turning.AtHole : Turning → Prop
  | idle : Turning.AtHole .idle
  | runs (i : Instr) : Turning.AtHole (.runs i)
  | stops {f : Fault} (h : f.AtHole) : Turning.AtHole (.stops f)

theorem failed_atHole (cside : Bool) (va : Nat) (f : AFault) : (Turning.failed cside va f).AtHole := by
  cases f <;> constructor
  trivial

theorem failedTurn_atHole (s : State) (g : Group) (split : Option Nat) (va : Nat) (f : AFault) :
    (failedTurn s g split va f).2.AtHole := by
  fun_cases failedTurn s g split va f
  case case3 => exact failed_atHole ..
  all_goals exact .idle

theorem fetchA_atHole (s : State) (g : Group) : (fetchA s g).2.AtHole := by
  fun_cases fetchA s g
  case case1 => exact failedTurn_atHole ..
  case case2 => exact failedTurn_atHole ..
  all_goals constructor

theorem withinClause_atHole (s : State) (g : Group) (k : Nat) (p : Split) : (withinClause s g k p).2.AtHole := by
  fun_cases withinClause s g k p
  case case1 he =>
    split at he
    · split at he
      · split at he
        · cases he
          exact .runs _
        · split at he <;> cases he
          exact .runs _
      · have ht := Option.some.inj (congrArg Prod.snd he)
        exact ht ▸ failedTurn_atHole ..
    · cases he
  case case2 => exact failedTurn_atHole ..
  all_goals constructor

theorem turnC_atHole (s : State) (g : Group) (k : Nat) : (turnC s g k).2.AtHole := by
  fun_cases turnC s g k
  case case3 => split <;> constructor
  case case6 => exact withinClause_atHole ..
  all_goals constructor

theorem turnOf_atHole (s : State) (w : What) : (turnOf s w).2.AtHole := by
  fun_cases turnOf s w
  case case1 => split <;> constructor
  case case2 => exact fetchA_atHole ..
  case case5 => exact turnC_atHole ..
  all_goals constructor

theorem counted_answers (s : State) (w : What) (i : Instr) {r : Out} (h : Answers r) : Answers (counted s w i r) := by
  cases r
  case next => trivial
  all_goals exact h

/-- A machine that runs takes a step that goes on, or stops at an address that no memory stands at. -/
theorem step_answers {s : State} (h : s.haltedAt s.nextTurn.1.what = none) : Answers (step s) := by
  have ht := turnOf_atHole ((s.nextTurn.2.galleyTo s.nextTurn.1.adv).begin s.nextTurn.1) s.nextTurn.1.what
  unfold step
  simp only [h]
  split
  · trivial
  · exact counted_answers _ _ _ (exec_answers ..)
  case h_3 he =>
    rw [he] at ht
    cases ht
    assumption

theorem step_of_haltedAt {s : State} {f : Fault} (h : s.haltedAt s.nextTurn.1.what = some f) : step s = .fault f := by
  unfold step
  simp only [h]

theorem step_of_stops {s t : State} {f : Fault} (h : s.haltedAt s.nextTurn.1.what = none)
    (ht : turnOf ((s.nextTurn.2.galleyTo s.nextTurn.1.adv).begin s.nextTurn.1) s.nextTurn.1.what = (t, .stops f)) :
    step s = .fault f := by
  unfold step
  simp only [h, ht]

theorem haltedAt_cases (s : State) (w : What) :
    (s.haltedAt w = some .thermallyStopped ∧ s.rely.stopped = true) ∨
    (s.haltedAt w = some .bootHalted ∧ 16 ≤ s.regs.boot ∧ s.rely.stopped = false) ∨
    s.haltedAt w = none := by
  fun_cases State.haltedAt s w
  case case2 h => exact .inl ⟨rfl, h⟩
  case case3 hs hb => exact .inr (.inl ⟨rfl, hb.2, by simpa using hs⟩)
  all_goals exact .inr (.inr rfl)

/-- The faults of a step, and that none is refused. -/
theorem step_stops (s : State) : (∀ r, step s ≠ .refused r) ∧
    (step s = .fault .thermallyStopped → s.rely.stopped = true) ∧
    (step s = .fault .bootHalted → 16 ≤ s.regs.boot ∧ s.rely.stopped = false) := by
  rcases haltedAt_cases s s.nextTurn.1.what with ⟨hw, hs⟩ | ⟨hw, hb, hs⟩ | hw
  · rw [step_of_haltedAt hw]
    exact ⟨nofun, fun _ => hs, nofun⟩
  · rw [step_of_haltedAt hw]
    exact ⟨nofun, nofun, fun _ => ⟨hb, hs⟩⟩
  · have h := step_answers hw
    refine ⟨fun r hr => ?_, fun hr => ?_, fun hr => ?_⟩ <;> rw [hr] at h <;> exact h.elim

theorem step_thermallyStopped {s : State} (hs : s.rely.stopped = true) (hw : s.nextTurn.1.what ≠ .ev .deviceReset) :
    step s = .fault .thermallyStopped :=
  step_of_haltedAt (by simp [State.haltedAt, hw, hs])

/-! ### Addresses that no memory stands at (00 R4) -/

theorem pteWhere_hole {p : BitVec 64} {level va a : Nat} (h : pteWhere p level va = .hole a) : usable ≤ a := by
  revert h
  fun_cases pteWhere p level va
  case case1 h => exact fun he => Where.hole.inj he ▸ h
  all_goals exact nofun

theorem walkFrom_hole {s : State} {va n level tbl a : Nat} : walkFrom s va n level tbl = .hole a → usable ≤ a := by
  fun_induction walkFrom s va n level tbl
  case case2 h => exact fun he => WalkRes.hole.inj he ▸ h
  case case7 ih => exact ih
  all_goals exact nofun

theorem walk_hole {s : State} {v va a : Nat} (h : walk s v va = .hole a) : usable ≤ a := by
  revert h
  fun_cases walk s v va
  case case3 => exact walkFrom_hole
  all_goals exact nofun

/-- A route that ends at a missing address ends at one past the end of usable memory. -/
def Route.PastEnd (r : Route) : Prop := ∀ a t, r = .walked (.hole a) t → usable ≤ a

theorem route_pastEnd {e : TlbEnt} {s : State} {va acc : Nat} {w : WalkRes} {r : Route} (h : e.route s va acc w = some r) :
    r.PastEnd := by
  intro a t hr
  subst hr
  revert h
  fun_cases TlbEnt.route s va acc w e
  case case5 =>
    intro h
    obtain ⟨h, -⟩ := Route.walked.inj (Option.some.inj h)
    exact walkFrom_hole h
  all_goals exact nofun

theorem getD_pastEnd {now : Route} {os : List Route} (hn : now.PastEnd) (ho : ∀ r ∈ os, r.PastEnd) (k : Nat) :
    ((now :: os).getD k now).PastEnd := by
  by_cases hk : k < (now :: os).length
  · rw [List.getD_eq_getElem _ _ hk]
    rcases List.mem_cons.mp (List.getElem_mem hk) with h | h
    · rwa [h]
    · exact ho _ h
  · rwa [List.getD_eq_default _ _ (by omega)]

theorem walkedNow_pastEnd (s : State) (v va : Nat) : (Route.walked (walk s v va) (s.root v)).PastEnd := by
  intro a t h
  exact walk_hole (Route.walked.inj h).1

theorem toWrite_hole {w : Where} {acc v va a : Nat} {p : BitVec 64} (h : w.toWrite acc v va p = .hole a) : w = .hole a := by
  revert h
  fun_cases Where.toWrite w acc v va p
  case case1 => exact nofun
  all_goals exact id

theorem translate_hole {s t : State} {v acc va a : Nat} {sup : Bool} {tlbs : Option (Nat × Nat)}
    (h : translate s v sup tlbs acc va = (t, .ok (.hole a))) : usable ≤ a := by
  replace h := congrArg Prod.snd h
  revert h
  fun_cases translate s v sup tlbs acc va
  case case1 => exact fun h => pteWhere_hole (Except.ok.inj h)
  case case4 b _ he =>
    intro h
    obtain rfl : b = a := by simpa using h
    have hnow := walkedNow_pastEnd s v va
    split at he
    · exact hnow _ _ (congrArg Prod.fst he)
    · refine getD_pastEnd hnow (fun r hr => ?_) _ _ _ (congrArg Prod.fst he)
      obtain ⟨e, -, he⟩ := List.mem_filterMap.mp hr
      exact route_pastEnd he
  case case5 => exact fun h => pteWhere_hole (toWrite_hole (Except.ok.inj h))
  all_goals exact nofun

theorem globalAt_hole {s t : State} {v acc va a : Nat} {sup : Bool} {ag : Agent}
    (h : globalAt s v sup ag acc va = (t, .error (.hole a))) : usable ≤ a := by
  replace h := congrArg Prod.snd h
  revert h
  fun_cases globalAt s v sup ag acc va
  case case4 he =>
    intro h
    exact AFault.hole.inj (Except.error.inj h) ▸ translate_hole he
  all_goals exact nofun

/-- What a fetch meets: an address that no memory stands at is one past the end of usable memory. -/
def AFault.PastEnd (e : AFault) : Prop := ∀ a, e = .hole a → usable ≤ a

theorem fetchBytes_pastEnd (s : State) (g : Group) (va n : Nat) : OnError AFault.PastEnd (fetchBytes s g va n).2 := by
  refine foldl_onError _ (.ok _) ?_
  rintro ⟨s, e | bs⟩ p hx
  · exact hx
  · dsimp only
    split
    · exact .ok _
    case h_2 he =>
      refine .error fun a ha => ?_
      subst ha
      exact globalAt_hole he

theorem fetchBytes_hole {s t : State} {g : Group} {va n a : Nat} (h : fetchBytes s g va n = (t, .error (.hole a))) : usable ≤ a := by
  have hp := fetchBytes_pastEnd s g va n
  rw [h] at hp
  exact onError_of_error hp a rfl

theorem failedTurn_hole {s : State} {g : Group} {split : Option Nat} {va a : Nat} (h : usable ≤ a) :
    failedTurn s g split va (.hole a) = (s, .stops (.noSuchAddress a)) := by
  have ha : a ≠ 0 := by
    unfold usable at h
    omega
  simp [failedTurn, Turning.failed, fetchFailed, ha]

theorem fetchA_hole {s t : State} {g : Group} {a : Nat}
    (h : fetchBytes s g (((s.pk g).abase + g.apc) % 2 ^ 64) 4 = (t, .error (.hole a))) :
    fetchA s g = (t, .stops (.noSuchAddress a)) := by
  unfold fetchA
  simp only [h]
  exact failedTurn_hole (fetchBytes_hole h)

theorem turnOf_fetchA {s : State} {g : Group} (hg : s.grp? = some g) (hr : g.aRuns = true) (hi : s.issues g = true) :
    turnOf s .a = fetchA s g := by
  simp [turnOf, hg, hr, hi]

theorem pteWhere_dev {p : BitVec 64} (h : pteTgt p = 0) (level va : Nat) :
    let a := ptePa p + if level = 2 then va % 2 ^ 25 else va % 2 ^ 14
    (a < usable → pteWhere p level va = .at_ { space := .dev, addr := a, cls := p.toNat / 64 % 4 }) ∧
    (usable ≤ a → pteWhere p level va = .hole a) := by
  intro a
  have hw : pteWhere p level va = if usable ≤ a then .hole a else .at_ { space := .dev, addr := a, cls := p.toNat / 64 % 4 } := by
    unfold pteWhere
    rewrite [h]
    rfl
  rw [hw]
  exact ⟨fun ha => if_neg (by omega), fun ha => if_pos ha⟩

/-- Settles O59: an instruction or step goes on or stops at a missing address (`exec_answers`), only `State.haltedAt` gives the other two
faults, and walks, cached entries and fetches meet a missing address only past the end of usable memory. -/
theorem stopsOnlyByName : Obligations.StopsOnlyByName := by
  refine ⟨fun s => ?_, fun _ _ _ _ _ _ _ _ h => globalAt_hole h, fun _ level va h => pteWhere_dev h level va, ?_⟩
  · obtain ⟨hr, ht, hb⟩ := step_stops s
    exact ⟨hr, ht, hb, step_thermallyStopped⟩
  · intro s s1 g a t s0 hw hh hg hr hi hf
    refine step_of_stops (t := s1) (hw ▸ hh) ?_
    rw [hw]
    exact (turnOf_fetchA hg hr hi).trans (fetchA_hole hf)

end Sys2Proof.Machine

namespace Sys2Proof.Machine

/-! ## TIME (01 R35)

Only `State.begin` and a device reset change `State.tick`. A lemma `f_tick` says that the function `f` of the model leaves it;
the lemmas stand in the order in which the functions use each other.

### The operations on the state -/

-- One after another, as in Sys2Proof/Tests/Slice0.lean: a thread for each proof would need more memory than the check allows.
set_option Elab.async false

theorem foldl_tick {α : Type} {f : State → α → State} (l : List α) (h : ∀ s x, (f s x).tick = s.tick) (s : State) :
    (l.foldl f s).tick = s.tick := by
  induction l generalizing s with
  | nil => rfl
  | cons x l ih => rw [List.foldl_cons, ih, h]

theorem foldl_fst_tick {α β : Type} {f : State × β → α → State × β} (l : List α) (h : ∀ r x, (f r x).1.tick = r.1.tick)
    {n : Nat} {r : State × β} (hr : r.1.tick = n) : (l.foldl f r).1.tick = n := by
  induction l generalizing r with
  | nil => exact hr
  | cons x l ih => exact ih ((h r x).trans hr)

theorem getD_tick {n : Nat} {o : Option State} {s : State} (h : ∀ t, o = some t → t.tick = n) (hs : s.tick = n) :
    (o.getD s).tick = n := by
  cases o with
  | none => exact hs
  | some t => exact h t rfl

theorem tick_of_eq {α : Type} {n : Nat} {r : State × α} {t : State} {a : α} (h : r = (t, a)) (hr : r.1.tick = n) :
    t.tick = n := by
  subst h
  exact hr

theorem State.nextTurn_tick (s : State) : (State.nextTurn s).2.tick = s.tick := by
  fun_cases State.nextTurn s <;> rfl

@[simp] theorem State.keepT_tick (s : State) (e : TlbEnt) (cap : Nat) : (State.keepT s e cap).tick = s.tick := by
  fun_cases State.keepT s e cap <;> grind only [State.draw_tick]

@[simp] theorem State.written_tick (s : State) (x : Loc) (n : Nat) : (State.written s x n).tick = s.tick := by
  rfl

@[simp] theorem State.setMem_tick (s : State) (sp : Space) (m : Memory) : (State.setMem s sp m).tick = s.tick := by
  fun_cases State.setMem s sp m <;> rfl

@[simp] theorem State.putBytes_tick (s : State) (x : Loc) (bs : List Byte) : (State.putBytes s x bs).tick = s.tick := by
  simp [State.putBytes]

@[simp] theorem State.writeBytes_tick (s : State) (x : Loc) (bs : List Byte) : (State.writeBytes s x bs).tick = s.tick := by
  simp [State.writeBytes]

@[simp] theorem State.markUsed_tick (s : State) (a : Nat) (p : BitVec 64) (acc : Nat) :
    (State.markUsed s a p acc).tick = s.tick := by
  fun_cases State.markUsed s a p acc <;> rfl

@[simp] theorem State.walked_tick (s : State) (v : Nat) (tlbs : Option (Nat × Nat)) (va acc level a : Nat) (p : BitVec 64)
    (from_ : WalkStart) :
    (State.walked s v tlbs va acc level a p from_).tick = s.tick := by
  cases tlbs <;> simp only [State.walked, State.keepT_tick, foldl_tick _ fun _ _ => State.keepT_tick .., State.markUsed_tick]

theorem translate_tick (s : State) (v : Nat) (sup : Bool) (tlbs : Option (Nat × Nat)) (acc va : Nat) :
    (translate s v sup tlbs acc va).1.tick = s.tick := by
  fun_cases translate s v sup tlbs acc va <;> grind only [State.draw_tick, State.walked_tick]

theorem lostDetail_tick (s : State) (quad : Nat) : (lostDetail s quad).1.tick = s.tick := by
  rfl

theorem globalAt_tick (s : State) (v : Nat) (sup : Bool) (ag : Agent) (acc va : Nat) :
    (globalAt s v sup ag acc va).1.tick = s.tick := by
  fun_cases globalAt s v sup ag acc va <;> grind only [translate_tick, lostDetail_tick]

@[simp] theorem State.carries_tick (s : State) (lid n : Nat) : (State.carries s lid n).tick = s.tick := by
  rfl

@[simp] theorem State.writeBack_tick (s : State) (x : L2Line) : (State.writeBack s x).tick = s.tick := by
  fun_cases State.writeBack s x <;> rfl

@[simp] theorem State.useLine_tick (s : State) (u : User) (cls pa n : Nat) (write : Bool) :
    (State.useLine s u cls pa n write).tick = s.tick := by
  unfold State.useLine
  split
  · exact State.carries_tick ..
  dsimp only
  split
  · rfl
  split
  · exact State.carries_tick ..
  · split <;> simp [foldl_tick]

@[simp] theorem useLines_tick (u : User) (write : Bool) (r0 : Nat) (r1 : Loc) (r2 : Nat) (s : State) :
    (useLines u write r0 r1 r2 s).tick = s.tick := by
  fun_induction useLines u write r0 r1 r2 s <;> grind only [State.useLine_tick]

@[simp] theorem State.useL2_tick (s : State) (u : User) (l : Loc) (n : Nat) (write : Bool) :
    (State.useL2 s u l n write).tick = s.tick := by
  fun_cases State.useL2 s u l n write <;> simp

theorem fetchBytes_tick (s : State) (g : Group) (va n : Nat) : (fetchBytes s g va n).1.tick = s.tick := by
  refine foldl_fst_tick _ ?_ rfl
  grind only [globalAt_tick, State.useL2_tick]

@[simp] theorem State.colophon_tick (s : State) (cls code quad vf : Nat) (detail : List Byte) :
    (State.colophon s cls code quad vf detail).tick = s.tick := by
  fun_cases State.colophon s cls code quad vf detail <;> rfl

@[simp] theorem State.colGroup_tick (s : State) (g : Group) (code first : Nat) :
    (State.colGroup s g code first).tick = s.tick := by
  simp [State.colGroup]

@[simp] theorem State.publishBy_tick (s : State) (agent : Nat) (g : Group) (scope : Nat) :
    (State.publishBy s agent g scope).tick = s.tick := by
  fun_cases State.publishBy s agent g scope <;> rfl

@[simp] theorem State.publish_tick (s : State) (g : Group) (scope : Nat) : (State.publish s g scope).tick = s.tick := by
  simp [State.publish]

@[simp] theorem State.commit_tick (s : State) (g : Group) (c : Commit) : (State.commit s g c).tick = s.tick := by
  simp [State.commit]

@[simp] theorem State.arriveReady_tick (s : State) (gid : Nat) : (State.arriveReady s gid).tick = s.tick := by
  unfold State.arriveReady
  split
  · rfl
  · split
    · rfl
    · simp [foldl_tick]

theorem leaveSession_tick (s : State) (g : Group) (k : Nat) (ss : Session) (q : Nat) :
    (leaveSession s g k ss q).1.tick = s.tick := by
  fun_cases leaveSession s g k ss q
  grind

@[simp] theorem State.charge_tick (s : State) (lid n : Nat) : (State.charge s lid n).tick = s.tick := by
  rfl

@[simp] theorem State.offArrays_tick (s : State) (ss : Session) : (State.offArrays s ss).tick = s.tick := by
  refine foldl_tick _ (fun s x => ?_) _
  grind only [State.charge_tick]

@[simp] theorem State.quitSession_tick (s : State) (g : Group) : (State.quitSession s g).tick = s.tick := by
  fun_cases State.quitSession s g <;> grind only [leaveSession_tick, State.offArrays_tick]

@[simp] theorem State.release_tick (s : State) (gid : Nat) : (State.release s gid).tick = s.tick := by
  fun_cases State.release s gid <;> grind only [State.quitSession_tick]

@[simp] theorem State.removeGroup_tick (s : State) (gid : Nat) : (State.removeGroup s gid).tick = s.tick := by
  fun_cases State.removeGroup s gid <;> grind only [State.updL_tick, State.release_tick]

@[simp] theorem State.endGroup_tick (s : State) (gid : Nat) : (State.endGroup s gid).tick = s.tick := by
  fun_cases State.endGroup s gid <;> grind only [State.setG_tick, State.publish_tick, State.arriveReady_tick,
      State.release_tick, State.removeGroup_tick]

@[simp] theorem State.failLaunch_tick (s : State) (lid grp : Nat) : (State.failLaunch s lid grp).tick = s.tick := by
  rfl

@[simp] theorem doubleTrap_tick (s : State) (gid : Nat) (p : Pending) : (doubleTrap s gid p).tick = s.tick := by
  fun_cases doubleTrap s gid p <;> grind only [State.colGroup_tick, State.endGroup_tick, State.failLaunch_tick]

@[simp] theorem State.unwait_tick (s : State) (gid : Nat) : (State.unwait s gid).tick = s.tick := by
  rfl

@[simp] theorem State.updL1_tick (s : State) (core : Nat) (l : Loc) (bs : List Byte) :
    (State.updL1 s core l bs).tick = s.tick := by
  rfl

@[simp] theorem State.l1Write_tick (s : State) (core : Nat) (l : Loc) (bs : List Byte) :
    (State.l1Write s core l bs).tick = s.tick := by
  unfold State.l1Write
  split
  · rfl
  · exact foldl_fst_tick _ (by simp) rfl

@[simp] theorem State.dirtied_tick (s : State) (l : Loc) : (State.dirtied s l).tick = s.tick := by
  fun_cases State.dirtied s l <;> simp

@[simp] theorem State.see_tick (s : State) (agent : Nat) (ws : List Late) : (State.see s agent ws).tick = s.tick := by
  rfl

@[simp] theorem State.agentWrite_tick (s : State) (agent : Nat) (l : Loc) (bs : List Byte) :
    (State.agentWrite s agent l bs).tick = s.tick := by
  fun_cases State.agentWrite s agent l bs <;> grind only [State.putBytes_tick, State.see_tick]

@[simp] theorem State.engineWrite_tick (s : State) (u : User) (l : Loc) (bs : List Byte) :
    (State.engineWrite s u l bs).tick = s.tick := by
  fun_cases State.engineWrite s u l bs <;> grind only [State.writeBytes_tick, State.useL2_tick, State.l1Write_tick,
      State.dirtied_tick, State.agentWrite_tick]

theorem State.writeVaBlk_tick (s : State) (v : Nat) (sup : Bool) (u : Option User) (va : Nat) (bs : List Byte) :
    (State.writeVaBlk s v sup u va bs).1.tick = s.tick := by
  refine foldl_fst_tick _ ?_ rfl
  grind only [State.writeBytes_tick, globalAt_tick, State.dirtied_tick, State.engineWrite_tick]

theorem writeImage_tick (s : State) (g : Group) : (writeImage s g).1.tick = s.tick := by
  refine foldl_fst_tick _ ?_ rfl
  grind only [State.writeVaBlk_tick]

@[simp] theorem State.irqL_tick (s : State) (l : Launch) (vec : Nat) : (State.irqL s l vec).tick = s.tick := by
  rfl

@[simp] theorem takeTrap_tick (s : State) (gid : Nat) (p : Pending) : (takeTrap s gid p).tick = s.tick := by
  unfold takeTrap
  split
  · rfl
  split
  · exact doubleTrap_tick ..
  extract_lets s0 g1 g2 g3
  have h0 : s0.tick = s.tick := State.unwait_tick ..
  clear_value s0 g3
  rw [← h0]
  split
  next s1 e1 h1 =>
  replace h1 : s1.tick = s0.tick := tick_of_eq h1 (writeImage_tick ..)
  split
  · rw [doubleTrap_tick, State.setG_tick, h1]
  split
  next s2 e2 h2 =>
  replace h2 : s2.tick = s0.tick := (tick_of_eq h2 (State.writeVaBlk_tick ..)).trans h1
  split
  · rw [doubleTrap_tick, State.setG_tick, h2]
  dsimp only
  split
  · exact h2
  · rw [State.endGroup_tick, State.irqL_tick, State.colGroup_tick, State.failLaunch_tick]
    exact h2

@[simp] theorem raise_tick (s : State) (gid : Nat) (p : Pending) : (raise s gid p).tick = s.tick := by
  fun_cases raise s gid p <;> simp

theorem failedTurn_tick (s : State) (g : Group) (split : Option Nat) (va : Nat) (f : AFault) :
    (failedTurn s g split va f).1.tick = s.tick := by
  fun_cases failedTurn s g split va f <;> grind only [raise_tick]

theorem fetchA_tick (s : State) (g : Group) : (fetchA s g).1.tick = s.tick := by
  fun_cases fetchA s g <;> grind only [fetchBytes_tick, failedTurn_tick]

theorem fetchC_tick (s : State) (g : Group) (idx : Nat) : (fetchC s g idx).1.tick = s.tick := by
  fun_cases fetchC s g idx <;> grind only [fetchBytes_tick]

theorem withinClause_tick (s : State) (g : Group) (k : Nat) (p : Split) : (withinClause s g k p).1.tick = s.tick := by
  fun_cases withinClause s g k p <;> grind only [State.putG_tick, failedTurn_tick, fetchC_tick]

theorem turnC_tick (s : State) (g : Group) (k : Nat) : (turnC s g k).1.tick = s.tick := by
  fun_cases turnC s g k <;> grind only [withinClause_tick]

theorem turnOf_tick (s : State) (w : What) : (turnOf s w).1.tick = s.tick := by
  fun_cases turnOf s w <;> grind only [fetchA_tick, turnC_tick]

theorem State.readVa_tick (s : State) (v : Nat) (sup : Bool) (va n : Nat) (u : Option User) :
    (State.readVa s v sup va n u).1.tick = s.tick := by
  refine foldl_fst_tick _ ?_ rfl
  grind only [globalAt_tick, State.useL2_tick]

theorem State.node_tick (s : State) (v n : Nat) : (State.node s v n).1.tick = s.tick := by
  fun_cases State.node s v n <;> grind only [State.readVa_tick]

theorem State.nodeWaits_tick (s : State) (v : Nat) (d : List Byte) : (State.nodeWaits s v d).1.tick = s.tick := by
  fun_cases State.nodeWaits s v d <;> grind only [State.readVa_tick]

theorem State.offers_tick (s : State) (v : Nat) : (State.offers s v).1.tick = s.tick := by
  refine foldl_fst_tick _ ?_ rfl
  grind only [State.node_tick, State.nodeWaits_tick]

@[simp] theorem State.setGal_tick (s : State) (v : Nat) (y : Galley) : (State.setGal s v y).tick = s.tick := by
  rfl

@[simp] theorem writeRecord_tick (s : State) (l : Launch) (status : Nat) (tail : List Byte) :
    (writeRecord s l status tail).tick = s.tick := by
  fun_cases writeRecord s l status tail <;> grind only [State.writeVaBlk_tick]

@[simp] theorem State.giveBack_tick (s : State) (v : Nat) (recs : List Nat) : (State.giveBack s v recs).tick = s.tick := by
  rfl

@[simp] theorem State.batchBack_tick (s : State) (v : Nat) (recs : List Nat) : (State.batchBack s v recs).tick = s.tick := by
  rfl

@[simp] theorem takePacket_tick (s : State) (qno : Nat) (qd : QDesc) (d : List Byte) (arrival : Nat)
    (batch : Option (Nat × Nat × List Nat × Nat)) (force : Nat) :
    (takePacket s qno qd d arrival batch force).tick = s.tick := by
  fun_cases takePacket s qno qd d arrival batch force <;> grind only [State.newId_tick, State.irqL_tick,
      writeRecord_tick, State.batchBack_tick]

@[simp] theorem State.galleyClk_tick (s : State) (v t : Nat) : (State.galleyClk s v t).tick = s.tick := by
  rfl

theorem State.galleyTime_tick (s : State) (v : Nat) : (State.galleyTime s v).1.tick = s.tick := by
  fun_cases State.galleyTime s v
  grind only [State.offers_tick]

theorem State.galleyNext_tick (s : State) : (State.galleyNext s).1.tick = s.tick := by
  refine foldl_fst_tick _ ?_ rfl
  grind only [State.galleyTime_tick]

@[simp] theorem State.galleyTimes_tick (until_ : Nat) (r0 : Nat) (s : State) :
    (State.galleyTimes until_ r0 s).tick = s.tick := by
  fun_induction State.galleyTimes until_ r0 s <;> grind only [State.galleyClk_tick, State.galleyNext_tick]

@[simp] theorem State.galleyTo_tick (s : State) (adv : Nat) : (State.galleyTo s adv).tick = s.tick := by
  unfold State.galleyTo
  dsimp only
  split
  · rfl
  · rw [State.galleyTimes_tick]
    exact foldl_tick _ (fun s v => by split <;> simp) s

@[simp] theorem State.countClk_tick (s : State) (gid c n : Nat) : (State.countClk s gid c n).tick = s.tick := by
  fun_cases State.countClk s gid c n <;> rfl

@[simp] theorem State.countCycles_tick (after before : State) (w : What) (i : Instr) :
    (State.countCycles after before w i).tick = after.tick := by
  fun_cases State.countCycles after before w i <;> grind only [State.updL_tick, State.countClk_tick]

theorem transPages_tick (s : State) (g : Group) (acc : Nat) (vas : List Nat) : (transPages s g acc vas).1.tick = s.tick := by
  refine foldl_fst_tick _ ?_ rfl
  grind only [translate_tick]

theorem checkElems_tick (s : State) (g : Group) (ag : Agent) (acc : Nat) (b : Buf) (scalar : Bool) (els : List (Nat × Nat)) :
    (checkElems s g ag acc b scalar els).1.tick = s.tick := by
  fun_cases checkElems s g ag acc b scalar els <;> grind only [transPages_tick]

@[simp] theorem State.deliverEng_tick (s : State) (eng : Option Nat) (pass : Option (Nat × Nat)) (c : Cause) :
    (State.deliverEng s eng pass c).tick = s.tick := by
  fun_cases State.deliverEng s eng pass c <;> grind

theorem State.agentRead_tick (s : State) (agent : Nat) (l : Loc) (n : Nat) :
    (State.agentRead s agent l n).1.tick = s.tick := by
  fun_cases State.agentRead s agent l n <;> grind only [State.draw_tick, State.see_tick]

theorem agentBytes_tick (agent : Nat) (r0 : Nat) (r1 : Loc) (r2 : Nat) (s : State) :
    (agentBytes agent r0 r1 r2 s).1.tick = s.tick := by
  fun_induction agentBytes agent r0 r1 r2 s <;> grind only [State.agentRead_tick]

theorem State.readView_tick (s : State) (agent : Nat) (l : Loc) (n : Nat) :
    (State.readView s agent l n).1.tick = s.tick := by
  fun_cases State.readView s agent l n <;> grind only [agentBytes_tick]

theorem State.readPast_tick (s : State) (u : User) (l : Loc) (n : Nat) : (State.readPast s u l n).1.tick = s.tick := by
  fun_cases State.readPast s u l n
  grind only [State.useL2_tick, State.readView_tick]

@[simp] theorem State.seeCore_tick (s : State) (u : User) (l : Loc) (n : Nat) : (State.seeCore s u l n).tick = s.tick := by
  fun_cases State.seeCore s u l n <;> rfl

@[simp] theorem State.fillL1_tick (s : State) (u : User) (l : Loc) (hint : Nat) :
    (State.fillL1 s u l hint).tick = s.tick := by
  fun_cases State.fillL1 s u l hint <;> grind only [State.draw_tick, State.readPast_tick, State.seeCore_tick]

@[simp] theorem State.prefetch_tick (s : State) (g : Group) (b : Buf) (l1 : Bool) (els : List (Nat × Nat)) :
    (State.prefetch s g b l1 els).tick = s.tick := by
  refine foldl_tick _ (fun s x => ?_) _
  grind only [State.useL2_tick, State.fillL1_tick]

theorem scalarWindow_tick (s : State) (g : Group) (b : Buf) (i : Word) : (scalarWindow s g b i).1.tick = s.tick := by
  fun_cases scalarWindow s g b i <;> grind only [translate_tick]

@[simp] theorem State.dirtiedPage_tick (s : State) (v va : Nat) : (State.dirtiedPage s v va).tick = s.tick := by
  fun_cases State.dirtiedPage s v va <;> simp

theorem levelAt_tick (s : State) (g : Group) (ag : Agent) (acc level ln a n : Nat) :
    (levelAt s g ag acc level ln a n).1.tick = s.tick := by
  fun_cases levelAt s g ag acc level ln a n <;> grind only [globalAt_tick]

theorem deliver_tick (s : State) (g : Group) (mu : Bool) (w : Waits) : ∀ t, deliver s g mu w = some t → t.tick = s.tick := by
  fun_cases deliver s g mu w <;> grind only [State.putG_tick, State.setBar_tick, raise_tick, State.deliverEng_tick]

@[simp] theorem State.dropL1_tick (s : State) (core : Nat) : (State.dropL1 s core).tick = s.tick := by
  rfl

@[simp] theorem State.acquire_tick (s : State) (g : Group) (scope : Nat) : (State.acquire s g scope).tick = s.tick := by
  fun_cases State.acquire s g scope <;> rfl

@[simp] theorem trapBinds_tick (s : State) (c : Cause) (bs : List Bind) : (trapBinds s c bs).tick = s.tick := by
  refine foldl_tick _ (fun s x => ?_) _
  split <;> simp

theorem State.readParts_tick (s : State) (v : Nat) (u : User) (r0 : List (Nat × Nat)) :
    (State.readParts s v u r0).1.tick = s.tick := by
  fun_induction State.readParts s v u r0 <;> grind only [State.readVa_tick]

theorem readStack_tick (s : State) (g : Group) (vregs k depth : Nat) : (readStack s g vregs k depth).1.tick = s.tick := by
  refine foldl_fst_tick _ ?_ rfl
  grind only [State.readVa_tick]

theorem readSplits_tick (s : State) (g : Group) (vregs : Nat) (tbl : List Byte) :
    (readSplits s g vregs tbl).1.tick = s.tick := by
  refine foldl_fst_tick _ ?_ rfl
  grind only [readStack_tick]

theorem readImage_tick (s : State) (g : Group) (c : Bool) : (readImage s g c).1.tick = s.tick := by
  unfold readImage
  extract_lets pk
  split
  · next h => exact (readSplits_tick ..).trans (tick_of_eq h (State.readParts_tick ..))
  all_goals next h => exact tick_of_eq h (State.readParts_tick ..)

@[simp] theorem State.resumeEng_tick (s : State) (gid : Nat) : (State.resumeEng s gid).tick = s.tick := by
  rfl

theorem returnTrap_tick (s : State) (gid : Nat) : (returnTrap s gid).1.tick = s.tick := by
  fun_cases returnTrap s gid <;> grind only [State.setG_tick, State.readVa_tick, readImage_tick, State.resumeEng_tick]

@[simp] theorem bareToken_tick (s : State) (g : Group) (c : Cause) (op : Nat) : (bareToken s g c op).tick = s.tick := by
  simp [bareToken]

@[simp] theorem endCStream_tick (s : State) (g : Group) : (endCStream s g).tick = s.tick := by
  fun_cases endCStream s g <;> simp

@[simp] theorem afterFlow_tick (s : State) (g : Group) (c : CSide) : (afterFlow s g c).tick = s.tick := by
  fun_cases afterFlow s g c <;> simp

@[simp] theorem State.afterReturn_tick (s : State) (gid : Nat) : (State.afterReturn s gid).tick = s.tick := by
  fun_cases State.afterReturn s gid <;> simp

@[simp] theorem State.retake_tick (s t : State) (gid : Nat) : (s.retake t gid).tick = t.tick := by
  fun_cases State.retake s t gid <;> rfl

@[simp] theorem State.leave_tick {s s0 : State} (hs : s.tick = s0.tick) (g0 : Group) (i : Instr) (h : CShape) (env : CEnv) :
    (s.leave s0 g0 i h env).tick = s0.tick := by
  fun_cases State.leave s s0 g0 i h env
  · rfl
  · exact hs
  · exact hs

@[simp] theorem State.waitC_tick (s : State) (g : Group) (k : Nat) (es : List (Nat × VEntry)) (w : WaitKind) :
    (State.waitC s g k es w).tick = s.tick := by
  rfl

@[simp] theorem queueWait_tick (s : State) (g : Group) (k : Nat) (es : List (Nat × VEntry)) (w : BitVec 96) (q : Nat) :
    (queueWait s g k es w q).tick = s.tick := by
  fun_cases queueWait s g k es w q <;> simp

@[simp] theorem State.countEv_tick (s : State) (lid : Nat) (r0 : List Nat) : (State.countEv s lid r0).tick = s.tick := by
  fun_induction State.countEv s lid r0 <;> grind only [State.irqL_tick]

@[simp] theorem putLanes_tick (s : State) (g : Group) (e : CEnv) (d : Dst) (f : Nat → Word) (fl : Fl) (ev : List Nat) :
    (putLanes s g e d f fl ev).tick = s.tick := by
  fun_cases putLanes s g e d f fl ev <;> simp

@[simp] theorem trapHere_tick (s : State) (g : Group) (e : CEnv) (word : BitVec 96) (c : Cause) (at_ : Option Nat) :
    (trapHere s g e word c at_).tick = s.tick := by
  simp [trapHere]

@[simp] theorem regroupAll_tick (s : State) (gid : Nat) (ms : List (Nat × Group × Lanes)) (base cnt : Nat) :
    (regroupAll s gid ms base cnt).tick = s.tick := by
  refine foldl_tick _ (fun s x => ?_) _
  grind only [State.setG_tick, State.countClk_tick, endCStream_tick]

@[simp] theorem stay_tick (s : State) (g : Group) (e : CEnv) (es : List (Nat × VEntry)) (w : WaitKind) :
    (stay s g e es w).tick = s.tick := by
  rfl

theorem isHeader_tick (s : State) (g : Group) (idx : Nat) (joinpt : Bool) : (isHeader s g idx joinpt).1.tick = s.tick := by
  fun_cases isHeader s g idx joinpt <;> grind only [fetchC_tick]

theorem flowCheck_tick (s : State) (g : Group) (p : Split) (target join : Option Nat) :
    (flowCheck s g p target join).1.tick = s.tick := by
  fun_cases flowCheck s g p target join <;> grind only [isHeader_tick]

theorem fillStack_tick (s : State) (g : Group) (k n : Nat) : (fillStack s g k n).1.tick = s.tick := by
  unfold fillStack
  split
  · rfl
  · extract_lets depth r
    have hr : r.1.tick = s.tick := foldl_fst_tick _ (by grind only [State.readVa_tick]) rfl
    grind only

theorem stackIo_tick (s : State) (g : Group) (new : CSide) : (stackIo s g new).1.tick = s.tick := by
  refine foldl_fst_tick _ ?_ rfl
  grind only [State.writeVaBlk_tick]

theorem laneFaultAt_tick (s : State) (g : Group) (k : Nat) (names : Nat → Bool) :
    ∀ t, laneFaultAt s g k names = some t → t.tick = s.tick := by
  fun_cases laneFaultAt s g k names <;> simp

@[simp] theorem State.putRay_tick (s : State) (g : Group) (l off : Nat) (r : RayState) :
    (State.putRay s g l off r).tick = s.tick := by
  rfl

@[simp] theorem trapAtWord_tick (s : State) (g : Group) (k : Nat) (w : BitVec 96) (c : Cause) :
    (trapAtWord s g k w c).tick = s.tick := by
  simp [trapAtWord]

theorem State.parts_tick (s : State) (ordered : Bool) (els : List (Nat × Loc)) :
    (State.parts s ordered els).1.tick = s.tick := by
  fun_cases State.parts s ordered els <;> grind only [State.draw_tick]

theorem State.partsOf_tick (s : State) (ordered : Bool) (rel : Nat) (els : List (Nat × Loc)) :
    (State.partsOf s ordered rel els).1.tick = s.tick := by
  fun_cases State.partsOf s ordered rel els <;> grind only [State.parts_tick]

theorem State.readL1_tick (s : State) (u : User) (l : Loc) (n : Nat) : (State.readL1 s u l n).1.tick = s.tick := by
  fun_cases State.readL1 s u l n <;> grind only [State.readPast_tick, State.seeCore_tick]

@[simp] theorem State.touchL1_tick (s : State) (u : User) (l : Loc) (hint : Nat) :
    (State.touchL1 s u l hint).tick = s.tick := by
  fun_cases State.touchL1 s u l hint <;> grind only [State.draw_tick, State.fillL1_tick]

theorem readPieces_tick (s : State) (u : User) (l1 : Bool) (n : Nat) (els : List (Nat × Loc)) :
    (readPieces s u l1 n els).1.tick = s.tick := by
  refine foldl_fst_tick _ ?_ rfl
  grind only [State.readPast_tick, State.readL1_tick, State.touchL1_tick]

@[simp] theorem State.writeThrough_tick (s : State) (u : User) (l : Loc) (bs : List Byte) :
    (State.writeThrough s u l bs).tick = s.tick := by
  fun_cases State.writeThrough s u l bs <;> grind only [State.useL2_tick, State.l1Write_tick, State.dirtied_tick,
      State.agentWrite_tick]

@[simp] theorem writePieces_tick (s : State) (u : User) (n : Nat) (f : Nat → Nat) (els : List (Nat × Loc)) :
    (writePieces s u n f els).tick = s.tick := by
  fun_cases writePieces s u n f els
  simp [foldl_tick]

theorem atomicAt_tick (s : State) (u : User) (l : Loc) (op : Nat) (x y : Word) :
    (atomicAt s u l op x y).1.tick = s.tick := by
  simp [atomicAt]

theorem atomPieces_tick (s : State) (u : User) (op : Nat) (x y : Lanes) (els : List (Nat × Loc)) :
    (atomPieces s u op x y els).1.tick = s.tick := by
  refine foldl_fst_tick _ ?_ rfl
  grind only [atomicAt_tick]

theorem MemOp.access_tick (o : MemOp) (s : State) (u : User) (els : List (Nat × Loc)) :
    (MemOp.access o s u els).1.tick = s.tick := by
  fun_cases MemOp.access o s u els <;> grind only [readPieces_tick, writePieces_tick, atomPieces_tick]

@[simp] theorem State.lateError_tick (s : State) (g : Group) (pc : Nat) : (State.lateError s g pc).tick = s.tick := by
  simp [State.lateError]

@[simp] theorem State.lateIfCut_tick (s : State) (gid pc : Nat) (ls : List Loc) :
    (State.lateIfCut s gid pc ls).tick = s.tick := by
  fun_cases State.lateIfCut s gid pc ls <;> simp

theorem State.perform_tick (s : State) (g : Group) (o : MemOp) : (State.perform s g o).1.tick = s.tick := by
  fun_cases State.perform s g o
  grind only [State.publish_tick, State.partsOf_tick, MemOp.access_tick, State.lateIfCut_tick]

@[simp] theorem State.dropPend_tick (s : State) (gid id : Nat) : (State.dropPend s gid id).tick = s.tick := by
  fun_cases State.dropPend s gid id <;> grind only [State.setG_tick, State.publish_tick, State.arriveReady_tick,
      State.removeGroup_tick]

@[simp] theorem State.endOp_tick (s : State) (g : Group) (o : MemOp) : (State.endOp s g o).tick = s.tick := by
  simp [State.endOp]

@[simp] theorem startClause_tick (s : State) (g : Group) (k : Nat) (w : BitVec 96) (h : Header) :
    (startClause s g k w h).tick = s.tick := by
  fun_cases startClause s g k w h <;> grind only [State.putG_tick, State.waitC_tick, laneFaultAt_tick]

@[simp] theorem failRead_tick (s : State) (g : Group) (o : MemOp) (code : Nat) : (failRead s g o code).tick = s.tick := by
  fun_cases failRead s g o code <;> grind only [State.setG_tick, lostDetail_tick, raise_tick, bareToken_tick,
      State.dropPend_tick]

@[simp] theorem State.setVf_tick (s : State) (v : Nat) (x : VfSt) : (State.setVf s v x).tick = s.tick := by
  rfl

theorem allocFrame_tick (s : State) (v : Nat) : (allocFrame s v).1.tick = s.tick := by
  fun_cases allocFrame s v <;> grind only [State.draw_tick, State.setVf_tick]

theorem freeFrameOf_tick (s : State) (v f : Nat) : (freeFrameOf s v f).1.tick = s.tick := by
  fun_cases freeFrameOf s v f <;> rfl

theorem postRequest_tick (s : State) (l : Launch) (lin page acc : Nat) : (postRequest s l lin page acc).1.tick = s.tick := by
  fun_cases postRequest s l lin page acc <;> rfl

theorem windowRun_tick (s : State) (g : Group) (off : Nat) (x y : Word) : (windowRun s g off x y).1.tick = s.tick := by
  fun_cases windowRun s g off x y <;> grind only [allocFrame_tick, freeFrameOf_tick, postRequest_tick]

@[simp] theorem dropMu_tick (s : State) (g : Group) (o : MuOp) : (dropMu s g o).tick = s.tick := by
  simp [dropMu]

@[simp] theorem holdMu_tick (s : State) (g : Group) (o : MuOp) (c : Cause) : (holdMu s g o c).tick = s.tick := by
  fun_cases holdMu s g o c <;> simp

theorem MuOp.access'_tick (o : MuOp) (s : State) (g : Group) (d0 d1 : Lanes) (els : List (Nat × Loc)) :
    (MuOp.access' o s g d0 d1 els).1.tick = s.tick := by
  fun_cases MuOp.access' o s g d0 d1 els <;> grind only [readPieces_tick, writePieces_tick, atomPieces_tick]

@[simp] theorem endMu_tick (s : State) (gid : Nat) (o : MuOp) : (endMu s gid o).tick = s.tick := by
  fun_cases endMu s gid o <;> simp

@[simp] theorem State.runMu_tick (s : State) (g : Group) (o : MuOp) (ps : List (Nat × Loc)) (d0 d1 : Lanes) :
    (State.runMu s g o ps d0 d1).tick = s.tick := by
  fun_cases State.runMu s g o ps d0 d1 <;> grind only [State.publish_tick, State.partsOf_tick, MemOp.access_tick,
      State.lateIfCut_tick, MuOp.access'_tick, endMu_tick]

@[simp] theorem endNear_tick (s : State) (g : Group) (o : MemOp) (flag : Nat) (ws : List (Nat × Mask × Lanes)) :
    (endNear s g o flag ws).tick = s.tick := by
  simp [endNear]

theorem engPlaces_tick (s : State) (g : Group) (engine acc level va n : Nat) (cls : Nat) :
    (engPlaces s g engine acc level va n cls).1.tick = s.tick := by
  refine foldl_fst_tick _ ?_ rfl
  grind only [levelAt_tick]

theorem l1Bytes_tick (u : User) (hint : Nat) (r0 : Nat) (r1 : Loc) (r2 : Nat) (s : State) :
    (l1Bytes u hint r0 r1 r2 s).1.tick = s.tick := by
  fun_induction l1Bytes u hint r0 r1 r2 s <;> grind only [State.readL1_tick, State.touchL1_tick]

theorem readPlaces_tick (s : State) (u : User) (ls : List (Loc × Nat)) : (readPlaces s u ls).1.tick = s.tick := by
  refine foldl_fst_tick _ ?_ rfl
  grind only [State.readPast_tick]

theorem laneRead_tick (s : State) (g : Group) (engine level va n cls : Nat) :
    (laneRead s g engine level va n cls).1.tick = s.tick := by
  fun_cases laneRead s g engine level va n cls
  · grind only [engPlaces_tick]
  · next h r =>
    have hr : r.1.tick = s.tick := by
      subst r
      split
      · exact foldl_fst_tick _ (by simp [l1Bytes_tick]) (by grind only [engPlaces_tick])
      · grind only [engPlaces_tick, readPlaces_tick]
    exact hr

theorem fetchTexel_tick (s : State) (g : Group) (t : Ten) (l x y c : Nat) : (fetchTexel s g t l x y c).1.tick = s.tick := by
  fun_cases fetchTexel s g t l x y c <;> grind only [laneRead_tick]

theorem fetchAll_tick (s : State) (g : Group) (t : Ten) (l : Nat) (ps : List (Nat × Nat)) (chans : List Nat) :
    (fetchAll s g t l ps chans).1.tick = s.tick := by
  refine foldl_fst_tick _ (fun x p => ?_) rfl
  obtain ⟨s, e | rows⟩ := x
  · rfl
  · dsimp only
    split
    all_goals next h => exact tick_of_eq h (foldl_fst_tick _ (by grind only [fetchTexel_tick]) rfl)

theorem bilinear_tick (s : State) (g : Group) (t : Ten) (mode l u v : Nat) :
    (bilinear s g t mode l u v).1.tick = s.tick := by
  fun_cases bilinear s g t mode l u v <;> grind only [fetchAll_tick]

theorem sampleLane_tick (s : State) (g : Group) (t : Ten) (mode filt : Nat) (v : List Nat) (lod : Nat) :
    (sampleLane s g t mode filt v lod).1.tick = s.tick := by
  fun_cases sampleLane s g t mode filt v lod <;> grind only [fetchAll_tick, bilinear_tick]

theorem gatherLane_tick (s : State) (g : Group) (t : Ten) (mode chan : Nat) (v : List Nat) (lod : Nat) :
    (gatherLane s g t mode chan v lod).1.tick = s.tick := by
  fun_cases gatherLane s g t mode chan v lod <;> grind only [fetchAll_tick]

theorem fetchUnits_tick (s : State) (g : Group) (b : Buf) (u n : Nat) : (fetchUnits s g b u n).1.tick = s.tick := by
  fun_cases fetchUnits s g b u n <;> grind only [laneRead_tick]

theorem fetchNode_tick (s : State) (g : Group) (b : Buf) (i : Nat) : (fetchNode s g b i).1.tick = s.tick := by
  fun_cases fetchNode s g b i <;> grind only [fetchUnits_tick]

theorem leafRecords_tick (g : Group) (c : RayCtx) (j kind u0 : Nat) (r0 : Nat) (r1 : Nat) (w : WalkSt) :
    (leafRecords g c j kind u0 r0 r1 w).1.s.tick = w.s.tick := by
  fun_induction leafRecords g c j kind u0 r0 r1 w <;> grind only [State.commit_tick, fetchUnits_tick]

theorem leafList_tick (g : Group) (c : RayCtx) (nd : List Byte) (r0 : List (Nat × Nat × Option Nat)) (w : WalkSt) :
    (leafList g c nd r0 w).1.s.tick = w.s.tick := by
  fun_induction leafList g c nd r0 w <;> grind only [leafRecords_tick]

theorem processNode_tick (g : Group) (c : RayCtx) (nd : List Byte) (from_ : Option (Nat × Nat)) (w : WalkSt) :
    (processNode g c nd from_ w).1.s.tick = w.s.tick := by
  fun_cases processNode g c nd from_ w <;> grind only [leafList_tick]

theorem visitNode_tick (g : Group) (c : RayCtx) (i : Nat) (pop : Bool) (w : WalkSt) :
    (visitNode g c i pop w).1.s.tick = w.s.tick := by
  fun_cases visitNode g c i pop w <;> grind only [fetchNode_tick, processNode_tick]

theorem backtrack_tick (g : Group) (c : RayCtx) (tmax : Nat) (r0 : Nat) (r1 : Nat) (s : State) :
    (backtrack g c tmax r0 r1 s).1.tick = s.tick := by
  fun_induction backtrack g c tmax r0 r1 s <;> grind only [fetchNode_tick]

theorem endLevel_tick (g : Group) (c : RayCtx) (w : WalkSt) : (endLevel g c w).1.s.tick = w.s.tick := by
  fun_cases endLevel g c w <;> grind only [fetchNode_tick]

theorem levelStep_tick (g : Group) (world c : RayCtx) (w : WalkSt) : (levelStep g world c w).1.s.tick = w.s.tick := by
  fun_cases levelStep g world c w <;> grind only [fetchNode_tick, processNode_tick, visitNode_tick, backtrack_tick,
      endLevel_tick]

theorem reenter_tick (g : Group) (c : RayCtx) (w : WalkSt) : (reenter g c w).1.s.tick = w.s.tick := by
  fun_cases reenter g c w <;> grind only [fetchUnits_tick, fetchNode_tick]

theorem walkStep_tick (g : Group) (world : RayCtx) (w : WalkSt) : (walkStep g world w).1.s.tick = w.s.tick := by
  fun_cases walkStep g world w <;> grind only [endLevel_tick, levelStep_tick, reenter_tick]

theorem State.goesOn_tick (s : State) : (State.goesOn s).1.tick = s.tick := by
  rfl

theorem walkRay_tick (g : Group) (world : RayCtx) (stops : Bool) (r0 : Nat) (w : WalkSt) :
    (walkRay g world stops r0 w).1.s.tick = w.s.tick := by
  fun_induction walkRay g world stops r0 w <;> grind only [walkStep_tick, State.goesOn_tick]

@[simp] theorem State.putOuter_tick (s : State) (g : Group) (l off : Nat) (r : RayState) (out : Option Nat) :
    (State.putOuter s g l off r out).tick = s.tick := by
  fun_cases State.putOuter s g l off r out <;> rfl

theorem State.draw4_tick (s : State) : (State.draw4 s).1.tick = s.tick := by
  rfl

theorem traceLane_tick (g : Group) (stops : Bool) (bvh : Buf) (init : Option Nat) (v : List Nat) (l : Nat) (s : State) :
    (traceLane g stops bvh init v l s).1.tick = s.tick := by
  fun_cases traceLane g stops bvh init v l s <;> grind only [State.putRay_tick, walkRay_tick, State.putOuter_tick,
      State.draw4_tick]

theorem readAhead_tick (s : State) (t : Ten) (es : List (Nat × List Int)) : (readAhead s t es).1.tick = s.tick := by
  fun_cases readAhead s t es <;> grind only [State.draw_tick, State.parts_tick]

theorem engRead_tick (s : State) (g : Group) (engine level va n : Nat) (cls : Nat) (u : User) :
    (engRead s g engine level va n cls u).1.tick = s.tick := by
  fun_cases engRead s g engine level va n cls u <;> grind only [engPlaces_tick, readPlaces_tick]

theorem tenRead_tick (s : State) (g : Group) (engine : Nat) (t : Ten) (cs : List Int) (u : User) :
    (tenRead s g engine t cs u).1.tick = s.tick := by
  fun_cases tenRead s g engine t cs u <;> grind only [engRead_tick]

theorem srcElem_tick (s : State) (g : Group) (engine : Nat) (t : Ten) (cs : List Int) (u : User) :
    (srcElem s g engine t cs u).1.tick = s.tick := by
  fun_cases srcElem s g engine t cs u <;> grind only [tenRead_tick]

theorem readParts_tick (s : State) (g : Group) (engine : Nat) (t : Ten) (got : List (Nat × Nat)) (pick : Nat → Bool)
    (es : List (Nat × List Int)) (u : User) :
    (readParts s g engine t got pick es u).1.tick = s.tick := by
  refine foldl_fst_tick _ ?_ rfl
  grind only [State.parts_tick, srcElem_tick]

theorem partElem_tick (s : State) (g : Group) (engine : Nat) (t : Ten) (got : List (Nat × Nat)) (k : Nat) (cs : List Int)
    (u : User) :
    (partElem s g engine t got k cs u).1.tick = s.tick := by
  fun_cases partElem s g engine t got k cs u <;> grind only [State.parts_tick, srcElem_tick]

theorem unitElem_tick (s : State) (g : Group) (o : EngOp) (engine : Nat) (t : Ten) (zero : Bool) (k : Nat) (cs : List Int) :
    (unitElem s g o engine t zero k cs).1.tick = s.tick := by
  fun_cases unitElem s g o engine t zero k cs <;> grind only [partElem_tick]

@[simp] theorem writePlaces_tick (s : State) (u : User) (ls : List (Loc × Nat)) (bs : List Byte) :
    (writePlaces s u ls bs).tick = s.tick := by
  refine foldl_fst_tick _ ?_ rfl
  grind only [State.engineWrite_tick]

theorem engWrite_tick (s : State) (g : Group) (engine level va : Nat) (bs : List Byte) (cls : Nat) (u : User) :
    (engWrite s g engine level va bs cls u).1.tick = s.tick := by
  fun_cases engWrite s g engine level va bs cls u <;> grind only [engPlaces_tick, writePlaces_tick]

theorem tenWrite_tick (s : State) (g : Group) (engine : Nat) (t : Ten) (cs : List Int) (v : Nat) (u : User) :
    (tenWrite s g engine t cs v u).1.tick = s.tick := by
  fun_cases tenWrite s g engine t cs v u <;> grind only [engPlaces_tick, writePlaces_tick, engWrite_tick]

theorem copyChunk_tick (s : State) (g : Group) (o : EngOp) (ts td : Ten) (zero : Bool) (sc dc : List Int) :
    (copyChunk s g o ts td zero sc dc).1.tick = s.tick := by
  unfold copyChunk
  extract_lets r
  have hr : r.1.tick = s.tick := foldl_fst_tick _ (by grind only [unitElem_tick, tenWrite_tick]) rfl
  grind only

theorem copyUnits_tick (g : Group) (ts td : Ten) (zero : Bool) (sc dc : List Int) (r0 : Nat) (r1 : EngOp) (s : State) :
    (copyUnits g ts td zero sc dc r0 r1 s).1.tick = s.tick := by
  fun_induction copyUnits g ts td zero sc dc r0 r1 s <;> grind only [State.publishBy_tick, State.lateIfCut_tick,
      State.goesOn_tick, readAhead_tick, readParts_tick, copyChunk_tick]

theorem readSeg_tick (s : State) (g : Group) (b : Buf) (n : Nat) (u : User) (got : List (Nat × Nat)) (from_ : Nat) :
    (readSeg s g b n u got from_).1.tick = s.tick := by
  fun_cases readSeg s g b n u got from_ <;> grind only [engRead_tick]

theorem segAhead_tick (s : State) (g : Group) (b : Buf) (f k count : Nat) (u : User) (got : List (Nat × Nat)) :
    (segAhead s g b f k count u got).1.tick = s.tick := by
  fun_cases segAhead s g b f k count u got <;> grind only [State.draw_tick, readSeg_tick]

theorem segCurve_tick (s : State) (g : Group) (b : Buf) (f k count : Nat) (ox oy : Int) (u : User) (got : List (Nat × Nat)) :
    (segCurve s g b f k count ox oy u got).1.tick = s.tick := by
  fun_cases segCurve s g b f k count ox oy u got <;> grind only [readSeg_tick]

theorem coverSegs_tick (g : Group) (b : Buf) (f count : Nat) (ox oy : Int) (r0 : Nat) (r1 : EngOp) (s : State) :
    (coverSegs g b f count ox oy r0 r1 s).1.tick = s.tick := by
  fun_induction coverSegs g b f count ox oy r0 r1 s <;> grind only [State.goesOn_tick, segAhead_tick, segCurve_tick]

theorem EngOp.wrote_tick (o : EngOp) (r : State × Option Stop) : (o.wrote r).1.tick = r.1.tick := by
  obtain ⟨s, _ | e⟩ := r <;> rfl

theorem writeElems_tick (s : State) (g : Group) (engine : Nat) (t : Ten) (xs : List (List Int × Nat)) :
    (writeElems s g engine t xs).1.tick = s.tick := by
  unfold writeElems
  extract_lets r
  have hr : r.1.tick = s.tick := foldl_fst_tick _ (by grind only [tenWrite_tick]) rfl
  grind only

theorem endCover_tick (g : Group) (t : Ten) (eo : Bool) (o : EngOp) (s : State) : (endCover g t eo o s).1.tick = s.tick := by
  unfold endCover
  rw [EngOp.wrote_tick, writeElems_tick]

theorem unitElems_tick (s : State) (g : Group) (o : EngOp) (engine : Nat) (t : Ten) (zero : Bool)
    (es : List (Nat × List Int)) :
    (unitElems s g o engine t zero es).1.tick = s.tick := by
  refine foldl_fst_tick _ ?_ rfl
  grind only [unitElem_tick]

theorem writeSig_tick (s : State) (g : Group) (va v : Nat) : (writeSig s g va v).1.tick = s.tick := by
  fun_cases writeSig s g va v <;> grind only [engPlaces_tick, writePlaces_tick]

theorem storeTile_tick (s : State) (g : Group) (o : EngOp) (t u : Ten) (tx ty : Int) (sigVa : Nat) :
    (storeTile s g o t u tx ty sigVa).1.tick = s.tick := by
  fun_cases storeTile s g o t u tx ty sigVa <;> grind only [writeElems_tick, unitElems_tick, writeSig_tick]

theorem runEng_tick (s : State) (g : Group) (o : EngOp) : (runEng s g o).1.tick = s.tick := by
  fun_cases runEng s g o <;>
    grind only [copyUnits_tick, coverSegs_tick, endCover_tick, readAhead_tick, readParts_tick, storeTile_tick,
        EngOp.wrote_tick]

@[simp] theorem State.engBegin_tick (s : State) (g : Group) (o : EngOp) : (State.engBegin s g o).tick = s.tick := by
  fun_cases State.engBegin s g o <;> rfl

theorem counterAt_tick (s : State) (g : Group) (o : EngOp) : (counterAt s g o).1.tick = s.tick := by
  fun_cases counterAt s g o <;> grind only [globalAt_tick]

@[simp] theorem State.engArrive_tick (s : State) (tid nb gid : Nat) : (State.engArrive s tid nb gid).tick = s.tick := by
  rfl

@[simp] theorem endEng_tick (s : State) (g : Group) (o : EngOp) (ctr : Option Loc) (lines : List Loc) :
    (endEng s g o ctr lines).tick = s.tick := by
  fun_cases endEng s g o ctr lines <;> grind only [State.publishBy_tick, State.engineWrite_tick, State.lateIfCut_tick,
      State.engArrive_tick]

@[simp] theorem State.putEng_tick (s : State) (o : EngOp) : (State.putEng s o).tick = s.tick := by
  rfl

@[simp] theorem State.setSession_tick (s : State) (k : Nat) (ss : Session) : (State.setSession s k ss).tick = s.tick := by
  rfl

theorem readTile_tick (s : State) (g : Group) (t : Nat) : (readTile s g t).1.tick = s.tick := by
  fun_cases readTile s g t <;> grind only [State.readVa_tick]

@[simp] theorem State.dissolve_tick (s : State) (k : Nat) : (State.dissolve s k).tick = s.tick := by
  fun_cases State.dissolve s k <;> grind only [State.offArrays_tick, State.parts_tick]

@[simp] theorem State.breakUp_tick (s : State) (k : Nat) (c : Cause) (pc : Nat) :
    (State.breakUp s k c pc).tick = s.tick := by
  fun_cases State.breakUp s k c pc
  · rfl
  · next t =>
    rw [foldl_tick _ (fun s p => by split <;> rfl)]
    exact State.dissolve_tick ..

@[simp] theorem reload_tick (s : State) (k : Nat) : (reload s k).tick = s.tick := by
  -- another name for what it reads: the kernel would run the read of a tile
  obtain ⟨read, hread, h⟩ : ∃ f, f = @readTile ∧ ∀ s g t, (f s g t).1.tick = s.tick := ⟨_, rfl, readTile_tick⟩
  unfold reload
  rw [← hread]
  split
  · rfl
  split
  · rfl
  extract_lets r
  have hr : r.1.tick = s.tick := foldl_fst_tick _ (fun x t => foldl_fst_tick _ (fun x p => by grind only) rfl) rfl
  clear_value r
  split
  · exact hr
  · rw [State.breakUp_tick, hr]

@[simp] theorem evict_tick (s : State) (k : Nat) : (evict s k).tick = s.tick := by
  -- another name for what it writes: the kernel would run the write of a tile
  obtain ⟨write, hwrite, h⟩ : ∃ f, f = @State.writeVaBlk ∧ ∀ s v b u va bs, (f s v b u va bs).1.tick = s.tick :=
    ⟨_, rfl, State.writeVaBlk_tick⟩
  unfold evict
  rw [← hwrite]
  split
  · rfl
  extract_lets r
  have hr : r.1.tick = s.tick := foldl_fst_tick _ (fun x t => foldl_fst_tick _ (fun x p => by grind only) rfl) rfl
  clear_value r
  split
  · rw [State.breakUp_tick, hr]
  · exact hr

@[simp] theorem makeRoom_tick (quad k : Nat) (r0 : Nat) (s : State) : (makeRoom quad k r0 s).tick = s.tick := by
  fun_induction makeRoom quad k r0 s <;> grind only [evict_tick]

theorem loadAccin_tick (s : State) (g : Group) (ss : Session) (p : Pass) : (loadAccin s g ss p).1.tick = s.tick := by
  unfold loadAccin
  generalize List.range 96 = columns
  refine foldl_fst_tick _ (fun x im => ?_) rfl
  extract_lets row
  have hrow : row.1.tick = x.1.tick := foldl_fst_tick _ (by grind only [tenRead_tick]) rfl
  clear_value row
  grind only

theorem firstStep_tick (s : State) (g : Group) (ss : Session) (p : Pass) : (firstStep s g ss p).1.tick = s.tick := by
  fun_cases firstStep s g ss p <;> grind only [loadAccin_tick]

@[simp] theorem passFault_tick (s : State) (k : Nat) (ss : Session) (p : Pass) (c : Cause) :
    (passFault s k ss p c).tick = s.tick := by
  rfl

theorem latch_tick (s : State) (ss : Session) : (latch s ss).1.tick = s.tick := by
  simp [latch, foldl_tick]

@[simp] theorem State.leaderFl_tick (s : State) (g : Group) (f : Fl) : (State.leaderFl s g f).tick = s.tick := by
  rfl

theorem rowAhead_tick (s : State) (g : Group) (ss : Session) (p : Pass) (i m : Nat) :
    (rowAhead s g ss p i m).1.tick = s.tick := by
  fun_cases rowAhead s g ss p i m <;> grind only [readAhead_tick, readParts_tick]

theorem readRow_tick (s : State) (g : Group) (ss : Session) (p : Pass) (i m : Nat) (got : List (Nat × Nat)) :
    (readRow s g ss p i m got).1.tick = s.tick := by
  refine foldl_fst_tick _ ?_ rfl
  grind only [partElem_tick]

theorem takeRow_tick (s : State) (g : Group) (ss : Session) (p : Pass) (i m : Nat) :
    (takeRow s g ss p i m).1.tick = s.tick := by
  fun_cases takeRow s g ss p i m
  grind only [readRow_tick]

theorem readNext_tick (s : State) (g : Group) (ss : Session) (p : Pass) (i m : Nat) :
    (readNext s g ss p i m).1.tick = s.tick := by
  fun_cases readNext s g ss p i m <;> grind only [rowAhead_tick]

@[simp] theorem checkFailed_tick (s : State) (k quad array : Nat) (ss : Session) (p : Pass) :
    (checkFailed s k quad array ss p).tick = s.tick := by
  simp [checkFailed]

theorem readTable_tick (s : State) (g : Group) (p : Pass) : (readTable s g p).1.tick = s.tick := by
  fun_cases readTable s g p <;> grind only [engRead_tick]

theorem writeRow_tick (s : State) (g : Group) (ss : Session) (p : Pass) (tab : List Nat) (i m : Nat) :
    (writeRow s g ss p tab i m).1.tick = s.tick := by
  unfold writeRow
  obtain ⟨columns, hcolumns⟩ : ∃ l, l = List.range 96 := ⟨_, rfl⟩
  rw [← hcolumns]
  extract_lets a t row weight r
  have hr : r.1.tick = s.tick := foldl_fst_tick _ (by grind only [tenWrite_tick]) rfl
  clear_value r
  grind only

theorem writeRows_tick (g : Group) (ss : Session) (p : Pass) (tab : List Nat) (rows : List (Nat × Nat)) (n : Nat) (s : State)
    :
    (writeRows g ss p tab rows n s).1.tick = s.tick := by
  induction rows generalizing n s with
  | nil => rfl
  | cons row rows ih =>
    have h := writeRow_tick s g ss p tab row.1 row.2
    rw [writeRows_cons]
    obtain ⟨w, hw⟩ : ∃ w, w = writeRow s g ss p tab row.1 row.2 := ⟨_, rfl⟩
    rw [← hw] at h ⊢
    clear hw
    obtain ⟨s', e | ⟨fl, ev⟩⟩ := w
    · exact h
    · rw [ih]
      simpa using h

@[simp] theorem endPass_tick (s : State) (k quad : Nat) (ss : Session) (p : Pass) :
    (endPass s k quad ss p).tick = s.tick := by
  unfold endPass
  extract_lets a s1 s2 ss1 ss2 ss3 s3
  have h1 : s1.tick = s.tick := by
    subst s1
    split <;> simp
  have h2 : s2.tick = s1.tick := foldl_tick _ (fun s q => by split <;> simp) s1
  split <;> simp [s3, h1, h2]

theorem selRow_tick (s : State) (ss : Session) (z i m : Nat) : (selRow s ss z i m).1.tick = s.tick := by
  fun_cases selRow s ss z i m <;> grind only [State.readVa_tick, State.parts_tick]

@[simp] theorem shadowTrap_tick (s : State) (g : Group) (it : LogItem) (i : Instr) (code q : Nat) (m : Mask) :
    (shadowTrap s g it i code q m).tick = s.tick := by
  fun_cases shadowTrap s g it i code q m <;> grind only [State.setG_tick, State.colophon_tick, raise_tick]

@[simp] theorem saveSession_tick (s : State) (k : Nat) : (saveSession s k).tick = s.tick := by
  unfold saveSession
  split
  · rfl
  extract_lets s1
  have h1 : s1.tick = s.tick := by
    subst s1
    split <;> simp
  split
  · exact h1
  extract_lets s2 r
  have hr : r.1.tick = s.tick := foldl_fst_tick _ (by grind only [State.writeVaBlk_tick]) (by simp [s2, h1])
  split <;> simp [hr]

@[simp] theorem State.saveItsSession_tick (s : State) (g : Group) : (State.saveItsSession s g).tick = s.tick := by
  fun_cases State.saveItsSession s g <;> simp

@[simp] theorem State.engToUnit_tick (s : State) (gid : Nat) : (State.engToUnit s gid).tick = s.tick := by
  rfl

@[simp] theorem saveGroup_tick (s : State) (gid : Nat) : (saveGroup s gid).tick = s.tick := by
  fun_cases saveGroup s gid <;> grind only [State.setG_tick, doubleTrap_tick, State.unwait_tick, writeImage_tick,
      State.saveItsSession_tick, State.engToUnit_tick]

theorem State.reEntry_tick (s : State) (k quad : Nat) : ∀ t, State.reEntry s k quad = some t → t.tick = s.tick := by
  fun_cases State.reEntry s k quad
  all_goals grind only [State.setSession_tick, Option.map_eq_some_iff]

@[simp] theorem State.carry_tick (s : State) (old new : Nat) : (State.carry s old new).tick = s.tick := by
  fun_cases State.carry s old new <;> rfl

@[simp] theorem State.moveCluster_tick (s : State) (cid o : Nat) : (State.moveCluster s cid o).tick = s.tick := by
  fun_cases State.moveCluster s cid o
  · rfl
  · exact foldl_tick _ (by simp) s

theorem makePlace_tick (s : State) (g : Group) : ∀ t, makePlace s g = some t → t.tick = s.tick := by
  fun_cases makePlace s g <;> simp

@[simp] theorem restoreSession_tick (s : State) (k : Nat) : (restoreSession s k).tick = s.tick := by
  fun_cases restoreSession s k <;> grind only [State.readVa_tick, State.parts_tick, State.setSession_tick,
      State.breakUp_tick]

@[simp] theorem State.restoreItsSession_tick (s : State) (g : Group) : (State.restoreItsSession s g).tick = s.tick := by
  unfold State.restoreItsSession
  split
  · rfl
  split
  · rfl
  next k _ _ _ _ _ =>
  dsimp only
  split
  · rfl
  · have h := getD_tick (State.reEntry_tick s k (quadOf g.who.core)) rfl
    split <;> simp [h]

@[simp] theorem restoreGroup_tick (s : State) (gid : Nat) : (restoreGroup s gid).tick = s.tick := by
  fun_cases restoreGroup s gid <;> grind only [State.setG_tick, doubleTrap_tick, readImage_tick,
      State.restoreItsSession_tick]

theorem restoreAll_tick (l : List Nat) (s : State) : ∀ t, restoreAll l s = some t → t.tick = s.tick := by
  fun_induction restoreAll l s
  · grind only
  · grind only [Option.bind_eq_some_iff, makePlace_tick, restoreGroup_tick]

@[simp] theorem State.bringBack_tick (s : State) (gid : Nat) : (State.bringBack s gid).tick = s.tick := by
  fun_cases State.bringBack s gid
  · rfl
  · exact getD_tick (fun t => restoreAll_tick _ _ t) rfl
  · rfl

@[simp] theorem State.refreshQueue_tick (s : State) (q : Nat) : (State.refreshQueue s q).tick = s.tick := by
  fun_cases State.refreshQueue s q <;> rfl

theorem State.args_tick (s : State) (l : Launch) : (State.args s l).1.tick = s.tick := by
  fun_cases State.args s l <;> grind only [State.readVa_tick]

@[simp] theorem startGroup_tick (s : State) (lid cid tid core c tm k : Nat) :
    (startGroup s lid cid tid core c tm k).tick = s.tick := by
  fun_cases startGroup s lid cid tid core c tm k <;> grind only [State.newId_tick, State.updL_tick, State.args_tick]

@[simp] theorem placeCluster_tick (s : State) (lid c o : Nat) : (placeCluster s lid c o).tick = s.tick := by
  unfold placeCluster
  split
  · rfl
  · rw [State.updL_tick, foldl_tick]
    · rfl
    · intro s x
      dsimp only
      split
      · rfl
      · rw [foldl_tick _ (by simp)]
        rfl

@[simp] theorem State.freshL1_tick (s : State) (lid : Nat) (cores : List Nat) :
    (State.freshL1 s lid cores).tick = s.tick := by
  fun_cases State.freshL1 s lid cores <;> (simp [foldl_tick])

@[simp] theorem afterRecord_tick (s : State) (l : Launch) : (afterRecord s l).tick = s.tick := by
  fun_cases afterRecord s l <;> rfl

@[simp] theorem mergedRecord_tick (s : State) (a b : Launch) : (mergedRecord s a b).tick = s.tick := by
  simp [mergedRecord]

@[simp] theorem State.clearEn_tick (s : State) (q : Nat) : (State.clearEn s q).tick = s.tick := by
  fun_cases State.clearEn s q <;> rfl

@[simp] theorem killLaunch_tick (s : State) (lid status : Nat) : (killLaunch s lid status).tick = s.tick := by
  unfold killLaunch
  split
  · rfl
  · simp only [State.irq_tick, State.colophon_tick, State.clearEn_tick]
    exact foldl_tick _ (fun s i => by simp [foldl_tick]) s

@[simp] theorem State.cleanFrame_tick (s : State) (f : Nat) : (State.cleanFrame s f).tick = s.tick := by
  rfl

@[simp] theorem State.dropTlb_tick (s : State) (v : Nat) (f : TlbEnt → Bool) : (State.dropTlb s v f).tick = s.tick := by
  rfl

@[simp] theorem State.performVf_tick (s : State) (v : Nat) : (State.performVf s v).tick = s.tick := by
  refine foldl_tick _ (fun s e => ?_) s
  split <;> simp [foldl_tick]

@[simp] theorem surfEvent_tick (s : State) (i reason : Nat) (d : List Byte) : (surfEvent s i reason d).tick = s.tick := by
  simp [surfEvent]

@[simp] theorem readSurf_tick (s : State) (i : Nat) (d : List Byte) : (readSurf s i d).tick = s.tick := by
  fun_cases readSurf s i d <;> grind only [surfEvent_tick]

@[simp] theorem State.touchWords_tick (s : State) (vf : Nat) (vas : List Nat) :
    (State.touchWords s vf vas).tick = s.tick := by
  refine foldl_tick _ (fun s x => ?_) _
  grind only [State.readVa_tick]

theorem State.sigEntry_tick (s : State) (vf va : Nat) : (State.sigEntry s vf va).1.tick = s.tick := by
  fun_cases State.sigEntry s vf va <;> grind only [globalAt_tick]

theorem State.pair_tick (s : State) (vf : Nat) (l : Layer) (r : Render) (i : Nat) :
    (State.pair s vf l r i).1.tick = s.tick := by
  fun_cases State.pair s vf l r i
  grind only [State.sigEntry_tick]

theorem State.pairs_tick (s : State) (vf : Nat) (l : Layer) (r : Render) : (State.pairs s vf l r).1.tick = s.tick := by
  refine foldl_fst_tick _ ?_ rfl
  grind only [State.pair_tick]

@[simp] theorem quarantine_tick (s : State) (quad : Nat) : (quarantine s quad).tick = s.tick := by
  rfl

@[simp] theorem failFrame_tick (s : State) (surf layer : Nat) (h : SurfHdr) (bad : List Pair) :
    (failFrame s surf layer h bad).tick = s.tick := by
  unfold failFrame
  simp only [State.irq_tick, State.colophon_tick, foldl_tick _ fun _ _ => State.colophon_tick ..]
  rw [foldl_tick]
  · simp [foldl_tick]
  · intro s m
    split <;> simp

@[simp] theorem passEvent_tick (s : State) (quad passes qpass : Nat) (ok : Bool) :
    (passEvent s quad passes qpass ok).tick = s.tick := by
  simp [passEvent]

@[simp] theorem spareRow_tick (s : State) (quad : Nat) (d : Defect) : (spareRow s quad d).tick = s.tick := by
  simp [spareRow]

@[simp] theorem retireQuad_tick (s : State) (quad : Nat) (q : Quad) : (retireQuad s quad q).tick = s.tick := by
  simp [retireQuad]

@[simp] theorem l1Error_tick (s : State) (core set way : Nat) : (l1Error s core set way).tick = s.tick := by
  fun_cases l1Error s core set way <;> rfl

@[simp] theorem State.dropL2_tick (s : State) (slice : Nat) (f : Nat → L2Line → Bool) :
    (State.dropL2 s slice f).tick = s.tick := by
  refine foldl_tick _ (fun s n => ?_) s
  dsimp only
  split <;> simp [foldl_tick]

@[simp] theorem l2Error_tick (s : State) (slice set way : Nat) : (l2Error s slice set way).tick = s.tick := by
  -- another name for the drop: the kernel would run it over the sets of a slice
  obtain ⟨drop, hdrop, h⟩ : ∃ f, f = @State.dropL2 ∧ ∀ s n p, (f s n p).tick = s.tick := ⟨_, rfl, State.dropL2_tick⟩
  unfold l2Error
  rw [← hdrop]
  extract_lets k n _ s1 s2 _ s3 s4
  have h3 : s3.tick = s.tick := h ..
  split
  · rfl
  split
  · rfl
  split
  · exact (h ..).trans h3
  · exact h3

theorem lostCause_tick (s : State) (g : Group) (code : Nat) : (lostCause s g code).1.tick = s.tick := by
  rfl

@[simp] theorem streamError_tick (s : State) (g : Group) (k code : Nat) : (streamError s g k code).tick = s.tick := by
  fun_cases streamError s g k code <;> grind only [raise_tick, lostCause_tick]

@[simp] theorem engineError_tick (s : State) (g : Group) (id code : Nat) : (engineError s g id code).tick = s.tick := by
  fun_cases engineError s g id code <;> rfl

@[simp] theorem readError_tick (s : State) (gid : Nat) (r : Reader) (code : Nat) :
    (readError s gid r code).tick = s.tick := by
  fun_cases readError s gid r code <;> grind only [failRead_tick, holdMu_tick, lostCause_tick, streamError_tick,
      engineError_tick]

@[simp] theorem State.refreshQueues_tick (s : State) : (State.refreshQueues s).tick = s.tick := by
  fun_cases State.refreshQueues s
  simp [foldl_tick]

theorem outsideWrite_tick (s : State) (pa : Nat) (bytes : List Byte) :
    ∀ t, outsideWrite s pa bytes = some t → t.tick = s.tick := by
  fun_cases outsideWrite s pa bytes <;> simp

theorem deliverFlits_tick (l : List Flit) (s : State) : (deliverFlits l s).1.tick = s.tick := by
  fun_induction deliverFlits l s
  · rfl
  · next ih => exact ih.trans (getD_tick (fun t => outsideWrite_tick _ _ _ t) rfl)
  · rfl

@[simp] theorem State.setLink_tick (s : State) (port rate width : Nat) :
    (State.setLink s port rate width).tick = s.tick := by
  rfl

@[simp] theorem State.lateIf_tick (s : State) (gid pc : Nat) : (State.lateIf s gid pc).tick = s.tick := by
  fun_cases State.lateIf s gid pc <;> simp

@[simp] theorem dropPeer_tick (s : State) (g : Group) (o : MemOp) (only : Bool) : (dropPeer s g o only).tick = s.tick := by
  unfold dropPeer
  dsimp only
  split
  · rfl
  split
  · simp
  split
  · split <;> simp [foldl_tick]
  · simp

@[simp] theorem linkDown_tick (s : State) (port : Nat) : (linkDown s port).tick = s.tick := by
  simp [linkDown, foldl_tick]

@[simp] theorem trainLink_tick (s : State) (port rate width : Nat) : (trainLink s port rate width).tick = s.tick := by
  fun_cases trainLink s port rate width <;> simp

@[simp] theorem retrain_tick (s : State) (port : Nat) : (retrain s port).tick = s.tick := by
  simp [retrain]

@[simp] theorem State.freeSem_tick (s : State) (port : Nat) : (State.freeSem s port).tick = s.tick := by
  fun_cases State.freeSem s port <;> rfl

@[simp] theorem half64_tick {f : State → BitVec 64 → State} (hf : ∀ s x, (f s x).tick = s.tick) (s : State) (off : Nat)
    (hi : Bool) (w : Word) :
    (half64 s off hi w f).tick = s.tick := by
  unfold half64
  split
  · exact hf ..
  · rfl

@[simp] theorem writeVfmap_tick (s : State) (x : BitVec 64) : (writeVfmap s x).tick = s.tick := by
  rfl

@[simp] theorem writePart_tick (s : State) (p word : Nat) (w : Word) : (writePart s p word w).tick = s.tick := by
  fun_cases writePart s p word w <;> rfl

@[simp] theorem State.checkWindows_tick (s : State) : (State.checkWindows s).tick = s.tick := by
  fun_cases State.checkWindows s <;> rfl

@[simp] theorem writeVfBlock_tick (s : State) (v o : Nat) (w : Word) : (writeVfBlock s v o w).tick = s.tick := by
  fun_cases writeVfBlock s v o w <;> rfl

@[simp] theorem writeGalleyBlock_tick (s : State) (v o : Nat) (w : Word) : (writeGalleyBlock s v o w).tick = s.tick := by
  fun_cases writeGalleyBlock s v o w <;> rfl

@[simp] theorem writeReg_tick (s : State) (off : Nat) (w : Word) : (writeReg s off w).tick = s.tick := by
  unfold writeReg
  repeat' split
  all_goals simp [half64_tick]

end Sys2Proof.Machine

namespace Sys2Proof.Machine

/-! ### How instructions issue, wait and trap -/

-- One after another, as in Sys2Proof/Tests/Slice0.lean: a thread for each proof would need more memory than the check allows.
set_option Elab.async false

/-- The machine that a meaning answers stands at a given time. -/
@[simp] def ResAtTick (n : Nat) : Res → Prop
  | .done s | .wait _ s | .trap _ s => s.tick = n
  | .stop _ => True

/-- The next state, if there is one, stands at a given time. -/
@[simp] def OutAtTick (n : Nat) : Out → Prop
  | .next s => s.tick = n
  | _ => True

theorem finishA_tick {n : Nat} {r : Res} (h : ResAtTick n r) (i : Instr) : OutAtTick n (finishA i r) := by
  fun_cases finishA i r
  case case3 => exact (raise_tick ..).trans h
  all_goals exact h

theorem aIssue_tick (i : Instr) {body : Group → State → Res} (h : ∀ g s, ResAtTick s.tick (body g s)) (s : State) :
    OutAtTick s.tick (aIssue i body s) := by
  fun_cases aIssue i body s
  case case1 => rfl
  case case2 => exact finishA_tick (r := .trap _ s) rfl i
  case case3 => exact finishA_tick (r := .wait _ s) rfl i
  case case4 => exact finishA_tick (h ..) i

theorem aWrite_tick (i : Instr) (d : BitVec 6) (f : Group → Word) (s : State) : OutAtTick s.tick (aWrite i d f s) :=
  aIssue_tick i (by intros; exact rfl) s

theorem finishC_tick {s : State} {r : Res} (hr : ResAtTick s.tick r) (i : Instr) (h : CShape) (w : BitVec 96) (env : CEnv)
    (g : Group) : OutAtTick s.tick (finishC i h w env s g r) := by
  cases r with
  | done t => exact State.leave_tick hr ..
  | wait k t => exact State.waitC_tick ..
  | trap c t => exact raise_tick ..
  | stop f => trivial

theorem cIssueN_tick (i : Instr) (n : Nat) {body : CEnv → State → Res} (h : ∀ e s, ResAtTick s.tick (body e s)) (s : State) :
    OutAtTick s.tick (cIssueN i n body s) := by
  fun_cases cIssueN i n body s
  case case2 => exact finishC_tick (by rfl) ..
  case case4 => exact State.waitC_tick ..
  case case5 => exact State.waitC_tick ..
  case case6 => exact queueWait_tick ..
  case case7 => exact raise_tick ..
  case case8 => exact queueWait_tick ..
  case case9 => exact finishC_tick (s := s) (h _ (s.putG _)) ..
  all_goals rfl

theorem cIssue_tick (i : Instr) {body : CEnv → Group → State → Res} (h : ∀ e g s, ResAtTick s.tick (body e g s)) (s : State)
    :
    OutAtTick s.tick (cIssue i body s) := by
  refine cIssueN_tick i 1 (fun e s => ?_) s
  split
  · exact h ..
  · rfl

theorem cLanes_tick (i : Instr) (d : Dst) (ops : List (OpTy × Src)) (f : Nat → List Word → LRes) (s : State) :
    OutAtTick s.tick (cLanes i d ops f s) :=
  cIssue_tick i (by intros; exact putLanes_tick ..) s

theorem f32Op_tick (i : Instr) (d : Dst) (ss : List Src) (f : List Nat → FRes) (s : State) :
    OutAtTick s.tick (f32Op i d ss f s) :=
  cLanes_tick ..

theorem packedOp_tick (i : Instr) (bf : BitVec 1) (d : Dst) (ss : List Src) (f : List Nat → FRes) (s : State) :
    OutAtTick s.tick (packedOp i bf d ss f s) :=
  cLanes_tick ..

theorem cPred_tick (i : Instr) (d : Dst) (ops : List (OpTy × Src)) (f : Nat → List Word → Bool × Fl) (s : State) :
    OutAtTick s.tick (cPred i d ops f s) :=
  cIssue_tick i (by intros; exact rfl) s

theorem laneOp_tick (i : Instr) (d : Dst) (ops : List (OpTy × Src)) (f : CEnv → CSide → List Lanes → Nat → Word) (s : State)
    :
    OutAtTick s.tick (laneOp i d ops f s) :=
  cIssue_tick i (by intros; exact putLanes_tick ..) s

theorem lanePred_tick (i : Instr) (d : Dst) (ops : List (OpTy × Src)) (f : CEnv → CSide → List Lanes → Nat → Bool)
    (s : State) :
    OutAtTick s.tick (lanePred i d ops f s) :=
  cIssue_tick i (by intros; exact rfl) s

theorem portWrite_tick {f : State → State} (hf : ∀ s, (f s).tick = s.tick) (s : State) (port off : Nat) (may : Bool) :
    OutAtTick s.tick (portWrite s port off may f) := by
  fun_cases portWrite s port off may f
  · rfl
  · exact hf s
  · exact State.colophon_tick ..

theorem withB_tick (g : Group) {s : State} (n : Nat) {f : Buf → Res} (h : ∀ b, ResAtTick s.tick (f b)) :
    ResAtTick s.tick (withB g s n f) := by
  fun_cases withB g s n f
  case case3 => exact h _
  all_goals rfl

theorem withT_tick (g : Group) {s : State} (n : Nat) {f : Ten → Res} (h : ∀ t, ResAtTick s.tick (f t)) :
    ResAtTick s.tick (withT g s n f) := by
  fun_cases withT g s n f
  case case3 => exact h _
  all_goals rfl

theorem withOut_tick (g : Group) {s : State} (o : BitVec 4) {f : Option Ten → Res} (h : ∀ t, ResAtTick s.tick (f t)) :
    ResAtTick s.tick (withOut g s o f) := by
  fun_cases withOut g s o f
  · exact h _
  · exact withT_tick _ _ fun _ => h _

theorem withBar_tick {s : State} (g : Group) (nb : Nat) {f : Bar → Res} (h : ∀ b, ResAtTick s.tick (f b)) :
    ResAtTick s.tick (withBar s g nb f) := by
  fun_cases withBar s g nb f
  · rfl
  · exact h _

theorem withFlag_tick (e : CEnv) (g : Group) {s : State} (fl : BitVec 1) {f : Nat → Res} (h : ∀ n, ResAtTick s.tick (f n)) :
    ResAtTick s.tick (withFlag e g s fl f) := by
  fun_cases withFlag e g s fl f
  · rfl
  · exact h _

theorem notWhileSaving_tick (g : Group) {s : State} {f : Unit → Res} (h : ResAtTick s.tick (f ())) :
    ResAtTick s.tick (notWhileSaving g s f) := by
  fun_cases notWhileSaving g s f
  · rfl
  · exact h

theorem whenFree_tick (i : Instr) {s : State} (g : Group) (ls : List Loc) {f : State → Res} (h : ResAtTick s.tick (f s)) :
    ResAtTick s.tick (whenFree i s g ls f) := by
  fun_cases whenFree i s g ls f
  · exact h
  · rfl
  · exact (raise_tick ..).trans (State.deliverEng_tick ..)

theorem onChecked_tick {n : Nat} {r : State × Checked} (hr : r.1.tick = n) {f : State → List (Nat × Loc) → Res}
    (h : ∀ s ps, ResAtTick s.tick (f s ps)) : ResAtTick n (onChecked r f) := by
  fun_cases onChecked r f
  · exact hr ▸ h ..
  · exact hr
  · trivial

theorem barArrive_tick {s : State} (g : Group) (nb stream : Nat) (need : List Nat) (b : Bar) {f : State → Group → Res}
    (h : ∀ s g, ResAtTick s.tick (f s g)) : ResAtTick s.tick (barArrive s g nb stream need b f) := by
  fun_cases barArrive s g nb stream need b f
  · rfl
  · have hp : (s.publish g 2).tick = s.tick := State.publish_tick ..
    exact hp ▸ h ((s.publish g 2).setBar g.who.tid nb (b.arrive g.who.gid)) g
  · exact h ..

theorem counterTest_tick (i : Instr) (g : Group) {s : State} (a b : BitVec 6) {hit : State → Res} {miss : State → Loc → Res}
    (hh : ∀ s, ResAtTick s.tick (hit s)) (hm : ∀ s l, ResAtTick s.tick (miss s l)) :
    ResAtTick s.tick (counterTest i g s a b hit miss) := by
  unfold counterTest
  extract_lets va
  split
  · rfl
  split
  next => trivial
  next h => exact tick_of_eq h (globalAt_tick ..)
  next s1 _ h =>
  have h1 : s1.tick = s.tick := tick_of_eq h (globalAt_tick ..)
  rw [← h1]
  split
  · next h => exact deliver_tick _ _ _ _ _ h
  extract_lets mine
  split
  · rfl
  · refine whenFree_tick _ _ _ ?_
    extract_lets r
    have hr : r.1.tick = s1.tick := State.readPast_tick ..
    rw [← hr]
    split
    · exact State.acquire_tick r.1 g 4 ▸ hh _
    · exact hm _ _

theorem withFill_tick (i : Instr) (x : Ctl) (e : CEnv) (g : Group) {s : State} {f : Group → State → Res}
    (h : ∀ g s, ResAtTick s.tick (f g s)) : ResAtTick s.tick (withFill i x e g s f) := by
  fun_cases withFill i x e g s f
  case case1 => exact h ..
  case case2 hf => exact tick_of_eq hf (fillStack_tick ..) ▸ h ..
  case case3 hf => exact tick_of_eq hf (fillStack_tick ..)
  case case4 => trivial

theorem putFlow_tick (s : State) (g : Group) (c : CSide) : ResAtTick s.tick (putFlow s g c) := by
  fun_cases putFlow s g c
  case case1 => rfl
  case case2 h => exact tick_of_eq h (stackIo_tick ..)
  case case3 => trivial
  case case4 h => exact (afterFlow_tick ..).trans (tick_of_eq h (stackIo_tick ..))

theorem flow_tick (i : Instr) (x : Ctl) (target join : Option Nat) (f : State → Group → CEnv → Except Cause CSide)
    (s : State) :
    OutAtTick s.tick (flow i x target join f s) := by
  refine cIssue_tick _ (fun e g s => ?_) s
  have hc : (if s.cur.mode = 1 then (s, none) else flowCheck s g e.p target join).1.tick = s.tick := by
    split
    · rfl
    · exact flowCheck_tick ..
  split
  · next h => exact tick_of_eq h hc
  · next t h =>
    rw [← tick_of_eq h hc]
    refine withFill_tick _ _ _ _ fun g s => ?_
    split
    · rfl
    · exact putFlow_tick ..

theorem nearAccess_tick {s : State} (g : Group) (e : CEnv) (i : Instr) (level acc sz : Nat) (a b : Lanes)
    {f : State → List (Nat × Loc) → Res} (h : ∀ ps, ResAtTick s.tick (f s ps)) :
    ResAtTick s.tick (nearAccess s g e i level acc sz a b f) := by
  fun_cases nearAccess s g e i level acc sz a b f
  case case2 => exact h _
  case case4 => exact (trapHere_tick ..).trans (State.deliverEng_tick ..)
  all_goals rfl

theorem withRays_tick {s : State} (g : Group) (e : CEnv) (i : Instr) (acc : Nat) (off : Lanes)
    {f : State → List (Nat × Nat) → Res} (h : ∀ els, ResAtTick s.tick (f s els)) :
    ResAtTick s.tick (withRays s g e i acc off f) := by
  fun_cases withRays s g e i acc off f
  case case3 => exact (trapHere_tick ..).trans (State.deliverEng_tick ..)
  case case5 => exact h _
  all_goals rfl

theorem rayQuery_tick (i : Instr) (d : Dst) (s0 : Src) (f : RayState → List Nat) (s : State) :
    OutAtTick s.tick (rayQuery i d s0 f s) :=
  cIssue_tick _ (fun _ _ _ => withRays_tick _ _ _ _ _ (by intros; exact rfl)) s

theorem runLanes_tick (o : LaneOp) {f : State → Nat → State × Except Stop (List Nat)} (h : ∀ s l, (f s l).1.tick = s.tick)
    (s : State) : (runLanes o f s).s.tick = s.tick := by
  refine List.foldlRecOn (motive := fun r : LaneRun => r.s.tick = s.tick) _ _ rfl fun r hr l _ => ?_
  have hl := (h r.s l).trans hr
  split
  all_goals next he => exact tick_of_eq he hl

theorem runRays_tick (o : LaneOp) (g : Group) (stops : Bool) (bvh : Buf) (init : Option Nat) (s : State) :
    (runRays o g stops bvh init s).1.s.tick = s.tick := by
  refine List.foldlRecOn (motive := fun r : LaneRun × Bool => r.1.s.tick = s.tick) _ _ rfl fun r hr l _ => ?_
  have hl := (traceLane_tick g stops bvh init (o.words l) l r.1.s).trans hr
  dsimp only
  split
  all_goals next he => exact tick_of_eq he hl

theorem counted_tick {n : Nat} {r : Out} (h : OutAtTick n r) (s : State) (w : What) (i : Instr) :
    OutAtTick n (counted s w i r) := by
  cases r with
  | next t => exact (State.countCycles_tick ..).trans h
  | _ => trivial

theorem State.muCheck_tick {s : State} {g : Group} {o : MuOp} {r : (State × Checked) × Lanes × Lanes}
    (h : s.muCheck g o = some r) : r.1.1.tick = s.tick := by
  unfold State.muCheck at h
  extract_lets b at h
  split at h
  · obtain ⟨es, -, rfl⟩ := Option.map_eq_some_iff.mp h
    exact checkElems_tick ..
  · next chk _ =>
    obtain ⟨e, -, rfl⟩ := Option.map_eq_some_iff.mp h
    clear h
    have hc : chk.1.tick = s.tick := by
      simp only [chk]
      split
      · rfl
      · exact checkElems_tick ..
    clear_value chk
    rcases chk with ⟨t, c⟩
    cases c <;> exact hc

end Sys2Proof.Machine

namespace Sys2Proof.Machine

/-! ### Instructions and steps of agents -/

-- One after another, as in Sys2Proof/Tests/Slice0.lean: a thread for each proof would need more memory than the check allows.
set_option Elab.async false

theorem aBin_tick (i : Instr) (d a b : BitVec 6) (f : Word → Word → Word) (s : State) :
    OutAtTick s.tick (aBin i d a b f s) := by
  exact aWrite_tick ..

theorem aUn_tick (i : Instr) (d a : BitVec 6) (f : Word → Word) (s : State) :
    OutAtTick s.tick (aUn i d a f s) := by
  exact aWrite_tick ..

theorem aBranch_tick (i : Instr) (a b : BitVec 6) (off : BitVec 14) (c : Word → Word → Bool) (s : State) :
    OutAtTick s.tick (aBranch i a b off c s) := by
  refine aIssue_tick _ (fun g s => ?_) s
  exact rfl

theorem execJalr_tick (d a : BitVec 6) (imm : BitVec 14) (s : State) :
    OutAtTick s.tick (execJalr d a imm s) := by
  refine aIssue_tick _ (fun g s => ?_) s
  dsimp only
  split <;> simp

theorem pushClq_tick (s : State) (g : Group) (x : Word) :
    ResAtTick s.tick (pushClq s g x) := by
  fun_cases pushClq s g x <;> exact rfl

theorem execSpush_tick (a : BitVec 6) (s : State) :
    OutAtTick s.tick (execSpush a s) := by
  refine aIssue_tick _ (fun g s => ?_) s
  grind only [ResAtTick, OutAtTick, State.putG_tick]

theorem execBpop_tick (d : BitVec 6) (s : State) :
    OutAtTick s.tick (execBpop d s) := by
  refine aIssue_tick _ (fun g s => ?_) s
  grind only [ResAtTick, OutAtTick, State.putG_tick]

theorem placeToken_tick (s : State) (g : Group) (i : Instr) (q : Nat) (c : Cause) :
    ResAtTick s.tick (placeToken s g i q c) := by
  fun_cases placeToken s g i q c <;> grind only [ResAtTick, OutAtTick, State.putG_tick, State.newId_tick]

theorem execLdv_tick (byp : BitVec 1) (ord : BitVec 3) (q : BitVec 2) (k : BitVec 5) (ai : BitVec 6) (off : BitVec 9)
    (s : State) :
    OutAtTick s.tick (execLdv byp ord q k ai off s) := by
  refine aIssue_tick _ (fun g s => withB_tick _ _ fun b => ?_) s
  extract_lets r
  have hr : r.1.tick = s.tick := checkElems_tick ..
  clear_value r
  split
  · rfl
  split
  · exact hr ▸ placeToken_tick ..
  · trivial
  · exact hr ▸ whenFree_tick _ _ _ rfl

theorem issueMu_tick (s : State) (g : Group) (i : Instr) (k : BitVec 5) (first : Word) (resultQ : Option Nat) (n : Nat)
    (places : Option (List (Nat × Loc))) :
    ResAtTick s.tick (issueMu s g i k first resultQ n places) := by
  fun_cases issueMu s g i k first resultQ n places <;> grind only [ResAtTick, OutAtTick, State.putG_tick, State.newId_tick]

theorem execLdg_tick (byp : BitVec 1) (ord : BitVec 3) (q : BitVec 2) (k : BitVec 5) (ai : BitVec 6) (off : BitVec 9)
    (s : State) :
    OutAtTick s.tick (execLdg byp ord q k ai off s) := by
  refine aIssue_tick _ (fun g s => withB_tick _ _ fun b => ?_) s
  split
  · rfl
  · exact issueMu_tick ..

theorem execStv_tick (ord : BitVec 3) (q : BitVec 2) (k : BitVec 5) (ai : BitVec 6) (off : BitVec 9) (s : State) :
    OutAtTick s.tick (execStv ord q k ai off s) := by
  refine aIssue_tick _ (fun g s => withB_tick _ _ fun b => ?_) s
  split
  · rfl
  · exact onChecked_tick (checkElems_tick ..) fun _ _ => whenFree_tick _ _ _ (issueMu_tick ..)

theorem execStx_tick (ord : BitVec 3) (q : BitVec 2) (k : BitVec 5) (ai : BitVec 6) (off : BitVec 9) (s : State) :
    OutAtTick s.tick (execStx ord q k ai off s) := by
  refine aIssue_tick _ (fun g s => withB_tick _ _ fun b => ?_) s
  split
  · rfl
  · exact issueMu_tick ..

theorem execLda_tick (d : BitVec 6) (k : BitVec 5) (ai : BitVec 6) (ord : BitVec 3) (off : BitVec 6) (s : State) :
    OutAtTick s.tick (execLda d k ai ord off s) := by
  refine aIssue_tick _ (fun g s => withB_tick _ _ fun b => ?_) s
  split
  · rfl
  · exact onChecked_tick (checkElems_tick ..) fun _ _ => whenFree_tick _ _ _ rfl

theorem execSta_tick (v : BitVec 6) (k : BitVec 5) (ai : BitVec 6) (ord : BitVec 3) (off : BitVec 6) (s : State) :
    OutAtTick s.tick (execSta v k ai ord off s) := by
  refine aIssue_tick _ (fun g s => withB_tick _ _ fun b => ?_) s
  split
  · rfl
  · exact onChecked_tick (checkElems_tick ..) fun _ _ => whenFree_tick _ _ _ rfl

theorem execPrf_tick (l2 : BitVec 1) (k : BitVec 5) (ai : BitVec 6) (off : BitVec 9) (s : State) :
    OutAtTick s.tick (execPrf l2 k ai off s) := by
  refine aIssue_tick _ (fun g s => withB_tick _ _ fun b => ?_) s
  dsimp only [ResAtTick, State.updG_tick]
  split <;> simp

theorem execAtv_tick (op : BitVec 4) (q : BitVec 2) (k : BitVec 5) (ret sdq : BitVec 1) (ord : BitVec 2) (scope : BitVec 3)
    (s : State) :
    OutAtTick s.tick (execAtv op q k ret sdq ord scope s) := by
  refine aIssue_tick _ (fun g s => withB_tick _ _ fun b => ?_) s
  split
  · rfl
  · exact issueMu_tick ..

theorem execAta_tick (op : BitVec 4) (d : BitVec 6) (k : BitVec 5) (ai x y : BitVec 6) (ord : BitVec 2) (scope : BitVec 3)
    (s : State) :
    OutAtTick s.tick (execAta op d k ai x y ord scope s) := by
  refine aIssue_tick _ (fun g s => withB_tick _ _ fun b => ?_) s
  split
  · rfl
  extract_lets w go
  have hw : w.1.tick = s.tick := scalarWindow_tick ..
  have hgo : ∀ s ps win, ResAtTick s.tick (go s ps win) := fun _ _ _ => whenFree_tick _ _ _ rfl
  clear_value go
  split
  · exact ((State.dirtiedPage_tick ..).trans hw) ▸ hgo ..
  · exact onChecked_tick ((checkElems_tick ..).trans hw) fun _ _ => hgo ..

theorem loadRecord_tick (instr : Instr) (s : State) (g : Group) (n : Nat) (i : Word) (kind : MemKind) (mark : Group → Group)
    :
    ResAtTick s.tick (loadRecord instr s g n i kind mark) := by
  unfold loadRecord
  extract_lets va
  split
  next => trivial
  next h => exact tick_of_eq h (globalAt_tick ..)
  next h =>
    rw [← tick_of_eq h (globalAt_tick ..)]
    exact whenFree_tick _ _ _ rfl

theorem execBld_tick (r : BitVec 5) (a : BitVec 6) (imm : BitVec 14) (s : State) :
    OutAtTick s.tick (execBld r a imm s) := by
  refine aIssue_tick _ (fun g s => ?_) s
  grind only [ResAtTick, OutAtTick, loadRecord_tick]

theorem execBset_tick (r : BitVec 5) (a : BitVec 6) (fn : BitVec 8) (s : State) :
    OutAtTick s.tick (execBset r a fn s) := by
  refine aIssue_tick _ (fun g s => ?_) s
  grind only [ResAtTick, OutAtTick, State.putG_tick]

theorem execTld_tick (r : BitVec 4) (a : BitVec 6) (imm : BitVec 14) (s : State) :
    OutAtTick s.tick (execTld r a imm s) := by
  refine aIssue_tick _ (fun g s => ?_) s
  grind only [ResAtTick, OutAtTick, loadRecord_tick]

theorem issueCopy_tick (i : Instr) (src dst : BitVec 4) (c : BitVec 6) (opt scope : BitVec 3) (bar : Option Nat)
    (cnt : Option (BitVec 6)) (g : Group) (s : State) :
    ResAtTick s.tick (issueCopy i src dst c opt scope bar cnt g s) := by
  refine notWhileSaving_tick _ ?_
  extract_lets regs
  split
  · rfl
  split
  · rfl
  split
  · rfl
  refine withT_tick _ _ fun ts => withT_tick _ _ fun td => ?_
  split
  · rfl
  split
  · rfl
  extract_lets sc dc go
  have hgo : ∀ s ctr, ResAtTick s.tick (go s ctr) := by
    intro s ctr
    simp only [go]
    split <;> rfl
  clear_value go
  split
  · exact hgo ..
  extract_lets a
  split
  · rfl
  split
  next h => exact tick_of_eq h (globalAt_tick ..) ▸ hgo ..
  next => trivial
  next h => exact tick_of_eq h (globalAt_tick ..)

theorem execCwait_tick (a b : BitVec 6) (s : State) :
    OutAtTick s.tick (execCwait a b s) := by
  exact aIssue_tick _ (fun _ _ => counterTest_tick _ _ _ _ (by intros; exact rfl) (by intros; exact rfl)) s

theorem execYieldc_tick (a b : BitVec 6) (s : State) :
    OutAtTick s.tick (execYieldc a b s) := by
  exact aIssue_tick _ (fun _ _ => counterTest_tick _ _ _ _ (by intros; exact rfl) (by intros; exact rfl)) s

theorem execBinit_tick (a : BitVec 6) (nb : BitVec 10) (s : State) :
    OutAtTick s.tick (execBinit a nb s) := by
  refine aIssue_tick _ (fun g s => ?_) s
  refine withBar_tick _ _ fun b => ?_
  extract_lets n
  split
  · rfl
  split
  · rfl
  · simp

theorem execBarv_tick (nb : BitVec 10) (s : State) :
    OutAtTick s.tick (execBarv nb s) := by
  refine aIssue_tick _ (fun _ _ => ?_) s
  refine withBar_tick _ _ fun _ => ?_
  exact barArrive_tick _ _ _ _ _ fun _ _ => rfl

theorem barWaitA_tick (s : State) (g : Group) (nb : Nat) :
    ResAtTick s.tick (barWaitA s g nb) := by
  fun_cases barWaitA s g nb <;> exact rfl

theorem execBwaita_tick (nb : BitVec 10) (s : State) :
    OutAtTick s.tick (execBwaita nb s) := by
  refine aIssue_tick _ (fun _ _ => ?_) s
  refine withBar_tick _ _ fun _ => ?_
  split
  next h => exact deliver_tick _ _ _ _ _ h
  · exact barWaitA_tick ..

theorem execBarvw_tick (nb : BitVec 10) (s : State) :
    OutAtTick s.tick (execBarvw nb s) := by
  refine aIssue_tick _ (fun _ _ => ?_) s
  refine withBar_tick _ _ fun _ => ?_
  split
  next h => exact deliver_tick _ _ _ _ _ h
  split
  · exact barWaitA_tick ..
  · exact barArrive_tick _ _ _ _ _ fun _ _ => barWaitA_tick ..

theorem execBexp_tick (a : BitVec 6) (nb : BitVec 10) (s : State) :
    OutAtTick s.tick (execBexp a nb s) := by
  refine aIssue_tick _ (fun g s => withBar_tick _ _ fun b => ?_) s
  dsimp only
  split
  · rfl
  · split <;> rfl

theorem execBtry_tick (d : BitVec 6) (nb : BitVec 10) (s : State) :
    OutAtTick s.tick (execBtry d nb s) := by
  refine aIssue_tick _ (fun _ _ => ?_) s
  refine withBar_tick _ _ fun _ => ?_
  split
  next h => exact deliver_tick _ _ _ _ _ h
  split
  · rfl
  split <;> simp

theorem fence_tick (rel acq : Bool) (scope : BitVec 3) (eng : BitVec 1) (g : Group) (s : State) :
    ResAtTick s.tick (fence rel acq scope eng g s) := by
  fun_cases fence rel acq scope eng g s <;> grind only [ResAtTick, OutAtTick, State.publish_tick, State.putG_tick,
      deliver_tick, State.acquire_tick]

theorem execMxbind_tick (vb : BitVec 9) (fa fb : BitVec 5) (dist : BitVec 1) (fo : BitVec 5) (tiles : BitVec 2)
    (prio : BitVec 3) (q : BitVec 2) (nb : BitVec 10) (s : State) :
    OutAtTick s.tick (execMxbind vb fa fb dist fo tiles prio q nb s) := by
  unfold execMxbind
  refine aIssue_tick _ (fun g s => ?_) s
  extract_lets pk
  split
  · rfl
  refine notWhileSaving_tick _ ?_
  split
  · rfl
  split
  · rfl
  split
  · rfl
  split
  · rfl
  split
  · exact trapBinds_tick ..
  split
  · exact trapBinds_tick ..
  split
  · exact trapBinds_tick ..
  · rfl

theorem issuePass_tick (s : State) (g : Group) (k : Nat) (ss : Session) (p : Pass) (lines : Pass → List (Loc × Nat)) :
    ResAtTick s.tick (issuePass s g k ss p lines) := by
  fun_cases issuePass s g k ss p lines <;> grind only [ResAtTick, OutAtTick, State.putG_tick, State.newId_tick]

theorem execMxloop_tick (ta : BitVec 4) (c : BitVec 6) (z : BitVec 2) (ks : BitVec 12) (mr : BitVec 5) (o : BitVec 4)
    (ob : BitVec 6) (acc : BitVec 1) (epi : BitVec 4) (s : State) :
    OutAtTick s.tick (execMxloop ta c z ks mr o ob acc epi s) := by
  unfold execMxloop
  refine aIssue_tick _ (fun g s => ?_) s
  refine notWhileSaving_tick _ ?_
  refine withT_tick _ _ fun t => ?_
  refine withOut_tick _ _ fun to_ => ?_
  split
  · rfl
  split
  · rfl
  split
  · rfl
  · exact issuePass_tick ..

theorem execMxconv_tick (ti tc : BitVec 4) (c : BitVec 6) (z : BitVec 2) (ks : BitVec 12) (mr : BitVec 5) (o : BitVec 4)
    (ob : BitVec 6) (acc : BitVec 1) (epi : BitVec 4) (s : State) :
    OutAtTick s.tick (execMxconv ti tc c z ks mr o ob acc epi s) := by
  unfold execMxconv
  refine aIssue_tick _ (fun g s => ?_) s
  refine notWhileSaving_tick _ ?_
  refine withT_tick _ _ fun t => ?_
  refine withT_tick _ _ fun tc => ?_
  refine withOut_tick _ _ fun to_ => ?_
  split
  · rfl
  extract_lets cv
  split
  · rfl
  split
  · rfl
  split
  · rfl
  · exact issuePass_tick ..

theorem execMxsel_tick (z : BitVec 2) (kk : BitVec 5) (big : BitVec 1) (o : BitVec 4) (ob : BitVec 6) (s : State) :
    OutAtTick s.tick (execMxsel z kk big o ob s) := by
  unfold execMxsel
  refine aIssue_tick _ (fun g s => ?_) s
  refine notWhileSaving_tick _ ?_
  refine withT_tick _ _ fun t => ?_
  split
  · rfl
  split
  · rfl
  split
  · rfl
  · exact issuePass_tick ..

theorem execMxrel_tick  (s : State) :
    OutAtTick s.tick (execMxrel s) := by
  refine aIssue_tick _ (fun _ _ => ?_) s
  refine notWhileSaving_tick _ ?_
  split
  next h => exact deliver_tick _ _ _ _ _ h
  split
  · rfl
  split
  · rfl
  · exact leaveSession_tick ..

theorem execMxstat_tick (d : BitVec 6) (s : State) :
    OutAtTick s.tick (execMxstat d s) := by
  refine aIssue_tick _ (fun _ _ => ?_) s
  refine notWhileSaving_tick _ ?_
  split <;> rfl

theorem addEng_tick (s : State) (g : Group) (i : Instr) (kind : EngKind) (bar : Option Nat) (lines : List Loc) :
    ResAtTick s.tick (addEng s g i kind bar lines) := by
  exact rfl

theorem execCover_tick (eo : BitVec 1) (bs : BitVec 5) (f k : BitVec 6) (t : BitVec 4) (o : BitVec 6) (nb : BitVec 10)
    (s : State) :
    OutAtTick s.tick (execCover eo bs f k t o nb s) := by
  refine aIssue_tick _ (fun g s => ?_) s
  refine notWhileSaving_tick _ ?_
  extract_lets r
  split
  · rfl
  split
  · rfl
  refine withT_tick _ _ fun t => ?_
  split
  · rfl
  · exact addEng_tick ..

theorem execRalloc_tick (d a b : BitVec 6) (s : State) :
    OutAtTick s.tick (execRalloc d a b s) := by
  refine aIssue_tick _ (fun g s => ?_) s
  split
  · rfl
  refine notWhileSaving_tick _ ?_
  split
  next h => exact deliver_tick _ _ _ _ _ h
  extract_lets v node cnt
  have hn : (s.node v node).1.tick = s.tick := State.node_tick ..
  clear_value v node cnt
  rcases hr : s.node v node with ⟨t, ds⟩
  rw [hr] at hn
  dsimp only at hn ⊢
  split
  · exact hn
  split <;> simp [hn]

theorem execRcommit_tick (a b : BitVec 6) (s : State) :
    OutAtTick s.tick (execRcommit a b s) := by
  refine aIssue_tick _ (fun g s => ?_) s
  refine notWhileSaving_tick _ ?_
  extract_lets v n
  split
  · simp
  split
  · simp
  split
  · simp
  · simp

theorem execRdone_tick (a : BitVec 6) (s : State) :
    OutAtTick s.tick (execRdone a s) := by
  refine aIssue_tick _ (fun g s => ?_) s
  refine notWhileSaving_tick _ ?_
  dsimp only
  split <;> simp

theorem execRinput_tick (d a : BitVec 6) (s : State) :
    OutAtTick s.tick (execRinput d a s) := by
  refine aIssue_tick _ (fun g s => ?_) s
  exact notWhileSaving_tick _ rfl

theorem execRdepth_tick (d : BitVec 6) (s : State) :
    OutAtTick s.tick (execRdepth d s) := by
  refine aIssue_tick _ (fun g s => ?_) s
  exact notWhileSaving_tick _ rfl

theorem execTstore_tick (ts td : BitVec 4) (p : BitVec 6) (nb : BitVec 10) (sig : BitVec 14) (s : State) :
    OutAtTick s.tick (execTstore ts td p nb sig s) := by
  refine aIssue_tick _ (fun g s => ?_) s
  refine notWhileSaving_tick _ ?_
  refine withT_tick _ _ fun t => ?_
  refine withT_tick _ _ fun u => ?_
  split
  · rfl
  split
  · rfl
  · exact addEng_tick ..

theorem execWaitf_tick (mask : BitVec 12) (s : State) :
    OutAtTick s.tick (execWaitf mask s) := by
  refine aIssue_tick _ (fun g s => ?_) s
  grind only [ResAtTick, OutAtTick, State.putG_tick, deliver_tick]

theorem execTrap_tick (code : BitVec 10) (s : State) :
    OutAtTick s.tick (execTrap code s) := by
  refine aIssue_tick _ (fun g s => ?_) s
  grind only [ResAtTick, OutAtTick, raise_tick]

theorem execTret_tick  (s : State) :
    OutAtTick s.tick (execTret s) := by
  refine aIssue_tick _ (fun g s => ?_) s
  grind only [ResAtTick, OutAtTick, State.putG_tick, deliver_tick, returnTrap_tick, State.afterReturn_tick,
      State.retake_tick]

theorem execExit_tick  (s : State) :
    OutAtTick s.tick (execExit s) := by
  refine aIssue_tick _ (fun g s => ?_) s
  grind only [ResAtTick, OutAtTick, State.endGroup_tick, deliver_tick]

theorem execCsync_tick  (s : State) :
    OutAtTick s.tick (execCsync s) := by
  refine aIssue_tick _ (fun g s => ?_) s
  grind only [ResAtTick, OutAtTick, State.putG_tick, deliver_tick]

theorem execHaltd_tick  (s : State) :
    OutAtTick s.tick (execHaltd s) := by
  refine aIssue_tick _ (fun g s => ?_) s
  split <;> exact rfl

theorem intOp_tick (i : Instr) (d : Dst) (ss : List Src) (f : List Word → Word) (s : State) :
    OutAtTick s.tick (intOp i d ss f s) := by
  exact cLanes_tick ..

theorem shfl_tick (i : Instr) (w : BitVec 3) (act : BitVec 1) (d : Dst) (a n f : Src) (t : Nat → Nat → Nat → Int) (s : State)
    :
    OutAtTick s.tick (shfl i w act d a n f t s) := by
  exact laneOp_tick ..

theorem execReduce_tick (op : BitVec 4) (ftz : BitVec 1) (rm : BitVec 2) (d : Dst) (a : Src) (x : Ctl) (s : State) :
    OutAtTick s.tick (execReduce op ftz rm d a x s) := by
  refine cIssue_tick _ (fun e g s => ?_) s
  grind only [ResAtTick, OutAtTick, putLanes_tick]

theorem execScan_tick (op : BitVec 4) (ftz : BitVec 1) (rm : BitVec 2) (ex : BitVec 1) (d : Dst) (a : Src) (x : Ctl)
    (s : State) :
    OutAtTick s.tick (execScan op ftz rm ex d a x s) := by
  refine cIssue_tick _ (fun e g s => ?_) s
  split <;> simp

theorem execRegroup_tick (c : BitVec 5) (n : BitVec 2) (d : Dst) (key : Src) (x : Ctl) (s : State) :
    OutAtTick s.tick (execRegroup c n d key x s) := by
  refine cIssue_tick _ (fun e g s => ?_) s
  extract_lets base cnt bad set
  clear_value base set
  split
  · rfl
  extract_lets ms others
  split
  · rfl
  next t _ =>
  have ht : t.tick = s.tick := foldl_tick _ (fun _ _ => raise_tick ..) s
  clear_value t
  split
  · exact (trapHere_tick ..).trans ht
  split
  · exact (regroupAll_tick ..).trans ht
  · exact (stay_tick ..).trans ht

theorem execSreg_tick (sel : BitVec 3) (d : Dst) (x : Ctl) (s : State) :
    OutAtTick s.tick (execSreg sel d x s) := by
  refine cIssue_tick _ (fun e g s => ?_) s
  split <;> simp

theorem execPop_tick (n : BitVec 4) (q : Src) (x : Ctl) (s : State) :
    OutAtTick s.tick (execPop n q x s) := by
  refine cIssue_tick _ (fun e g s => ?_) s
  extract_lets q w r g1 g2 p owing
  clear_value r g2 owing
  split
  · exact raise_tick ..
  · split
    · rfl
    · exact queueWait_tick ..

theorem execDrop_tick (d : Dst) (q : Src) (x : Ctl) (s : State) :
    OutAtTick s.tick (execDrop d q x s) := by
  refine cIssue_tick _ (fun e g s => ?_) s
  extract_lets q w n hs
  clear_value n hs
  split
  · exact queueWait_tick ..
  split
  · exact raise_tick ..
  · exact putLanes_tick ..

theorem execPush_tick (n : BitVec 2) (d : Dst) (x : Ctl) (s : State) :
    OutAtTick s.tick (execPush n d x s) := by
  refine cIssue_tick _ (fun e g s => ?_) s
  split
  · extract_lets r
    clear_value r
    split
    · rfl
    · exact queueWait_tick ..
  · rfl

theorem execPmov_tick (toPred : BitVec 1) (pr : BitVec 3) (d : Dst) (a : Src) (x : Ctl) (s : State) :
    OutAtTick s.tick (execPmov toPred pr d a x s) := by
  fun_cases execPmov toPred pr d a x s <;> grind only [ResAtTick, OutAtTick, lanePred_tick, laneOp_tick]

theorem execPmovw_tick (toPred : BitVec 1) (w : BitVec 2) (pr : BitVec 3) (d : Dst) (a : Src) (x : Ctl) (s : State) :
    OutAtTick s.tick (execPmovw toPred w pr d a x s) := by
  unfold execPmovw
  split
  · exact cIssue_tick _ (by intros; exact rfl) s
  · exact laneOp_tick ..

theorem execKill_tick (x : Ctl) (s : State) :
    OutAtTick s.tick (execKill x s) := by
  exact cIssue_tick _ (fun _ _ _ => withFill_tick _ _ _ _ fun _ _ => putFlow_tick ..) s

theorem execTfence_tick (x : Ctl) (s : State) :
    OutAtTick s.tick (execTfence x s) := by
  refine cIssue_tick _ (fun e g s => ?_) s
  grind only [ResAtTick, OutAtTick, raise_tick, State.putG_tick, laneFaultAt_tick]

theorem execBwait_tick (a : Src) (x : Ctl) (s : State) :
    OutAtTick s.tick (execBwait a x s) := by
  refine cIssue_tick _ (fun e g s => ?_) s
  grind only [ResAtTick, OutAtTick, State.setBar_tick, State.putG_tick, State.acquire_tick, trapHere_tick, stay_tick]

theorem execBarvc_tick (a : Src) (x : Ctl) (s : State) :
    OutAtTick s.tick (execBarvc a x s) := by
  refine cIssue_tick _ (fun e g s => ?_) s
  dsimp only
  split
  · rfl
  · exact barArrive_tick _ _ _ _ _ fun _ _ => rfl

theorem execCtrap_tick (code : BitVec 8) (x : Ctl) (s : State) :
    OutAtTick s.tick (execCtrap code x s) := by
  refine cIssue_tick _ (fun e g s => ?_) s
  split <;> exact rfl

theorem nearLoad_tick (i : Instr) (level : Nat) (size : BitVec 3) (acq fl : BitVec 1) (d : Dst) (a b : Src) (s : State) :
    OutAtTick s.tick (nearLoad i level size acq fl d a b s) := by
  refine cIssue_tick _ (fun e g s => ?_) s
  extract_lets vs
  refine withFlag_tick _ _ _ fun n => ?_
  exact nearAccess_tick _ _ _ _ _ _ _ _ fun _ => rfl

theorem nearStore_tick (i : Instr) (level : Nat) (size : BitVec 3) (rel : BitVec 1) (a b c : Src) (s : State) :
    OutAtTick s.tick (nearStore i level size rel a b c s) := by
  refine cIssue_tick _ (fun e g s => ?_) s
  exact nearAccess_tick _ _ _ _ _ _ _ _ fun _ => rfl

theorem nearAtomic_tick (i : Instr) (level : Nat) (op : BitVec 4) (ret : BitVec 1) (ord : BitVec 2) (fl : BitVec 1) (d : Dst)
    (a b x y : Src) (s : State) :
    OutAtTick s.tick (nearAtomic i level op ret ord fl d a b x y s) := by
  refine cIssue_tick _ (fun e g s => ?_) s
  extract_lets ty vs go
  have hgo : ∀ n, ResAtTick s.tick (go n) := fun _ => nearAccess_tick _ _ _ _ _ _ _ _ fun _ => rfl
  clear_value go
  split
  · exact withFlag_tick _ _ _ hgo
  · exact hgo _

theorem issueSample_tick (i : Instr) (n : Nat) (t : BitVec 4) (fl : BitVec 1) (d : Dst) (a lod : Src) (s : State) :
    OutAtTick s.tick (issueSample i n t fl d a lod s) := by
  refine cIssue_tick _ (fun e g s => ?_) s
  extract_lets lods
  refine withFlag_tick _ _ _ fun f => ?_
  exact withT_tick _ _ fun _ => rfl

theorem issueTrace_tick (i : Instr) (b : BitVec 5) (fl : BitVec 1) (d : Dst) (ray s0 : Src) (more : List Src) (s : State) :
    OutAtTick s.tick (issueTrace i b fl d ray s0 more s) := by
  refine cIssue_tick _ (fun e g s => ?_) s
  extract_lets vs
  refine withFlag_tick _ _ _ fun f => ?_
  refine withB_tick _ _ fun _ => ?_
  exact withRays_tick _ _ _ _ _ fun _ => rfl

theorem execTreport_tick (d : Dst) (s0 t w : Src) (x : Ctl) (s : State) :
    OutAtTick s.tick (execTreport d s0 t w x s) := by
  refine cIssue_tick _ (fun e g s => withRays_tick _ _ _ _ _ fun els => ?_) s
  refine foldl_fst_tick _ (fun x a => ?_) rfl
  dsimp only
  split
  · split <;> simp
  · rfl

theorem execTabort_tick (s0 : Src) (x : Ctl) (s : State) :
    OutAtTick s.tick (execTabort s0 x s) := by
  refine cIssue_tick _ (fun e g s => ?_) s
  refine withRays_tick _ _ _ _ _ fun els => ?_
  exact foldl_tick _ (fun _ _ => State.putRay_tick ..) _

theorem execMxfeed_tick (fl : BitVec 1) (x : Ctl) (s : State) :
    OutAtTick s.tick (execMxfeed fl x s) := by
  refine cIssue_tick _ (fun e g s => ?_) s
  split
  · exact trapHere_tick ..
  split
  · rfl
  split
  · rfl
  split
  · rfl
  split
  · rfl
  extract_lets n lo
  split
  · rfl
  · exact withFlag_tick _ _ _ fun _ => rfl

theorem execIllegalInstruction_tick (cside : Bool) (code bit : Nat) (word : BitVec 96) (s : State) :
    OutAtTick s.tick (execIllegalInstruction cside code bit word s) := by
  fun_cases execIllegalInstruction cside code bit word s <;> simp

theorem execFetchFault_tick (cside : Bool) (va level : Nat) (perm : Bool) (s : State) :
    OutAtTick s.tick (execFetchFault cside va level perm s) := by
  fun_cases execFetchFault cside va level perm s <;> simp

theorem execHostBreak_tick (s : State) :
    OutAtTick s.tick (execHostBreak s) := by
  fun_cases execHostBreak s <;> simp

theorem execHostDebugControl_tick (s : State) :
    OutAtTick s.tick (execHostDebugControl s) := by
  fun_cases execHostDebugControl s <;> exact rfl

theorem execWritePerformed_tick (op : Nat) (s : State) :
    OutAtTick s.tick (execWritePerformed op s) := by
  fun_cases execWritePerformed op s <;> grind only [ResAtTick, OutAtTick, State.perform_tick, State.endOp_tick,
      nearStore_tick]

theorem execClauseStart_tick (s : State) :
    OutAtTick s.tick (execClauseStart s) := by
  fun_cases execClauseStart s <;> grind only [ResAtTick, OutAtTick, fetchC_tick, State.putG_tick, stackIo_tick,
      trapAtWord_tick, startClause_tick]

theorem execRegionEntry_tick (s : State) :
    OutAtTick s.tick (execRegionEntry s) := by
  fun_cases execRegionEntry s <;> simp

theorem execParkedJoinTimeout_tick (s : State) :
    OutAtTick s.tick (execParkedJoinTimeout s) := by
  fun_cases execParkedJoinTimeout s <;> exact rfl

theorem execLoadComplete_tick (op : Nat) (s : State) :
    OutAtTick s.tick (execLoadComplete op s) := by
  fun_cases execLoadComplete op s <;> grind only [ResAtTick, OutAtTick, State.perform_tick, State.endOp_tick, failRead_tick]

theorem execScalarAccessReturn_tick (op : Nat) (s : State) :
    OutAtTick s.tick (execScalarAccessReturn op s) := by
  fun_cases execScalarAccessReturn op s <;> grind only [ResAtTick, OutAtTick, State.publish_tick, State.perform_tick,
      State.endOp_tick, failRead_tick, windowRun_tick]

theorem execRecordLoadComplete_tick (op : Nat) (s : State) :
    OutAtTick s.tick (execRecordLoadComplete op s) := by
  fun_cases execRecordLoadComplete op s <;> grind only [ResAtTick, OutAtTick, State.perform_tick, State.endOp_tick,
      failRead_tick]

theorem performMu_tick {s : State} {checked : State × Checked} (hc : checked.1.tick = s.tick) (g : Group) (o : MuOp)
    (d0 d1 : Lanes) :
    OutAtTick s.tick (performMu s g o checked d0 d1) := by
  unfold performMu
  have h1 : (if o.begun then (s, .ok (o.places.getD [])) else checked).1.tick = s.tick := by
    split
    · rfl
    · exact hc
  split
  next => trivial
  next h => exact (holdMu_tick ..).trans (tick_of_eq h h1)
  next t ps h =>
  have ht := tick_of_eq h h1
  split
  · rfl
  split
  · rfl
  · exact (raise_tick ..).trans ((State.deliverEng_tick ..).trans ht)
  · split
    · exact (holdMu_tick ..).trans ((lostDetail_tick ..).trans ht)
    · exact (State.runMu_tick ..).trans ht

theorem execXqOperationPerform_tick (op : Nat) (s : State) :
    OutAtTick s.tick (execXqOperationPerform op s) := by
  unfold execXqOperationPerform
  split
  · rfl
  split
  · rfl
  split
  · split
    · exact dropMu_tick ..
    · rfl
  next h => exact performMu_tick (State.muCheck_tick h) ..

theorem execStorePerform_tick (op : Nat) (s : State) :
    OutAtTick s.tick (execStorePerform op s) := by
  unfold execStorePerform
  split
  · rfl
  split
  · rfl
  split
  · split
    · exact dropMu_tick ..
    · rfl
  next h => exact (State.lateError_tick ..).trans ((endMu_tick ..).trans (State.muCheck_tick h))
  next h => exact performMu_tick (State.muCheck_tick h) ..

theorem execNearMemoryComplete_tick (op : Nat) (s : State) :
    OutAtTick s.tick (execNearMemoryComplete op s) := by
  fun_cases execNearMemoryComplete op s <;> grind only [ResAtTick, OutAtTick, State.perform_tick, endNear_tick]

theorem finishLanes_tick {s : State} {r : LaneRun} (hr : r.s.tick = s.tick) (faulty : Bool) (o : LaneOp) (d : Nat) :
    OutAtTick s.tick (finishLanes s faulty o d r) := by
  unfold finishLanes
  split
  · split <;> trivial
  split
  · rfl
  split
  · exact hr
  · exact hr

theorem runSample_tick (s : State) (faulty : Bool) (o : LaneOp) (g : Group) :
    OutAtTick s.tick (runSample s faulty o g) := by
  unfold runSample
  extract_lets t g'
  split
  · exact finishLanes_tick (runLanes_tick _ (fun _ _ => sampleLane_tick ..) _) ..
  · exact finishLanes_tick (runLanes_tick _ (fun _ _ => gatherLane_tick ..) _) ..
  · rfl

theorem execSampleComplete_tick (op : Nat) (s : State) :
    OutAtTick s.tick (execSampleComplete op s) := by
  fun_cases execSampleComplete op s <;> grind only [ResAtTick, OutAtTick, runSample_tick]

theorem runTrace_tick (s : State) (faulty : Bool) (o : LaneOp) (g : Group) :
    OutAtTick s.tick (runTrace s faulty o g) := by
  unfold runTrace
  extract_lets bvh run
  have hrun : ∀ d init, OutAtTick s.tick (run d init) := by
    intro d init
    simp only [run]
    split
    · rfl
    next r h =>
      have hr : r.s.tick = s.tick := (congrArg (·.1.s.tick) h).symm.trans (runRays_tick ..)
      exact finishLanes_tick hr ..
  clear_value run
  split
  · exact hrun ..
  · exact hrun ..
  · rfl

theorem execTraversalComplete_tick (op : Nat) (s : State) :
    OutAtTick s.tick (execTraversalComplete op s) := by
  fun_cases execTraversalComplete op s <;> grind only [ResAtTick, OutAtTick, runTrace_tick]

theorem completeEng_tick (s : State) (op : Nat) (is : EngKind → Bool) :
    OutAtTick s.tick (completeEng s op is) := by
  fun_cases completeEng s op is <;> grind only [ResAtTick, OutAtTick, runEng_tick, State.engBegin_tick, counterAt_tick,
      endEng_tick, State.putEng_tick]

theorem faultEng_tick (s : State) (o : EngOp) (g : Group) :
    OutAtTick s.tick (faultEng s o g) := by
  fun_cases faultEng s o g <;> grind only [ResAtTick, OutAtTick, runEng_tick, State.engBegin_tick, counterAt_tick,
      State.putEng_tick]

theorem execEngineFault_tick (op : Nat) (s : State) :
    OutAtTick s.tick (execEngineFault op s) := by
  fun_cases execEngineFault op s <;> grind only [ResAtTick, OutAtTick, runSample_tick, runTrace_tick, faultEng_tick]

theorem execTranslationWalk_tick (v va acc : Nat) (sup : Bool) (s : State) :
    OutAtTick s.tick (execTranslationWalk v va acc sup s) := by
  fun_cases execTranslationWalk v va acc sup s <;> simp

theorem execSessionForm_tick (quad : Nat) (s : State) :
    OutAtTick s.tick (execSessionForm quad s) := by
  unfold execSessionForm
  extract_lets mine
  split
  · rfl
  dsimp only
  split
  · rfl
  split
  · dsimp only [OutAtTick]
    refine foldl_tick _ (fun s e => ?_) _
    rfl
  · rfl

theorem execPassGrant_tick (quad : Nat) (s : State) :
    OutAtTick s.tick (execPassGrant quad s) := by
  fun_cases execPassGrant quad s <;> grind only [ResAtTick, OutAtTick, State.setSession_tick, reload_tick, makeRoom_tick]

theorem execSurgeGrant_tick (quad : Nat) (s : State) :
    OutAtTick s.tick (execSurgeGrant quad s) := by
  fun_cases execSurgeGrant quad s <;> exact rfl

theorem onPassFault_tick (s : State) (k : Nat) (ss : Session) (p : Pass) (e : Except Fault Cause) :
    OutAtTick s.tick (onPassFault s k ss p e) := by
  fun_cases onPassFault s k ss p e <;> simp

theorem execStepStart_tick (quad : Nat) (s : State) :
    OutAtTick s.tick (execStepStart quad s) := by
  fun_cases execStepStart quad s <;> grind only [ResAtTick, OutAtTick, State.setSession_tick, firstStep_tick, latch_tick,
      State.leaderFl_tick, onPassFault_tick]

theorem execRowDecode_tick (quad array : Nat) (err : Option ResidueError) (s : State) :
    OutAtTick s.tick (execRowDecode quad array err s) := by
  fun_cases execRowDecode quad array err s <;> grind only [ResAtTick, OutAtTick, State.countEv_tick,
      State.setSession_tick, State.leaderFl_tick, rowAhead_tick, takeRow_tick, readNext_tick, checkFailed_tick,
      onPassFault_tick]

theorem execPassComplete_tick (quad : Nat) (s : State) :
    OutAtTick s.tick (execPassComplete quad s) := by
  fun_cases execPassComplete quad s <;> grind only [ResAtTick, OutAtTick, State.lateIfCut_tick, readTable_tick,
      writeRows_tick, endPass_tick, onPassFault_tick]

theorem execTopkSelect_tick (quad entry : Nat) (s : State) :
    OutAtTick s.tick (execTopkSelect quad entry s) := by
  fun_cases execTopkSelect quad entry s <;> grind only [ResAtTick, OutAtTick, State.parts_tick, State.lateIfCut_tick,
      EngOp.wrote_tick, writeElems_tick, State.setSession_tick, State.breakUp_tick, endPass_tick, selRow_tick,
      onPassFault_tick]

theorem execTrapEntry_tick (s : State) :
    OutAtTick s.tick (execTrapEntry s) := by
  fun_cases execTrapEntry s <;> simp

theorem execDecouplingDeadlock_tick (s : State) :
    OutAtTick s.tick (execDecouplingDeadlock s) := by
  fun_cases execDecouplingDeadlock s <;> simp

theorem execLateStoreError_tick (pc : Word) (s : State) :
    OutAtTick s.tick (execLateStoreError pc s) := by
  fun_cases execLateStoreError pc s <;> simp

theorem execYieldcWake_tick (s : State) :
    OutAtTick s.tick (execYieldcWake s) := by
  fun_cases execYieldcWake s <;> exact rfl

theorem execQuadPreempt_tick (quad : Nat) (s : State) :
    OutAtTick s.tick (execQuadPreempt quad s) := by
  fun_cases execQuadPreempt quad s <;> exact rfl

theorem execGroupSave_tick (s : State) :
    OutAtTick s.tick (execGroupSave s) := by
  fun_cases execGroupSave s <;> simp

theorem execForcedFullSave_tick (s : State) :
    OutAtTick s.tick (execForcedFullSave s) := by
  fun_cases execForcedFullSave s <;> simp

theorem execPreemptComplete_tick (quad : Nat) (s : State) :
    OutAtTick s.tick (execPreemptComplete quad s) := by
  fun_cases execPreemptComplete quad s <;> exact rfl

theorem execGroupRestore_tick (s : State) :
    OutAtTick s.tick (execGroupRestore s) := by
  fun_cases execGroupRestore s
  simp

theorem execNotify_tick (port : Nat) (fn : Option Nat) (w : Word) (s : State) :
    OutAtTick s.tick (execNotify port fn w s) := by
  fun_cases execNotify port fn w s <;> grind only [ResAtTick, OutAtTick, State.colophon_tick, State.refreshQueue_tick]

theorem execQueueMap_tick (q : Nat) (s : State) :
    OutAtTick s.tick (execQueueMap q s) := by
  fun_cases execQueueMap q s <;> exact rfl

theorem execStarvationEvent_tick (q : Nat) (s : State) :
    OutAtTick s.tick (execStarvationEvent q s) := by
  fun_cases execStarvationEvent q s <;> exact rfl

theorem execLaunchPacket_tick (q : Nat) (s : State) :
    OutAtTick s.tick (execLaunchPacket q s) := by
  fun_cases execLaunchPacket q s <;> grind only [ResAtTick, OutAtTick, State.readVa_tick, takePacket_tick]

theorem execTeamPlace_tick (lid : Nat) (s : State) :
    OutAtTick s.tick (execTeamPlace lid s) := by
  fun_cases execTeamPlace lid s
  · rfl
  · rfl
  · exact foldl_tick _ (by simp) s

theorem execLaunchComplete_tick (lid : Nat) (s : State) :
    OutAtTick s.tick (execLaunchComplete lid s) := by
  fun_cases execLaunchComplete lid s <;> grind only [ResAtTick, OutAtTick, writeRecord_tick, afterRecord_tick,
      mergedRecord_tick]

theorem execLaunchOverrun_tick (lid : Nat) (s : State) :
    OutAtTick s.tick (execLaunchOverrun lid s) := by
  fun_cases execLaunchOverrun lid s <;> simp

theorem execLaunchWatchdog_tick (lid : Nat) (s : State) :
    OutAtTick s.tick (execLaunchWatchdog lid s) := by
  fun_cases execLaunchWatchdog lid s
  · rfl
  · rfl
  · rfl
  · exact foldl_tick _ (fun _ _ => raise_tick ..) _

theorem execLaunchKill_tick (lid : Nat) (s : State) :
    OutAtTick s.tick (execLaunchKill lid s) := by
  fun_cases execLaunchKill lid s <;> simp

theorem execWindowEndPreempt_tick (p : Nat) (s : State) :
    OutAtTick s.tick (execWindowEndPreempt p s) := by
  fun_cases execWindowEndPreempt p s <;> exact rfl

theorem execWindowOpen_tick (p : Nat) (s : State) :
    OutAtTick s.tick (execWindowOpen p s) := by
  unfold execWindowOpen
  dsimp only
  split
  · exact foldl_tick _ (fun _ _ => State.bringBack_tick ..) s
  · rfl

theorem execRallocGrant_tick (v : Nat) (s : State) :
    OutAtTick s.tick (execRallocGrant v s) := by
  fun_cases execRallocGrant v s <;> grind only [ResAtTick, OutAtTick, State.setG_tick, State.node_tick, State.setGal_tick]

theorem execGalleyTimeout_tick (v : Nat) (s : State) :
    OutAtTick s.tick (execGalleyTimeout v s) := by
  fun_cases execGalleyTimeout v s <;> grind only [ResAtTick, OutAtTick, State.setGal_tick, State.galleyTime_tick]

theorem execFrameReclaim_tick (f : Nat) (s : State) :
    OutAtTick s.tick (execFrameReclaim f s) := by
  fun_cases execFrameReclaim f s <;> exact rfl

theorem execTlbInvalidationComplete_tick (v : Nat) (s : State) :
    OutAtTick s.tick (execTlbInvalidationComplete v s) := by
  fun_cases execTlbInvalidationComplete v s <;> grind only [ResAtTick, OutAtTick, State.setVf_tick, State.dropTlb_tick,
      State.performVf_tick]

theorem execSplinterComplete_tick (v : Nat) (s : State) :
    OutAtTick s.tick (execSplinterComplete v s) := by
  fun_cases execSplinterComplete v s
  case case6 => rfl
  all_goals simp

theorem execGranuleZeroFill_tick (s : State) :
    OutAtTick s.tick (execGranuleZeroFill s) := by
  fun_cases execGranuleZeroFill s <;> exact rfl

theorem execSurfaceTableRead_tick (s : State) :
    OutAtTick s.tick (execSurfaceTableRead s) := by
  unfold execSurfaceTableRead
  obtain ⟨g, hg, h⟩ : ∃ f, f = @readSurf ∧ ∀ s i d, (f s i d).tick = s.tick := ⟨_, rfl, readSurf_tick⟩
  rw [← hg]
  clear hg
  extract_lets m off ix t
  have ht : t.tick = s.tick := foldl_tick _ (fun _ _ => h ..) s
  clear_value t
  generalize s.surfAt 64 = a
  split
  · rfl
  split
  · trivial
  · exact ht

theorem execFrameStart_tick (surf : Nat) (s : State) :
    OutAtTick s.tick (execFrameStart surf s) := by
  fun_cases execFrameStart surf s <;> grind only [ResAtTick, OutAtTick, readSurf_tick]

theorem execScanoutLine_tick (surf : Nat) (s : State) :
    OutAtTick s.tick (execScanoutLine surf s) := by
  fun_cases execScanoutLine surf s <;> grind only [ResAtTick, OutAtTick, State.writeVaBlk_tick, State.touchWords_tick]

theorem execWarpLatch_tick (surf : Nat) (s : State) :
    OutAtTick s.tick (execWarpLatch surf s) := by
  fun_cases execWarpLatch surf s <;> grind only [ResAtTick, OutAtTick, State.readVa_tick, latch_tick]

theorem execProofPoint_tick (surf layer : Nat) (s : State) :
    OutAtTick s.tick (execProofPoint surf layer s) := by
  fun_cases execProofPoint surf layer s <;> grind only [ResAtTick, OutAtTick, State.pairs_tick, failFrame_tick]

theorem execFennelPassStart_tick (quad : Nat) (s : State) :
    OutAtTick s.tick (execFennelPassStart quad s) := by
  fun_cases execFennelPassStart quad s <;> exact rfl

theorem execFennelPassEnd_tick (quad : Nat) (sound : Bool) (s : State) :
    OutAtTick s.tick (execFennelPassEnd quad sound s) := by
  fun_cases execFennelPassEnd quad sound s <;> simp

theorem execSramCorrectedError_tick (site : SramSite) (s : State) :
    OutAtTick s.tick (execSramCorrectedError site s) := by
  fun_cases execSramCorrectedError site s <;> simp

theorem execSramUncorrectableError_tick (site : SramSite) (s : State) :
    OutAtTick s.tick (execSramUncorrectableError site s) := by
  fun_cases execSramUncorrectableError site s <;> grind only [ResAtTick, OutAtTick, State.colophon_tick,
      State.lateError_tick, readError_tick]

theorem execMemoryScrub_tick (s : State) :
    OutAtTick s.tick (execMemoryScrub s) := by
  fun_cases execMemoryScrub s <;> exact rfl

theorem execThermalTrip_tick (degrees : Nat) (s : State) :
    OutAtTick s.tick (execThermalTrip degrees s) := by
  fun_cases execThermalTrip degrees s <;> grind only [ResAtTick, OutAtTick, State.colophon_tick]

theorem execCoolantHot_tick (hot : Bool) (s : State) :
    OutAtTick s.tick (execCoolantHot hot s) := by
  exact rfl

theorem execHousekeepingWatchdog_tick (s : State) :
    OutAtTick s.tick (execHousekeepingWatchdog s) := by
  fun_cases execHousekeepingWatchdog s
  simp

theorem execHostMemoryWrite_tick (port pa : Nat) (bytes : List Byte) (s : State) :
    OutAtTick s.tick (execHostMemoryWrite port pa bytes s) := by
  unfold execHostMemoryWrite
  split
  · rfl
  · exact getD_tick (fun t => outsideWrite_tick _ _ _ t) rfl

theorem execLinkFlitReceive_tick (port : Nat) (sound : Bool) (pa : Nat) (bytes : List Byte) (s : State) :
    OutAtTick s.tick (execLinkFlitReceive port sound pa bytes s) := by
  fun_cases execLinkFlitReceive port sound pa bytes s <;> grind only [ResAtTick, OutAtTick, deliverFlits_tick]

theorem execLinkReplayLimit_tick (port trained : Nat) (s : State) :
    OutAtTick s.tick (execLinkReplayLimit port trained s) := by
  fun_cases execLinkReplayLimit port trained s <;> simp

theorem execLretrain_tick (port : Nat) (w : Word) (s : State) :
    OutAtTick s.tick (execLretrain port w s) := by
  refine portWrite_tick (fun s => ?_) ..
  dsimp only
  split <;> split <;> simp

theorem execPortReset_tick (port : Nat) (s : State) :
    OutAtTick s.tick (execPortReset port s) := by
  fun_cases execPortReset port s
  simp

theorem execSemAcquire_tick (port : Nat) (s : State) :
    OutAtTick s.tick (execSemAcquire port s) := by
  fun_cases execSemAcquire port s <;> exact rfl

theorem execSemRelease_tick (port : Nat) (w : Word) (s : State) :
    OutAtTick s.tick (execSemRelease port w s) := by
  fun_cases execSemRelease port w s <;> exact rfl

theorem execPwrcapWrite_tick (port : Nat) (w : Word) (s : State) :
    OutAtTick s.tick (execPwrcapWrite port w s) := by
  refine portWrite_tick (fun s => ?_) ..
  dsimp only
  split
  · rfl
  · split <;> rfl

theorem execPartitionWrite_tick (port p word : Nat) (w : Word) (s : State) :
    OutAtTick s.tick (execPartitionWrite port p word w s) := by
  unfold execPartitionWrite
  split
  · rfl
  · exact portWrite_tick (fun _ => writePart_tick ..) ..

theorem execWindowTableWrite_tick (port idx : Nat) (w : Word) (s : State) :
    OutAtTick s.tick (execWindowTableWrite port idx w s) := by
  unfold execWindowTableWrite
  split
  · rfl
  · exact portWrite_tick (fun s => by split <;> simp) ..

theorem execGrant_tick (port : Nat) (w : Word) (s : State) :
    OutAtTick s.tick (execGrant port w s) := by
  unfold execGrant
  extract_lets g v free may
  refine portWrite_tick (fun s => ?_) ..
  split
  · rfl
  · dsimp only
    split <;> rfl

theorem execTlbinv_tick (port vf : Nat) (hi : Bool) (w : Word) (s : State) :
    OutAtTick s.tick (execTlbinv port vf hi w s) := by
  unfold execTlbinv
  split
  · rfl
  refine portWrite_tick (fun s => half64_tick (fun s x => ?_) ..) ..
  dsimp only
  split <;> simp

theorem execSplinter_tick (port vf : Nat) (hi : Bool) (w : Word) (s : State) :
    OutAtTick s.tick (execSplinter port vf hi w s) := by
  unfold execSplinter
  split
  · rfl
  refine portWrite_tick (fun s => half64_tick (fun s x => ?_) ..) ..
  dsimp only
  split <;> simp

theorem execFramePoolWrite_tick (port which : Nat) (w : Word) (s : State) :
    OutAtTick s.tick (execFramePoolWrite port which w s) := by
  unfold execFramePoolWrite
  split
  · rfl
  refine portWrite_tick (fun s => ?_) ..
  have h : (s.reclaim.foldl (fun (s : State) f => s.cleanFrame f) s).tick = s.tick := foldl_tick _ (fun _ _ =>
      State.cleanFrame_tick ..) s
  split
  · rfl
  · dsimp only
    split <;> exact h

theorem execSafesetWrite_tick (port which : Nat) (w : Word) (s : State) :
    OutAtTick s.tick (execSafesetWrite port which w s) := by
  unfold execSafesetWrite
  split
  · rfl
  refine portWrite_tick (fun s => ?_) ..
  dsimp only
  split <;> rfl

theorem execColophonUnfreeze_tick (port : Nat) (w : Word) (s : State) :
    OutAtTick s.tick (execColophonUnfreeze port w s) := by
  refine portWrite_tick (fun s => ?_) ..
  split <;> rfl

theorem execRegisterWrite_tick (port off : Nat) (w : Word) (s : State) :
    OutAtTick s.tick (execRegisterWrite port off w s) := by
  unfold execRegisterWrite
  split
  · rfl
  · exact portWrite_tick (fun _ => writeReg_tick ..) ..

end Sys2Proof.Machine

namespace Sys2Proof.Machine

/-! ### No stream holds a device reset -/

-- One after another, as in Sys2Proof/Tests/Slice0.lean: a thread for each proof would need more memory than the check allows.
set_option Elab.async false

/-- What is decoded, if it is an instruction, is one of a stream, and no step of an agent. -/
def Decoded.OfStream (r : Decoded) : Prop := ∀ i ∈ r.toOption, Instr.isEvent i = false

theorem Decoded.OfStream.error (e : Illegal) : Decoded.OfStream (.error e) :=
  fun _ h => absurd h (Option.not_mem_none _)

theorem Decoded.OfStream.ok {i : Instr} (h : Instr.isEvent i = false) : Decoded.OfStream (.ok i) :=
  fun _ hj => Option.some.inj hj ▸ h

theorem zerosA_ofStream {i : Instr} (h : Instr.isEvent i = false) (w0 : BitVec 32) (z0 : List (Nat × Nat)) (w1 : BitVec 32)
    (z1 : List (Nat × Nat)) : Decoded.OfStream (zerosA w0 z0 w1 z1 i) := by
  fun_cases zerosA w0 z0 w1 z1 i
  · exact .error _
  · exact .error _
  · exact .ok h

theorem zeros_ofStream {i : Instr} (h : Instr.isEvent i = false) (w : BitVec 96) (z : List (Nat × Nat)) :
    Decoded.OfStream (zeros w z i) := by
  fun_cases zeros w z i
  · exact .error _
  · exact .error _
  · exact .ok h

theorem decodeA_ofStream (w0 w1 : BitVec 32) : Decoded.OfStream (decodeA w0 w1) := by
  fun_cases decodeA w0 w1
  any_goals exact zerosA_ofStream rfl _ _ _ _
  all_goals exact .error _

theorem decodeC_ofStream (w : BitVec 96) : Decoded.OfStream (decodeC w) := by
  fun_cases decodeC w
  any_goals exact zeros_ofStream rfl _ _
  all_goals exact .error _

/-- A turn that resets the device: none of a stream is (`turnOf_ne_deviceReset`). -/
def Turning.Resets (t : Turning) : Prop := t = .runs .deviceReset

theorem not_resets_of_ofStream {r : Decoded} {i : Instr} (hr : Decoded.OfStream r) (h : r = .ok i) :
    ¬ (Turning.runs i).Resets := by
  subst h
  rintro ⟨⟩
  exact absurd (hr _ rfl) (by decide)

theorem failed_not_resets (cside : Bool) (va : Nat) (f : AFault) : ¬ (Turning.failed cside va f).Resets := by
  cases f <;> exact nofun

theorem failedTurn_not_resets (s : State) (g : Group) (split : Option Nat) (va : Nat) (f : AFault) :
    ¬ (failedTurn s g split va f).2.Resets := by
  fun_cases failedTurn s g split va f
  case case3 => exact failed_not_resets _ _ _
  all_goals exact nofun

theorem fetchA_not_resets (s : State) (g : Group) : ¬ (fetchA s g).2.Resets := by
  fun_cases fetchA s g
  case case1 => exact failedTurn_not_resets _ _ _ _ _
  case case2 => exact failedTurn_not_resets _ _ _ _ _
  case case3 => exact not_resets_of_ofStream (decodeA_ofStream _ _) ‹_›
  case case4 => exact nofun

theorem withinClause_not_resets (s : State) (g : Group) (k : Nat) (p : Split) : ¬ (withinClause s g k p).2.Resets := by
  fun_cases withinClause s g k p
  case case1 he =>
    split at he
    · split at he
      · split at he
        · cases he
          exact nofun
        · split at he <;> cases he
          exact nofun
      · have ht := Option.some.inj (congrArg Prod.snd he)
        exact ht ▸ failedTurn_not_resets _ _ _ _ _
    · cases he
  case case2 => exact failedTurn_not_resets _ _ _ _ _
  case case3 => exact not_resets_of_ofStream (decodeC_ofStream _) ‹_›
  case case4 => exact nofun

theorem turnC_not_resets (s : State) (g : Group) (k : Nat) : ¬ (turnC s g k).2.Resets := by
  fun_cases turnC s g k
  case case3 => split <;> exact nofun
  case case6 => exact withinClause_not_resets _ _ _ _
  all_goals exact nofun

theorem turnOf_not_resets (s : State) {w : What} (hw : w ≠ .ev .deviceReset) : ¬ (turnOf s w).2.Resets := by
  fun_cases turnOf s w
  case case1 i =>
    split
    · rintro ⟨⟩
      exact hw rfl
    · exact nofun
  case case2 => exact fetchA_not_resets _ _
  case case5 => exact turnC_not_resets _ _ _
  all_goals exact nofun

end Sys2Proof.Machine

namespace Sys2Proof.Machine

/-! ### A step -/

-- One after another, as in Sys2Proof/Tests/Slice0.lean: a thread for each proof would need more memory than the check allows.
set_option Elab.async false

theorem exec_tick_of_ne (i : Instr) (hs : i ≠ .shadowReplay) (hd : i ≠ .deviceReset) (s : State) :
    OutAtTick s.tick (exec i s) := by
  cases i <;> unfold exec
  case add | sub | and | or | xor | andn | shlA | shrA | sra | rot | slt | sltu | min | max | minu | maxu |
      mul | mulh | mulhu | div | divu | rem | remu | bfeA =>
    exact aBin_tick ..
  case clzA | popcA | brevA | sextb | sexth | addi | andi | ori | xori | slti | sltiu | shli | shri | srai |
      roti | muli =>
    exact aUn_tick ..
  case bfiA | lui =>
    exact aWrite_tick ..
  case beq | bne | blt | bge | bltu | bgeu =>
    exact aBranch_tick ..
  case jal | dbnz | nop | rdsr | wrsr | yield | rdtime =>
    exact aIssue_tick _ (by intros; exact rfl) s
  case cls | clsr =>
    exact aIssue_tick _ (fun _ _ => pushClq_tick ..) s
  case cpyBar | cpyCnt =>
    exact aIssue_tick _ (fun _ _ => issueCopy_tick ..) s
  case fenceAcq | fenceRel | fenceAcqrel =>
    exact aIssue_tick _ (fun _ _ => fence_tick ..) s
  case fadd | fsub | fmul | ffma | fmin | fmax | fminn | fmaxn | fclamp | frnd | fdiv | fsqrt | flerp |
      fdot3 =>
    exact f32Op_tick ..
  case fset | hset2 | iset =>
    exact cPred_tick ..
  case fclass | fldexp | fexpo | frcp | frsq | fexp2 | flog2 | fsin | fcos | hdot2 | cvt | pack | unpk =>
    exact cLanes_tick ..
  case hadd2 | hmul2 | hfma2 | hmin2 | hmax2 =>
    exact packedOp_tick ..
  case iadd | isub | imul | imad | imulh | imin | imax | iabs | iadd3 | ltab | shl | shr | shra | shf | bfe
      | bfes | bfi | popc | clz | brev | idp4 | idp2 | isad | iclamp | rnenc | rndec | rnmad | mov =>
    exact intOp_tick ..
  case sel | perm | bcast | bcastf | voteballot | matchany | matchlead =>
    exact laneOp_tick ..
  case shflup | shfldn | shflx | shflr =>
    exact shfl_tick ..
  case voteall | voteany | votesame | matchall | pltab =>
    exact lanePred_tick ..
  case brd | jmp | join | endc | callc | retc =>
    exact flow_tick ..
  case nopc =>
    exact cIssue_tick _ (by intros; exact rfl) s
  case ldl | lds | ldc =>
    exact nearLoad_tick ..
  case stl | sts | stc =>
    exact nearStore_tick ..
  case atoms | atomc =>
    exact nearAtomic_tick ..
  case sample | gath4 =>
    exact issueSample_tick ..
  case trace | tresume =>
    exact issueTrace_tick ..
  case tcand | tquery =>
    exact rayQuery_tick ..
  case copyComplete | coverComplete | tstoreComplete =>
    exact completeEng_tick ..
  case vfmapWrite | qtbaseWrite | prqheadWrite | retest =>
    exact portWrite_tick (by simp) ..
  case jalr => exact execJalr_tick ..
  case spush => exact execSpush_tick ..
  case bpop => exact execBpop_tick ..
  case ldv => exact execLdv_tick ..
  case ldg => exact execLdg_tick ..
  case stv => exact execStv_tick ..
  case stx => exact execStx_tick ..
  case lda => exact execLda_tick ..
  case sta => exact execSta_tick ..
  case prf => exact execPrf_tick ..
  case atv => exact execAtv_tick ..
  case ata => exact execAta_tick ..
  case bld => exact execBld_tick ..
  case bset => exact execBset_tick ..
  case tld => exact execTld_tick ..
  case cwait => exact execCwait_tick ..
  case yieldc => exact execYieldc_tick ..
  case binit => exact execBinit_tick ..
  case barv => exact execBarv_tick ..
  case bwaita => exact execBwaita_tick ..
  case barvw => exact execBarvw_tick ..
  case bexp => exact execBexp_tick ..
  case btry => exact execBtry_tick ..
  case mxbind => exact execMxbind_tick ..
  case mxloop => exact execMxloop_tick ..
  case mxconv => exact execMxconv_tick ..
  case mxsel => exact execMxsel_tick ..
  case mxrel => exact execMxrel_tick ..
  case mxstat => exact execMxstat_tick ..
  case cover => exact execCover_tick ..
  case ralloc => exact execRalloc_tick ..
  case rcommit => exact execRcommit_tick ..
  case rdone => exact execRdone_tick ..
  case rinput => exact execRinput_tick ..
  case rdepth => exact execRdepth_tick ..
  case tstore => exact execTstore_tick ..
  case waitf => exact execWaitf_tick ..
  case trap => exact execTrap_tick ..
  case tret => exact execTret_tick ..
  case exit => exact execExit_tick ..
  case csync => exact execCsync_tick ..
  case haltd => exact execHaltd_tick ..
  case reduce => exact execReduce_tick ..
  case scan => exact execScan_tick ..
  case regroup => exact execRegroup_tick ..
  case sreg => exact execSreg_tick ..
  case pop => exact execPop_tick ..
  case drop => exact execDrop_tick ..
  case push => exact execPush_tick ..
  case pmov => exact execPmov_tick ..
  case pmovw => exact execPmovw_tick ..
  case kill => exact execKill_tick ..
  case tfence => exact execTfence_tick ..
  case bwait => exact execBwait_tick ..
  case barvc => exact execBarvc_tick ..
  case ctrap => exact execCtrap_tick ..
  case treport => exact execTreport_tick ..
  case tabort => exact execTabort_tick ..
  case mxfeed => exact execMxfeed_tick ..
  case illegalInstruction => exact execIllegalInstruction_tick ..
  case fetchFault => exact execFetchFault_tick ..
  case hostBreak => exact execHostBreak_tick ..
  case hostDebugControl => exact execHostDebugControl_tick ..
  case writePerformed => exact execWritePerformed_tick ..
  case clauseStart => exact execClauseStart_tick ..
  case regionEntry => exact execRegionEntry_tick ..
  case parkedJoinTimeout => exact execParkedJoinTimeout_tick ..
  case loadComplete => exact execLoadComplete_tick ..
  case scalarAccessReturn => exact execScalarAccessReturn_tick ..
  case recordLoadComplete => exact execRecordLoadComplete_tick ..
  case xqOperationPerform => exact execXqOperationPerform_tick ..
  case storePerform => exact execStorePerform_tick ..
  case nearMemoryComplete => exact execNearMemoryComplete_tick ..
  case sampleComplete => exact execSampleComplete_tick ..
  case traversalComplete => exact execTraversalComplete_tick ..
  case engineFault => exact execEngineFault_tick ..
  case translationWalk => exact execTranslationWalk_tick ..
  case sessionForm => exact execSessionForm_tick ..
  case passGrant => exact execPassGrant_tick ..
  case surgeGrant => exact execSurgeGrant_tick ..
  case stepStart => exact execStepStart_tick ..
  case rowDecode => exact execRowDecode_tick ..
  case passComplete => exact execPassComplete_tick ..
  case topkSelect => exact execTopkSelect_tick ..
  case trapEntry => exact execTrapEntry_tick ..
  case decouplingDeadlock => exact execDecouplingDeadlock_tick ..
  case lateStoreError => exact execLateStoreError_tick ..
  case yieldcWake => exact execYieldcWake_tick ..
  case quadPreempt => exact execQuadPreempt_tick ..
  case groupSave => exact execGroupSave_tick ..
  case forcedFullSave => exact execForcedFullSave_tick ..
  case preemptComplete => exact execPreemptComplete_tick ..
  case groupRestore => exact execGroupRestore_tick ..
  case notify => exact execNotify_tick ..
  case queueMap => exact execQueueMap_tick ..
  case starvationEvent => exact execStarvationEvent_tick ..
  case launchPacket => exact execLaunchPacket_tick ..
  case teamPlace => exact execTeamPlace_tick ..
  case launchComplete => exact execLaunchComplete_tick ..
  case launchOverrun => exact execLaunchOverrun_tick ..
  case launchWatchdog => exact execLaunchWatchdog_tick ..
  case launchKill => exact execLaunchKill_tick ..
  case windowEndPreempt => exact execWindowEndPreempt_tick ..
  case windowOpen => exact execWindowOpen_tick ..
  case rallocGrant => exact execRallocGrant_tick ..
  case galleyTimeout => exact execGalleyTimeout_tick ..
  case frameReclaim => exact execFrameReclaim_tick ..
  case tlbInvalidationComplete => exact execTlbInvalidationComplete_tick ..
  case splinterComplete => exact execSplinterComplete_tick ..
  case granuleZeroFill => exact execGranuleZeroFill_tick ..
  case surfaceTableRead => exact execSurfaceTableRead_tick ..
  case frameStart => exact execFrameStart_tick ..
  case scanoutLine => exact execScanoutLine_tick ..
  case warpLatch => exact execWarpLatch_tick ..
  case proofPoint => exact execProofPoint_tick ..
  case fennelPassStart => exact execFennelPassStart_tick ..
  case fennelPassEnd => exact execFennelPassEnd_tick ..
  case sramCorrectedError => exact execSramCorrectedError_tick ..
  case sramUncorrectableError => exact execSramUncorrectableError_tick ..
  case memoryScrub => exact execMemoryScrub_tick ..
  case thermalTrip => exact execThermalTrip_tick ..
  case coolantHot => exact execCoolantHot_tick ..
  case housekeepingWatchdog => exact execHousekeepingWatchdog_tick ..
  case hostMemoryWrite => exact execHostMemoryWrite_tick ..
  case linkFlitReceive => exact execLinkFlitReceive_tick ..
  case linkReplayLimit => exact execLinkReplayLimit_tick ..
  case lretrain => exact execLretrain_tick ..
  case portReset => exact execPortReset_tick ..
  case semAcquire => exact execSemAcquire_tick ..
  case semRelease => exact execSemRelease_tick ..
  case pwrcapWrite => exact execPwrcapWrite_tick ..
  case partitionWrite => exact execPartitionWrite_tick ..
  case windowTableWrite => exact execWindowTableWrite_tick ..
  case grant => exact execGrant_tick ..
  case tlbinv => exact execTlbinv_tick ..
  case splinter => exact execSplinter_tick ..
  case framePoolWrite => exact execFramePoolWrite_tick ..
  case safesetWrite => exact execSafesetWrite_tick ..
  case colophonUnfreeze => exact execColophonUnfreeze_tick ..
  case registerWrite => exact execRegisterWrite_tick ..
  case shadowReplay => exact absurd rfl hs
  case deviceReset => exact absurd rfl hd

theorem runC_tick (i : Instr) (s : State) : OutAtTick s.tick (runC i s) := by
  by_cases hd : i = .deviceReset
  · subst hd
    rfl
  rcases runC_eq i s with h | ⟨h, hi⟩
  · rw [h]
    rfl
  · rw [h]
    exact exec_tick_of_ne i hi hd s

theorem tick_of_next {n : Nat} {r : Out} {t : State} (h : OutAtTick n r) (hr : r = .next t) : t.tick = n := by
  subst hr
  exact h

theorem replayCompared_tick (s : State) (g : Group) (c : CSide) (it : LogItem) (i : Instr) :
    OutAtTick s.tick (replayCompared s g c it i) := by
  have h := runC_tick i { s with cur := { gid := g.who.gid, split := it.split, mode := 2 } }
  have hn := fun t ht => tick_of_next (t := t) h ht
  fun_cases replayCompared s g c it i
  case case1 =>
    have ht := hn _ ‹runC _ _ = .next _›
    exact ht
  case case2 => rfl
  case case3 => exact shadowTrap_tick ..
  case case4 =>
    have ht := hn _ ‹runC _ _ = .next _›
    exact (State.setG_tick ..).trans ht
  case case5 => exact h

theorem execShadowReplay_tick (s : State) : OutAtTick s.tick (execShadowReplay s) := by
  fun_cases execShadowReplay s
  case case4 => exact replayCompared_tick ..
  case case5 => exact State.putG_tick ..
  all_goals rfl

/-- Every instruction and every step of an agent but a device reset leaves the time; what a turn takes, `State.begin`
    adds. -/
theorem exec_tick (i : Instr) (hd : i ≠ .deviceReset) (s : State) : OutAtTick s.tick (exec i s) := by
  by_cases hs : i = .shadowReplay
  · subst hs
    exact execShadowReplay_tick s
  · exact exec_tick_of_ne i hs hd s

theorem begin_tick (s : State) (t : Turn) : (s.begin t).tick = s.tick + t.adv := rfl

/-- A step but a device reset adds to the time what its turn takes. -/
theorem step_tick {s t : State} (h : step s = .next t) (hd : s.nextTurn.1.what ≠ .ev .deviceReset) :
    t.tick = s.tick + s.nextTurn.1.adv := by
  have hb : ((s.nextTurn.2.galleyTo s.nextTurn.1.adv).begin s.nextTurn.1).tick = s.tick + s.nextTurn.1.adv := by
    rw [begin_tick, State.galleyTo_tick, State.nextTurn_tick]
  have ht := (turnOf_tick ((s.nextTurn.2.galleyTo s.nextTurn.1.adv).begin s.nextTurn.1) s.nextTurn.1.what).trans hb
  have hn := turnOf_not_resets ((s.nextTurn.2.galleyTo s.nextTurn.1.adv).begin s.nextTurn.1) hd
  generalize hs : (s.nextTurn.2.galleyTo s.nextTurn.1.adv).begin s.nextTurn.1 = s1 at ht hn
  unfold step at h
  simp only [hs] at h
  split at h
  · cases h
  split at h
  next he =>
    cases h
    rw [he] at ht
    exact ht
  next i he =>
    rw [he] at ht hn
    have hi : i ≠ .deviceReset := fun hi => hn (congrArg Turning.runs hi)
    exact tick_of_next (ht ▸ counted_tick (exec_tick i hi _) ..) h
  · cases h

/-- Settles O58: an instruction or step keeps the time (`exec_tick`), and beginning a turn adds to it. -/
theorem timeNeverRunsBack : Obligations.TimeNeverRunsBack := by
  intro s t h hd
  refine Nat.div_le_div_right ?_
  rw [step_tick h hd]
  exact Nat.le_add_right ..

end Sys2Proof.Machine

namespace Sys2Proof.Machine

/-! ## The state after reset (15 R379) -/

/-- Settles O56: every field is one of `State.reset` written out, and the invariant is about empty memories and tables. -/
theorem resetState : Obligations.ResetState := by
  refine ⟨rfl, rfl, rfl, rfl, rfl, rfl, rfl, rfl, rfl, rfl, rfl, ?_, ?_⟩
  · exact ⟨rfl, rfl, rfl, rfl, rfl, List.forall_mem_nil _, List.forall_mem_nil _, List.forall_mem_nil _⟩
  · exact ⟨List.Pairwise.nil, List.forall_mem_nil _⟩

end Sys2Proof.Machine

namespace Sys2Proof.Machine

/-! ## The special registers (01 R34-R42) -/

/-- A read of a listed special register answers its value of R34-R41. -/
theorem readSr_of_mem {s : State} {g : Group} {n : Nat} {x : Word} (h : (n, x) ∈ Claims.special s g) : readSr s g n = x := by
  have hs : (Claims.special s g).Forall fun e => readSr s g e.1 = e.2 := by
    unfold Claims.special
    repeat' constructor
  exact List.forall_iff_forall_mem.mp hs _ h

theorem execRdsr_of_issueA {s : State} {g : Group} {d : BitVec 6} {idx : BitVec 10} (h : issueA s (.rdsr d idx) = some g) :
    execRdsr d idx s = .next (s.doneA (((if idx = 0x014 then { g with sys.timeHi := BitVec.ofNat 32 (s.time / 2 ^ 32) } else g
      : Group).wa d.toNat (readSr s g idx.toNat)).adv)) := by
  rw [execRdsr, aIssue_of_issueA h, finishA_done]
  rfl

theorem execRdtime_of_issueA {s : State} {g : Group} {d : BitVec 6} (h : issueA s (.rdtime d) = some g) :
    execRdtime d s = .next (s.doneA (((g.wa d.toNat (BitVec.ofNat 32 s.time)).wa (d.toNat + 1)
      (BitVec.ofNat 32 (s.time / 2 ^ 32))).adv)) := by
  rw [execRdtime, aIssue_of_issueA h, finishA_done]
  rfl

theorem execWrsr_of_issueA {s : State} {g : Group} {a : BitVec 6} {idx : BitVec 10} (h : issueA s (.wrsr a idx) = some g) :
    execWrsr a idx s = .next (s.doneA ((writeSr g idx.toNat (g.ra a.toNat)).adv)) := by
  rw [execWrsr, aIssue_of_issueA h, finishA_done]

/-- A write of any register but the six writable ones is ignored (01 R34). -/
theorem writeSr_of_not_mem {idx : BitVec 10} (h : idx ∉ [0x000, 0x001, 0x100, 0x101, 0x102, 0x103]) (g : Group) (x : Word) :
    writeSr g idx.toNat x = g := by
  simp only [List.mem_cons, List.not_mem_nil, or_false, not_or, BitVec.toNat_eq] at h
  unfold writeSr
  split <;> simp_all

theorem specialReads : Claims.specialReads := by
  refine ⟨fun s g d idx x h hx => ?_, fun s g d h => execRdtime_of_issueA h⟩
  rw [← readSr_of_mem hx]
  exact execRdsr_of_issueA h

theorem specialWrites : Claims.specialWrites := by
  intro s g a idx h x
  have hx : exec (.wrsr a idx) s = .next (s.doneA ((writeSr g idx.toNat x).adv)) := execWrsr_of_issueA h
  rw [hx]
  refine ⟨?_, ?_, ?_, ?_, ?_, ?_, fun hi => by rw [writeSr_of_not_mem hi]⟩
  all_goals
    rintro rfl
    rfl

/-- Settles O14, register by register (`readSr_of_mem`, `writeSr_of_not_mem`). -/
theorem specialRegisters : Obligations.SpecialRegisters := ⟨specialReads, specialWrites⟩

end Sys2Proof.Machine

namespace Sys2Proof.Machine

/-! ## Privilege (02 R59, R73) -/

theorem aIssue_of_aCheck {s : State} {g : Group} {i : Instr} {c : Cause} (hg : s.grp? = some g) (hc : aCheck s g i = some c)
    (body : Group → State → Res) : aIssue i body s = .next (raise s s.cur.gid (aPending g i c)) := by
  simp only [aIssue, hg, hc, finishA]

/-- The check of privilege is the last one: where the earlier ones pass, it is the one that answers. -/
theorem aCheck_of_aPriv {s : State} {g : Group} {i : Instr} {p : Nat × Nat} (hv : violation i = none)
    (hm : mxEpilogue s g i = none) (hn : ∀ r ∈ aNamed i, r.1 < (s.pk g).aregs ∨ 61 ≤ r.1 ∧ r.1 ≤ 63) (hq : aQueues i = [])
    (hp : aPriv i = some p) (hu : g.sys.priv = false) : aCheck s g i = some (Cause.mk' 2 p.1 p.2) := by
  have hf : (aNamed i).find? (fun r => decide ((s.pk g).aregs ≤ r.1) && !(decide (61 ≤ r.1) && decide (r.1 ≤ 63))) = none := by
    rw [List.find?_eq_none]
    intro r hr
    simpa [Classical.or_iff_not_imp_left] using hn r hr
  simp only [aCheck, hv, hm, hf, hq, hp, hu, Option.map_none, Option.or_none, List.find?_nil, Bool.false_eq_true, if_false]

/-- Settles O15: of what the checks ask, the privilege alone is missing (`aCheck_of_aPriv`). -/
theorem privilegeTraps : Obligations.PrivilegeTraps := by
  rintro s g i hg hu ⟨hv, hn⟩
  refine ⟨?_, ?_⟩
  · rintro ⟨d, idx, rfl | rfl, hidx⟩
    · refine ⟨Cause.mk' 2 1 idx.toNat, rfl, rfl, ?_⟩
      show execRdsr d idx s = _
      exact aIssue_of_aCheck hg (aCheck_of_aPriv hv rfl hn rfl (if_pos hidx) hu) _
    · refine ⟨Cause.mk' 2 1 idx.toNat, rfl, rfl, ?_⟩
      show execWrsr d idx s = _
      exact aIssue_of_aCheck hg (aCheck_of_aPriv hv rfl hn rfl (if_pos hidx) hu) _
  · rintro (rfl | rfl)
    · refine ⟨Cause.mk' 2 2 0, rfl, rfl, ?_⟩
      show execTret s = _
      exact aIssue_of_aCheck hg (aCheck_of_aPriv hv rfl hn rfl rfl hu) _
    · refine ⟨Cause.mk' 2 2 0, rfl, rfl, ?_⟩
      show execHaltd s = _
      exact aIssue_of_aCheck hg (aCheck_of_aPriv hv rfl hn rfl rfl hu) _

end Sys2Proof.Machine

namespace Sys2Proof.Machine

/-! ## SREG (06 R186, 01 R42) -/

/-- In an ordinary issue the lanes' results are written, the events and flags of the instruction counted. -/
theorem putLanes_of_mode {s : State} (hm : s.cur.mode = 0) (g : Group) (e : CEnv) (d : Dst) (f : Nat → Word) (fl : Fl)
    (ev : List Nat) : putLanes s g e d f fl ev =
      (s.putG ((g.writeDst e.k d e.en f s.tick).raiseFl fl)).countEv (g.writeDst e.k d e.en f s.tick).who.lid ev := by
  simp [putLanes, hm]

theorem srSel_cases : ∀ sel : BitVec 3, sel.toNat ≤ 4 → sel = 0 ∨ sel = 1 ∨ sel = 2 ∨ sel = 3 ∨ sel = 4 := by
  decide

/-- Settles O28: selector by selector. -/
theorem identityReads : Obligations.IdentityReads := by
  intro s x sel d y h hsel g f
  have hm : (s.putG (x.past s)).cur.mode = 0 := (State.putG_cur ..).symm ▸ issueC_mode h
  have hs : sel = 0 ∨ sel = 1 ∨ sel = 2 ∨ sel = 3 ∨ sel = 4 := srSel_cases sel hsel
  show execSreg sel d y s = _
  rw [execSreg, cIssue_of_issueC h]
  rcases hs with rfl | rfl | rfl | rfl | rfl
  all_goals
    dsimp only
    rw [putLanes_of_mode hm, Group.raiseFl_zero, State.countEv, State.putG_putG]
    rfl

end Sys2Proof.Machine

namespace Sys2Proof.Machine

/-! ## Lanes, masks and what a destination writes (01 R17, R19, 02 R64, 05 R151) -/

theorem lane_mkLanes (f : Nat → Word) {l : Nat} (h : l < 96) : lane (mkLanes f) l = f l := by
  simp [lane, mkLanes, h]

/-- The number whose bits below `n` are those of `f`: the sum that `mkMask` forms. -/
theorem foldl_bits (f : Nat → Bool) (n : Nat) :
    (List.range n).foldl (fun m l => if f l then m + 2 ^ l else m) 0 < 2 ^ n ∧
      ∀ l < n, ((List.range n).foldl (fun m l => if f l then m + 2 ^ l else m) 0).testBit l = f l := by
  induction n with
  | zero => simp
  | succ n ih =>
    obtain ⟨hlt, hbit⟩ := ih
    rw [List.range_succ, List.foldl_append, List.foldl_cons, List.foldl_nil]
    generalize (List.range n).foldl (fun m l => if f l then m + 2 ^ l else m) 0 = m at hlt hbit
    have htop : m.testBit n = false := Nat.testBit_lt_two_pow hlt
    have hpow : 2 ^ (n + 1) = 2 ^ n + 2 ^ n := Nat.two_pow_succ n
    rw [Nat.add_comm m]
    cases hf : f n with
    | false =>
      refine ⟨by simp only [Bool.false_eq_true, if_false]; omega, fun l hl => ?_⟩
      rcases Nat.lt_succ_iff_lt_or_eq.mp hl with h | rfl
      · simpa using hbit l h
      · simpa [hf] using htop
    | true =>
      refine ⟨by simp only [if_true]; omega, fun l hl => ?_⟩
      rcases Nat.lt_succ_iff_lt_or_eq.mp hl with h | rfl
      · simpa [Nat.testBit_two_pow_add_gt h] using hbit l h
      · simp [Nat.testBit_two_pow_add_eq, htop, hf]

theorem getLsbD_mkMask (f : Nat → Bool) {l : Nat} (h : l < 96) : (mkMask f).getLsbD l = f l := by
  obtain ⟨-, hbit⟩ := foldl_bits f 96
  rw [mkMask, BitVec.getLsbD_ofNat, decide_eq_true h, Bool.true_and]
  exact hbit l h

theorem Tbl.get?_upd_ne {α : Type} (t : Tbl α) {n m : Nat} (f : α → α) (h : m ≠ n) : (t.upd n f).get? m = t.get? m := by
  unfold Tbl.upd
  split
  · exact Tbl.get?_set_ne t _ h
  · rfl

theorem Tbl.get?_upd_same {α : Type} (t : Tbl α) (n : Nat) (f : α → α) : (t.upd n f).get? n = (t.get? n).map f := by
  cases h : t.get? n with
  | none => simp [Tbl.upd, h]
  | some v => simp [Tbl.upd, h]

theorem CSide.sp_updSp_ne (c : CSide) {k n : Nat} (f : Split → Split) (h : n ≠ k) : (c.updSp k f).sp n = c.sp n :=
  Tbl.get?_upd_ne c.splits f h

theorem CSide.sp_updSp_same (c : CSide) (k : Nat) (f : Split → Split) : (c.updSp k f).sp k = (c.sp k).map f :=
  Tbl.get?_upd_same c.splits k f

/-- A lane of a vector register after a write (05 R151). -/
theorem lane_wv (c : CSide) (n : Nat) (m : Mask) (x : Lanes) {l : Nat} (h : l < 96) :
    lane ((c.wv n m x).v.getD n zeroLanes) l =
      if m.getLsbD l && c.alive.getLsbD l then lane x l else lane (c.v.getD n zeroLanes) l := by
  simp only [CSide.wv, Tbl.getD_set_same, lane_mkLanes _ h, BitVec.getLsbD_and]

/-- A lane of an activity mask after one of its words is written (01 R17). -/
theorem getLsbD_setMaskWord (m : Mask) (w : Nat) (x : Word) {l : Nat} (h : l < 96) :
    (setMaskWord m w x).getLsbD l = if l / 32 = w then x.getLsbD (l % 32) else m.getLsbD l := by
  rw [setMaskWord, getLsbD_mkMask _ h]

theorem writeDst_vector (g : Group) (k : Nat) (n : BitVec 9) (en : Mask) (f : Nat → Word) (now : Nat) :
    ∃ v : Tbl Lanes, g.writeDst k (.v n) en f now = { g with cs := { g.cs with v := v } } ∧
      (∀ m, m ≠ n.toNat → v.get? m = g.cs.v.get? m) ∧
      ∀ l < 96, lane (v.getD n.toNat zeroLanes) l =
        if en.getLsbD l && g.cs.alive.getLsbD l then f l else lane (g.cs.v.getD n.toNat zeroLanes) l := by
  refine ⟨(g.cs.wv n.toNat en (mkLanes f)).v, rfl, fun m hm => Tbl.get?_set_ne _ _ hm, fun l hl => ?_⟩
  rw [lane_wv _ _ _ _ hl, lane_mkLanes _ hl]

theorem writeDst_uniform_of_none {en : Mask} (h : lowLane en = none) (g : Group) (k : Nat) (n : BitVec 9) (f : Nat → Word)
    (now : Nat) : g.writeDst k (.c n) en f now = g := by
  simp [Group.writeDst, h]

theorem writeDst_uniform {en : Mask} {l : Nat} (h : lowLane en = some l) (g : Group) (k : Nat) (n : BitVec 9) (f : Nat → Word)
    (now : Nat) : g.writeDst k (.c n) en f now = { g with cs := g.cs.wc k n.toNat (f l) } := by
  simp [Group.writeDst, h]

/-- From C3 on, a write of a uniform changes that register only. -/
theorem wc_of_three_le {n : Nat} (h : 3 ≤ n) (c : CSide) (k : Nat) (x : Word) : c.wc k n x = { c with c := c.c.set n x } :=
  if_neg (by omega)

/-- A write of C0-C2 sets lanes of the activity mask of its split (01 R17). -/
theorem wc_of_lt_three {n : Nat} (h : n < 3) (c : CSide) (k : Nat) (x : Word) :
    c.wc k n x = c.updSp k fun p => { p with act := setMaskWord p.act n x &&& p.own } :=
  if_pos h

/-- Settles O21, destination by destination. -/
theorem destinationRules : Obligations.DestinationRules := by
  intro g k en f now
  refine ⟨fun n => writeDst_vector g k n en f now, fun n h => writeDst_uniform_of_none h g k n f now, fun n l hl hn => ?_,
    fun n l hl hn => ?_, fun _ => rfl, ⟨rfl, rfl, rfl, rfl⟩⟩
  · rw [writeDst_uniform hl, wc_of_three_le hn]
    exact ⟨_, rfl, fun m hm => Tbl.get?_set_ne _ _ hm, Tbl.getD_set_same ..⟩
  · rw [writeDst_uniform hl, wc_of_lt_three hn]
    refine ⟨_, rfl, fun k' hk => Tbl.get?_upd_ne _ _ hk, fun hk => ?_, fun p hp => ?_⟩
    · rw [Tbl.get?_upd_same, hk, Option.map_none]
    · refine ⟨_, by rw [Tbl.get?_upd_same, hp, Option.map_some], rfl, fun m hm => ?_⟩
      rw [BitVec.getLsbD_and, getLsbD_setMaskWord _ _ _ hm, Bool.and_comm]

end Sys2Proof.Machine

namespace Sys2Proof.Machine

/-! ## Predicates (01 R21) -/

theorem rp_seven (c : CSide) : c.rp 7 = allLanes := rfl

theorem rp_of_lt {n : Nat} (h : n < 7) (c : CSide) : c.rp n = c.p.getD n 0 := if_neg (by omega)

theorem rp_wp_same {n : Nat} (h : n < 7) (c : CSide) (m x : Mask) : (c.wp n m x).rp n = (c.rp n &&& ~~~m) ||| (x &&& m) := by
  rw [rp_of_lt h, rp_of_lt h, CSide.wp, Tbl.getD_set_same]

theorem rp_wp_ne {m n : Nat} (h : m ≠ n) (c : CSide) (k x : Mask) : (c.wp n k x).rp m = c.rp m := by
  simp only [CSide.rp, CSide.wp, Tbl.getD_set_ne _ _ _ h]

/-- A bit of a predicate after a write by an instruction. -/
theorem getLsbD_rp_writePred {n : BitVec 9} (h : n.toNat < 7) (g : Group) (en : Mask) (f : Nat → Bool) {l : Nat} (hl : l < 96) :
    ((g.writePred (.v n) en f).cs.rp n.toNat).getLsbD l = if en.getLsbD l then f l else (g.cs.rp n.toNat).getLsbD l := by
  show ((g.cs.wp n.toNat en (mkMask f)).rp n.toNat).getLsbD l = _
  rw [rp_wp_same h, BitVec.getLsbD_or, BitVec.getLsbD_and, BitVec.getLsbD_and, BitVec.getLsbD_not, getLsbD_mkMask _ hl]
  cases en.getLsbD l <;> simp [hl]

theorem firstBreach_isSome {l : List (Bool × Nat × Nat)} {b : Nat × Nat} (h : (true, b) ∈ l) : (firstBreach l).isSome := by
  induction l with
  | nil => cases h
  | cons e l ih =>
    obtain ⟨bad, c⟩ := e
    cases bad with
    | true => rfl
    | false => exact ih (by simpa using h)

/-- A predicate destination 7 breaks the rules of encoding (01 R21, 02 R73). -/
theorem pBreach_seven (ss : List Src) (x : Ctl) (more : List (Bool × Nat × Nat)) : (pBreach (.v 7) ss x more).isSome := by
  refine firstBreach_isSome (b := (3, 69)) ?_
  simp [predDstTests]

theorem unpop_queues (g : Group) (n : Nat) (e : VEntry) : ∃ q, g.unpop n e = { g with q := q } := by
  unfold Group.unpop
  split
  · exact ⟨_, rfl⟩
  · exact ⟨_, rfl⟩

/-- Giving popped entries back changes the queues only. -/
theorem unpopAll_queues (g : Group) (es : List (Nat × VEntry)) : ∃ q, g.unpopAll es = { g with q := q } := by
  refine List.foldlRecOn (motive := fun h => ∃ q, h = { g with q := q }) _ _ ⟨g.q, rfl⟩ ?_
  rintro h ⟨q, rfl⟩ e -
  split
  · exact ⟨q, rfl⟩
  · obtain ⟨r, hr⟩ := unpop_queues { g with q := q } e.1 e.2
    exact ⟨r, hr⟩

/-- A group as an instruction of its split `k` leaves it that traps: the entries it had popped are given back. -/
def Group.unheld (g : Group) (k : Nat) (es : List (Nat × VEntry)) : Group :=
  let h := g.unpopAll es
  { h with cs := h.cs.updSp k fun p => { p with held := [] } }

theorem unheld_queues (g : Group) (k : Nat) (es : List (Nat × VEntry)) :
    ∃ q, g.unheld k es = { g with q := q, cs := g.cs.updSp k fun p => { p with held := [] } } := by
  obtain ⟨q, hq⟩ := unpopAll_queues g es
  exact ⟨q, by rw [Group.unheld, hq]⟩

theorem finishC_trap {c : Cause} (h7 : c.grp ≠ 7) (h13 : c.grp ≠ 13) (i : Instr) (h : CShape) (w : BitVec 96) (e : CEnv)
    (s0 s : State) (g : Group) : finishC i h w e s0 g (.trap c s) =
      .next (raise (s0.putG (g.unheld e.k e.es)) s0.cur.gid (cPending (g.unheld e.k e.es) e.k w c)) := by
  simp [finishC, Group.unheld, h7, h13]

/-- How an instruction ends that breaks a rule of encoding: its entries are given back, and it traps with cause group 1. -/
def IllegalC (s : State) (g : Group) (p : Split) (i : Instr) (r : Out) : Prop :=
  ∃ b : Breach, r = .next (raise (s.putG (g.unheld s.cur.split p.held)) s.cur.gid
    (cPending (g.unheld s.cur.split p.held) s.cur.split ((encodeC i).getD 0) (Cause.mk' 1 b.code b.bit)))

theorem cIssue_of_violation {s : State} {g : Group} {p : Split} {i : Instr} {h : CShape} (hg : s.grp? = some g)
    (hp : g.cs.sp s.cur.split = some p) (hs : cShape i = some h) (hv : (violation i).isSome)
    {body : CEnv → Group → State → Res} : IllegalC s g p i (cIssue i body s) := by
  obtain ⟨b, hb⟩ := Option.isSome_iff_exists.mp hv
  have hc : cCheck s g i h = some (Cause.mk' 1 b.code b.bit) := by
    rw [cCheck, hb]
    rfl
  refine ⟨b, ?_⟩
  simp only [cIssue, cIssueN, hg, hs, hp, hc]
  exact finishC_trap (c := Cause.mk' 1 b.code b.bit) (Nat.ne_of_beq_eq_false rfl) (Nat.ne_of_beq_eq_false rfl) ..

/-- The instructions that write a predicate, with their destination (01 R21). -/
def WritesPred (i : Instr) (d : Dst) : Prop :=
  (∃ cnd z a b y, i = .fset cnd z d a b y) ∨ (∃ cnd bf z comb a b y, i = .hset2 cnd bf z comb d a b y) ∨
    (∃ cnd u a b y, i = .iset cnd u d a b y) ∨ (∃ pr neg y, i = .voteall pr neg d y) ∨
    (∃ pr neg y, i = .voteany pr neg d y) ∨ (∃ pr neg y, i = .votesame pr neg d y) ∨
    (∃ a y, i = .matchall d a y) ∨ (∃ tbl a b c y, i = .pltab tbl d a b c y) ∨
    (∃ pr a y, i = .pmov 1 pr d a y) ∨ (∃ w pr a y, i = .pmovw 1 w pr d a y) ∨
    (∃ s0 t w y, i = .treport d s0 t w y)

/-- No instruction may write P7. -/
theorem illegalC_of_writesPred_seven {s : State} {g : Group} {p : Split} {i : Instr} (hg : s.grp? = some g)
    (hp : g.cs.sp s.cur.split = some p) (h : WritesPred i (.v 7)) : IllegalC s g p i (exec i s) := by
  rcases h with ⟨cnd, z, a, b, y, rfl⟩ | ⟨cnd, bf, z, comb, a, b, y, rfl⟩ | ⟨cnd, u, a, b, y, rfl⟩ | ⟨pr, neg, y, rfl⟩ |
    ⟨pr, neg, y, rfl⟩ | ⟨pr, neg, y, rfl⟩ | ⟨a, y, rfl⟩ | ⟨tbl, a, b, c, y, rfl⟩ | ⟨pr, a, y, rfl⟩ | ⟨w, pr, a, y, rfl⟩ |
    ⟨s0, t, w, y, rfl⟩
  · show IllegalC s g p _ (execFset ..)
    rw [execFset, cPred]
    exact cIssue_of_violation hg hp (by rfl) (by exact pBreach_seven ..)
  · show IllegalC s g p _ (execHset2 ..)
    rw [execHset2, cPred]
    exact cIssue_of_violation hg hp (by rfl) (by exact pBreach_seven ..)
  · show IllegalC s g p _ (execIset ..)
    rw [execIset, cPred]
    exact cIssue_of_violation hg hp (by rfl) (by exact pBreach_seven ..)
  · show IllegalC s g p _ (execVoteall ..)
    rw [execVoteall, lanePred]
    exact cIssue_of_violation hg hp (by rfl) (by exact pBreach_seven ..)
  · show IllegalC s g p _ (execVoteany ..)
    rw [execVoteany, lanePred]
    exact cIssue_of_violation hg hp (by rfl) (by exact pBreach_seven ..)
  · show IllegalC s g p _ (execVotesame ..)
    rw [execVotesame, lanePred]
    exact cIssue_of_violation hg hp (by rfl) (by exact pBreach_seven ..)
  · show IllegalC s g p _ (execMatchall ..)
    rw [execMatchall, lanePred]
    exact cIssue_of_violation hg hp (by rfl) (by exact pBreach_seven ..)
  · show IllegalC s g p _ (execPltab ..)
    rw [execPltab, lanePred]
    exact cIssue_of_violation hg hp (by rfl) (by exact pBreach_seven ..)
  · show IllegalC s g p _ (execPmov ..)
    rw [execPmov, if_pos rfl, lanePred]
    exact cIssue_of_violation hg hp (by rfl) (by exact pBreach_seven ..)
  · show IllegalC s g p _ (execPmovw ..)
    rw [execPmovw, if_pos rfl]
    exact cIssue_of_violation hg hp (by rfl) (by exact pBreach_seven ..)
  · show IllegalC s g p _ (execTreport ..)
    rw [execTreport]
    exact cIssue_of_violation hg hp (by rfl) (by exact pBreach_seven ..)

/-- Settles O46. -/
theorem predicateRegisters : Obligations.PredicateRegisters := by
  refine ⟨fun c l hl => ?_, fun g n en f hn => ⟨fun l hl => getLsbD_rp_writePred hn g en f hl, fun m hm => rp_wp_ne hm ..⟩,
    fun s g p i hg hp ht hi => ?_⟩
  · rw [rp_seven, allLanes, BitVec.getLsbD_allOnes, decide_eq_true hl]
  · obtain ⟨b, hb⟩ := illegalC_of_writesPred_seven hg hp hi
    obtain ⟨q, hq⟩ := unheld_queues g s.cur.split p.held
    refine ⟨g.unheld s.cur.split p.held, _, rfl, hb, ?_⟩
    rw [hq]
    exact ⟨ht, rfl, rfl, rfl, rfl⟩

end Sys2Proof.Machine

namespace Sys2Proof.Machine

/-! ## What register-only instructions leave unchanged (01 R11, 04 R117-R119, 05 R151, 06 R179-R184)

### A machine of which a step changes its group alone -/

/-- A machine that differs from `s` in its group, which is `h`, and in nothing that holds bytes of memory. -/
structure OnlyGroup (s t : State) (h : Group) : Prop where
  cur : t.cur = s.cur
  groups : t.groups = s.groups.set s.cur.gid h
  dev : t.dev = s.dev
  host0 : t.host0 = s.host0
  host1 : t.host1 = s.host1
  peer : t.peer = s.peer
  chip : t.chip = s.chip
  clusters : t.clusters = s.clusters
  teams : t.teams = s.teams

theorem onlyGroup_putG (s : State) (h : Group) : OnlyGroup s (s.putG h) h := ⟨rfl, rfl, rfl, rfl, rfl, rfl, rfl, rfl, rfl⟩

theorem OnlyGroup.grp? {s t : State} {h : Group} (ht : OnlyGroup s t h) : t.grp? = some h := by
  rw [State.grp?, ht.groups, ht.cur, Tbl.get?_set_same]

theorem OnlyGroup.get?_ne {s t : State} {h : Group} (ht : OnlyGroup s t h) {n : Nat} (hn : n ≠ s.cur.gid) :
    t.groups.get? n = s.groups.get? n := by
  rw [ht.groups, Tbl.get?_set_ne _ _ hn]

theorem OnlyGroup.updG {s t : State} {h : Group} (ht : OnlyGroup s t h) (f : Group → Group) : OnlyGroup s (t.updG f) (f h) where
  cur := ht.cur
  groups := by
    rw [State.updG, ht.cur, ht.groups]
    exact (Tbl.upd_set_same ..).trans rfl
  dev := ht.dev
  host0 := ht.host0
  host1 := ht.host1
  peer := ht.peer
  chip := ht.chip
  clusters := ht.clusters
  teams := ht.teams

/-- Events change launches and interrupts only. -/
theorem OnlyGroup.countEv {s t : State} {h : Group} (ht : OnlyGroup s t h) (lid : Nat) (ev : List Nat) :
    OnlyGroup s (t.countEv lid ev) h := by
  induction ev generalizing t with
  | nil => exact ht
  | cons e r ih =>
    unfold State.countEv
    split
    · exact ht
    · dsimp only
      split
      · exact ih ⟨ht.cur, ht.groups, ht.dev, ht.host0, ht.host1, ht.peer, ht.chip, ht.clusters, ht.teams⟩
      · exact ih ⟨ht.cur, ht.groups, ht.dev, ht.host0, ht.host1, ht.peer, ht.chip, ht.clusters, ht.teams⟩

/-- Where the group keeps its slices, no byte of memory changes. -/
theorem OnlyGroup.byteAt {s t : State} {g h : Group} (ht : OnlyGroup s t h) (hg : s.grp? = some g) (hs : h.slices = g.slices)
    (l : Loc) : t.byteAt l = s.byteAt l := by
  have hm : ∀ sp, t.memOf sp = s.memOf sp := by
    intro sp
    cases sp with
    | dev => exact ht.dev
    | host n => cases n with
      | zero => exact ht.host0
      | succ n => exact ht.host1
    | peer => exact ht.peer
    | chip => exact ht.chip
    | clu c => simp only [State.memOf, ht.clusters]
    | core c => simp only [State.memOf, ht.teams]
    | lane n _ =>
      show ((t.groups.get? n).map (·.slices)).getD [] = ((s.groups.get? n).map (·.slices)).getD []
      by_cases hn : n = s.cur.gid
      · have h1 : t.groups.get? n = some h := by rw [hn, ← ht.cur]; exact ht.grp?
        have h2 : s.groups.get? n = some g := hn ▸ hg
        rw [h1, h2, Option.map_some, Option.map_some, hs]
      · rw [ht.get?_ne hn]
  rw [State.byteAt, State.byteAt, hm]

/-! ### The A-stream -/

/-- What an A-stream instruction that writes the registers `ds` leaves of its group `g`. -/
structure FrameA (ds : List Nat) (g h : Group) : Prop where
  ra : ∀ n, n ∉ ds → h.ra n = g.ra n
  sys : h.sys = g.sys
  cf : h.cf = g.cf
  q : h.q = g.q
  b : h.b = g.b
  t : h.t = g.t
  cs : h.cs = g.cs
  pend : h.pend = g.pend
  mu : h.mu = g.mu
  slices : h.slices = g.slices

theorem FrameA.refl (ds : List Nat) (g : Group) : FrameA ds g g :=
  ⟨fun _ _ => rfl, rfl, rfl, rfl, rfl, rfl, rfl, rfl, rfl, rfl⟩

theorem FrameA.trans {ds : List Nat} {g h k : Group} (h1 : FrameA ds g h) (h2 : FrameA ds h k) : FrameA ds g k where
  ra n hn := (h2.ra n hn).trans (h1.ra n hn)
  sys := h2.sys.trans h1.sys
  cf := h2.cf.trans h1.cf
  q := h2.q.trans h1.q
  b := h2.b.trans h1.b
  t := h2.t.trans h1.t
  cs := h2.cs.trans h1.cs
  pend := h2.pend.trans h1.pend
  mu := h2.mu.trans h1.mu
  slices := h2.slices.trans h1.slices

theorem ra_wa_ne {n d : Nat} (h : n ≠ d) (g : Group) (x : Word) : (g.wa d x).ra n = g.ra n := by
  unfold Group.wa
  split
  · rfl
  · simp only [Group.ra, Tbl.getD_set_ne _ _ _ h]

theorem frameA_wa {ds : List Nat} {d : Nat} (h : d ∈ ds) (g : Group) (x : Word) : FrameA ds g (g.wa d x) where
  ra n hn := ra_wa_ne (fun he : n = d => hn (he ▸ h)) g x
  sys := by simp
  cf := by simp
  q := by simp
  b := by simp
  t := by simp
  cs := by simp
  pend := by simp
  mu := by simp
  slices := by simp

theorem frameA_apc (ds : List Nat) (g : Group) (n : Nat) : FrameA ds g { g with apc := n } :=
  ⟨fun _ _ => rfl, rfl, rfl, rfl, rfl, rfl, rfl, rfl, rfl, rfl⟩

theorem frameA_blocked (ds : List Nat) (g : Group) (k : Option WaitKind) (n : Nat) : FrameA ds g { g with ablk := k, asince := n } :=
  ⟨fun _ _ => rfl, rfl, rfl, rfl, rfl, rfl, rfl, rfl, rfl, rfl⟩

/-- An answer that goes on with the group changed as `FrameA` says. -/
def KeepsA (s : State) (g : Group) (ds : List Nat) (r : Out) : Prop :=
  ∃ t h, r = .next t ∧ OnlyGroup s t h ∧ FrameA ds g h

theorem keepsA_done {ds : List Nat} {s : State} {g h : Group} (hf : FrameA ds g h) : KeepsA s g ds (.next (s.doneA h)) :=
  ⟨_, _, rfl, onlyGroup_putG s _, hf.trans (frameA_blocked ds h none h.asince)⟩

theorem keepsA_aIssue {ds : List Nat} {s : State} {g h : Group} {i : Instr} (hi : issueA s i = some g) {body : Group → State → Res}
    (hb : body g s = .done (s.putG h)) (hf : FrameA ds g h) : KeepsA s g ds (aIssue i body s) := by
  rw [aIssue_of_issueA hi, hb, finishA_done]
  exact keepsA_done hf

theorem keepsA_aWrite {s : State} {g : Group} {i : Instr} (hi : issueA s i = some g) (d : BitVec 6) (f : Group → Word) :
    KeepsA s g [d.toNat] (aWrite i d f s) :=
  keepsA_aIssue hi rfl ((frameA_wa (List.mem_singleton.mpr rfl) g _).trans (frameA_apc ..))

theorem keepsA_aBranch {s : State} {g : Group} {i : Instr} (hi : issueA s i = some g) (a b : BitVec 6) (off : BitVec 14)
    (c : Word → Word → Bool) : KeepsA s g [] (aBranch i a b off c s) := by
  refine keepsA_aIssue hi rfl ?_
  split
  · exact frameA_apc ..
  · exact frameA_apc ..

theorem keepsA_dbnz {s : State} {g : Group} {a : BitVec 6} {off : BitVec 14} (hi : issueA s (.dbnz a off) = some g) :
    KeepsA s g [a.toNat] (execDbnz a off s) := by
  refine keepsA_aIssue hi rfl ?_
  have ha : FrameA [a.toNat] g (g.wa a.toNat (g.ra a.toNat - 1)) := frameA_wa (List.mem_singleton.mpr rfl) g _
  split
  · exact ha.trans (frameA_apc ..)
  · exact ha.trans (frameA_apc ..)

theorem keepsA_jal {s : State} {g : Group} {d : BitVec 6} {imm : BitVec 20} (hi : issueA s (.jal d imm) = some g) :
    KeepsA s g [d.toNat] (execJal d imm s) :=
  keepsA_aIssue hi rfl ((frameA_wa (List.mem_singleton.mpr rfl) g _).trans (frameA_apc ..))

theorem keepsA_rdtime {s : State} {g : Group} {d : BitVec 6} (hi : issueA s (.rdtime d) = some g) :
    KeepsA s g [d.toNat, d.toNat + 1] (execRdtime d s) :=
  keepsA_aIssue hi rfl (((frameA_wa (by simp) g _).trans (frameA_wa (by simp) _ _)).trans (frameA_apc ..))

theorem onlyGroup_updG {s : State} {g : Group} (hg : s.grp? = some g) (f : Group → Group) : OnlyGroup s (s.updG f) (f g) :=
  ⟨rfl, Tbl.upd_of_get? _ f hg, rfl, rfl, rfl, rfl, rfl, rfl, rfl⟩

theorem keepsA_waitA {s : State} {g : Group} (hg : s.grp? = some g) (ds : List Nat) (k : WaitKind) :
    KeepsA s g ds (.next (s.waitA k)) := by
  refine ⟨_, _, rfl, onlyGroup_updG hg _, ?_⟩
  split
  · exact .refl ..
  · exact frameA_blocked ..

/-- An instruction that waits while its group is saved, and writes one register otherwise. -/
theorem keepsA_unlessSaving {s : State} {g : Group} {i : Instr} (hi : issueA s i = some g) (d : BitVec 6) {x : Word}
    {body : Group → State → Res} (hb : body g s = notWhileSaving g s fun _ => .done (s.putG ((g.wa d.toNat x).adv))) :
    KeepsA s g [d.toNat] (aIssue i body s) := by
  by_cases hs : g.saveReq.isSome
  · rw [aIssue_of_issueA hi, hb, notWhileSaving, if_pos hs]
    exact keepsA_waitA (issueA_grp? hi) ..
  · refine keepsA_aIssue hi (hb.trans (if_neg hs)) ?_
    exact (frameA_wa (List.mem_singleton.mpr rfl) g _).trans (frameA_apc ..)

/-- Every register-only instruction of the A-stream keeps all but its destination and the A-PC. -/
theorem keepsA_exec {s : State} {g : Group} {i : Instr} {ds : List Nat} (hi : issueA s i = some g)
    (hw : Claims.writesA g i = some ds) : KeepsA s g ds (exec i s) := by
  cases i
  case add | sub | and | or | xor | andn | shlA | shrA | sra | rot | slt | sltu | min | max | minu | maxu | mul | mulh | mulhu | div
      | divu | rem | remu | clzA | popcA | brevA | sextb | sexth | bfeA | bfiA | addi | andi | ori | xori | slti | sltiu | shli
      | shri | srai | roti | lui | muli =>
    cases hw
    unfold exec
    exact keepsA_aWrite hi ..
  case beq | bne | blt | bge | bltu | bgeu =>
    cases hw
    unfold exec
    exact keepsA_aBranch hi ..
  case dbnz =>
    cases hw
    exact keepsA_dbnz hi
  case jal =>
    cases hw
    exact keepsA_jal hi
  case rdtime =>
    cases hw
    exact keepsA_rdtime hi
  case rinput | rdepth =>
    cases hw
    unfold exec
    exact keepsA_unlessSaving hi _ rfl
  case nop | yield =>
    cases hw
    unfold exec
    exact keepsA_aIssue hi rfl (frameA_apc ..)
  all_goals exact absurd hw.symm (Option.some_ne_none _)

end Sys2Proof.Machine

namespace Sys2Proof.Machine

/-! ### The C-stream -/

/-- What a lane-wise C-stream instruction with destination `d`, for the lanes `en`, leaves of its group `g`. -/
structure FrameC (d : Dst) (en : Mask) (g h : Group) : Prop where
  a : h.a = g.a
  apc : h.apc = g.apc
  p : h.cs.p = g.cs.p
  b : h.b = g.b
  t : h.t = g.t
  sys : { h.sys with sticky := g.sys.sticky } = g.sys
  cf : h.cf = g.cf
  slices : h.slices = g.slices
  v : ∀ m, (∀ n : BitVec 9, d = .v n → m ≠ n.toNat) → h.cs.v.get? m = g.cs.v.get? m
  lanes : ∀ (n : BitVec 9) (l : Nat), d = .v n → l < 96 → en.getLsbD l = false →
    lane (h.cs.v.getD n.toNat zeroLanes) l = lane (g.cs.v.getD n.toNat zeroLanes) l
  c : ∀ m, (∀ n : BitVec 9, d = .c n → m ≠ n.toNat) → 3 ≤ m → h.cs.c.getD m 0 = g.cs.c.getD m 0

/-- A group whose registers and slices are those of `g`: what is left of it are splits, queues, flags to set, and the shadow. -/
theorem frameC_of_eq {d : Dst} {en : Mask} {g h : Group} (ha : h.a = g.a) (hapc : h.apc = g.apc) (hp : h.cs.p = g.cs.p)
    (hb : h.b = g.b) (ht : h.t = g.t) (hs : { h.sys with sticky := g.sys.sticky } = g.sys) (hcf : h.cf = g.cf)
    (hsl : h.slices = g.slices) (hv : h.cs.v = g.cs.v) (hc : h.cs.c = g.cs.c) : FrameC d en g h :=
  ⟨ha, hapc, hp, hb, ht, hs, hcf, hsl, fun _ _ => by rw [hv], fun _ _ _ _ _ => by rw [hv], fun _ _ _ => by rw [hc]⟩

theorem pushC_queues (g : Group) (q k : Nat) (m : Mask) (f : Nat → Word) (now : Nat) :
    ∃ qs, g.pushC q k m f now = { g with q := qs, lastQ := now } := by
  unfold Group.pushC
  dsimp only
  split <;> exact ⟨_, rfl⟩

theorem log_shadow (g : Group) (it : LogItem) : ∃ sh, g.log it = { g with shadow := sh } := by
  unfold Group.log
  split
  · exact ⟨g.shadow, rfl⟩
  · exact ⟨_, rfl⟩

theorem FrameC.log {d : Dst} {en : Mask} {g h : Group} (hf : FrameC d en g h) (it : LogItem) : FrameC d en g (h.log it) := by
  obtain ⟨sh, hs⟩ := log_shadow h it
  rw [hs]
  exact ⟨hf.a, hf.apc, hf.p, hf.b, hf.t, hf.sys, hf.cf, hf.slices, hf.v, hf.lanes, hf.c⟩

theorem FrameC.raiseFl {d : Dst} {en : Mask} {g h : Group} (hf : FrameC d en g h) (fl : Fl) : FrameC d en g (h.raiseFl fl) :=
  ⟨hf.a, hf.apc, hf.p, hf.b, hf.t, hf.sys, hf.cf, hf.slices, hf.v, hf.lanes, hf.c⟩

/-- Writing its destination leaves of a group that has stepped what `FrameC` says. -/
theorem frameC_writeDst (g : Group) (k : Nat) (d : Dst) (en : Mask) (f : Nat → Word) (now : Nat) :
    FrameC d en g ((g.stepped k).writeDst k d en f now) := by
  cases d with
  | v n =>
    obtain ⟨v, hw, hv, hl⟩ := writeDst_vector (g.stepped k) k n en f now
    rw [hw]
    refine ⟨rfl, rfl, rfl, rfl, rfl, rfl, rfl, rfl, fun m hm => hv m (hm n rfl), ?_, fun _ _ _ => rfl⟩
    rintro _ l ⟨⟩ h96 hen
    rw [hl l h96, hen]
    rfl
  | c n =>
    cases hl : lowLane en with
    | none =>
      rw [writeDst_uniform_of_none hl]
      exact frameC_of_eq rfl rfl rfl rfl rfl rfl rfl rfl rfl rfl
    | some l =>
      rw [writeDst_uniform hl]
      rcases Nat.lt_or_ge n.toNat 3 with hn | hn
      · rw [wc_of_lt_three hn]
        exact frameC_of_eq rfl rfl rfl rfl rfl rfl rfl rfl rfl rfl
      · rw [wc_of_three_le hn]
        refine ⟨rfl, rfl, rfl, rfl, rfl, rfl, rfl, rfl, fun _ _ => rfl, fun _ _ _ _ _ => rfl, fun m hm _ => ?_⟩
        exact Tbl.getD_set_ne _ _ _ (hm n rfl)
  | queue n =>
    obtain ⟨qs, hq⟩ := pushC_queues (g.stepped k) n.toNat k en f now
    rw [Group.writeDst, hq]
    exact frameC_of_eq rfl rfl rfl rfl rfl rfl rfl rfl rfl rfl
  | none n => exact frameC_of_eq rfl rfl rfl rfl rfl rfl rfl rfl rfl rfl

/-- The shadow's record of an instruction that has ended keeps what the instruction kept. -/
theorem frameC_leave {d : Dst} {en : Mask} {s t : State} {g h : Group} (ht : OnlyGroup s t h) (hf : FrameC d en g h) (i : Instr)
    (c : CShape) (e : CEnv) : ∃ h', OnlyGroup s (t.leave s g i c e) h' ∧ FrameC d en g h' := by
  unfold State.leave
  split
  · split
    · refine ⟨_, onlyGroup_putG .., FrameC.log ?_ _⟩
      exact frameC_of_eq rfl rfl rfl rfl rfl rfl rfl rfl rfl rfl
    · refine ⟨_, ht.updG _, ?_⟩
      split
      · exact hf.log _
      · exact hf
  · exact ⟨h, ht, hf⟩

/-- An answer that goes on with the group changed as `FrameC` says. -/
def KeepsC (s : State) (x : Issue) (d : Dst) (r : Out) : Prop :=
  ∃ t h, r = .next t ∧ OnlyGroup s t h ∧ FrameC d (x.env s).en x.g h

theorem keepsC_done (s : State) (x : Issue) (i : Instr) (d : Dst) (f : Nat → Word) (fl : Fl) (lid : Nat) (ev : List Nat) :
    KeepsC s x d (.next (x.done s i
      ((s.putG (((x.past s).writeDst s.cur.split d (x.env s).en f s.tick).raiseFl fl)).countEv lid ev))) := by
  obtain ⟨h, ho, hf⟩ := frameC_leave ((onlyGroup_putG s _).countEv lid ev)
    ((frameC_writeDst x.g s.cur.split d (x.env s).en f s.tick).raiseFl fl) i x.h (x.env s)
  exact ⟨_, h, rfl, ho, hf⟩

theorem keepsC_cLanes {s : State} {x : Issue} {i : Instr} (h : issueC s i = some x) (d : Dst) (ops : List (OpTy × Src))
    (f : Nat → List Word → LRes) : KeepsC s x d (cLanes i d ops f s) := by
  rw [cLanes_of_issueC h]
  exact keepsC_done ..

theorem keepsC_laneOp {s : State} {x : Issue} {i : Instr} (h : issueC s i = some x) (d : Dst) (ops : List (OpTy × Src))
    (f : CEnv → CSide → List Lanes → Nat → Word) : KeepsC s x d (laneOp i d ops f s) := by
  have hm : (s.putG (x.past s)).cur.mode = 0 := (State.putG_cur ..).symm ▸ issueC_mode h
  rw [laneOp, cIssue_of_issueC h]
  dsimp only
  rw [putLanes_of_mode hm, finishC_done, State.putG_putG]
  exact keepsC_done ..

theorem keepsC_intOp {s : State} {x : Issue} {i : Instr} (h : issueC s i = some x) (d : Dst) (ss : List Src)
    (f : List Word → Word) : KeepsC s x d (intOp i d ss f s) :=
  keepsC_cLanes h ..

theorem keepsC_f32Op {s : State} {x : Issue} {i : Instr} (h : issueC s i = some x) (d : Dst) (ss : List Src)
    (f : List Nat → FRes) : KeepsC s x d (f32Op i d ss f s) :=
  keepsC_cLanes h ..

theorem keepsC_packedOp {s : State} {x : Issue} {i : Instr} (h : issueC s i = some x) (bf : BitVec 1) (d : Dst) (ss : List Src)
    (f : List Nat → FRes) : KeepsC s x d (packedOp i bf d ss f s) :=
  keepsC_cLanes h ..

theorem keepsC_shfl {s : State} {x : Issue} {i : Instr} (h : issueC s i = some x) (w : BitVec 3) (act : BitVec 1) (d : Dst)
    (a n f : Src) (t : Nat → Nat → Nat → Int) : KeepsC s x d (shfl i w act d a n f t s) :=
  keepsC_laneOp h ..

theorem keepsC_pmov {s : State} {x : Issue} {pr : BitVec 3} {d : Dst} {a : Src} {y : Ctl}
    (h : issueC s (.pmov 0 pr d a y) = some x) : KeepsC s x d (execPmov 0 pr d a y s) := by
  rw [execPmov, if_neg (by decide)]
  exact keepsC_laneOp h ..

theorem keepsC_pmovw {s : State} {x : Issue} {w : BitVec 2} {pr : BitVec 3} {d : Dst} {a : Src} {y : Ctl}
    (h : issueC s (.pmovw 0 w pr d a y) = some x) : KeepsC s x d (execPmovw 0 w pr d a y s) := by
  rw [execPmovw, if_neg (by decide)]
  exact keepsC_laneOp h ..

theorem bit_cases : ∀ t : BitVec 1, t = 0 ∨ t = 1 := by decide

/-- Every lane-wise instruction of the C-stream keeps all but its destination and the flags it raises. -/
theorem keepsC_exec {s : State} {x : Issue} {i : Instr} {d : Dst} (h : issueC s i = some x) (hw : Claims.writesV i = some d) :
    KeepsC s x d (exec i s) := by
  cases i
  case iadd | isub | imul | imad | imulh | imin | imax | iabs | iadd3 | ltab | shl | shr | shra | shf | bfe | bfes | bfi | popc
      | clz | brev | idp4 | idp2 | isad | iclamp | rnenc | rndec | rnmad | mov =>
    cases hw
    unfold exec
    exact keepsC_intOp h ..
  case fadd | fsub | fmul | ffma | fmin | fmax | fminn | fmaxn | fclamp | frnd | fdiv | fsqrt | flerp | fdot3 =>
    cases hw
    unfold exec
    exact keepsC_f32Op h ..
  case hadd2 | hmul2 | hfma2 | hmin2 | hmax2 =>
    cases hw
    unfold exec
    exact keepsC_packedOp h ..
  case fclass | fldexp | fexpo | frcp | frsq | fexp2 | flog2 | fsin | fcos | hdot2 | cvt | pack | unpk =>
    cases hw
    unfold exec
    exact keepsC_cLanes h ..
  case sel | perm | bcast | bcastf | voteballot | matchany | matchlead =>
    cases hw
    unfold exec
    exact keepsC_laneOp h ..
  case shflup | shfldn | shflx | shflr =>
    cases hw
    unfold exec
    exact keepsC_shfl h ..
  case pmov t pr d' a y =>
    rcases bit_cases t with rfl | rfl
    · cases hw
      exact keepsC_pmov h
    · exact absurd hw.symm (Option.some_ne_none _)
  case pmovw t w pr d' a y =>
    rcases bit_cases t with rfl | rfl
    · cases hw
      exact keepsC_pmovw h
    · exact absurd hw.symm (Option.some_ne_none _)
  all_goals exact absurd hw.symm (Option.some_ne_none _)

theorem popHead_slices (g : Group) (n : Nat) : (g.popHead n).slices = g.slices := by
  unfold Group.popHead
  dsimp only
  split <;> rfl

theorem fetchQ_slices {l : List Nat} {g g' : Group} {es es' : List (Nat × VEntry)} (h : fetchQ l g es = .all g' es') :
    g'.slices = g.slices := by
  induction l generalizing g es with
  | nil =>
    cases h
    rfl
  | cons st r ih =>
    unfold fetchQ at h
    dsimp only at h
    split at h
    · cases h
    · cases h
    · rw [ih h]
      split
      · rfl
      · exact popHead_slices ..

/-- The group that issues has the slices of the turn's group. -/
theorem issueC_grp? {s : State} {i : Instr} {n : Nat} {x : Issue} (h : issueC s i n = some x) :
    ∃ g, s.grp? = some g ∧ x.g.slices = g.slices := by
  unfold issueC at h
  split at h
  · next g _ hg _ =>
    split at h
    · cases h
    · split at h
      · cases h
      · split at h
        · next g' es hf =>
          split at h
          · cases h
          · cases h
            exact ⟨g, hg, (Group.popped_slices ..).trans (fetchQ_slices hf)⟩
        · cases h
  · cases h

/-- Settles O49: `keepsA_exec` and `keepsC_exec`, read on the machine by `OnlyGroup`. -/
theorem registerFrames : Obligations.RegisterFrames := by
  refine ⟨fun s t i g ds hi hw ht => ?_, fun s t i x d hi hw ht => ?_⟩
  · obtain ⟨t', h, hr, ho, hf⟩ := keepsA_exec hi hw
    obtain rfl : t' = t := Host.Outcome.next.inj (hr.symm.trans ht)
    exact ⟨h, ho.grp?, rfl, hf.ra, hf.sys, hf.cf, hf.q, hf.b, hf.t, hf.cs, hf.pend, hf.mu, hf.slices, fun n hn => ho.get?_ne hn,
      ho.byteAt (issueA_grp? hi) hf.slices⟩
  · obtain ⟨t', h, hr, ho, hf⟩ := keepsC_exec hi hw
    obtain rfl : t' = t := Host.Outcome.next.inj (hr.symm.trans ht)
    obtain ⟨g, hg, hs⟩ := issueC_grp? hi
    exact ⟨h, ho.grp?, hf.a, hf.apc, hf.p, hf.b, hf.t, hf.sys, hf.cf, hf.slices, hf.v, hf.lanes, hf.c, fun n hn => ho.get?_ne hn,
      ho.byteAt hg (hf.slices.trans hs)⟩

end Sys2Proof.Machine

namespace Sys2Proof.Machine

/-! ## What a flow instruction makes of the machine (02 R70, 06 R197-R204) -/

theorem issueC_shape {s : State} {i : Instr} {n : Nat} {x : Issue} (h : issueC s i n = some x) : cShape i = some x.h := by
  unfold issueC at h
  split at h
  · next _ hs =>
    split at h
    · simp at h
    · split at h
      · simp at h
      · split at h
        · split at h
          · simp at h
          · obtain rfl := Option.some.inj h
            exact hs
        · simp at h
  · simp at h

theorem putFlow_of_mode {s t : State} {g : Group} {c : CSide} (hm : s.cur.mode = 0) (hio : stackIo s g c = (t, none)) :
    putFlow s g c = .done (afterFlow t g c) := by
  simp [putFlow, hm, hio]

theorem withFill_of_mode {s t : State} {i : Instr} {x : Ctl} {e : CEnv} {g g' : Group} (hm : s.cur.mode = 0)
    (hf : fillStack s g e.k (g.cs.usesStack e.k i (guardMask g.cs x) (s.pk g).stack) = (t, .ok g')) (f : Group → State → Res) :
    withFill i x e g s f = f g' t := by
  simp [withFill, hm, hf]

theorem here_mode {s : State} {i : Instr} {x : Issue} (h : issueC s i = some x) : (Claims.here s x).cur.mode = 0 := by
  rw [Claims.here, State.putG_cur, issueC_mode h]

/-- A flow instruction that meets R70, whose entries fill back, whose rule holds and whose spills succeed. -/
theorem flow_of_issueC {s s1 s2 s3 : State} {i : Instr} {x : Issue} {g : Group} {t j : Option Nat} {c : CSide} {y : Ctl}
    {f : State → Group → CEnv → Except Cause CSide} (h : issueC s i = some x) (hy : x.h.x = y)
    (hc : flowCheck (Claims.here s x) (x.past s) x.p t j = (s1, none)) (h1 : s1.cur.mode = 0)
    (hf : fillStack s1 (x.past s) s.cur.split
      ((x.past s).cs.usesStack s.cur.split i (guardMask (x.past s).cs x.h.x) (s1.pk (x.past s)).stack) = (s2, .ok g))
    (h2 : s2.cur.mode = 0) (hr : f s2 g (x.env s) = .ok c) (hio : stackIo s2 g c = (s3, none)) :
    flow i y t j f s = .next (x.done s i (afterFlow s3 g c)) := by
  subst hy
  have hm : ¬ (s.putG (x.past s)).cur.mode = 1 := by simp [issueC_mode h]
  have hc' : flowCheck (s.putG (x.past s)) (x.past s) (x.env s).p t j = (s1, none) := hc
  rw [flow, cIssue_of_issueC h]
  simp only [if_neg hm, hc']
  rw [withFill_of_mode (e := x.env s) h1 hf]
  simp only [hr, putFlow_of_mode h2 hio, finishC_done]

theorem flowEffects : Claims.flowEffects := by
  refine ⟨?_, ?_⟩
  · intro s s1 s2 s3 i x g t j c h n hc h1 hf h2 hw hio
    have hs := issueC_shape h
    have hx : ∀ {sh : CShape}, some sh = some x.h → x.h.x = sh.x := fun e => congrArg CShape.x (Option.some.inj e).symm
    cases i
    case brd join target y =>
      obtain ⟨rfl, rfl, rfl⟩ := hw
      show execBrd join target y s = _
      exact flow_of_issueC h (hx hs) hc h1 hf h2 rfl hio
    case jmp target y =>
      obtain ⟨rfl, rfl, rfl⟩ := hw
      show execJmp target y s = _
      exact flow_of_issueC h (hx hs) hc h1 hf h2 rfl hio
    case callc target y =>
      obtain ⟨rfl, rfl, rfl⟩ := hw
      show execCallc target y s = _
      exact flow_of_issueC h (hx hs) hc h1 hf h2 rfl hio
    case endc y =>
      obtain ⟨rfl, rfl, rfl⟩ := hw
      show execEndc y s = _
      exact flow_of_issueC h (hx hs) hc h1 hf h2 rfl hio
    case join y =>
      obtain ⟨c', hj, he⟩ := Option.map_eq_some_iff.mp hw
      obtain ⟨rfl, rfl, rfl⟩ := he
      show execJoin y s = _
      exact flow_of_issueC h (hx hs) hc h1 hf h2 (by simp only [Issue.env, hj]) hio
    case retc y =>
      obtain ⟨c', hj, he⟩ := Option.map_eq_some_iff.mp hw
      obtain ⟨rfl, rfl, rfl⟩ := he
      show execRetc y s = _
      exact flow_of_issueC h (hx hs) hc h1 hf h2 (by simp only [Issue.env, hj]) hio
    all_goals exact absurd hw.symm (Option.some_ne_none _)
  · intro s s1 s2 x g y h n hf h1 c hio
    show execKill y s = _
    rw [execKill, cIssue_of_issueC h]
    have hf' : fillStack (s.putG (x.past s)) (x.past s) (x.env s).k
        ((x.past s).cs.usesStack (x.env s).k (.kill y) (guardMask (x.past s).cs y) ((s.putG (x.past s)).pk (x.past s)).stack) =
        (s1, .ok g) := hf
    have hm : (s.putG (x.past s)).cur.mode = 0 := here_mode h
    rw [withFill_of_mode hm hf']
    exact congrArg (finishC _ _ _ (x.env s) s x.g) (putFlow_of_mode h1 hio)

/-! ## Where the flow instructions send a split (06 R197-R204) -/

theorem startsAt_goto (p : Split) (idx : Nat) (own act : Mask) (stack : List (Nat × Mask)) (tag parent : Nat) :
    Claims.startsAt { p.goto idx with own, act, stack, tag, parent } p idx own act stack tag :=
  ⟨rfl, rfl, rfl, rfl, rfl, rfl, rfl, rfl⟩

theorem startsAt_fall (p : Split) (own act : Mask) (stack : List (Nat × Mask)) (tag parent : Nat) :
    Claims.startsAt { p.goto p.fall with own, act, stack, tag, parent } p (p.hdr + p.cnt + 1) own act stack tag :=
  ⟨Nat.mod_mod _ _, rfl, rfl, rfl, rfl, rfl, rfl, rfl⟩

theorem CSide.sp_setSp_same (c : CSide) (k : Nat) (p : Split) : (c.setSp k p).sp k = some p :=
  Tbl.get?_set_same c.splits k p

theorem CSide.sp_setSp_ne (c : CSide) {k n : Nat} (p : Split) (h : n ≠ k) : (c.setSp k p).sp n = c.sp n :=
  Tbl.get?_set_ne c.splits p h

theorem CSide.updSp_of_sp {c : CSide} {k : Nat} {p : Split} (h : c.sp k = some p) (f : Split → Split) :
    c.updSp k f = c.setSp k (f p) := by
  rw [CSide.updSp, Tbl.upd_of_get? c.splits f h, CSide.setSp]

/-- What the table gives for a number once the entries of another are removed. -/
theorem Tbl.get?_del_ne {α : Type} {t : Tbl α} {n m : Nat} (ho : t.keys.Pairwise (· < ·)) (h : m ≠ n) :
    (t.del n).get? m = t.get? m := by
  induction t with
  | nil => rfl
  | cons e r ih =>
    obtain ⟨k, v⟩ := e
    obtain ⟨hk, hr⟩ := List.pairwise_cons.mp ho
    by_cases hn : k = n
    · subst hn
      have hd : Tbl.del ((k, v) :: r) k = Tbl.del r k := by simp [Tbl.del]
      rw [hd, ih hr, Tbl.get?, if_neg h]
      split
      · next hlt =>
        refine Option.eq_none_iff_forall_ne_some.mpr fun x hx => ?_
        have := hk m (List.mem_map_of_mem (Tbl.get?_mem hx))
        omega
      · rfl
    · have hd : Tbl.del ((k, v) :: r) n = (k, v) :: Tbl.del r n := by simp [Tbl.del, hn]
      rw [hd, Tbl.get?, Tbl.get?, ih hr]

theorem Tbl.get?_del_same {α : Type} (t : Tbl α) (n : Nat) : (t.del n).get? n = none := by
  rw [← Option.not_isSome_iff_eq_none, Option.isSome_iff_exists]
  rintro ⟨x, hx⟩
  simpa [Tbl.del] using Tbl.get?_mem hx

/-- Every number of the range below `m` is taken, and `m` is free. -/
theorem freeKey_eq_some {α : Type} {t : Tbl α} {lo n m : Nat} (hl : lo ≤ m) (hm : m < lo + n) (hf : t.get? m = none)
    (hb : ∀ i < m, lo ≤ i → t.get? i ≠ none) : freeKey t lo n = some m := by
  obtain ⟨i, rfl⟩ := Nat.exists_eq_add_of_le hl
  rw [freeKey, List.find?_map, Option.map_eq_some_iff]
  refine ⟨i, List.find?_range_eq_some.mpr ⟨by simp [hf], by simp; omega, fun a ha => ?_⟩, rfl⟩
  simpa [Option.isSome_iff_ne_none] using hb (lo + a) (by omega) (by omega)

theorem freeKey_eq_none {α : Type} {t : Tbl α} {lo n : Nat} (h : ∀ m, lo ≤ m → m < lo + n → t.get? m ≠ none) :
    freeKey t lo n = none := by
  rw [freeKey, List.find?_map, Option.map_eq_none_iff, List.find?_range_eq_none]
  intro i hi
  simpa [Option.isSome_iff_ne_none] using h (lo + i) (by omega) (by omega)

/-- Replacing a split leaves every other one and the division records. -/
theorem setSp_others (c : CSide) (k : Nat) (q : Split) :
    (∀ n, n ≠ k → (c.setSp k q).sp n = c.sp n) ∧ (c.setSp k q).tags = c.tags :=
  ⟨fun _ hn => c.sp_setSp_ne q hn, rfl⟩

theorem CSide.popJoin_cons (c : CSide) (k : Nat) {p : Split} {j : Nat} {m : Mask} {r : List (Nat × Mask)}
    (h : p.stack = (j, m) :: r) : c.popJoin k p = c.setSp k { p.goto j with stack := r, act := m &&& p.own } := by
  simp only [CSide.popJoin, h]

theorem CSide.retc_of_sp {c : CSide} {k : Nat} {p : Split} (h : c.sp k = some p) :
    c.retc k = if c.base p.tag < p.stack.length then some (c.popJoin k p) else none := by
  simp only [CSide.retc, h]

theorem CSide.join_of_sp {c : CSide} {k : Nat} {p : Split} (h : c.sp k = some p) :
    c.join k = if c.base p.tag < p.stack.length then some (c.popJoin k p)
      else if p.tag ≠ 0 then some (c.setSp k (p.goto (((c.tags.get? p.tag).map (·.join)).getD 0))) else none := by
  simp only [CSide.join, h]

/-- A split leaves no division whose base the depth has not fallen below. -/
theorem CSide.leave_of_base_le (c : CSide) (n : Nat) {tag depth : Nat} (h : c.base tag ≤ depth) : c.leave n tag depth = tag := by
  cases n with
  | zero => rfl
  | succ n => rw [CSide.leave, if_neg fun ⟨_, hd⟩ => Nat.not_lt.mpr h hd]

/-- It leaves the one division whose base it has fallen below. -/
theorem CSide.leave_of_lt_base {c : CSide} {n tag depth : Nat} (ht : tag ≠ 0) (h : depth < c.base tag)
    (he : c.base (c.encl tag) ≤ depth) : c.leave (n + 1) tag depth = c.encl tag := by
  rw [CSide.leave, if_pos ⟨ht, h⟩, c.leave_of_base_le n he]

/-- Entries without a lane are popped; a split stays in its division where the entry found lies at or above its base. -/
theorem CSide.popEnd_in_division (c : CSide) {tag j : Nat} {m : Mask} {r : List (Nat × Mask)} (hm : m ≠ 0)
    (hb : c.base tag ≤ r.length) (st : List (Nat × Mask)) (hz : ∀ e ∈ st, e.2 = 0) :
    c.popEnd (st ++ (j, m) :: r) tag = some (j, m, r, tag) := by
  induction st with
  | nil => rw [List.nil_append, CSide.popEnd, c.leave_of_base_le 8 hb]; exact if_neg hm
  | cons e st ih =>
    obtain ⟨he, hz⟩ := List.forall_mem_cons.mp hz
    have hd : c.base tag ≤ (st ++ (j, m) :: r).length := by simp; omega
    rw [List.cons_append, CSide.popEnd, c.leave_of_base_le 8 hd]
    simp only [he, if_true]
    exact ih hz

/-- Where it lies below that base, within the enclosing division, the split goes on there. -/
theorem CSide.popEnd_in_enclosing {c : CSide} {tag j : Nat} {m : Mask} {r : List (Nat × Mask)} (ht : tag ≠ 0) (hm : m ≠ 0)
    (hb : r.length < c.base tag) (he : c.base (c.encl tag) ≤ r.length) (st : List (Nat × Mask)) (hz : ∀ e ∈ st, e.2 = 0) :
    c.popEnd (st ++ (j, m) :: r) tag = some (j, m, r, c.encl tag) := by
  induction st with
  | nil => rw [List.nil_append, CSide.popEnd, CSide.leave_of_lt_base ht hb he]; exact if_neg hm
  | cons e st ih =>
    obtain ⟨h0, hz⟩ := List.forall_mem_cons.mp hz
    have hd : c.base (c.encl tag) ≤ (st ++ (j, m) :: r).length := by simp; omega
    rw [List.cons_append, CSide.popEnd]
    simp only [h0, if_true]
    rcases Nat.lt_or_ge (st ++ (j, m) :: r).length (c.base tag) with hl | hl
    · rw [CSide.leave_of_lt_base ht hl hd, c.popEnd_in_division hm he st hz]
    · rw [c.leave_of_base_le 8 hl, ih hz]

/-- The stack holds an entry with a lane, or the split has none to go on at. -/
theorem CSide.popEnd_eq_none (c : CSide) {st : List (Nat × Mask)} (hz : ∀ e ∈ st, e.2 = 0) (tag : Nat) : c.popEnd st tag = none := by
  induction st generalizing tag with
  | nil => rfl
  | cons e st ih =>
    obtain ⟨h0, hz⟩ := List.forall_mem_cons.mp hz
    rw [CSide.popEnd]
    simp only [h0, if_true]
    exact ih hz _

/-- ENDC sets the split alone. -/
theorem CSide.endc_others (c : CSide) (k : Nat) {p : Split} (h : c.sp k = some p) :
    (∀ n, n ≠ k → (c.endc k).sp n = c.sp n) ∧ (c.endc k).tags = c.tags := by
  simp only [CSide.endc, h]
  split
  · exact setSp_others ..
  · exact setSp_others ..

theorem CSide.endc_of_popEnd {c : CSide} {k : Nat} {p : Split} (h : c.sp k = some p) {j tag : Nat} {m : Mask}
    {r : List (Nat × Mask)} (hp : c.popEnd (Claims.clipped p.stack (~~~p.act)) p.tag = some (j, m, r, tag)) :
    ∃ q, (c.endc k).sp k = some q ∧ Claims.startsAt q p j p.own (m &&& p.own) r tag := by
  have he : c.endc k = c.setSp k { p.goto j with stack := r, act := m &&& p.own, tag } := by
    rw [Claims.clipped] at hp
    simp only [CSide.endc, h, hp]
  rw [he]
  exact ⟨_, c.sp_setSp_same .., startsAt_goto ..⟩

theorem CSide.endc_of_popEnd_none {c : CSide} {k : Nat} {p : Split} (h : c.sp k = some p)
    (hp : c.popEnd (Claims.clipped p.stack (~~~p.act)) p.tag = none) :
    (c.endc k).sp k = some { p.goto p.idx with stack := [], st := .parkedEnd, tag := 0 } := by
  have he : c.endc k = c.setSp k { p.goto p.idx with stack := [], st := .parkedEnd, tag := 0 } := by
    rw [Claims.clipped] at hp
    simp only [CSide.endc, h, hp]
  rw [he, CSide.sp_setSp_same]

theorem CSide.base_of_tag {c : CSide} {tag : Nat} {d : TagRec} (ht : tag ≠ 0) (hd : c.tags.get? tag = some d) :
    c.base tag = d.base := by
  simp [CSide.base, ht, hd]

theorem CSide.encl_of_tag {c : CSide} {tag : Nat} {d : TagRec} (hd : c.tags.get? tag = some d) : c.encl tag = d.encl := by
  simp [CSide.encl, hd]

theorem CSide.kill_of_sp {c : CSide} {k : Nat} {p : Split} (h : c.sp k = some p) (m : Mask)
    (ho : c.splits.keys.Pairwise (· < ·)) :
    ((∀ n, n ≠ k → (c.kill k m).sp n = c.sp n) ∧ (c.kill k m).tags = c.tags) ∧ (c.kill k m).exited = c.exited ||| m ∧
      (p.own &&& ~~~m = 0 → (c.kill k m).sp k = none) ∧
      (p.own &&& ~~~m ≠ 0 → (c.kill k m).sp k = some { p with
        own := p.own &&& ~~~m, act := p.act &&& ~~~m, stack := Claims.clipped p.stack (~~~m) }) := by
  have h' : ({ c with exited := c.exited ||| m } : CSide).sp k = some p := h
  simp only [CSide.kill, h']
  split
  · next hz =>
    exact ⟨⟨fun n hn => Tbl.get?_del_ne ho hn, rfl⟩, rfl, fun _ => Tbl.get?_del_same .., fun hn => absurd hz hn⟩
  · next hz =>
    exact ⟨setSp_others { c with exited := c.exited ||| m } k _, rfl, fun hn => absurd hn hz, fun _ => CSide.sp_setSp_same ..⟩

/-- The C side of a division (06 R198): the split, with the lanes that fall through and the inactive ones, and the new one with those
that go on at the target. -/
def CSide.divided (c : CSide) (k k' tag join target : Nat) (p : Split) (t f : Mask) : CSide :=
  let own := f ||| (p.own &&& ~~~p.act)
  { (c.setSp k { p.goto p.fall with tag, act := f, own, stack := Claims.clipped p.stack own }).setSp k'
      { p.goto target with tag, act := t, own := t, stack := Claims.clipped p.stack t, parent := k } with
    tags := c.tags.set tag { join, encl := p.tag, base := p.stack.length, alone := false } }

/-- The split of a BRD that uses the stack (06 R197). -/
def Split.branched (p : Split) (join target : Nat) (t f : Mask) : Split :=
  if t = 0 then { p.goto p.fall with stack := (join, p.act) :: p.stack }
  else if f = 0 then { p.goto target with stack := (join, p.act) :: p.stack }
  else { p.goto target with stack := (p.fall, f) :: (join, p.act) :: p.stack, act := t }

theorem CSide.brd_of_divide {c : CSide} {k k' tag : Nat} {p : Split} {gm : Mask} {join target : Nat} (h : c.sp k = some p)
    (ht : p.act &&& gm ≠ 0) (hf : p.act &&& ~~~gm ≠ 0) (hk : freeKey c.splits 0 4 = some k') (hu : freeKey c.tags 1 7 = some tag) :
    c.brd k gm join target false = c.divided k k' tag join target p (p.act &&& gm) (p.act &&& ~~~gm) := by
  have hno : ¬ (false = true ∨ p.act &&& gm = 0 ∨ p.act &&& ~~~gm = 0) := by
    rintro (hs | h0 | h0)
    · cases hs
    · exact ht h0
    · exact hf h0
  simp only [CSide.brd, h, if_neg hno, hk, hu]
  rfl

theorem CSide.brd_of_stack {c : CSide} {k : Nat} {p : Split} {gm : Mask} {join target : Nat} {stackMode : Bool}
    (h : c.sp k = some p) (hno : stackMode = true ∨ p.act &&& gm = 0 ∨ p.act &&& ~~~gm = 0 ∨ freeKey c.splits 0 4 = none ∨
      freeKey c.tags 1 7 = none) :
    c.brd k gm join target stackMode = c.setSp k (p.branched join target (p.act &&& gm) (p.act &&& ~~~gm)) := by
  simp only [CSide.brd, h]
  by_cases hs : stackMode = true ∨ p.act &&& gm = 0 ∨ p.act &&& ~~~gm = 0
  · rw [if_pos hs]
    rfl
  · rw [if_neg hs]
    rcases hno with h1 | h1 | h1 | h1 | h1
    · exact absurd (.inl h1) hs
    · exact absurd (.inr (.inl h1)) hs
    · exact absurd (.inr (.inr h1)) hs
    · rw [h1]
      rfl
    · rw [h1]
      cases freeKey c.splits 0 4 <;> rfl

/-- Where a division sends the two splits, and what its record holds (06 R198). -/
theorem CSide.divided_moves (c : CSide) {k k' : Nat} (hne : k ≠ k') (tag join target : Nat) (p : Split) (t f : Mask) :
    (∀ n, n ≠ k → n ≠ k' → (c.divided k k' tag join target p t f).sp n = c.sp n) ∧
    (∃ q, (c.divided k k' tag join target p t f).sp k = some q ∧ Claims.startsAt q p (p.hdr + p.cnt + 1) (f ||| (p.own &&& ~~~p.act)) f
      (Claims.clipped p.stack (f ||| (p.own &&& ~~~p.act))) tag) ∧
    (∃ q, (c.divided k k' tag join target p t f).sp k' = some q ∧
      Claims.startsAt q p target t t (Claims.clipped p.stack t) tag ∧ q.parent = k) ∧
    (∀ n, n ≠ tag → (c.divided k k' tag join target p t f).tags.get? n = c.tags.get? n) ∧
    ∃ d, (c.divided k k' tag join target p t f).tags.get? tag = some d ∧ d.join = join ∧ d.encl = p.tag ∧
      d.base = p.stack.length := by
  refine ⟨fun n hn hn' => (CSide.sp_setSp_ne _ _ hn').trans (c.sp_setSp_ne _ hn),
    ⟨_, (CSide.sp_setSp_ne _ _ hne).trans (c.sp_setSp_same ..), startsAt_fall ..⟩,
    ⟨_, CSide.sp_setSp_same .., startsAt_goto .., rfl⟩,
    fun n hn => Tbl.get?_set_ne _ _ hn, _, Tbl.get?_set_same .., rfl, rfl, rfl⟩

theorem Split.branched_fall (p : Split) (join target : Nat) (t f : Mask) (ht : t = 0) :
    Claims.startsAt (p.branched join target t f) p (p.hdr + p.cnt + 1) p.own p.act ((join, p.act) :: p.stack) p.tag := by
  rw [Split.branched, if_pos ht]
  exact startsAt_fall ..

theorem Split.branched_target (p : Split) (join target : Nat) (t f : Mask) (ht : t ≠ 0) (hf : f = 0) :
    Claims.startsAt (p.branched join target t f) p target p.own p.act ((join, p.act) :: p.stack) p.tag := by
  rw [Split.branched, if_neg ht, if_pos hf]
  exact startsAt_goto ..

theorem Split.branched_both (p : Split) (join target : Nat) (t f : Mask) (ht : t ≠ 0) (hf : f ≠ 0) :
    Claims.startsAt (p.branched join target t f) p target p.own t
      (((p.hdr + p.cnt + 1) % 2 ^ 22, f) :: (join, p.act) :: p.stack) p.tag := by
  rw [Split.branched, if_neg ht, if_neg hf]
  exact startsAt_goto ..

theorem flowMoves : Claims.flowMoves := by
  intro c k p h fall others pops
  refine ⟨fun target => ?_, fun target => ?_, fun j m r hs hb => ?_, fun hb => ⟨?_, fun ht => ?_, fun d ht hd => ?_⟩,
    fun st j m r hs hz hm => ⟨c.endc_others k h, fun hb => ?_, fun d ht hd hb he => ?_⟩, fun hz => ⟨c.endc_others k h, ?_⟩,
    fun m ho => ?_⟩
  · rw [CSide.jmp, CSide.updSp_of_sp h]
    exact ⟨setSp_others .., _, CSide.sp_setSp_same .., startsAt_goto ..⟩
  · rw [CSide.callc, CSide.updSp_of_sp h]
    exact ⟨setSp_others .., _, CSide.sp_setSp_same .., startsAt_goto ..⟩
  · have hlt : c.base p.tag < p.stack.length := by rw [hs, List.length_cons]; omega
    have hp : pops (c.popJoin k p) j m r := by
      rw [c.popJoin_cons k hs]
      exact ⟨setSp_others .., _, CSide.sp_setSp_same .., startsAt_goto ..⟩
    exact ⟨⟨_, (CSide.retc_of_sp h).trans (if_pos hlt), hp⟩, _, (CSide.join_of_sp h).trans (if_pos hlt), hp⟩
  · rw [CSide.retc_of_sp h, if_neg (Nat.not_lt.mpr hb)]
  · rw [CSide.join_of_sp h, if_neg (Nat.not_lt.mpr hb), if_neg (not_not.mpr ht)]
  · refine ⟨_, ?_, setSp_others c k (p.goto d.join), _, CSide.sp_setSp_same .., startsAt_goto ..⟩
    rw [CSide.join_of_sp h, if_neg (Nat.not_lt.mpr hb), if_pos ht, hd]
    rfl
  · exact CSide.endc_of_popEnd h (hs ▸ c.popEnd_in_division hm hb st hz)
  · rw [← CSide.base_of_tag ht hd] at hb
    rw [← CSide.encl_of_tag hd] at he ⊢
    exact CSide.endc_of_popEnd h (hs ▸ CSide.popEnd_in_enclosing ht hm hb he st hz)
  · have hc : ∀ e ∈ Claims.clipped p.stack (~~~p.act), e.2 = 0 := List.forall_mem_map.mpr hz
    exact ⟨_, CSide.endc_of_popEnd_none h (c.popEnd_eq_none hc _), rfl, rfl, rfl, rfl, rfl⟩
  · exact CSide.kill_of_sp h m ho

theorem brdMoves : Claims.brdMoves := by
  intro c k p gm join target stackMode h fall t f c1
  refine ⟨?_, fun hno => ?_⟩
  · intro k' tag hst ht hf hk' hfree hk hl hu htag hb own
    have hne : k ≠ k' := by
      rintro rfl
      rw [h] at hfree
      cases hfree
    have hd : c1 = c.divided k k' tag join target p t f := by
      subst hst
      exact CSide.brd_of_divide h ht hf (freeKey_eq_some (Nat.zero_le _) (by omega) hfree fun i hi _ => hk i hi)
        (freeKey_eq_some hl (by omega) htag hb)
    rw [hd]
    exact CSide.divided_moves c hne tag join target p t f
  · have hs : c1 = c.setSp k (p.branched join target t f) := by
      refine CSide.brd_of_stack h (hno.imp_right (Or.imp_right (Or.imp_right (Or.imp ?_ ?_))))
      · exact fun hk => freeKey_eq_none fun m _ hm => hk m (by omega)
      · exact fun hk => freeKey_eq_none fun m hl hm => hk m hl (by omega)
    rw [hs]
    obtain ⟨hothers, htags⟩ := setSp_others c k (p.branched join target t f)
    exact ⟨hothers, htags, _, CSide.sp_setSp_same .., Split.branched_fall _ _ _ _ _, Split.branched_target _ _ _ _ _,
      Split.branched_both _ _ _ _ _⟩

/-- Settles O32: what a flow instruction makes of the machine (`flowEffects`), and where each rule sends a split (`flowMoves`,
`brdMoves`). -/
theorem flowResults : Obligations.FlowResults := ⟨flowEffects, flowMoves, brdMoves⟩

end Sys2Proof.Machine

/-! ## Encodings: decoding gives back what the encoder was given (02 R50-R72)

A word is its fields one after the other. The decoder takes the opcode out first, then the sub-function where the opcode's row has
one, then the operands; and each must-be-zero field holds the zeros that the encoder wrote there. -/

namespace Sys2Proof.Machine

-- One after another, as in Sys2Proof/Tests/Slice0.lean: a thread for each proof would need more memory than the check allows.
set_option Elab.async false

/-! ### Fields of a word -/

/-- A field that lies within a known field. -/
theorem extract_of_field {m j v k n : Nat} {w : BitVec m} {y : BitVec v} (h : w.extractLsb' j v = y) (hj : j ≤ k)
    (hk : k + n ≤ j + v) : w.extractLsb' k n = y.extractLsb' (k - j) n := by
  rw [← h, extract_extract _ (by omega), Nat.add_sub_cancel' hj]

theorem srcDec_of_field {w : BitVec 96} {k : Nat} {a : Src} (h : w.extractLsb' k 11 = a.enc) :
    Src.dec (w.extractLsb' (k + 9) 2) (w.extractLsb' k 9) = a := by
  rw [extract_of_field h (by omega) (by omega), extract_of_field h (by omega) (by omega), Nat.add_sub_cancel_left, Nat.sub_self,
    Src.dec_enc]

theorem dstDec_of_field {w : BitVec 96} {k : Nat} {d : Dst} (h : w.extractLsb' k 11 = d.enc) :
    Dst.dec (w.extractLsb' (k + 9) 2) (w.extractLsb' k 9) = d := by
  rw [extract_of_field h (by omega) (by omega), extract_of_field h (by omega) (by omega), Nat.add_sub_cancel_left, Nat.sub_self,
    Dst.dec_enc]

section
variable (op mod : BitVec 8) (d s1 s2 s3 s4 : BitVec 11) (x : Ctl) (xf : BitVec 6)

theorem cWord_mod {k n : Nat} (h : 80 ≤ k) (h' : k + n ≤ 88) :
    (cWord op mod d s1 s2 s3 s4 x xf).extractLsb' k n = mod.extractLsb' (k - 80) n := by
  obtain ⟨-, hm, -⟩ := cWord_fields op mod d s1 s2 s3 s4 x xf
  exact extract_of_field hm h h'

theorem cWord_xf {k n : Nat} (h : k + n ≤ 6) : (cWord op mod d s1 s2 s3 s4 x xf).extractLsb' k n = xf.extractLsb' k n := by
  obtain ⟨-, -, -, -, -, -, -, hx⟩ := cWord_fields op mod d s1 s2 s3 s4 x xf
  exact extract_of_field hx (Nat.zero_le k) (by omega)

theorem cWord_hints : (cWord op mod d s1 s2 s3 s4 x xf).extractLsb' 6 10 = x.enc.extractLsb' 0 10 := by
  simp (disch := omega) only [cWord, extract_high, extract_low, Nat.sub_self]

theorem cWord_dst (d : Dst) :
    let w := cWord op mod d.enc s1 s2 s3 s4 x xf
    Dst.dec (w.extractLsb' 78 2) (w.extractLsb' 69 9) = d := by
  obtain ⟨-, -, hd, -⟩ := cWord_fields op mod d.enc s1 s2 s3 s4 x xf
  exact dstDec_of_field hd

theorem cWord_src1 (a : Src) :
    let w := cWord op mod d a.enc s2 s3 s4 x xf
    Src.dec (w.extractLsb' 67 2) (w.extractLsb' 58 9) = a := by
  obtain ⟨-, -, -, ha, -⟩ := cWord_fields op mod d a.enc s2 s3 s4 x xf
  exact srcDec_of_field ha

theorem cWord_src2 (a : Src) :
    let w := cWord op mod d s1 a.enc s3 s4 x xf
    Src.dec (w.extractLsb' 56 2) (w.extractLsb' 47 9) = a := by
  obtain ⟨-, -, -, -, ha, -⟩ := cWord_fields op mod d s1 a.enc s3 s4 x xf
  exact srcDec_of_field ha

theorem cWord_src3 (a : Src) :
    let w := cWord op mod d s1 s2 a.enc s4 x xf
    Src.dec (w.extractLsb' 45 2) (w.extractLsb' 36 9) = a := by
  obtain ⟨-, -, -, -, -, ha, -⟩ := cWord_fields op mod d s1 s2 a.enc s4 x xf
  exact srcDec_of_field ha

theorem cWord_src4 (a : Src) :
    let w := cWord op mod d s1 s2 s3 a.enc x xf
    Src.dec (w.extractLsb' 34 2) (w.extractLsb' 25 9) = a := by
  obtain ⟨-, -, -, -, -, -, ha, -⟩ := cWord_fields op mod d s1 s2 s3 a.enc x xf
  exact srcDec_of_field ha

variable {op mod d s1 s2 s3 s4 x xf}

theorem opcode_of_cWord {w : BitVec 96} (h : cWord op mod d s1 s2 s3 s4 x xf = w) : w.extractLsb' 88 8 = op := by
  obtain ⟨ho, -⟩ := cWord_fields op mod d s1 s2 s3 s4 x xf
  rw [← h, ho]

end

/-- The fields of a flow word (06 R196). -/
theorem flowWord_fields (op : BitVec 8) (join target : BitVec 22) (x : Ctl) :
    let w := flowWord op join target x
    w.extractLsb' 88 8 = op ∧ w.extractLsb' 80 8 = 0#8 ∧ w.extractLsb' 69 11 = 0#11 ∧ w.extractLsb' 47 22 = join ∧
      w.extractLsb' 25 22 = target ∧ w.extractLsb' 0 6 = 0#6 := by
  refine ⟨?_, ?_, ?_, ?_, ?_, ?_⟩ <;>
    simp only [flowWord, extract_high, extract_low, extract_all, Nat.reduceSub, Nat.sub_self, Nat.reduceLeDiff]

/-! ### Must-be-zero fields -/

/-- An A word whose must-be-zero fields are zero is the instruction of its row. -/
theorem zerosA_eq_ok {w0 w1 : BitVec 32} {f0 f1 : List (Nat × Nat)} {i j : Instr} (hi : i = j)
    (h0 : ∀ f ∈ f0, w0.extractLsb' f.1 f.2 = 0#f.2) (h1 : ∀ f ∈ f1, w1.extractLsb' f.1 f.2 = 0#f.2) :
    zerosA w0 f0 w1 f1 i = .ok j := by
  have n0 : f0.find? (fun f => w0.extractLsb' f.1 f.2 != 0) = none := by simpa using h0
  have n1 : f1.find? (fun f => w1.extractLsb' f.1 f.2 != 0) = none := by simpa using h1
  rw [zerosA, n0, n1, hi]

/-- A C word whose must-be-zero fields are zero is the instruction of its row. -/
theorem zeros_eq_ok {w : BitVec 96} {fs : List (Nat × Nat)} {i j : Instr} (hi : i = j)
    (h : ∀ f ∈ fs, w.extractLsb' f.1 f.2 = 0#f.2) : zeros w fs i = .ok j := by
  have hnone {l : List (Nat × Nat)} (hl : l ⊆ fs) : l.find? (fun f => w.extractLsb' f.1 f.2 != 0) = none := by
    simpa using fun k n hf => h (k, n) (hl hf)
  rw [zeros, hnone fun f hf => List.takeWhile_subset _ (List.mem_reverse.mp hf)]
  simp only [hnone (List.dropWhile_subset _), hi]

/-- MXFEED takes no hints, and its word has zeros in their place (07 R225). -/
theorem mxfeed_hints_zero {fl : BitVec 1} {x : Ctl} (h : WellFormed (.mxfeed fl x)) :
    x.ch = 0 ∧ x.stall = 0 ∧ x.yld = 0 ∧ x.reuse = 0 := by
  have hpass {bad : Bool} {b : Nat × Nat}
      (ht : (bad, b) ∈ [(x.stall != 0 || x.yld != 0 || x.reuse != 0, 2, 6)] ++ noGuard x ++ cTests none [] x false) :
      bad = false := by
    refine Bool.eq_false_iff.mpr fun hb => ?_
    subst hb
    exact Option.isSome_iff_ne_none.mp (firstBreach_isSome ht) h
  have h1 : (x.stall != 0 || x.yld != 0 || x.reuse != 0) = false := hpass (b := (2, 6)) (by simp)
  have h2 : (x.ch != 0) = false := hpass (b := (4, 13)) (by simp [cTests])
  simp only [Bool.or_eq_false_iff, bne_eq_false_iff_eq] at h1 h2
  obtain ⟨⟨hs, hy⟩, hr⟩ := h1
  exact ⟨h2, hs, hy, hr⟩

theorem ctlEnc_hints_zero {x : Ctl} (hc : x.ch = 0) (hs : x.stall = 0) (hy : x.yld = 0) (hr : x.reuse = 0) :
    x.enc.extractLsb' 0 10 = 0#10 := by
  have he : x.enc = (x.ga ++ x.gb ++ x.gc) ++ 0#10 := by
    refine BitVec.eq_of_toNat_eq ?_
    simp only [Ctl.enc, hc, hs, hy, hr, BitVec.toNat_append]
    simp [← Nat.shiftLeft_add]
  rw [he, extract_low _ _ (Nat.le_refl 10), extract_all]

/-! ### The two streams -/

/-- Settles O53: for each instruction the opcode that the encoder wrote picks its row of the decoder, the sub-function its line in the
row, and the operands come out of the fields that they were put into. -/
theorem aStreamRoundTrip : Obligations.AStreamRoundTrip := by
  intro i w0 w1 h
  rw [decodeA]
  generalize hop : w0.extractLsb' 26 6 = op
  cases i <;> injection h
  all_goals
    rename_i h
    injection h with h0 h1
    rw [← h0] at hop
    simp only [extract_high, extract_all, Nat.reduceSub, Nat.sub_self, Nat.reduceLeDiff] at hop
    subst hop
  case' add | sub | and | or | xor | andn | shlA | shrA | sra | rot | slt | sltu | min | max | minu | maxu | mul | mulh | mulhu |
      div | divu | rem | remu | clzA | popcA | brevA | sextb | sexth | bfeA | bfiA | cwait | yieldc | ralloc | rcommit | rdone |
      rinput | rdepth =>
    have hsub := congrArg (BitVec.extractLsb' 0 8) h0
  case' shli | shri | srai | roti =>
    have hsub := congrArg (BitVec.extractLsb' 12 2) h0
  case' cpyBar | cpyCnt | mxbind | mxloop | mxconv | mxsel | mxrel | mxstat | tstore =>
    have hsub := congrArg (BitVec.extractLsb' 22 4) h0
  case' binit | barv | bwaita | barvw | bexp | btry | nop | rdsr | wrsr | trap | tret | exit | yield | csync | haltd | rdtime =>
    have hsub := congrArg (BitVec.extractLsb' 10 4) h0
  case' fenceAcq | fenceRel | fenceAcqrel =>
    have hsub := congrArg (BitVec.extractLsb' 9 2) h0
  any_goals
    simp only [extract_high, extract_low, extract_all, Nat.reduceSub, Nat.sub_self, Nat.reduceLeDiff] at hsub
    rw [← hsub]
  all_goals refine zerosA_eq_ok ?_ ?_ ?_
  all_goals
    subst h0 h1
    simp only [extract_high, extract_low, extract_all, Nat.reduceSub, Nat.sub_self, Nat.reduceLeDiff, List.forall_mem_cons,
      List.not_mem_nil, false_imp_iff, implies_true, and_self]

/-- Settles O54: for each instruction the opcode that the encoder wrote picks its row of the decoder, the sub-function its line in the
row, and the operands, the guard and the hints come out of the fields that they were put into; only MXFEED's word has no place for
its hints, which are zero where it is well-formed. -/
theorem cStreamRoundTrip : Obligations.CStreamRoundTrip := by
  intro i w hwf h
  rw [decodeC]
  generalize hop : w.extractLsb' 88 8 = op
  cases i <;> injection h
  all_goals rename_i h
  case brd | jmp | join | endc | callc | retc =>
    subst h
    obtain ⟨ho, hm, hd, hj, ht, hx⟩ := flowWord_fields _ _ _ _
    rw [ho] at hop
    subst hop
    refine zeros_eq_ok ?_ ?_
    · simp only [hj, ht, Ctl.dec_flowWord]
    · simp only [hm, hd, hj, ht, hx, List.forall_mem_cons, List.not_mem_nil, false_imp_iff, implies_true, and_self]
  all_goals
    rw [opcode_of_cWord h] at hop
    subst hop
  case' shr | shra | bfe | bfes => have hsub := congrArg (BitVec.extractLsb' 84 1) h
  case' shflup | shfldn | shflx | shflr | matchany | matchlead | matchall => have hsub := congrArg (BitVec.extractLsb' 80 2) h
  case' bcast | bcastf => have hsub := congrArg (BitVec.extractLsb' 80 1) h
  case' voteall | voteany | votesame | voteballot => have hsub := congrArg (BitVec.extractLsb' 84 3) h
  case' pmov | pmovw => have hsub := congrArg (BitVec.extractLsb' 81 1) h
  any_goals
    simp only [cWord_mod, extract_high, extract_low, extract_all, Nat.reduceSub, Nat.sub_self, Nat.reduceLeDiff] at hsub
    rw [← hsub]
  all_goals refine zeros_eq_ok ?_ ?_
  all_goals subst h
  case mxfeed.refine_2 =>
    obtain ⟨hc, hs, hy, hr⟩ := mxfeed_hints_zero hwf
    simp only [cWord_fields, cWord_hints, cWord_xf, ctlEnc_hints_zero hc hs hy hr, extract_high, extract_all,
      Nat.sub_self, Nat.reduceLeDiff, List.forall_mem_cons, List.not_mem_nil, false_imp_iff, implies_true, and_self]
  all_goals
    simp only [cWord_fields, cWord_mod, cWord_xf, cWord_dst, cWord_src1, cWord_src2, cWord_src3, cWord_src4, Ctl.dec_cWord,
      extract_high, extract_low, extract_all, Nat.reduceSub, Nat.sub_self, Nat.reduceLeDiff, List.forall_mem_cons,
      List.not_mem_nil, false_imp_iff, implies_true, and_self]

/-- Settles O52: the decoder run on each word. -/
theorem decodeWords : Obligations.DecodeWords := by
  refine ⟨?_, ?_, ?_, ?_, ?_, ?_, ?_, ?_, ?_, ?_, ?_⟩ <;> rfl

end Sys2Proof.Machine

/-! ## Steps of control of a group (01 R23, 02 R69, 06 R199-R202, 08 R248, R256, R262) -/

namespace Sys2Proof.Machine

/-! ### A step that changes nothing -/

/-- A group without a shadow keeps no replay log (08 R266). -/
theorem log_of_unshadowed {g : Group} (h : g.shadow = none) (it : LogItem) : g.log it = g := by
  unfold Group.log
  split
  · rfl
  · rw [h, Option.map_none, ← h]

/-- A side spills nothing that it already holds (01 R32). -/
theorem spills_self {c : CSide} (h : ∀ e ∈ c.splits, c.sp e.1 = some e.2) : spills c c = [] := by
  simp only [spills, List.flatten_eq_nil_iff, List.forall_mem_map, List.filterMap_eq_nil_iff]
  rintro e he ⟨x, n⟩ hx
  rw [List.mem_zipIdx_iff_getElem?] at hx
  simp [h e he, hx]

theorem stackIo_self {s : State} {g : Group} (h : ∀ e ∈ g.cs.splits, g.cs.sp e.1 = some e.2) : stackIo s g g.cs = (s, none) := by
  rw [stackIo, spills_self h, List.foldl_nil]

/-- Where no split has gone, no operation in flight changes its split (06 R200). -/
theorem renameAll_self {c : CSide} (h : ∀ e ∈ c.splits, c.sp e.1 = some e.2) (g : Group) (k : Nat) : g.renameAll c c k = g :=
  List.foldlRecOn (motive := fun x => x = g) _ _ rfl fun x hx e he => by
    rw [h e he, hx]
    rfl

/-! ### The C-stream -/

theorem startClause_clear {s : State} {g : Group} {k : Nat} {p : Split} {h : Header} (hp : g.cs.sp k = some p)
    (hw : p.noWait = false) (hl : g.lane = []) (hf : ∀ n < 12, h.wait.getLsbD n = true → g.cfn n = 0) (hs : g.shadow = none)
    (w : BitVec 96) :
    startClause s g k w h = s.putG { g with
      cs := g.cs.enter k h,
      unwaited := g.unwaited.filter fun u => !(u.1 == k && h.wait.getLsbD u.2.2) } := by
  have hclear : ((List.range 12).any fun n => h.wait.getLsbD n && g.cfn n != 0) = false := by
    simpa [List.any_eq_false] using hf
  have hfault (names : Nat → Bool) : laneFaultAt (s.putG g) g k names = none := by
    rw [laneFaultAt, hl]
    rfl
  simp only [startClause, hp, hw, hfault, hclear, Bool.false_eq_true, if_false, Bool.not_false, Bool.true_and]
  rw [log_of_unshadowed]
  exact hs

theorem exec_clauseStart {s t : State} {g : Group} {p : Split} {w : BitVec 96} {h : Header} (hg : s.grp? = some g)
    (hp : g.cs.sp s.cur.split = some p) (hr : g.cRuns = true) (hst : p.st = .running) (hsl : p.slot = 0) (hh : g.halts = false)
    (hc : p.cmp = false) (hs : g.shadow = none) (hf : fetchC s g p.idx = (t, .ok w)) (ho : w.extractLsb' 88 8 = 0xFF)
    (hd : decodeHeader w = .ok h) (hset : CSide.settleAt (joinBit w) 16 s.cur.split g.cs = (g.cs, some s.cur.split))
    (hw : p.noWait = false) (hl : g.lane = []) (hfl : ∀ n < 12, h.wait.getLsbD n = true → g.cfn n = 0)
    (hsp : ∀ e ∈ g.cs.splits, g.cs.sp e.1 = some e.2) :
    exec .clauseStart s = .next (t.putG { g with
      cs := g.cs.enter s.cur.split h,
      unwaited := g.unwaited.filter fun u => !(u.1 == s.cur.split && h.wait.getLsbD u.2.2) }) := by
  have hstart := startClause_clear (s := t) hp hw hl hfl hs w
  have hio := stackIo_self (s := t) hsp
  have hren := renameAll_self hsp g s.cur.split
  change execClauseStart s = _
  unfold execClauseStart
  simp only [hg, hp, hr, hst, hsl, hh, hc, hf, ho, hd, hset]
  simp [hio, hren, hstart]

theorem exec_regionEntry {s : State} {g : Group} {p : Split} {e : SEntry} {r : List SEntry} (hg : s.grp? = some g)
    (hp : g.cs.sp 0 = some p) (hr : g.cRuns = true) (hh : g.halts = false) (hst : p.st = .parkedEnd)
    (hn : g.cs.splits.length = 1) (hq : g.q.clq = e :: r) (he : g.performed e.need = true) (hs : g.shadow = none) :
    exec .regionEntry s = .next (s.putG { g with
      q := { g.q with clq := r }, lastQ := s.tick, cs := g.cs.region (e.val.toNat % 2 ^ 22) }) := by
  change execRegionEntry s = _
  unfold execRegionEntry
  simp only [hg, hp, hr, hh, hst, hn, hq, he]
  rw [log_of_unshadowed]
  · rfl
  · exact hs

/-- A group without a shadow lets parked splits resume one after another, and only its C side changes. -/
theorem foldl_resume_unshadowed (ks : List Nat) {g : Group} (hs : g.shadow = none) :
    ks.foldl (fun (g : Group) k => ({ g with cs := g.cs.resume k } : Group).log (LogItem.control k g.cs .alone)) g =
      { g with cs := ks.foldl (fun c k => c.resume k) g.cs } := by
  induction ks generalizing g with
  | nil => rfl
  | cons k ks ih =>
    rw [List.foldl_cons, List.foldl_cons, log_of_unshadowed, ih]
    · exact hs
    · exact hs

theorem exec_parkedJoinTimeout {s : State} {g : Group} (hg : s.grp? = some g) (hr : g.cRuns = true) (hs : g.shadow = none) :
    exec .parkedJoinTimeout s = .next (s.putG { g with cs :=
      ((g.cs.splits.filter fun e => g.cs.mayResume s.tick e.1 e.2).map (·.1)).foldl (fun c k => c.resume k) g.cs }) := by
  change execParkedJoinTimeout s = _
  unfold execParkedJoinTimeout
  simp only [hg, hr, Bool.not_true, Bool.false_eq_true, if_false, foldl_resume_unshadowed _ hs]

/-! ### In the place of an instruction -/

theorem exec_illegalInstruction {s : State} {g : Group} (hg : s.grp? = some g) (code bit : Nat) (word : BitVec 96) :
    exec (.illegalInstruction true code bit word) s =
      .next (raise s g.who.gid (cPending g s.cur.split word (Cause.mk' 1 code bit))) ∧
    exec (.illegalInstruction false code bit word) s =
      .next (raise s g.who.gid { aPending g .nop (Cause.mk' 1 code bit) with word }) := by
  change execIllegalInstruction _ _ _ _ _ = _ ∧ execIllegalInstruction _ _ _ _ _ = _
  simp [execIllegalInstruction, trapAtWord, hg]

theorem exec_fetchFault {s : State} {g : Group} (hg : s.grp? = some g) (va level : Nat) (perm : Bool) :
    let c := Cause.mk' (if perm then 4 else 3) 4 (3 + 4 * level) va
    exec (.fetchFault true va level perm) s = .next (raise s g.who.gid (cPending g s.cur.split 0 c)) ∧
    exec (.fetchFault false va level perm) s = .next (raise s g.who.gid { aPending g .nop c with word := 0 }) := by
  change execFetchFault _ _ _ _ _ = _ ∧ execFetchFault _ _ _ _ _ = _
  simp [execFetchFault, trapAtWord, tDetail, hg]

theorem exec_hostBreak {s : State} {g : Group} (hg : s.grp? = some g) (hsv : g.saved = false) (hgo : g.stop ≠ .gone)
    (hh : g.stop ≠ .halt) :
    exec .hostBreak s = .next (raise s g.who.gid { aPending g .nop (Cause.mk' 12 2) with word := 0 }) := by
  change execHostBreak s = _
  simp [execHostBreak, hg, hsv, hgo, hh]

theorem exec_hostDebugControl {s : State} {g : Group} (hg : s.grp? = some g) (hh : g.stop = .halt) :
    let h := ({ g with stop := .run, ablk := none } : Group).adv
    exec .hostDebugControl s = .next
      (s.putG { h with trap := g.trap.map fun p => if p.apc = g.apc then { p with apc := h.apc } else p }) := by
  change execHostDebugControl s = _
  unfold execHostDebugControl
  simp only [hg]
  exact if_pos hh

/-! ### Traps, deadlocks, late errors and sleep -/

theorem exec_trapEntry {s : State} {g : Group} {p : Pending} (hg : s.grp? = some g) (ht : g.trap = some p)
    (hd : g.drained = true) (hsv : g.saved = false) (hh : g.stop ≠ .halt) :
    exec .trapEntry s = .next (takeTrap s g.who.gid p) := by
  change execTrapEntry s = _
  simp [execTrapEntry, hg, ht, hd, hsv, hh]

/-- The deadlock of a group both of whose streams are stuck (08 R248): the trap of the first pending token, or cause group 8, code 3, of
both sides. -/
theorem exec_decouplingDeadlock {s : State} {g : Group} {qa : Nat} (hg : s.grp? = some g) (ha : g.aStuck s.tick = some qa)
    (ht : g.trap = none) (hsv : g.saved = false) (hq : g.lastQ + deadlockT ≤ s.tick)
    (hc : ∀ e ∈ g.cs.splits, (e.2.stuckSince g.q.clq.isEmpty s.tick).isSome = true) :
    (∀ c op, g.firstToken = some (c, op) → exec .decouplingDeadlock s = .next (bareToken s g c op)) ∧
    (g.firstToken = none → ∃ p : Pending, exec .decouplingDeadlock s = .next (raise s g.who.gid p) ∧
      p.cause.grp = 8 ∧ p.cause.code = 3 ∧ p.aside = true ∧ p.cside = true) := by
  have hall : ((g.cs.splits.map fun e => (e.1, e.2.stuckSince g.q.clq.isEmpty s.tick)).all fun w => w.2.isSome) = true :=
    List.all_eq_true.mpr (List.forall_mem_map.mpr hc)
  change (∀ c op, _ → execDecouplingDeadlock s = _) ∧ (_ → ∃ p, execDecouplingDeadlock s = _ ∧ _)
  unfold execDecouplingDeadlock
  simp only [hg, ha, ht, hsv, hq, hall, Option.isSome_none, Bool.or_self, decide_true, Bool.not_true, Bool.false_eq_true, if_false]
  refine ⟨fun c op htok => ?_, fun htok => ?_⟩
  · rw [htok]
  · rw [htok]
    exact ⟨_, rfl, rfl, rfl, rfl, rfl⟩

theorem exec_lateStoreError {s : State} {g : Group} {pc : Word} (hg : s.grp? = some g) (hw : s.writeAt g pc.toNat = true) :
    exec (.lateStoreError pc) s = .next (s.lateError g pc.toNat) := by
  change execLateStoreError pc s = _
  simp [execLateStoreError, hg, hw]

theorem exec_yieldcWake {s : State} {g : Group} {t : Nat} (hg : s.grp? = some g) (hst : g.stop = .sleep t)
    (h : (∃ w ∈ s.watch, w.gid = g.who.gid ∧ w.hit = true) ∨ t ≤ s.tick) :
    exec .yieldcWake s = .next (({ s with watch := s.watch.filter fun w => w.gid != g.who.gid } : State).putG
      { g with stop := .run }) := by
  have hwake : ((s.watch.any fun w => w.gid == g.who.gid && w.hit) || decide (t ≤ s.tick)) = true := by
    simpa [List.any_eq_true] using h
  change execYieldcWake s = _
  unfold execYieldcWake
  simp only [hg, hst, hwake, if_true]
  rfl

/-- Settles O38: each step of control where its premises hold. -/
theorem controlSteps : Obligations.ControlSteps :=
  ⟨⟨fun _ _ _ _ _ _ => exec_clauseStart,
    fun _ _ _ _ _ => exec_regionEntry,
    fun _ _ => exec_parkedJoinTimeout,
    fun _ _ code bit word hg => exec_illegalInstruction hg code bit word,
    fun _ _ va level perm hg _ _ => exec_fetchFault hg va level perm,
    fun _ _ => exec_hostBreak,
    fun _ _ => exec_hostDebugControl,
    fun _ _ _ => exec_trapEntry,
    fun _ _ c op _ hg ha ht hsv hq hc => (exec_decouplingDeadlock hg ha ht hsv hq hc).1 c op,
    fun _ _ _ => exec_lateStoreError,
    fun _ _ _ => exec_yieldcWake⟩,
   fun _ _ _ hg ha ht hsv hq hc => (exec_decouplingDeadlock hg ha ht hsv hq hc).2⟩

end Sys2Proof.Machine

namespace Sys2Proof.Machine

/-! ### A fetch passes the L2 -/

-- One after another, as in Sys2Proof/Tests/Slice0.lean: a thread for each proof would need more memory than the check allows.
set_option Elab.async false

/-- What a fetch of four bytes at address 0 by a group leaves differs from what the translation of the address alone leaves: the
traffic of a launch (11 R312). -/
def fetchCarries (s : State) (g : Group) : Bool :=
  match globalAt s (s.lau g).qd.vf g.sys.priv (g.agent { code := 4 }) 3 0 with
  | (t, .ok _) => decide ((fetchBytes s g 0 4).1.launches ≠ t.launches)
  | _ => false

/-- Refutes O55: its last clause says that a fetch within a page leaves the machine as the translation of the address does, but the bytes
pass the L2 (11 R312). In the machine right after reset with the word 0 placed for its one group, the fetch of that word misses the L2,
and the launch is charged with what the memory controller carries. -/
theorem not_stepRunsDecoded : ¬ Obligations.StepRunsDecoded := by
  rintro ⟨-, -, -, hfetch⟩
  have hc : ((State.reset.withFetchWord 32 0).groups.any fun e => fetchCarries (State.reset.withFetchWord 32 0) e.2) = true := by
    decide +kernel
  obtain ⟨⟨_, g⟩, -, hg⟩ := List.any_eq_true.mp hc
  unfold fetchCarries at hg
  split at hg
  · next t l hl =>
    rw [hfetch _ t g 0 4 l (by decide) (by decide) hl] at hg
    exact of_decide_eq_true hg rfl
  · cases hg

end Sys2Proof.Machine

namespace Sys2Proof.Machine

/-! ## The RN24 container and its residues (03 R97, R99) -/

theorem toNat_rn24Word {a b c : Nat} (ha : a < 256) (hb : b < 256) (hc : c < 256) :
    (rn24Word (a, b, c)).toNat = a + 256 * b + 65536 * c :=
  (BitVec.toNat_ofNat ..).trans (Nat.mod_eq_of_lt (by dsimp only; omega))

/-- Canonical residues are read back as they were written: reducing them on input changes none. -/
theorem rn24_rn24Word {a b c : Nat} (ha : a < 256) (hb : b < 255) (hc : c < 253) : rn24 (rn24Word (a, b, c)) = (a, b, c) := by
  rw [rn24, toNat_rn24Word ha (by omega) (by omega)]
  refine Prod.ext ?_ (Prod.ext ?_ ?_) <;> dsimp only <;> omega

theorem rn24_rn24Enc (x : Int) : rn24 (rn24Enc x) = ((x % 256).toNat, (x % 255).toNat, (x % 253).toNat) :=
  rn24_rn24Word (by omega) (by omega) (by omega)

theorem extractLsb'_rn24Word {a b c : Nat} (ha : a < 256) (hb : b < 256) (hc : c < 256) :
    ((rn24Word (a, b, c)).extractLsb' 0 8).toNat = a ∧ ((rn24Word (a, b, c)).extractLsb' 8 8).toNat = b ∧
      ((rn24Word (a, b, c)).extractLsb' 16 8).toNat = c ∧ (rn24Word (a, b, c)).extractLsb' 24 8 = 0 := by
  rw [← BitVec.toNat_inj]
  simp only [BitVec.extractLsb'_toNat, toNat_rn24Word ha hb hc, Nat.shiftRight_eq_div_pow,
    BitVec.ofNat_eq_ofNat, BitVec.toNat_ofNat]
  omega

theorem extractLsb'_rn24Enc (x : Int) :
    ((rn24Enc x).extractLsb' 0 8).toNat = x % 256 ∧ ((rn24Enc x).extractLsb' 8 8).toNat = x % 255 ∧
    ((rn24Enc x).extractLsb' 16 8).toNat = x % 253 ∧ (rn24Enc x).extractLsb' 24 8 = 0 := by
  obtain ⟨h0, h1, h2, h3⟩ := extractLsb'_rn24Word (a := (x % 256).toNat) (b := (x % 255).toNat) (c := (x % 253).toNat)
    (by omega) (by omega) (by omega)
  rw [rn24Enc, h0, h1, h2]
  exact ⟨Int.toNat_of_nonneg (by omega), Int.toNat_of_nonneg (by omega), Int.toNat_of_nonneg (by omega), h3⟩

theorem rn24_and_low24 (w : Word) : rn24 (w &&& 0x00FFFFFF) = rn24 w := by
  have hlow : (w &&& 0x00FFFFFF).toNat = w.toNat % 2 ^ 24 := Nat.and_two_pow_sub_one_eq_mod w.toNat 24
  rw [rn24, rn24, hlow]
  refine Prod.ext ?_ (Prod.ext ?_ ?_) <;> dsimp only <;> omega

theorem rn24Dec_and_low24 (sgn : Bool) (w : Word) : rn24Dec sgn (w &&& 0x00FFFFFF) = rn24Dec sgn w := by
  rw [rn24Dec, rn24Dec, rn24_and_low24]

/-- The signed representative is the unsigned one, less M in the upper half of the range. -/
theorem rn24Dec_true (w : Word) :
    rn24Dec true w = if 8257920 ≤ rn24Dec false w then rn24Dec false w - 16515840 else rn24Dec false w := by
  simp [rn24Dec]

/-- The mixed radix digits are below 256, 255 and 253. -/
theorem rn24Dec_false_range (w : Word) : 0 ≤ rn24Dec false w ∧ rn24Dec false w ≤ 16515839 := by
  simp only [rn24Dec, rn24, Bool.false_and, Bool.false_eq_true, if_false]
  omega

theorem rn24Dec_true_range (w : Word) : -8257920 ≤ rn24Dec true w ∧ rn24Dec true w ≤ 8257919 := by
  have := rn24Dec_false_range w
  rw [rn24Dec_true]
  split <;> omega

/-- The mixed radix digits of `x` from its residues: 256 is 1 modulo 255, and modulo 253 the inverses of 256 and 255 are 169 and
127 (03 R99). -/
theorem mixedRadix (x : Int) :
    x % 256 + 256 * ((x % 255 - x % 256) * 1 % 255) +
      65280 * (((x % 253 - x % 256) * 169 - (x % 255 - x % 256) * 1 % 255) * 127 % 253) = x % 16515840 := by
  omega

/-- Decoding gives back any integer modulo M: the Chinese remainder theorem for 256, 255 and 253. -/
theorem rn24Dec_rn24Enc (x : Int) : rn24Dec false (rn24Enc x) = x % 16515840 := by
  have h256 : ((x % 256).toNat : Int) = x % 256 := Int.toNat_of_nonneg (by omega)
  have h255 : ((x % 255).toNat : Int) = x % 255 := Int.toNat_of_nonneg (by omega)
  have h253 : ((x % 253).toNat : Int) = x % 253 := Int.toNat_of_nonneg (by omega)
  simp only [rn24Dec, rn24_rn24Enc, h256, h255, h253, Bool.false_and, Bool.false_eq_true, if_false]
  exact mixedRadix x

/-- A channel's multiply-add is the multiply-add modulo its modulus. -/
theorem channel_mulAdd {m : Int} (hm : 0 < m) (a b c : Int) :
    (((a % m).toNat * (b % m).toNat + (c % m).toNat) % m.toNat) = ((a * b + c) % m).toNat := by
  have hn (y : Int) : ((y % m).toNat : Int) = y % m := Int.toNat_of_nonneg (Int.emod_nonneg y hm.ne')
  rw [← Int.natCast_inj, hn]
  push_cast
  rw [hn, hn, hn, Int.toNat_of_nonneg hm.le]
  exact ((Int.mod_modEq a m).mul (Int.mod_modEq b m)).add (Int.mod_modEq c m)

/-- Settles O23: the container field by field, the ranges from the mixed radix digits, the round trips from `rn24Dec_rn24Enc`, and the
multiply-add channel by channel. -/
theorem residueArithmetic : Obligations.ResidueArithmetic := by
  refine ⟨extractLsb'_rn24Enc, fun sgn w => (rn24Dec_and_low24 sgn w).symm, fun w => ?_, fun x h0 hM => ?_, fun x h0 hM => ?_,
    fun a b c => ?_⟩
  · exact ⟨(rn24Dec_false_range w).1, (rn24Dec_false_range w).2, rn24Dec_true_range w⟩
  · rw [rn24Dec_rn24Enc]
    omega
  · rw [rn24Dec_true, rn24Dec_rn24Enc]
    split <;> omega
  · simp only [rn24_rn24Enc]
    exact congrArg rn24Word (Prod.ext (channel_mulAdd (by decide) a b c)
      (Prod.ext (channel_mulAdd (by decide) a b c) (channel_mulAdd (by decide) a b c)))

end Sys2Proof.Machine

namespace Sys2Proof.Machine

/-! ## The tree of REDUCE and SCAN as a recursion (03 R108, R109) -/

/-- The words of the level above. -/
def levelUp (f : Word → Word → LRes) (n : List Word) : List Word := lvWords (pairUp f n)

/-- The prefixes of a level that has `h` levels above it. -/
def prefixFrom (f : Word → Word → LRes) : Nat → List Word → List Word
  | 0, n => [n.getD 0 0, (treeTop f n).1.w, (treeTop f n).2.w]
  | h + 1, n => (prefixDown f (prefixFrom f h (levelUp f n)) n).1

/-- `p` holds the sums of the first one, two, … nodes of the level `n`. -/
def PrefixSums (p n : List Word) : Prop := ∀ j < n.length, p.getD j 0 = (n.take (j + 1)).sum

theorem treeLevels_top (f : Word → Word → LRes) (n : List Word) :
    (treeLevels f n).1.getLastD [] = (levelUp f)^[5] n := rfl

theorem prefixOf_fst (f : Word → Word → LRes) (n : List Word) : (prefixOf f n).1 = prefixFrom f 5 n := rfl

@[simp] theorem levelUp_nil (f : Word → Word → LRes) : levelUp f [] = [] := rfl

@[simp] theorem levelUp_singleton (f : Word → Word → LRes) (a : Word) : levelUp f [a] = [a] := rfl

@[simp] theorem levelUp_cons_cons (f : Word → Word → LRes) (a b : Word) (n : List Word) :
    levelUp f (a :: b :: n) = (f a b).w :: levelUp f n := rfl

theorem length_levelUp (f : Word → Word → LRes) (n : List Word) : (levelUp f n).length = (n.length + 1) / 2 := by
  induction n using pairUp.induct with
  | case1 a b n ih =>
    rw [levelUp_cons_cons, List.length_cons, ih, List.length_cons, List.length_cons]
    omega
  | case2 a => simp
  | case3 => rfl

theorem length_levelUp_iterate (f : Word → Word → LRes) (h : Nat) :
    ∀ n : List Word, n.length = 3 * 2 ^ h → ((levelUp f)^[h] n).length = 3 := by
  induction h with
  | zero => exact fun n hn => hn
  | succ h ih =>
    intro n hn
    refine ih _ ?_
    rw [length_levelUp]
    omega

/-- A node of the level below from its prefix: an odd one ends a pair, an even one adds itself to the pairs before it. -/
theorem getD_prefixDown (f : Word → Word → LRes) (p n : List Word) {j : Nat} (hj : j < n.length) :
    (prefixDown f p n).1.getD j 0 =
      if j % 2 = 1 then p.getD (j / 2) 0 else if j = 0 then n.getD 0 0 else (f (p.getD (j / 2 - 1) 0) (n.getD j 0)).w := by
  simp only [prefixDown, List.map_map, List.getD_eq_getElem?_getD, List.getElem?_map, List.getElem?_range hj, Option.map_some,
    Option.getD_some, Function.comp_apply]
  split
  · rfl
  · split <;> rfl

theorem sum_take_succ_getD {n : List Word} {j : Nat} (hj : j < n.length) :
    (n.take (j + 1)).sum = (n.take j).sum + n.getD j 0 := by
  rw [List.sum_take_succ _ _ hj, List.getD_eq_getElem _ _ hj]

section
variable {f : Word → Word → LRes} (hf : ∀ x y, (f x y).w = x + y)
include hf

/-- A pair of nodes has the sum of the node above it. -/
theorem sum_take_levelUp (n : List Word) : ∀ j, ((levelUp f n).take j).sum = (n.take (2 * j)).sum := by
  induction n using pairUp.induct with
  | case1 a b n ih =>
    intro j
    cases j with
    | zero => rfl
    | succ j =>
      rw [levelUp_cons_cons, Nat.mul_succ, List.take_succ_cons, List.take_succ_cons, List.take_succ_cons, List.sum_cons,
        List.sum_cons, List.sum_cons, ih, hf, add_assoc]
  | case2 a =>
    intro j
    cases j with
    | zero => rfl
    | succ j => simp [Nat.mul_succ]
  | case3 => exact fun j => by simp

theorem sum_levelUp (n : List Word) : (levelUp f n).sum = n.sum := by
  have h := sum_take_levelUp hf n n.length
  rwa [List.take_of_length_le (by rw [length_levelUp]; omega), List.take_of_length_le (by omega)] at h

theorem sum_levelUp_iterate (h : Nat) : ∀ n : List Word, ((levelUp f)^[h] n).sum = n.sum := by
  induction h with
  | zero => exact fun _ => rfl
  | succ h ih => exact fun n => (ih _).trans (sum_levelUp hf n)

theorem treeTop_sum {n : List Word} (hn : n.length = 3) : (treeTop f n).2.w = n.sum := by
  obtain ⟨a, b, c, rfl⟩ := List.length_eq_three.mp hn
  simp [treeTop, hf, add_assoc]

/-- The root of the tree over addition. -/
theorem treeRoot_sum {n : List Word} (hn : n.length = 96) : (treeTop f ((treeLevels f n).1.getLastD [])).2.w = n.sum := by
  rw [treeLevels_top, treeTop_sum hf (length_levelUp_iterate f 5 n hn), sum_levelUp_iterate hf]

theorem prefixSums_top {n : List Word} (hn : n.length = 3) : PrefixSums (prefixFrom f 0 n) n := by
  obtain ⟨a, b, c, rfl⟩ := List.length_eq_three.mp hn
  intro j hj
  match j, hj with
  | 0, _ => simp [prefixFrom]
  | 1, _ => simp [prefixFrom, treeTop, hf]
  | 2, _ => simp [prefixFrom, treeTop, hf, add_assoc]

/-- One level down, the prefixes of a level give those of the level below. -/
theorem prefixSums_down {p n : List Word} (hp : PrefixSums p (levelUp f n)) : PrefixSums (prefixDown f p n).1 n := by
  intro j hj
  rw [getD_prefixDown f p n hj]
  have hpair (i : Nat) (hi : 2 * i + 1 < n.length) : p.getD i 0 = (n.take (2 * i + 2)).sum := by
    rw [hp i (by rw [length_levelUp]; omega), sum_take_levelUp hf, Nat.mul_succ]
  split
  · next hodd =>
    rw [hpair (j / 2) (by omega)]
    congr 2
    omega
  · next heven =>
    split
    · next h0 =>
      subst h0
      rw [sum_take_succ_getD hj, List.take_zero, List.sum_nil, zero_add]
    · next h0 =>
      rw [hf, hpair (j / 2 - 1) (by omega), sum_take_succ_getD hj]
      congr 3
      omega

theorem prefixSums_prefixFrom (h : Nat) : ∀ n : List Word, n.length = 3 * 2 ^ h → PrefixSums (prefixFrom f h n) n := by
  induction h with
  | zero => exact fun n hn => prefixSums_top hf hn
  | succ h ih =>
    intro n hn
    refine prefixSums_down hf (ih _ ?_)
    rw [length_levelUp]
    omega

end

theorem redOp_iadd (z : Bool) (rm : RM) (x y : Word) : (redOp 5 z rm x y).w = x + y := rfl

theorem length_redLanes (op : BitVec 4) (en : Mask) (v : Lanes) : (redLanes op en v).length = 96 := by
  simp [redLanes]

/-- The operand of an integer addition, up to a lane: the enabled lanes below it, with 0 for the others. -/
theorem take_redLanes_iadd (en : Mask) (v : Lanes) {n : Nat} (hn : n ≤ 96) :
    (redLanes 5 en v).take n = (List.range n).map fun l => if en.getLsbD l then lane v l else (0 : Word) := by
  rw [redLanes, ← List.map_take, List.take_range, Nat.min_eq_left hn]
  rfl

/-- Over integer addition: the root is the sum of all lanes, and prefix `l` the sum of the lanes up to `l`. -/
theorem treeSums : Claims.treeSums := by
  intro en v z rm sum
  have hf := redOp_iadd z rm
  have hlen := length_redLanes 5 en v
  have hsum (n : Nat) (hn : n ≤ 96) : ((redLanes 5 en v).take n).sum = sum n := by rw [take_redLanes_iadd en v hn]
  refine ⟨?_, fun l hl => ?_⟩
  · rw [treeRoot_sum hf hlen, ← hsum 96 le_rfl, List.take_of_length_le hlen.le]
  · rw [prefixOf_fst, prefixSums_prefixFrom hf 5 _ hlen l (hlen.symm ▸ hl), hsum (l + 1) hl]

/-! ## REDUCE and SCAN at issue (06 R185) -/

/-- An instruction that may issue and puts lanes: its destination is written, and the operations' flags and events are counted. -/
theorem cIssue_putLanes {s : State} {i : Instr} {x : Issue} (h : issueC s i = some x) (d : Dst) (f : CEnv → Group → Nat → Word)
    (out : CEnv → Group → List LRes) :
    cIssue i (fun e g t => .done (putLanes t g e d (f e g) (allFl (out e g)).1 (allFl (out e g)).2)) s =
      .next (x.done s i
        ((s.putG (((x.past s).writeDst s.cur.split d (x.env s).en (f (x.env s) (x.past s)) s.tick).raiseFl
            (flOr (out (x.env s) (x.past s))))).countEv
          ((x.past s).writeDst s.cur.split d (x.env s).en (f (x.env s) (x.past s)) s.tick).who.lid
          ((out (x.env s) (x.past s)).map (·.ev)).flatten)) := by
  have hm : (s.putG (x.past s)).cur.mode = 0 := here_mode h
  rw [cIssue_of_issueC h, putLanes_of_mode hm, finishC_done, State.putG_putG, State.putG_tick]
  rfl

theorem reduceAndScan : Claims.reduceAndScan := by
  refine ⟨fun s x op z rm d a y h => ?_, fun s x op z rm ex d a y h => ?_⟩
  · show execReduce op z rm d a y s = _
    exact cIssue_putLanes h d _ _
  · show execScan op z rm ex d a y s = _
    rcases bit_cases ex with rfl | rfl
    · exact cIssue_putLanes h d _ _
    · exact cIssue_putLanes h d _ _

/-- Settles O27: what the two instructions write (`reduceAndScan`), and their trees over integer addition (`treeSums`). -/
theorem reduceAndScanResults : Obligations.ReduceAndScanResults := ⟨reduceAndScan, treeSums⟩

end Sys2Proof.Machine

namespace Sys2Proof.Machine

/-! ## Results of the arithmetic of the A-stream (04 R117, R118) -/

theorem boolWord_eq_ite {b : Bool} {p : Prop} [Decidable p] (h : b = true ↔ p) : boolWord b = if p then 1 else 0 :=
  if_congr h rfl rfl

theorem mins_eq_ofInt (x y : Word) : mins x y = BitVec.ofInt 32 (min x.toInt y.toInt) := by
  rw [mins, BitVec.slt_eq_decide]
  by_cases h : y.toInt < x.toInt
  · rw [if_pos (decide_eq_true h), min_eq_right h.le, BitVec.ofInt_toInt]
  · rw [if_neg (by simpa using h), min_eq_left (not_lt.mp h), BitVec.ofInt_toInt]

theorem maxs_eq_ofInt (x y : Word) : maxs x y = BitVec.ofInt 32 (max x.toInt y.toInt) := by
  rw [maxs, BitVec.slt_eq_decide]
  by_cases h : x.toInt < y.toInt
  · rw [if_pos (decide_eq_true h), max_eq_right h.le, BitVec.ofInt_toInt]
  · rw [if_neg (by simpa using h), max_eq_left (not_lt.mp h), BitVec.ofInt_toInt]

theorem minu_eq_ofNat (x y : Word) : minu x y = BitVec.ofNat 32 (min x.toNat y.toNat) := by
  rw [minu, BitVec.ult_eq_decide]
  by_cases h : y.toNat < x.toNat
  · rw [if_pos (decide_eq_true h), min_eq_right h.le, BitVec.ofNat_toNat, BitVec.setWidth_eq]
  · rw [if_neg (by simpa using h), min_eq_left (not_lt.mp h), BitVec.ofNat_toNat, BitVec.setWidth_eq]

theorem maxu_eq_ofNat (x y : Word) : maxu x y = BitVec.ofNat 32 (max x.toNat y.toNat) := by
  rw [maxu, BitVec.ult_eq_decide]
  by_cases h : x.toNat < y.toNat
  · rw [if_pos (decide_eq_true h), max_eq_right h.le, BitVec.ofNat_toNat, BitVec.setWidth_eq]
  · rw [if_neg (by simpa using h), max_eq_left (not_lt.mp h), BitVec.ofNat_toNat, BitVec.setWidth_eq]

theorem mul_eq_ofNat (x y : Word) : x * y = BitVec.ofNat 32 (x.toNat * y.toNat) := by
  rw [BitVec.ofNat_mul, BitVec.ofNat_toNat, BitVec.ofNat_toNat, BitVec.setWidth_eq, BitVec.setWidth_eq]

theorem toInt_signExtend_word {n : Nat} (x : BitVec n) (h : n ≤ 32) : (x.signExtend 32).toInt = x.toInt :=
  BitVec.toInt_signExtend_of_le h

theorem mul_sext32 (x : Word) {n : Nat} (y : BitVec n) (h : n ≤ 32) :
    x * sext32 y = BitVec.ofInt 32 (x.toInt * y.toInt) := by
  rw [sext32, ← BitVec.toInt_signExtend_of_le h (x := y), BitVec.ofInt_mul, BitVec.ofInt_toInt, BitVec.ofInt_toInt]

theorem mulhs_eq_ofInt (x y : Word) : mulhs x y = BitVec.ofInt 32 (x.toInt * y.toInt / 2 ^ 32) := by
  rw [mulhs, BitVec.signExtend, BitVec.signExtend, ← BitVec.ofInt_mul]
  generalize x.toInt * y.toInt = p
  refine BitVec.eq_of_toNat_eq ?_
  rw [BitVec.extractLsb'_toNat, BitVec.toNat_ofInt, BitVec.toNat_ofInt, Nat.shiftRight_eq_div_pow]
  omega

theorem mulhu_eq_ofNat (x y : Word) : mulhu x y = BitVec.ofNat 32 (x.toNat * y.toNat / 2 ^ 32) := by
  refine BitVec.eq_of_toNat_eq ?_
  have hlt : x.toNat * y.toNat < 2 ^ 32 * 2 ^ 32 := Nat.mul_lt_mul'' x.isLt y.isLt
  rw [mulhu, BitVec.extractLsb'_toNat, BitVec.toNat_mul, BitVec.toNat_setWidth_of_le (by omega), BitVec.toNat_setWidth_of_le (by omega),
    BitVec.toNat_ofNat, Nat.shiftRight_eq_div_pow]
  omega

theorem sdiv_eq_ofInt (x y : Word) : x.sdiv y = BitVec.ofInt 32 (x.toInt.tdiv y.toInt) := by
  rw [← BitVec.toInt_inj, BitVec.toInt_sdiv, BitVec.toInt_ofInt]

theorem srem_eq_ofInt (x y : Word) : x.srem y = BitVec.ofInt 32 (x.toInt.tmod y.toInt) := by
  rw [← BitVec.toInt_srem, BitVec.ofInt_toInt]

theorem udiv_eq_ofNat (x y : Word) : x.udiv y = BitVec.ofNat 32 (x.toNat / y.toNat) := by
  show x / y = _
  rw [← BitVec.toNat_udiv, BitVec.ofNat_toNat, BitVec.setWidth_eq]

theorem umod_eq_ofNat (x y : Word) : x.umod y = BitVec.ofNat 32 (x.toNat % y.toNat) := by
  show x % y = _
  rw [← BitVec.toNat_umod, BitVec.ofNat_toNat, BitVec.setWidth_eq]

/-- The sum of powers taken from the highest down is the sum taken from the lowest up. -/
theorem foldl_bits_descending (f : Nat → Bool) :
    (List.range 32).foldl (fun m i => if f i then m + 2 ^ (31 - i) else m) 0 =
      (List.range 32).foldl (fun m j => if f (31 - j) then m + 2 ^ j else m) 0 := by
  have hcomm : RightCommutative fun (m j : Nat) => if f (31 - j) then m + 2 ^ j else m :=
    ⟨fun m i j => by split <;> split <;> omega⟩
  have hrev : (List.range 32).map (31 - ·) = (List.range 32).reverse := by decide
  rw [← (List.reverse_perm (List.range 32)).foldl_eq (f := fun (m j : Nat) => if f (31 - j) then m + 2 ^ j else m) 0, ← hrev,
    List.foldl_map]
  refine List.foldl_ext _ _ _ fun m i hi => ?_
  have hi : i < 32 := List.mem_range.mp hi
  rw [show 31 - (31 - i) = i by omega]

theorem brev32_eq_reverse (x : Word) : brev32 x = x.reverse := by
  refine BitVec.eq_of_getLsbD_eq fun i hi => ?_
  obtain ⟨-, hbit⟩ := foldl_bits (fun j => x.getLsbD (31 - j)) 32
  rw [brev32, foldl_bits_descending, BitVec.getLsbD_ofNat, decide_eq_true hi, Bool.true_and, BitVec.getLsbD_reverse,
    BitVec.getMsbD_eq_getLsbD, decide_eq_true hi, Bool.true_and]
  exact hbit i hi

/-- An instruction that writes one register, its result given in other words. -/
theorem exec_of_aWrite {s : State} {i : Instr} {g : Group} (hi : issueA s i = some g) {d : BitVec 6} {f : Group → Word} {w : Word}
    (he : exec i s = aWrite i d f s) (hw : f g = w) : exec i s = .next (s.doneA ((g.wa d.toNat w).adv)) := by
  rw [he, aWrite_of_issueA hi, hw]

/-- A division by zero has its own result; the machine's words have no quotient of zero otherwise. -/
theorem quot_eq_ite {x y v : Word} {f : Word → Word → Word} (h : f x y = v) : quot x y f = if y = 0 then 0xFFFFFFFF else v := by
  rw [quot, h]
  rfl

theorem remd_eq_ite {x y v : Word} {f : Word → Word → Word} (h : f x y = v) : remd x y f = if y = 0 then x else v := by
  rw [remd, h]

/-- Settles O1: each row of R117 is one register write, its result restated where the statement gives it as an integer. -/
theorem aluResults : Obligations.AluResults := by
  intro s i g d w hi h
  cases i
  case' add | addi | sub | and | andi | or | ori | xor | xori | andn | shlA | shli | shrA | shri | sra | srai | rot | roti | clzA
      | popcA | sextb | sexth | lui | slt | slti | sltu | sltiu | min | max | minu | maxu | mul | muli | mulh | mulhu | div | rem
      | divu | remu | brevA =>
    simp only [Claims.alu, Option.some.injEq, Prod.mk.injEq] at h
    obtain ⟨rfl, rfl⟩ := h
    refine exec_of_aWrite hi rfl ?_
  case slt => exact boolWord_eq_ite BitVec.slt_iff_toInt_lt
  case slti => exact boolWord_eq_ite (by rw [BitVec.slt_iff_toInt_lt, sext32, BitVec.toInt_signExtend_of_le (by decide)])
  case sltu | sltiu => exact boolWord_eq_ite BitVec.ult_iff_toNat_lt
  case min => exact mins_eq_ofInt ..
  case max => exact maxs_eq_ofInt ..
  case minu => exact minu_eq_ofNat ..
  case maxu => exact maxu_eq_ofNat ..
  case mul => exact mul_eq_ofNat ..
  case muli => exact mul_sext32 _ _ (by decide)
  case mulh => exact mulhs_eq_ofInt ..
  case mulhu => exact mulhu_eq_ofNat ..
  case div => exact quot_eq_ite (sdiv_eq_ofInt ..)
  case rem => exact remd_eq_ite (srem_eq_ofInt ..)
  case divu => exact quot_eq_ite (udiv_eq_ofNat ..)
  case remu => exact remd_eq_ite (umod_eq_ofNat ..)
  case brevA => exact brev32_eq_reverse _
  case add | addi | sub | and | andi | or | ori | xor | xori | andn | shlA | shli | shrA | shri | sra | srai | rot | roti | clzA
      | popcA | sextb | sexth | lui => rfl
  all_goals cases h

/-! ## Bit fields (04 R118) -/

/-- The ones of a field of 1 to 32 bits. -/
theorem lowOnes_eq {n : Nat} (h : n ≤ 32) : lowOnes n = (if n = 32 then 0xFFFFFFFF else (1 <<< n) - 1 : Word) := by
  rw [lowOnes]
  split
  · next h32 => rw [h32]; rfl
  · have hlt : 2 ^ n < 2 ^ 32 := Nat.pow_lt_pow_right (by omega) (by omega)
    have h1 : 1 ≤ 2 ^ n := Nat.one_le_two_pow
    refine BitVec.eq_of_toNat_eq ?_
    rw [BitVec.toNat_sub, BitVec.natCast_eq_ofNat, BitVec.toNat_ofNat, BitVec.toNat_ofNat, Nat.one_shiftLeft,
      show (1 : Word).toNat = 1 from rfl]
    omega

/-- Settles O2: both are register writes of the field that the second source names. -/
theorem bitFieldResults : Obligations.BitFieldResults := by
  intro s g d a b x y z p n ones
  have hn : n ≤ 32 := by
    show (if y.toNat / 32 % 32 = 0 then 32 else y.toNat / 32 % 32) ≤ 32
    split <;> omega
  have hones : ones = lowOnes n := (lowOnes_eq hn).symm
  refine ⟨fun h => exec_of_aWrite h rfl ?_, fun h => exec_of_aWrite h rfl ?_⟩
  · rw [hones]; rfl
  · rw [hones]; rfl

/-! ## Branches and jumps (02 R51, R59; 04 R119) -/

theorem aBranch_of_issueA {s : State} {i : Instr} {g : Group} (hi : issueA s i = some g) (a b : BitVec 6) (off : BitVec 14)
    {f : Word → Word → Bool} {c : Bool} (hc : f (g.ra a.toNat) (g.ra b.toNat) = c) :
    aBranch i a b off f s =
      .next (s.doneA (if c then { g with apc := Claims.target g (off.signExtend 32) } else g.adv)) := by
  rw [aBranch, aIssue_of_issueA hi, finishA_done, hc, Claims.target, BitVec.mul_comm]
  rfl

theorem not_slt_eq_decide (x y : Word) : (!x.slt y) = decide (y.toInt ≤ x.toInt) := by
  rw [BitVec.slt_eq_decide, ← decide_not, decide_eq_decide, not_lt]

theorem not_ult_eq_decide (x y : Word) : (!x.ult y) = decide (y.toNat ≤ x.toNat) := by
  rw [BitVec.ult_eq_decide, ← decide_not, decide_eq_decide, not_lt]

theorem exec_of_branch {s : State} {i : Instr} {g : Group} {c : Bool} {off : BitVec 14} (hi : issueA s i = some g)
    (h : Claims.branch g i = some (c, off)) :
    exec i s = .next (s.doneA (if c then { g with apc := Claims.target g (off.signExtend 32) } else g.adv)) := by
  cases i
  case' beq | bne | blt | bge | bltu | bgeu =>
    simp only [Claims.branch, Option.some.injEq, Prod.mk.injEq] at h
    obtain ⟨rfl, rfl⟩ := h
    unfold exec
    refine aBranch_of_issueA hi _ _ _ ?_
  case beq => exact beq_eq_decide ..
  case bne => exact (congrArg _ (beq_eq_decide ..)).trans (decide_not ..).symm
  case blt => exact BitVec.slt_eq_decide ..
  case bge => exact not_slt_eq_decide ..
  case bltu => exact BitVec.ult_eq_decide ..
  case bgeu => exact not_ult_eq_decide ..
  all_goals cases h

/-- The end of an A instruction that traps at its own group. -/
theorem finishA_trap {s : State} {g : Group} (hg : s.grp? = some g) (i : Instr) (c : Cause) :
    finishA i (.trap c s) = .next (raise s s.cur.gid (aPending g i c)) := by
  simp only [finishA, hg]

theorem exec_dbnz {s : State} {g : Group} {a : BitVec 6} {off : BitVec 14} (hi : issueA s (.dbnz a off) = some g) :
    exec (.dbnz a off) s = .next (s.doneA (
      if g.ra a.toNat - 1 = 0 then (g.wa a.toNat (g.ra a.toNat - 1)).adv
      else { g.wa a.toNat (g.ra a.toNat - 1) with apc := Claims.target g (off.signExtend 32) })) := by
  show execDbnz a off s = _
  rw [execDbnz, aIssue_of_issueA hi, finishA_done, Claims.target, BitVec.mul_comm]
  rfl

theorem exec_jal {s : State} {g : Group} {d : BitVec 6} {n : BitVec 20} (hi : issueA s (.jal d n) = some g) :
    exec (.jal d n) s = .next (s.doneA
      { g.wa d.toNat (BitVec.ofNat 32 (g.apc + 4)) with apc := Claims.target g (n.signExtend 32) }) := by
  show execJal d n s = _
  rw [execJal, aIssue_of_issueA hi, finishA_done, Claims.target, BitVec.mul_comm]
  rfl

section
variable {s : State} {g : Group} {d a : BitVec 6} {n : BitVec 14} (hi : issueA s (.jalr d a n) = some g)
include hi

theorem exec_jalr (ht : (g.ra a.toNat + n.signExtend 32).toNat % 4 = 0) :
    exec (.jalr d a n) s = .next (s.doneA
      { g.wa d.toNat (BitVec.ofNat 32 (g.apc + 4)) with apc := (g.ra a.toNat + n.signExtend 32).toNat }) := by
  show execJalr d a n s = _
  rw [execJalr, aIssue_of_issueA hi, ← finishA_done]
  exact congrArg _ (if_neg (not_not.mpr ht))

theorem exec_jalr_misaligned (ht : (g.ra a.toNat + n.signExtend 32).toNat % 4 ≠ 0) :
    ∃ c : Cause, c.grp = 6 ∧ exec (.jalr d a n) s = .next (raise s s.cur.gid (aPending g (.jalr d a n) c)) := by
  refine ⟨Cause.mk' 6 2 ((g.ra a.toNat + sext32 n).toNat + 2 * 2 ^ 32) ((s.pk g).abase + (g.ra a.toNat + sext32 n).toNat), rfl, ?_⟩
  show execJalr d a n s = _
  rw [execJalr, aIssue_of_issueA hi, ← finishA_trap (issueA_grp? hi)]
  exact congrArg _ (if_pos ht)

end

/-- A DBNZ on A0 breaks the rules of encoding (04 R119). -/
theorem exec_dbnz_zero {s : State} {g : Group} (hg : s.grp? = some g) (off : BitVec 14) :
    ∃ c : Cause, c.grp = 1 ∧ exec (.dbnz 0 off) s = .next (raise s s.cur.gid (aPending g (.dbnz 0 off) c)) := by
  refine ⟨Cause.mk' 1 4 20, rfl, ?_⟩
  show execDbnz 0 off s = _
  exact aIssue_of_aCheck hg rfl _

/-- Settles O3, instruction by instruction. -/
theorem branchResults : Obligations.BranchResults :=
  ⟨⟨fun _ _ _ _ _ hi h => exec_of_branch hi h, fun _ _ _ _ hi => exec_dbnz hi, fun _ _ _ _ hi => exec_jal hi,
    fun _ _ _ _ _ hi ht => exec_jalr hi ht, fun _ _ off hg => exec_dbnz_zero hg off⟩,
   fun _ _ _ _ _ hi ht => exec_jalr_misaligned hi ht⟩

/-! ## Feeding the C-stream and reading it back (04 R121, R122; 08 R402) -/

section
variable {s : State} {g : Group} {i : Instr} {body : Group → State → Res}

/-- An A instruction that may issue and is done. -/
theorem aIssue_done {t : State} {h : Group} (hi : issueA s i = some g) (hb : body g s = .done (t.putG h)) :
    aIssue i body s = .next (t.doneA h) := by
  rw [aIssue_of_issueA hi, hb, finishA_done]

/-- An A instruction that may issue and waits. -/
theorem aIssue_wait {t : State} {k : WaitKind} (hi : issueA s i = some g) (hb : body g s = .wait k t) :
    aIssue i body s = .next (t.waitA k) := by
  rw [aIssue_of_issueA hi, hb]
  rfl

end

/-- What a push of a region index answers, by the state of the C-stream and of its queue. -/
theorem pushClq_ended {g : Group} (h : g.cEnded = true) (s : State) (x : Word) :
    pushClq s g x = .done (s.putG { g.adv with pushed := g.pushed + 1, ended := g.ended + 1 }) := if_pos h

theorem pushClq_room {s : State} {g : Group} (h : g.cEnded = false) (hq : g.occ 5 < (s.pk g).depth 5) (x : Word) :
    pushClq s g x = .done (s.putG { g.adv with
      q.clq := g.q.clq ++ [{ val := x &&& 0x3FFFFF, need := g.aPend }], pushed := g.pushed + 1, lastQ := s.tick }) := by
  rw [pushClq, h, if_neg (by decide), if_neg (not_le.mpr hq)]

theorem pushClq_full {s : State} {g : Group} (h : g.cEnded = false) (hq : (s.pk g).depth 5 ≤ g.occ 5) (x : Word) :
    pushClq s g x = .wait (.queue 5) s := by
  rw [pushClq, h, if_neg (by decide), if_pos hq]

/-- CLS and CLSR are pushes of a region index. -/
theorem exec_pushClq {s : State} {g : Group} {i : Instr} {x : Word} (hi : issueA s i = some g)
    (hx : i = .cls (x.setWidth 20) ∧ x.toNat < 2 ^ 20 ∨ ∃ a, i = .clsr a ∧ x = g.ra a.toNat) :
    exec i s = finishA i (pushClq s g x) := by
  obtain ⟨rfl, hlt⟩ | ⟨a, rfl, rfl⟩ := hx
  · have hz : zext32 (x.setWidth 20) = x := by
      refine BitVec.eq_of_toNat_eq ?_
      rw [zext32, BitVec.toNat_setWidth, BitVec.toNat_setWidth]
      omega
    show execCls (x.setWidth 20) s = _
    rw [execCls, aIssue_of_issueA hi, hz]
  · show execClsr a s = _
    rw [execClsr, aIssue_of_issueA hi]

theorem pushes : Claims.pushes := by
  refine ⟨fun s i g x hi hx => ⟨fun he => ?_, fun he hq => ?_⟩, fun s g a hi => ⟨fun he => ?_, fun he hq => ?_⟩⟩
  · rw [exec_pushClq hi hx, pushClq_ended he, finishA_done]
  · rw [exec_pushClq hi hx, pushClq_room he hq, finishA_done]
  · show execSpush a s = _
    exact aIssue_done hi (if_pos he)
  · show execSpush a s = _
    refine aIssue_done hi ?_
    rw [he, if_neg (by decide), if_neg (not_le.mpr hq)]

theorem fullQueueWaits : Claims.fullQueueWaits := by
  rintro s g i q hi he hq (⟨⟨n, rfl⟩, rfl⟩ | ⟨⟨a, rfl⟩, rfl⟩ | ⟨⟨a, rfl⟩, rfl⟩)
  · show execCls n s = _
    exact aIssue_wait hi (pushClq_full he hq _)
  · show execClsr a s = _
    exact aIssue_wait hi (pushClq_full he hq _)
  · show execSpush a s = _
    refine aIssue_wait hi ?_
    rw [he, if_neg (by decide), if_pos hq]

/-- Settles O4. -/
theorem feedPushes : Obligations.FeedPushes := ⟨pushes, fullQueueWaits⟩

/-- Settles O5: by the queue's head and what it waits for. -/
theorem bpopResult : Obligations.BpopResult := by
  intro s g d hi
  refine ⟨fun w => rfl, fun hq => ?_, fun e r hq hp => ?_, fun e r hq hp => ?_⟩
  all_goals show execBpop d s = _
  · exact aIssue_wait hi (by rw [hq])
  · exact aIssue_done hi (by simp only [hq, hp, if_true])
  · exact aIssue_wait hi (by simp only [hq, hp, Bool.false_eq_true, if_false])

end Sys2Proof.Machine

namespace Sys2Proof.Machine

/-! ## What memory instructions meet at issue (01 R24; 04 R116, R124; 09 R286) -/

theorem withB_of_record {g : Group} {n : Nat} {b : Buf} (h : g.record n = some b) (s : State) (f : Buf → Res) : withB g s n f = f b := by
  unfold Group.record at h
  split at h
  · next hb => simp only [withB, hb, h, ne_eq, not_true, if_false]
  · cases h

theorem onChecked_of_ok {r : State × Checked} {t : State} {ps : List (Nat × Loc)} (h : r = (t, .ok ps))
    (f : State → List (Nat × Loc) → Res) : onChecked r f = f t ps := by
  rw [h]
  rfl

theorem whenFree_of_unowned {s : State} {g : Group} {ls : List Loc} (h : s.unowned g ls) (i : Instr) (f : State → Res) :
    whenFree i s g ls f = f s := by
  unfold State.unowned at h
  simp only [whenFree, h]

theorem scalarSize_none {b : Buf} {exact : Bool} (hl : b.level ≠ 4) (he : if exact then b.esz = 2 else b.esz ≤ 2) (bit : Nat) :
    scalarSize b exact bit = none := by
  rw [scalarSize, if_neg hl, if_neg]
  cases exact <;> simp at he ⊢ <;> omega

theorem gatherSize_none {b : Buf} {exact : Bool} (he : if exact then b.esz = 2 else b.esz ≤ 2) : gatherSize b exact = none := by
  rw [gatherSize, if_neg]
  cases exact <;> simp at he ⊢ <;> omega

/-! ## The memory unit's instructions at issue (04 R130-R132, R136, R137) -/

/-- An operation that finds room joins the list (04 R132). -/
theorem issueMu_of_room {s : State} {g : Group} (hm : g.mu.length < 8) {q : Option Nat} (hq : ∀ n, q = some n → s.ldqRoom g n = true)
    (i : Instr) (k : BitVec 5) (first : Word) (n : Nat) (places : Option (List (Nat × Loc))) :
    issueMu s g i k first q n places = .done (s.newId.2.putG
      (({ (match q with
            | some q => g.pushLdq q (reservedEntry g s.nextId) s.tick
            | none => g) with
          mu := g.mu ++ [{ id := s.nextId, instr := i, pc := g.apc, buf := (g.rb k.toNat).img.setWidth 256, first, held := none,
                           places, begun := false, got := [], passed := [] }] } : Group).adv n)) := by
  have hf : (q.filter fun q => !s.ldqRoom g q) = none := by
    cases q with
    | none => rfl
    | some n => simp [Option.filter, hq n rfl]
  rw [issueMu, if_neg (not_le.mpr hm), hf]
  rfl

theorem ldvIssues : Claims.ldvIssues := by
  intro s s1 g byp ord q k ai off b ps hi hr hq hc hu
  show execLdv byp ord q k ai off s = _
  refine aIssue_done hi ?_
  simp only [withB_of_record hr, hq, Bool.not_true, Bool.false_eq_true, if_false, hc, whenFree_of_unowned hu]
  rfl

theorem unitIssues : Claims.unitIssues := by
  refine ⟨fun s g byp ord q k ai off b hi hr he hm hq => ?_, fun s s1 g ord q k ai off b ps hi hr hm hc hu => ?_,
    fun s g ord q k ai off b hi hr he hm => ?_, fun s g op q k ret sdq ord scope b hi hr he hm hq => ?_⟩
  · show execLdg byp ord q k ai off s = _
    refine aIssue_done hi ?_
    simp only [withB_of_record hr, gatherSize_none (exact := false) he]
    refine issueMu_of_room hm ?_ ..
    rintro _ ⟨⟩
    exact hq
  · show execStv ord q k ai off s = _
    refine aIssue_done hi ?_
    simp only [withB_of_record hr, if_neg (not_le.mpr hm), onChecked_of_ok hc, whenFree_of_unowned hu]
    exact issueMu_of_room hm (by nofun) ..
  · show execStx ord q k ai off s = _
    refine aIssue_done hi ?_
    simp only [withB_of_record hr, gatherSize_none (exact := false) he]
    exact issueMu_of_room hm (by nofun) ..
  · show execAtv op q k ret sdq ord scope s = _
    refine aIssue_done hi ?_
    simp only [withB_of_record hr, gatherSize_none (exact := true) he]
    rcases bit_cases ret with rfl | rfl
    · exact issueMu_of_room hm (by nofun) ..
    · refine issueMu_of_room hm ?_ ..
      rintro _ ⟨⟩
      exact hq rfl

/-- Settles O6. -/
theorem memoryUnitIssues : Obligations.MemoryUnitIssues := ⟨ldvIssues, unitIssues⟩

/-! ## Scalar accesses at issue (04 R134, R138; 10 R299) -/

theorem scalarIssues : Claims.scalarIssues := by
  refine ⟨fun s s1 g d k ai ord off b ps hi hr hl he hc hu => ?_, fun s s1 g v k ai ord off b ps hi hr hl he hc hu => ?_,
    fun s s1 g op d k ai x y ord scope b ps hi hr hl he hw hc hu => ?_⟩
  · show execLda d k ai ord off s = _
    refine aIssue_done hi ?_
    simp only [withB_of_record hr, scalarSize_none (exact := false) hl he, scalarEl, onChecked_of_ok hc, whenFree_of_unowned hu]
    rfl
  · show execSta v k ai ord off s = _
    refine aIssue_done hi ?_
    simp only [withB_of_record hr, scalarSize_none (exact := false) hl he, scalarEl, onChecked_of_ok hc, whenFree_of_unowned hu]
    rfl
  · show execAta op d k ai x y ord scope s = _
    refine aIssue_done hi ?_
    simp only [withB_of_record hr, scalarSize_none (exact := true) hl he, hw, Option.filter_none, scalarEl, onChecked_of_ok hc,
      whenFree_of_unowned hu]
    rfl

/-- An access to no place meets no owner. -/
theorem unowned_nil (s : State) (g : Group) : s.unowned g [] := rfl

theorem windowIssues : Claims.windowIssues := by
  intro s g op d k ai x y ord scope b off hi hr hl he hw ho
  show execAta op d k ai x y ord scope s = _
  refine aIssue_done hi ?_
  have hf : ((scalarWindow s g b (g.ra ai.toNat)).2.filter fun off => windowOp op.toNat off) = some off := by
    rw [hw, Option.filter_some, if_pos ho]
  simp only [withB_of_record hr, scalarSize_none (exact := true) hl he, hf, List.map_nil, whenFree_of_unowned (unowned_nil _ g)]
  rfl

/-- Settles O7. -/
theorem scalarAccessIssues : Obligations.ScalarAccessIssues := ⟨scalarIssues, windowIssues⟩

end Sys2Proof.Machine

namespace Sys2Proof.Machine

/-! ## What a look at memory changes (09 R273-R284; 11 R312) -/

/-- A machine that differs from another only in the writes that agents have still to see, in the caches, in what launches have moved and in
the free values drawn: no byte, no group and no turn is another. -/
def Observed (s t : State) : Prop :=
  ∃ late rely launches fresh, t = { s with late := late, rely := rely, launches := launches, fresh := fresh }

theorem Observed.refl (s : State) : Observed s s := ⟨_, _, _, _, rfl⟩

theorem Observed.trans {s t u : State} (h : Observed s t) (k : Observed t u) : Observed s u := by
  obtain ⟨_, _, _, _, rfl⟩ := h
  obtain ⟨_, _, _, _, rfl⟩ := k
  exact ⟨_, _, _, _, rfl⟩

theorem Observed.grp? {s t : State} (h : Observed s t) : t.grp? = s.grp? := by
  obtain ⟨_, _, _, _, rfl⟩ := h
  rfl

theorem Observed.tick {s t : State} (h : Observed s t) : t.tick = s.tick := by
  obtain ⟨_, _, _, _, rfl⟩ := h
  rfl

theorem Observed.memOf {s t : State} (h : Observed s t) (sp : Space) : t.memOf sp = s.memOf sp := by
  obtain ⟨_, _, _, _, rfl⟩ := h
  rfl

theorem observed_foldl {α : Type} {f : State → α → State} (l : List α) (h : ∀ s x, Observed s (f s x)) (s : State) :
    Observed s (l.foldl f s) :=
  List.foldlRecOn (motive := Observed s) l f (.refl s) fun t ht x _ => ht.trans (h t x)

theorem observed_draw (s : State) : Observed s s.draw.2 := ⟨_, _, _, _, rfl⟩

theorem observed_useL2 (s : State) (u : User) (l : Loc) (n : Nat) (w : Bool) : Observed s (s.useL2 u l n w) := by
  obtain ⟨_, _, h⟩ := s.useL2_keeps u l n w
  exact ⟨_, _, _, _, h⟩

theorem observed_see (s : State) (agent : Nat) (ws : List Late) : Observed s (s.see agent ws) := ⟨_, _, _, _, rfl⟩

theorem observed_seeCore (s : State) (u : User) (l : Loc) (n : Nat) : Observed s (s.seeCore u l n) := by
  unfold State.seeCore
  split
  · exact .refl s
  · exact observed_see ..

theorem observed_agentRead (s : State) (agent : Nat) (l : Loc) (n : Nat) : Observed s (s.agentRead agent l n).1 := by
  unfold State.agentRead
  split
  · exact .refl s
  · exact (observed_draw s).trans (observed_see ..)

theorem observed_agentBytes (agent k : Nat) : ∀ (l : Loc) (n : Nat) (s : State), Observed s (agentBytes agent k l n s).1 := by
  induction k with
  | zero => exact fun _ _ s => .refl s
  | succ k ih =>
    intro l n s
    unfold agentBytes
    split
    · exact .refl s
    · exact (observed_agentRead ..).trans (ih ..)

theorem observed_readView (s : State) (agent : Nat) (l : Loc) (n : Nat) : Observed s (s.readView agent l n).1 := by
  unfold State.readView
  split
  · exact .refl s
  · exact observed_agentBytes ..

theorem observed_readPast (s : State) (u : User) (l : Loc) (n : Nat) : Observed s (s.readPast u l n).1 :=
  (observed_useL2 s u l n false).trans (observed_readView ..)

theorem observed_rely (s : State) (r : Rely) : Observed s { s with rely := r } := ⟨_, _, _, _, rfl⟩

theorem observed_fillL1 (s : State) (u : User) (l : Loc) (hint : Nat) : Observed s (s.fillL1 u l hint) := by
  unfold State.fillL1
  dsimp only
  split
  · have hr := (observed_seeCore s u l.line 64).trans (observed_readPast _ u l.line 64)
    split
    · exact hr.trans (observed_rely ..)
    · exact (hr.trans (observed_draw _)).trans (observed_rely ..)
  · exact .refl s

theorem observed_touchL1 (s : State) (u : User) (l : Loc) (hint : Nat) : Observed s (s.touchL1 u l hint) := by
  unfold State.touchL1
  split
  · dsimp only
    split
    · exact observed_draw s
    · exact ((observed_draw s).trans (observed_fillL1 ..)).trans (observed_rely ..)
  · exact observed_fillL1 ..

theorem observed_readL1 (s : State) (u : User) (l : Loc) (n : Nat) : Observed s (s.readL1 u l n).1 := by
  unfold State.readL1
  dsimp only
  split
  · exact observed_seeCore ..
  · exact (observed_seeCore ..).trans (observed_readPast ..)

theorem observed_publishBy (s : State) (agent : Nat) (g : Group) (scope : Nat) : Observed s (s.publishBy agent g scope) := by
  unfold State.publishBy
  dsimp only
  split
  · exact .refl s
  split
  · exact ⟨_, _, _, _, rfl⟩
  split
  · exact ⟨_, _, _, _, rfl⟩
  split
  · exact ⟨_, _, _, _, rfl⟩
  · exact ⟨_, _, _, _, rfl⟩

theorem observed_publish (s : State) (g : Group) (scope : Nat) : Observed s (s.publish g scope) := observed_publishBy ..

theorem observed_acquire (s : State) (g : Group) (scope : Nat) : Observed s (s.acquire g scope) := by
  unfold State.acquire
  split
  · exact observed_rely ..
  · exact .refl s

theorem observed_prefetch (s : State) (g : Group) (b : Buf) (l1 : Bool) (els : List (Nat × Nat)) :
    Observed s (s.prefetch g b l1 els) := by
  refine observed_foldl _ (fun s ln => ?_) s
  split
  · split
    · split
      · split
        · exact observed_fillL1 ..
        · exact observed_useL2 ..
      · exact .refl s
    · exact .refl s
  · exact .refl s

/-! ## Prefetches and records at issue (04 R125, R133) -/

theorem State.updG_of_grp? {s : State} {g : Group} (h : s.grp? = some g) (f : Group → Group) : s.updG f = s.putG (f g) := by
  rw [State.updG, Tbl.upd_of_get? _ f h]
  rfl

/-- An A instruction that only looks at memory and goes on. -/
theorem prefetch : Claims.prefetch := by
  intro s g l2 k ai off b hi hr
  show ∃ t, execPrf l2 k ai off s = .next t ∧ _
  rw [execPrf, aIssue_of_issueA hi]
  simp only [withB_of_record hr]
  have ht : Observed s (if b.level = 0 then s.prefetch g b (decide (l2 = 0) && b.roc) (packedEls b (g.first ai off)) else s) := by
    split
    · exact observed_prefetch ..
    · exact .refl s
  revert ht
  generalize (if b.level = 0 then _ else _ : State) = t
  intro ht
  have hg : t.grp? = some g := ht.grp?.trans (issueA_grp? hi)
  rw [State.updG_of_grp? hg, finishA_done]
  refine ⟨_, rfl, State.putG_grp? .., ?_⟩
  obtain ⟨_, _, _, _, rfl⟩ := ht
  exact ⟨rfl, rfl, rfl, rfl, rfl, rfl, rfl, fun n hn => Tbl.get?_set_ne _ _ hn⟩

/-- A record load whose place is found goes in flight (04 R125). -/
theorem loadRecord_of_globalAt {s s1 : State} {g : Group} {n : Nat} {x : Word} {l : Loc}
    (hl : globalAt s (s.lau g).qd.vf g.sys.priv (g.agent { code := 1 }) 0 (((s.pk g).rtbase + n * x.toNat) % 2 ^ 64) = (s1, .ok l))
    (hu : s1.unowned g [l]) (i : Instr) (kind : MemKind) (mark : Group → Group) :
    loadRecord i s g n x kind mark =
      .done (s1.newId.2.putG (((mark g).addPend (aOp s1.nextId g.apc kind [(0, l)] 0 0)).adv)) := by
  unfold loadRecord
  simp only [hl, whenFree_of_unowned hu]
  rfl

theorem recordLoadsAndFields : Claims.recordIssues := by
  refine ⟨fun s s1 g r a n l hi hb ht hl hu => ?_, fun s s1 g r a n l hi hb hl hu => ?_, fun s g r a fn hi hb ht hld => ?_⟩
  · show execBld r a n s = _
    refine aIssue_done hi ?_
    have hc : ¬((g.rb r.toNat).busy ≠ 0 ∨ g.tracing = true) := by simp [hb, ht]
    exact (if_neg hc).trans (loadRecord_of_globalAt hl hu ..)
  · show execTld r a n s = _
    refine aIssue_done hi ?_
    exact (if_neg (not_not.mpr hb)).trans (loadRecord_of_globalAt hl hu ..)
  · show execBset r a fn s = _
    refine aIssue_done hi ?_
    have hc : ¬((g.rb r.toNat).busy ≠ 0 ∨ g.tracing = true) := by simp [hb, ht]
    exact (if_neg hc).trans (if_neg (by simp [hld]))

/-- Settles O8. -/
theorem recordIssues : Obligations.RecordIssues := ⟨prefetch, recordLoadsAndFields⟩

/-! ## Counters and flags (04 R142, R143) -/

section
variable {s s1 : State} {g : Group} {a b : BitVec 6} {l : Loc}

/-- A counter that the instruction may read is read past the L1 and compared. -/
theorem counterTest_of_read (ha : (g.ra a.toNat).toNat % 4 = 0)
    (hl : globalAt s (s.lau g).qd.vf g.sys.priv (g.agent { code := 1 }) 0 (g.ra a.toNat).toNat = (s1, .ok l))
    (hn : s1.nothingToTake g true (.counter (g.ra a.toNat).toNat)) (hq : g.acqBefore s1.nextId = false)
    (ho : (g.pend.any fun o => overlap o (aOp s1.nextId g.apc (.lda 0 4 false) [(0, l)] 0 0)) = false) (hu : s1.unowned g [l])
    (i : Instr) (hit : State → Res) (miss : State → Loc → Res) :
    counterTest i g s a b hit miss =
      if 0 ≤ (BitVec.ofNat 32 (leNat (s1.readPast (s1.user g) l 4).2) - g.ra b.toNat).toInt
      then hit ((s1.readPast (s1.user g) l 4).1.acquire g 4) else miss (s1.readPast (s1.user g) l 4).1 l := by
  unfold State.nothingToTake at hn
  unfold counterTest
  simp only [ha, hl, hn, hq, ho, whenFree_of_unowned hu, ne_eq, not_true, if_false, Bool.or_self, Bool.false_eq_true]

end

theorem countersReachedOrNot : Claims.counterWaits := by
  intro s s1 g a b l i hai hi ha hl hg hn hq ho hu r reached
  have hr : r.1.grp? = some g := (observed_readPast ..).grp?.trans hg
  have hon : ((r.1.acquire g 4).updG Group.adv) = (r.1.acquire g 4).putG g.adv :=
    State.updG_of_grp? ((observed_acquire ..).grp?.trans hr) _
  have htest := fun (i : Instr) hit miss => counterTest_of_read ha hl hn hq ho hu (b := b) i hit miss
  refine ⟨fun h => ?_, ?_, ?_⟩
  · rcases hai with rfl | rfl
    · show execCwait a b s = _
      exact aIssue_done hi ((htest ..).trans ((if_pos h).trans (congrArg _ hon)))
    · show execYieldc a b s = _
      exact aIssue_done hi ((htest ..).trans ((if_pos h).trans (congrArg _ hon)))
  · rintro h rfl
    show execCwait a b s = _
    exact aIssue_wait hi ((htest ..).trans (if_neg h))
  · rintro h rfl
    show execYieldc a b s = _
    refine aIssue_wait hi ((htest ..).trans ((if_neg h).trans (congrArg (Res.wait .other) ?_)))
    refine (State.updG_of_grp? (g := g) ?_ _).trans rfl
    exact hr

theorem waitf : Claims.waitf := by
  intro s g mask hi hn
  unfold State.nothingToTake at hn
  refine ⟨fun h => ?_, fun h => ?_⟩
  all_goals show execWaitf mask s = _
  · have hall : ((List.range 12).all fun n => !mask.getLsbD n || g.cfn n == 0) = true := by
      simpa [← Classical.or_iff_not_imp_left, Decidable.imp_iff_not_or] using h
    exact aIssue_done hi (by simp only [hn, hall, if_true])
  · have hall : ((List.range 12).all fun n => !mask.getLsbD n || g.cfn n == 0) = false := by
      simpa [List.all_eq_false] using h
    exact aIssue_wait hi (by simp only [hn, hall, Bool.false_eq_true, if_false])

/-- Settles O9. -/
theorem counterWaits : Obligations.CounterWaits := ⟨countersReachedOrNot, waitf⟩

end Sys2Proof.Machine

namespace Sys2Proof.Machine

/-! ## Barriers of the A-stream (04 R144, R145) -/

theorem withBar_of_lt {s : State} {g : Group} {nb : Nat} (h : nb < (s.pk g).bars) (f : Bar → Res) :
    withBar s g nb f = f (s.bar g.who.tid nb) := by
  simp only [withBar, barCheck, Nat.not_le.mpr h, if_false]

theorem barArrive_now {g : Group} {nb stream : Nat} {need : List Nat} {b : Bar} (hb : b.exp ≠ 0)
    (hp : g.performed need = true) (ha : g.arriving nb stream = false) (s : State) (f : State → Group → Res) :
    barArrive s g nb stream need b f = f ((s.publish g 2).setBar g.who.tid nb (b.arrive g.who.gid)) g := by
  simp only [barArrive, hb, hp, ha, if_false, Bool.not_false, Bool.and_self, if_true]

theorem barArrive_later {g : Group} {nb stream : Nat} {need : List Nat} {b : Bar} (hb : b.exp ≠ 0)
    (h : g.performed need = false ∨ g.arriving nb stream = true) (s : State) (f : State → Group → Res) :
    barArrive s g nb stream need b f = f s { g with arrivals := g.arrivals ++ [{ nb, stream, need }] } := by
  have hc : ¬((g.performed need && !g.arriving nb stream) = true) := by rcases h with h | h <;> simp [h]
  exact (if_neg hb).trans (if_neg hc)

/-- Settles O10. -/
theorem barrierResults : Obligations.BarrierResults := by
  refine ⟨fun s g a nb hi hn h1 h2 hc ha => ?_, fun s g a nb hi hn he hm => ?_,
    fun s g nb hi hn he => ⟨fun hp ha => ?_, fun h => ?_⟩, fun s g d nb hi hn ht he => ⟨fun hr => ?_, fun hr => ?_⟩⟩
  · show execBinit a nb s = _
    refine aIssue_done hi ((withBar_of_lt hn _).trans ?_)
    have hr : ¬((g.ra a.toNat).toNat = 0 ∨ 65535 < (g.ra a.toNat).toNat) := by omega
    have hb : ¬(0 < (s.bar g.who.tid nb.toNat).cnt ∨ g.arriving nb.toNat 4 = true) := by simp [hc, ha]
    exact (if_neg hr).trans (if_neg hb)
  · show execBexp a nb s = _
    exact aIssue_done hi ((withBar_of_lt hn _).trans ((if_neg he).trans (if_neg (Nat.not_lt.mpr hm))))
  · show execBarv nb s = _
    exact aIssue_done hi ((withBar_of_lt hn _).trans (barArrive_now he hp ha ..))
  · show execBarv nb s = _
    exact aIssue_done hi ((withBar_of_lt hn _).trans (barArrive_later he h ..))
  all_goals
    show execBtry d nb s = _
    unfold State.nothingToTake at ht
    refine aIssue_done hi ((withBar_of_lt hn _).trans ?_)
    simp [ht, he, hr]

/-- What a wait at a barrier answers, by what the barrier holds of the waiting stream. -/
theorem waitStep_go {b : Bar} {gid stream : Nat} (h : (gid, stream) ∈ b.go) (before : Bool) :
    b.waitStep gid stream before = ({ b with go := b.go.erase (gid, stream) }, true) :=
  if_pos (List.contains_iff_mem.mpr h)

section
variable {b : Bar} {gid stream : Nat} (hgo : (gid, stream) ∉ b.go)
include hgo

theorem waitStep_wait (h : (gid, stream) ∈ b.wait) (before : Bool) : b.waitStep gid stream before = (b, false) := by
  simp [Bar.waitStep, hgo, h]

theorem waitStep_rel (hw : (gid, stream) ∉ b.wait) (h : gid ∈ b.rel) (before : Bool) :
    b.waitStep gid stream before = ({ b with rel := delNat b.rel gid, owed := delNat b.owed gid }, true) := by
  simp [Bar.waitStep, hgo, hw, h]

theorem waitStep_stays (hw : (gid, stream) ∉ b.wait) (h : gid ∉ b.rel) (before : Bool) :
    b.waitStep gid stream before =
      (if gid ∈ b.owed ∨ before = true then b else { b with wait := b.wait ++ [(gid, stream)] }, false) := by
  simp only [Bar.waitStep, List.contains_iff_mem, hgo, hw, h, if_false]
  split <;> rfl

end

/-- A wait of the A-stream at a barrier for which it has no arrival left to make. -/
theorem barWaitA_of_arrived {g : Group} {nb : Nat} (ha : g.arriving nb 4 = false) (s : State) :
    barWaitA s g nb =
      if ((s.bar g.who.tid nb).waitStep g.who.gid 4 (g.ablk == some .barrier)).2
      then .done (((s.setBar g.who.tid nb ((s.bar g.who.tid nb).waitStep g.who.gid 4 (g.ablk == some .barrier)).1).acquire g 2).putG
        { g.adv with arrived := none })
      else .wait .barrier (s.setBar g.who.tid nb ((s.bar g.who.tid nb).waitStep g.who.gid 4 (g.ablk == some .barrier)).1) :=
  if_neg (by simp [ha])

theorem barWaitA_of_arriving {g : Group} {nb : Nat} (ha : g.arriving nb 4 = true) (s : State) :
    barWaitA s g nb = .wait .barrier (s.putG g) := if_pos ha

/-- An instruction that comes to a wait of the A-stream at a barrier. -/
theorem waitsAt_of_barWaitA {s s0 : State} {g : Group} {i : Instr} {nb : Nat} {b : Bar}
    (hx : exec i s0 = finishA i (barWaitA s g nb)) (ha : g.arriving nb 4 = false) (hb : s.bar g.who.tid nb = b) :
    Claims.waitsAt s g i s0 nb b := by
  rw [barWaitA_of_arrived ha, hb] at hx
  refine ⟨fun hg => ?_, fun hg hw hr => ?_, fun hg hw => ?_, fun hg hw hr => ?_⟩
  · rw [hx, waitStep_go hg]
    exact finishA_done ..
  · rw [hx, waitStep_rel hg hw hr]
    exact finishA_done ..
  · rw [hx, waitStep_wait hg hw]
    rfl
  · rw [hx, waitStep_stays hg hw hr]
    simp only [beq_iff_eq]
    rfl

/-- Reading back a barrier of a team that there is. -/
theorem State.bar_setBar {s : State} {tid nb : Nat} (h : (s.teams.get? tid).isSome) (b : Bar) :
    (s.setBar tid nb b).bar tid nb = b := by
  obtain ⟨t, ht⟩ := Option.isSome_iff_exists.mp h
  simp [State.bar, State.setBar, Tbl.get?_upd_same, ht]

/-- A barrier that expects arrivals is one of a team that there is. -/
theorem State.team_of_exp {s : State} {tid nb : Nat} (h : (s.bar tid nb).exp ≠ 0) : (s.teams.get? tid).isSome := by
  cases ht : s.teams.get? tid with
  | none => simp [State.bar, ht] at h
  | some t => rfl

theorem Observed.teams {s t : State} (h : Observed s t) : t.teams = s.teams := by
  obtain ⟨_, _, _, _, rfl⟩ := h
  rfl

section
variable {s : State} {g : Group} {nb : BitVec 10} (hn : nb.toNat < (s.pk g).bars) (ht : s.nothingToTake g true (.bar nb.toNat))
include hn ht

theorem exec_bwaita (hi : issueA s (.bwaita nb) = some g) :
    exec (.bwaita nb) s = finishA (.bwaita nb) (barWaitA s g nb.toNat) := by
  show execBwaita nb s = _
  unfold State.nothingToTake at ht
  rw [execBwaita, aIssue_of_issueA hi, withBar_of_lt hn]
  simp only [ht]

theorem exec_barvw_again (hi : issueA s (.barvw nb) = some g) (h : g.arrived = some g.apc) :
    exec (.barvw nb) s = finishA (.barvw nb) (barWaitA s g nb.toNat) := by
  show execBarvw nb s = _
  unfold State.nothingToTake at ht
  rw [execBarvw, aIssue_of_issueA hi, withBar_of_lt hn]
  simp only [ht, h, if_true]

theorem exec_barvw_first (hi : issueA s (.barvw nb) = some g) (h : g.arrived ≠ some g.apc) :
    exec (.barvw nb) s = finishA (.barvw nb) (barArrive s g nb.toNat 4 g.aPend (s.bar g.who.tid nb.toNat) fun s g =>
      barWaitA (s.putG { g with arrived := some g.apc }) { g with arrived := some g.apc } nb.toNat) := by
  show execBarvw nb s = _
  unfold State.nothingToTake at ht
  rw [execBarvw, aIssue_of_issueA hi, withBar_of_lt hn]
  simp only [ht, h, if_false]

/-- BARVW that arrives at once then waits at the barrier with its arrival made. -/
theorem barvw_arrives (hi : issueA s (.barvw nb) = some g) (h : g.arrived ≠ some g.apc)
    (he : (s.bar g.who.tid nb.toNat).exp ≠ 0) (hp : g.performed g.aPend = true) (ha : g.arriving nb.toNat 4 = false) :
    Claims.waitsAt (((s.publish g 2).setBar g.who.tid nb.toNat ((s.bar g.who.tid nb.toNat).arrive g.who.gid)).putG
      { g with arrived := some g.apc }) { g with arrived := some g.apc } (.barvw nb) s nb.toNat
      ((s.bar g.who.tid nb.toNat).arrive g.who.gid) := by
  refine waitsAt_of_barWaitA ((exec_barvw_first hn ht hi h).trans ?_) ha (State.bar_setBar ?_ _)
  · rw [barArrive_now he hp ha]
  · rw [(observed_publish ..).teams]
    exact State.team_of_exp he

end

theorem barrierWaitsOrGoesOn : Claims.barrierWaits := by
  intro s g nb hn ht b g1
  refine ⟨fun hi ha => waitsAt_of_barWaitA (exec_bwaita hn ht hi) ha rfl, fun hi ha => ?_,
    fun hi h ha => waitsAt_of_barWaitA (exec_barvw_again hn ht hi h) ha rfl, fun hi h ha => ?_,
    fun hi h he hp ha => barvw_arrives hn ht hi h he hp ha, fun hi h he hl => ?_⟩
  · rw [exec_bwaita hn ht hi, barWaitA_of_arriving ha]
    rfl
  · rw [exec_barvw_again hn ht hi h, barWaitA_of_arriving ha]
    rfl
  · rw [exec_barvw_first hn ht hi h, barArrive_later he hl, barWaitA_of_arriving (by simp [Group.arriving]), State.putG_putG]
    rfl

theorem mem_insertNat (l : List Nat) (n m : Nat) : m ∈ insertNat l n ↔ m ∈ l ∨ m = n := by
  induction l with
  | nil => simp [insertNat]
  | cons k r ih =>
    unfold insertNat
    split
    · next h => simp only [List.mem_cons, h]; tauto
    · split
      · simp only [List.mem_cons]; tauto
      · simp only [List.mem_cons, ih]; tauto

theorem mem_foldl_insertNat (l r : List Nat) (m : Nat) : m ∈ l.foldl insertNat r ↔ m ∈ r ∨ m ∈ l := by
  induction l generalizing r with
  | nil => simp
  | cons k l ih => simp only [List.foldl_cons, ih, mem_insertNat, List.mem_cons]; tauto

/-- The last arrival of a phase. -/
theorem arrive_completes {b : Bar} (h : b.cnt + 1 = b.exp) (gid : Nat) :
    b.arrive gid = { b with cnt := 0, exp := b.init, phase := !b.phase, rel := (insertNat b.owed gid).foldl insertNat b.rel,
                            owed := [], go := b.go ++ b.wait, wait := [] } :=
  if_pos ⟨h, by show b.exp ≠ 0; omega⟩

theorem phaseCompletes : Claims.phaseCompletes := by
  intro b gid h t
  have ht : t = _ := arrive_completes h gid
  rw [ht]
  refine ⟨rfl, rfl, rfl, rfl, rfl, rfl, fun n => ?_, fun w => List.mem_append⟩
  rw [mem_foldl_insertNat, mem_insertNat]

theorem barrierCompletes : Claims.barrierCompletes := by
  intro s g nb hn ht ha b hgo hwait
  refine ⟨fun hi hr => ?_, fun hi h hp he hc => ?_⟩
  · exact (waitsAt_of_barWaitA (exec_bwaita hn ht hi) ha rfl).2.1 hgo hwait hr
  · have hw := barvw_arrives hn ht hi h he hp ha
    have hb : (s.bar g.who.tid nb.toNat).arrive g.who.gid = _ := arrive_completes hc g.who.gid
    rw [hb] at hw
    obtain ⟨-, hon, -⟩ := hw
    refine ⟨_, hon ?_ ?_ ?_, State.putG_grp? .., ?_⟩
    · simp [hgo, hwait]
    · simp
    · simp [mem_foldl_insertNat, mem_insertNat]
    · have hteam : ((((s.publish g 2).setBar g.who.tid nb.toNat ((s.bar g.who.tid nb.toNat).arrive g.who.gid)).putG
          { g with arrived := some g.apc }).teams.get? g.who.tid).isSome := by
        show ((((s.publish g 2).teams.upd _ _).get? g.who.tid)).isSome
        rw [(observed_publish ..).teams, Tbl.get?_upd_same, Option.isSome_map]
        exact State.team_of_exp he
      rw [hb] at hteam
      have hbar := State.bar_setBar (nb := nb.toNat) hteam
      refine ⟨congrArg Bar.cnt (hbar _), congrArg Bar.exp (hbar _), congrArg Bar.phase (hbar _), fun hin => ?_, fun hin => ?_⟩
      · simpa [delNat] using (congrArg (g.who.gid ∈ ·.rel) (hbar _)).mp hin
      · simpa [delNat] using (congrArg (g.who.gid ∈ ·.owed) (hbar _)).mp hin

/-- Settles O11. -/
theorem barrierWaits : Obligations.BarrierWaits := ⟨barrierWaitsOrGoesOn, barrierCompletes, phaseCompletes⟩

end Sys2Proof.Machine

namespace Sys2Proof.Machine

/-! ## Fences and system instructions (04 R147, R149, R150) -/

/-- A fence that finds no fault to take and whose operations are performed. -/
theorem fence_passes {s : State} {g : Group} {rel acq : Bool} {scope : BitVec 3} {eng : BitVec 1}
    (ht : s.nothingToTake g true .none) (hr : rel = true → g.opsPending = false)
    (ha : acq = true → g.loadsPending = false ∧ g.cLoads (g.fenced.getD s.nextId) = false)
    (he : eng = 1 → s.engBusy g = false ∧ g.lanesBusy (g.fenced.getD s.nextId) = false) :
    fence rel acq scope eng g s =
      .done ((if acq then (if rel then s.publish g scope.toNat else s).acquire g scope.toNat
        else if rel then s.publish g scope.toNat else s).putG { g.adv with fenced := none }) := by
  unfold State.nothingToTake at ht
  have hc : ¬((rel && g.opsPending) || (acq && (g.loadsPending || g.cLoads (g.fenced.getD s.nextId))) ||
      (eng == 1 && (s.engBusy g || g.lanesBusy (g.fenced.getD s.nextId)))) = true := by
    have h1 : (rel && g.opsPending) = false := by cases rel <;> simp_all
    have h2 : (acq && (g.loadsPending || g.cLoads (g.fenced.getD s.nextId))) = false := by cases acq <;> simp_all
    have h3 : (eng == 1 && (s.engBusy g || g.lanesBusy (g.fenced.getD s.nextId))) = false := by
      by_cases h : eng = 1
      · simp only [he h, Bool.or_self, Bool.and_false]
      · simp only [beq_false_of_ne h, Bool.false_and]
    rw [h1, h2, h3]
    decide
  unfold fence
  simp only [ht]
  exact if_neg hc

/-- Settles O12. -/
theorem fenceResults : Obligations.FenceResults := by
  intro s g scope eng ht before on he
  refine ⟨fun hi hl hc => ?_, fun hi ho => ?_, fun hi ho hl hc => ?_⟩
  · show execFenceAcq scope eng s = _
    exact aIssue_done hi (fence_passes ht (by simp) (fun _ => ⟨hl, hc⟩) he)
  · show execFenceRel scope eng s = _
    exact aIssue_done hi (fence_passes ht (fun _ => ho) (by simp) he)
  · show execFenceAcqrel scope eng s = _
    exact aIssue_done hi (fence_passes ht (fun _ => ho) (fun _ => ⟨hl, hc⟩) he)

/-- Settles O13. -/
theorem systemResults : Obligations.SystemResults := by
  refine ⟨fun s g i h hi => ?_, fun s g hi ht => ⟨fun hq => ?_, fun hq => ?_⟩, fun s g hi => ⟨fun hb => ?_, fun hb => ?_⟩⟩
  · rcases h with rfl | rfl
    · show execNop s = _
      exact aIssue_done hi rfl
    · show execYield s = _
      exact aIssue_done hi rfl
  · show execCsync s = _
    unfold State.nothingToTake at ht
    exact aIssue_done hi (by simp only [ht, hq, if_true])
  · show execCsync s = _
    unfold State.nothingToTake at ht
    exact aIssue_wait hi (by simp only [ht, hq, Bool.false_eq_true, if_false])
  · show execHaltd s = _
    exact aIssue_done hi (if_pos hb)
  · show execHaltd s = _
    exact aIssue_wait hi (if_neg (by simp [hb]))

/-- Settles O17. -/
theorem exitResult : Obligations.ExitResult := by
  intro s g hi hp ho ht hst he hl hsh
  unfold State.nothingToTake at ht
  have hw : ¬(g.ended < g.pushed ∨ (!(g.pend.all fun o => o.who == 4)) = true) := by
    simpa [Nat.not_lt.mpr hp] using ho
  have hlane : (g.lane.all fun o => !o.faults.isEmpty) = true := by simpa using hl
  have hlog : (g.shadow.all fun x => x.log.isEmpty) = true := by cases hs : g.shadow <;> simp_all
  refine ⟨fun hs => ?_, fun hs => ⟨Cause.mk' 9 1 2, rfl, ?_⟩⟩
  all_goals
    show execExit s = _
    rw [execExit, aIssue_of_issueA hi, if_neg hw]
    simp only [ht, hst, he, hlane, hlog, Bool.not_true, Bool.or_self, Bool.false_eq_true, if_false]
  · rw [if_neg (by simp [hs])]
    rfl
  · rw [if_pos (Option.isSome_iff_ne_none.mpr hs)]
    exact finishA_trap (issueA_grp? hi) ..

/-! ## Traps by instruction (04 R149, 06 R208) -/

theorem trapInstruction : Claims.trapInstruction := by
  intro s g code hi hg
  show execTrap code s = _
  rw [execTrap, aIssue_of_issueA hi]
  have hd : BitVec.ofNat 96 code.toNat = code.setWidth 96 := by rw [BitVec.ofNat_toNat]
  simp only [finishA, aPending, Cause.mk', hd]

/-- How a C instruction ends that raises cause group 13: its entries are given back, its shadow may be told, and it restarts at the
index after its word. -/
theorem finishC_trap13 {c : Cause} (h13 : c.grp = 13) (i : Instr) (h : CShape) (w : BitVec 96) (e : CEnv) (s0 s : State)
    (g : Group) : ∃ q sh, finishC i h w e s0 g (.trap c s) =
      .next (raise (s0.putG { g with q := q, shadow := sh, cs := g.cs.updSp e.k fun p => { p with held := [] } }) s0.cur.gid
        { cPending (g.unheld e.k e.es) e.k w c with cpc := e.p.past.idx, slot := e.p.past.slot, fpc := e.p.past.idx }) := by
  obtain ⟨q, hq⟩ := unheld_queues g e.k e.es
  obtain ⟨sh, hsh⟩ := log_shadow (g.unheld e.k e.es) (.of e.k e.p i [])
  have hc : c.grp = 7 ∨ c.grp = 13 := .inr h13
  by_cases hs : (s0.shadowed g && c.grp == 13) = true
  · refine ⟨q, sh, ?_⟩
    simp only [finishC, hc, hs, if_true]
    rw [hq] at hsh
    exact congrArg (fun x => Host.Outcome.next (raise (s0.putG x) _ _)) ((congrArg (Group.log · _) hq).trans hsh)
  · refine ⟨q, g.shadow, ?_⟩
    simp only [finishC, hc, hs, if_true]
    exact congrArg (fun x => Host.Outcome.next (raise (s0.putG x) _ _)) hq

theorem ctrap : Claims.ctrap := by
  intro s x code y hi
  refine ⟨fun hen ht => ?_, fun hen => ?_⟩
  · obtain ⟨q, sh, he⟩ := finishC_trap13 (c := Cause.mk' 13 code.toNat code.toNat 0 (x.env s).en) rfl (.ctrap code y) x.h
      ((encodeC (.ctrap code y)).getD 0) (x.env s) s (s.putG (x.past s)) x.g
    refine ⟨_, _, Eq.trans ?_ he, ht, rfl, rfl, rfl, rfl, rfl, rfl, rfl, BitVec.ofNat_toNat .., rfl, rfl, rfl, rfl⟩
    show execCtrap code y s = _
    rw [execCtrap, cIssue_of_issueC hi, if_neg hen]
  · show execCtrap code y s = _
    rw [execCtrap, cIssue_of_issueC hi, if_pos hen]
    exact (finishC_done ..).trans (congrArg (fun t => Host.Outcome.next (x.done s _ t)) (State.putG_putG ..))

/-- Settles O35. -/
theorem trapInstructions : Obligations.TrapInstructions := ⟨trapInstruction, ctrap⟩

end Sys2Proof.Machine

namespace Sys2Proof.Machine

/-! ## Work-graph records (04 R148; 20 R392, R393) -/

theorem notWhileSaving_of_none {g : Group} (h : g.saveReq = none) (s : State) (f : Unit → Res) :
    notWhileSaving g s f = f () := by
  simp [notWhileSaving, h]

@[simp] theorem State.gal_setGal (s : State) (v : Nat) (y : Galley) : (s.setGal v y).gal v = y := Tbl.getD_set_same ..

/-- RALLOC whose checks pass is granted at once where nobody waits. -/
theorem exec_ralloc {s s1 : State} {g : Group} {d a b : BitVec 6} {ds : List Byte} {h : Nat}
    (hi : issueA s (.ralloc d a b) = some g) (hstop : g.stop ≠ .ralloc) (hsave : g.saveReq = none)
    (ht : s.nothingToTake g true .none) (hn : s.node (s.lau g).qd.vf (g.ra a.toNat).toNat = (s1, ds))
    (hok : rallocOk s1 g (s.lau g).qd.vf (g.ra a.toNat).toNat (g.ra b.toNat).toNat ds = true)
    (hw : (s1.gal (s.lau g).qd.vf).waits = [])
    (hg : (s1.gal (s.lau g).qd.vf).grant (g.ra b.toNat).toNat (numAt ds 0x10 2) = some h) :
    exec (.ralloc d a b) s = .next ((s1.setGal (s.lau g).qd.vf ((s1.gal (s.lau g).qd.vf).reserve g.who.gid
      (g.ra a.toNat).toNat (g.ra b.toNat).toNat h)).doneA ((g.wa d.toNat (BitVec.ofNat 32 h)).adv)) := by
  show execRalloc d a b s = _
  unfold State.nothingToTake at ht
  refine aIssue_done hi ((if_neg hstop).trans ((notWhileSaving_of_none hsave ..).trans ?_))
  simp only [ht, hn, hok, hw, List.isEmpty_nil, Bool.not_true, Bool.false_eq_true, if_false, if_true, hg]

section
variable {s : State} {g : Group} {a b : BitVec 6} {h : Handle}

/-- RCOMMIT of records that its handle has left. -/
theorem exec_rcommit (hi : issueA s (.rcommit a b) = some g) (hsave : g.saveReq = none)
    (hh : (s.gal (s.lau g).qd.vf).handle? g.who.gid (g.ra a.toNat).toNat = some h) (hle : h.done + (g.ra b.toNat).toNat ≤ h.n) :
    exec (.rcommit a b) s = finishA (.rcommit a b)
      (if (g.ra b.toNat).toNat = 0 then .done (s.putG g.adv)
       else .done (((s.setGal (s.lau g).qd.vf ((s.gal (s.lau g).qd.vf).take h (g.ra b.toNat).toNat)).putG { g.adv with
         commits := g.commits ++ [{ vf := (s.lau g).qd.vf, recs := (List.range (g.ra b.toNat).toNat).map fun i => h.idx + h.done + i,
                                    node := h.node, depth := s.recDepth g h.node, need := g.aPend }] }).arriveReady g.who.gid)) := by
  show execRcommit a b s = _
  rw [execRcommit, aIssue_of_issueA hi, notWhileSaving_of_none hsave]
  simp only [hh, Nat.not_lt.mpr hle, if_false]

theorem exec_rdone (hi : issueA s (.rdone a) = some g) (hsave : g.saveReq = none)
    (hh : (s.gal (s.lau g).qd.vf).handle? g.who.gid (g.ra a.toNat).toNat = some h) :
    exec (.rdone a) s = .next (((s.setGal (s.lau g).qd.vf { s.gal (s.lau g).qd.vf with
        handles := (s.gal (s.lau g).qd.vf).handles.erase h }).giveBack (s.lau g).qd.vf
      ((List.range (h.n - h.done)).map fun i => h.idx + h.done + i)).doneA g.adv) := by
  show execRdone a s = _
  refine aIssue_done hi ((notWhileSaving_of_none hsave ..).trans ?_)
  simp only [hh]

end

/-- Two machines with the same records, at one time. -/
def SamePools (s t : State) : Prop := t.galley = s.galley ∧ t.tick = s.tick

theorem Observed.samePools {s t : State} (h : Observed s t) : SamePools s t := by
  obtain ⟨_, _, _, _, rfl⟩ := h
  exact ⟨rfl, rfl⟩

/-- A commit puts its records behind those that wait in the pool of its VF, and the rules are due there. -/
theorem commit_pool {s : State} {v : Nat} {y : Galley} (h : s.galley.get? v = some y) (g : Group) (c : Commit) (hc : c.vf = v) :
    (s.commit g c).galley.get? v = some (y.publish c.recs c.node c.depth s.tick) := by
  obtain ⟨hg, ht⟩ := (observed_publish s g 4).samePools
  simp only [State.commit, hg, hc, ht, Tbl.get?_upd_same, h, Option.map_some]

/-- The arrivals of a group leave the records as they are. -/
theorem arrivals_pool (s : State) (g : Group) (gid : Nat) (l : List Arrival) :
    SamePools s (l.foldl (fun (s : State) a => (s.publish g 2).setBar g.who.tid a.nb ((s.bar g.who.tid a.nb).arrive gid)) s) := by
  refine List.foldlRecOn (motive := SamePools s) _ _ ⟨rfl, rfl⟩ fun t ht a _ => ?_
  obtain ⟨hg, hk⟩ := (observed_publish t g 2).samePools
  exact ⟨hg.trans ht.1, hk.trans ht.2⟩

/-- The only commit of a group whose earlier operations are performed takes place. -/
theorem arriveReady_pool {s : State} {g : Group} {gid v : Nat} {y : Galley} {c : Commit} (hg : s.groups.get? gid = some g)
    (hc : g.commits = [c]) (hp : g.performed c.need = true) (hv : c.vf = v) (hy : s.galley.get? v = some y) :
    (s.arriveReady gid).galley.get? v = some (y.publish c.recs c.node c.depth s.tick) := by
  have hne : ¬(g.arrivals.isEmpty && g.commits.isEmpty) = true := by simp [hc]
  have hcs : (g.commits.filter fun c => g.performed c.need) = [c] := by simp [hc, hp]
  rw [State.arriveReady, hg]
  refine (congrArg (fun t : State => t.galley.get? v) (if_neg hne)).trans ?_
  dsimp only
  rw [hcs]
  generalize hs : s.setG gid _ = s'
  have h0 : SamePools s s' := by subst hs; exact ⟨rfl, rfl⟩
  obtain ⟨hpool, htick⟩ := arrivals_pool s' g gid (g.arrivals.filter fun a => g.performed a.need)
  refine (commit_pool (y := y) ?_ g c hv).trans ?_
  · rw [hpool, h0.1, hy]
  · rw [htick, h0.2]

/-- Settles O18. -/
theorem recordPoolResults : Obligations.RecordPoolResults := by
  refine ⟨fun s s1 g d a b ds h => exec_ralloc, ?_, fun s g a h => exec_rdone, fun s g d a hi hs => ?_, fun s g d hi hs => ?_⟩
  · intro s g a b h hi hs hh hle v n recs c
    refine ⟨fun h0 => ?_, fun h0 => ?_, fun h0 hp hc hg => ?_⟩
    · rw [exec_rcommit hi hs hh hle, if_pos h0]
      exact finishA_done ..
    · rw [exec_rcommit hi hs hh hle, if_neg h0]
      rfl
    · refine ⟨_, (exec_rcommit hi hs hh hle).trans (congrArg (finishA _) (if_neg h0)), ?_⟩
      have hready := arriveReady_pool (v := v) (c := c) (y := (s.gal v).take h n) (g := { g.adv with commits := g.commits ++ [c] })
        (s := (s.setGal v ((s.gal v).take h n)).putG { g.adv with commits := g.commits ++ [c] }) (gid := g.who.gid)
        (by rw [← hg]; exact Tbl.get?_set_same ..) (by rw [hc]; rfl) hp rfl (Tbl.get?_set_same ..)
      refine ⟨?_, ?_⟩
      · exact congrArg (fun o : Option Galley => (o.getD Galley.new).due) hready
      · exact congrArg (fun o : Option Galley => (o.getD Galley.new).comm) hready
  · show execRinput d a s = _
    refine aIssue_done hi ((notWhileSaving_of_none hs ..).trans ?_)
    cases (s.lau g).batch with
    | none => rfl
    | some b => cases h : b.2.2.1[(g.ra a.toNat).toNat]? <;> simp [h]
  · show execRdepth d s = _
    exact aIssue_done hi (notWhileSaving_of_none hs ..)

end Sys2Proof.Machine

namespace Sys2Proof.Machine

/-! ## Engines at issue (04 R141; 07 R233, R236) -/

theorem withT_of_tensor {g : Group} {n : Nat} {t : Ten} (h : g.tensor n = some t) (s : State) (f : Ten → Res) :
    withT g s n f = f t := by
  unfold Group.tensor at h
  split at h
  · next hb => simp only [withT, hb, h, ne_eq, not_true, if_false]
  · cases h

/-- Coordinate registers that exist and are declared. -/
theorem copyRegs_ok {rs : List Nat} {n : Nat} (hr : ∀ r ∈ rs, r ≤ 63 ∧ (r < n ∨ 61 ≤ r)) :
    ¬(rs.any fun r => decide (63 < r)) = true ∧ ¬(rs.any fun r => decide (n ≤ r ∧ r < 61)) = true := by
  simp only [List.any_eq_true, decide_eq_true_eq, not_exists, not_and]
  refine ⟨fun r hm => Nat.not_lt.mpr (hr r hm).1, fun r hm => ?_⟩
  have := (hr r hm).2
  omega

/-- An engine operation that is put in progress. -/
theorem aIssue_addEng {s t : State} {g : Group} {i j : Instr} {body : Group → State → Res} {kind : EngKind} {bar : Option Nat}
    {lines : List Loc} (hi : issueA s i = some g) (hb : body g s = addEng t g j kind bar lines) :
    aIssue i body s = .next (Claims.started t g j kind bar (lines.map fun l => (l, 0))) :=
  aIssue_done hi hb

theorem copyIssues : Claims.copyIssues := by
  intro s g src dst c opt scope ts td hsave hs hd h1 h2 hn hf hr hl sc dc lines
  obtain ⟨ha, hb⟩ := copyRegs_ok hr
  have hshape : ¬(ts.kind = 2 ∨ td.kind = 2 ∨ ts.ndim ≠ td.ndim ∨ fmtBits ts.fmt ≠ fmtBits td.fmt) := by simp [h1, h2, hn, hf]
  refine ⟨fun nb hi hnb hslot => ?_, fun k s1 l hi hk hat hslot => ?_⟩
  · show execCpyBar src dst c nb scope opt s = _
    have hbar : barCheck s g nb.toNat = none := if_neg (Nat.not_le.mpr hnb)
    refine aIssue_done hi ((notWhileSaving_of_none hsave ..).trans ?_)
    simp only [ha, hb, hl, withT_of_tensor hs, withT_of_tensor hd, Option.bind_some, hbar, if_neg hshape, hslot, if_false,
      Bool.false_eq_true]
    rfl
  · show execCpyCnt src dst c k scope opt s = _
    refine aIssue_done hi ((notWhileSaving_of_none hsave ..).trans ?_)
    simp only [ha, hb, hl, withT_of_tensor hs, withT_of_tensor hd, Option.bind_none, if_neg hshape, hk, hat, hslot, ne_eq,
      not_true, if_false, Bool.false_eq_true]
    rfl

theorem rasterIssues : Claims.rasterIssues := by
  refine ⟨fun s g eo bs f k t o nb tt hi hsave hbusy hload hseg ht hc => ?_, ?_⟩
  · show execCover eo bs f k t o nb s = _
    refine aIssue_addEng hi ((notWhileSaving_of_none hsave ..).trans ?_)
    simp only [hbusy, hload, hseg, withT_of_tensor ht, hc, ne_eq, not_true, if_false, Bool.not_true, Bool.or_self,
      Bool.false_eq_true]
    rfl
  · intro s g ts td p nb sig t u hi hsave hnb ht hu hok base sigb tx ty dst entry
    show execTstore ts td p nb sig s = _
    refine aIssue_addEng hi ((notWhileSaving_of_none hsave ..).trans ?_)
    have hbar : barCheck s g nb.toNat = none := if_neg (Nat.not_le.mpr hnb)
    simp only [withT_of_tensor ht, withT_of_tensor hu, hbar, hok, Bool.not_true, Bool.false_eq_true, if_false]
    rfl

/-- Settles O19. -/
theorem engineIssues : Obligations.EngineIssues := ⟨copyIssues, rasterIssues⟩

end Sys2Proof.Machine

namespace Sys2Proof.Machine

/-! ## The parts of an access (09 R278, R282) -/

/-- A change of a group that keeps its lanes' memory keeps every memory. -/
theorem State.memOf_updGroup (s : State) (gid : Nat) {f : Group → Group} (hf : ∀ g, (f g).slices = g.slices) (sp : Space) :
    State.memOf { s with groups := s.groups.upd gid f } sp = s.memOf sp := by
  cases sp with
  | lane n l =>
    by_cases hn : n = gid
    · simp only [State.memOf, hn, Tbl.get?_upd_same, Option.map_map]
      congr 2
      exact funext hf
    · simp only [State.memOf, Tbl.get?_upd_ne _ _ hn]
  | host p => cases p <;> rfl
  | _ => rfl

theorem partsOf_shape (s : State) (ordered : Bool) (rel : Nat) (els : List (Nat × Loc)) :
    ∃ n, (s.partsOf ordered rel els).1 = { s with fresh := n } := by
  unfold State.partsOf State.parts
  split
  · exact ⟨s.fresh, rfl⟩
  · split
    · exact ⟨s.fresh, rfl⟩
    · dsimp only
      split <;> exact ⟨s.fresh + 1, rfl⟩

/-- The parts made and the parts left are the whole access. -/
theorem partsOf_perm (s : State) (ordered : Bool) (rel : Nat) (els : List (Nat × Loc)) :
    ((s.partsOf ordered rel els).2.1 ++ (s.partsOf ordered rel els).2.2).Perm els := by
  unfold State.partsOf State.parts
  split
  · exact .of_eq (List.take_append_drop 1 els)
  · split
    · exact .of_eq (List.append_nil els)
    · dsimp only
      split
      · simp [List.span_eq_takeWhile_dropWhile]
      · rw [List.partition_eq_filter_filter]
        exact List.filter_append_perm _ els

theorem partsOf_ordered (s : State) (rel : Nat) (els : List (Nat × Loc)) :
    (s.partsOf true rel els).2.1 ++ (s.partsOf true rel els).2.2 = els := by
  unfold State.partsOf State.parts
  split
  · exact List.take_append_drop 1 els
  · split
    · exact List.append_nil els
    · simp [List.span_eq_takeWhile_dropWhile]

/-- A single part is made at once. -/
theorem partsOf_single (s : State) (ordered : Bool) (rel : Nat) {els : List (Nat × Loc)} (h : els.length ≤ 1) :
    (s.partsOf ordered rel els).2.2 = [] := by
  unfold State.partsOf State.parts
  split
  · exact List.drop_eq_nil_of_le h
  · rfl

/-- Where the lanes have an order, a part that releases is made alone. -/
theorem partsOf_release (s : State) {rel : Nat} (hr : rel ≠ 0) (els : List (Nat × Loc)) :
    (s.partsOf true rel els).2.1 = els.take 1 := by
  simp [State.partsOf, hr]

theorem partsOf_memOf (s : State) (ordered : Bool) (rel : Nat) (els : List (Nat × Loc)) (sp : Space) :
    (s.partsOf ordered rel els).1.memOf sp = s.memOf sp := by
  obtain ⟨n, h⟩ := partsOf_shape s ordered rel els
  rw [h]
  rfl

theorem perform_op (s : State) (g : Group) (o : MemOp) :
    (s.perform g o).2 = { o with
      els := ((s.publish g o.rel).partsOf o.ordered o.rel o.els).2.2,
      got := o.got ++ (o.access ((s.publish g o.rel).partsOf o.ordered o.rel o.els).1 ((s.publish g o.rel).user g)
        ((s.publish g o.rel).partsOf o.ordered o.rel o.els).2.1).2 } := rfl

/-- No error of a link is noted where a link is up. -/
theorem lateIfCut_of_link {s : State} (h : s.peerCut = false) (gid pc : Nat) (ls : List Loc) : s.lateIfCut gid pc ls = s := by
  simp [State.lateIfCut, h]

/-- The machine after the accesses of an operation that is performed, before its group notes them (09 R282). -/
def State.accessed (s : State) (g : Group) (o : MemOp) : State :=
  (o.access ((s.publish g o.rel).partsOf o.ordered o.rel o.els).1 ((s.publish g o.rel).user g)
    ((s.publish g o.rel).partsOf o.ordered o.rel o.els).2.1).1

/-- Of the machine that its accesses leave, the performance of an operation changes its group, beside its lanes' memory, and notes a late
error of a write that no link acknowledges. -/
theorem perform_accessed (s : State) (g : Group) (o : MemOp) :
    ∃ (f : Group → Group) (ls : List Loc), (∀ h, (f h).slices = h.slices) ∧
      (s.perform g o).1 = if o.reads then { s.accessed g o with groups := (s.accessed g o).groups.upd g.who.gid f }
        else State.lateIfCut { s.accessed g o with groups := (s.accessed g o).groups.upd g.who.gid f } g.who.gid o.pc ls := by
  refine ⟨_, _, ?_, rfl⟩
  intro h
  dsimp only
  split <;> rfl

/-- The memory that the performance of an operation leaves is that of its accesses. -/
theorem perform_memOf (s : State) (g : Group) (o : MemOp) (h : (s.accessed g o).peerCut = false ∨ o.reads = true) (sp : Space) :
    (s.perform g o).1.memOf sp = (s.accessed g o).memOf sp := by
  obtain ⟨f, ls, hf, hp⟩ := perform_accessed s g o
  rw [hp]
  split
  · exact State.memOf_updGroup _ _ hf sp
  · next hr =>
    refine (congrArg (State.memOf · sp) (lateIfCut_of_link ?_ ..)).trans (State.memOf_updGroup _ _ hf sp)
    exact h.resolve_right hr

/-- Every agent reads what memory holds where no write is late. -/
theorem readPast_of_noLate {s : State} (h : s.late = []) (u : User) (l : Loc) (n : Nat) :
    (s.readPast u l n).1.late = [] ∧ (∀ sp, (s.readPast u l n).1.memOf sp = s.memOf sp) ∧
      (s.readPast u l n).2 = (s.memOf l.space).bytes l.key n := by
  obtain ⟨r, t, hu⟩ := s.useL2_keeps u l n false
  have hn : ((s.useL2 u l n false).unseen u.agent l n).isEmpty = true := by simp [hu, State.unseen, h]
  rw [State.readPast, State.readView, if_pos hn, hu]
  exact ⟨h, fun sp => rfl, rfl⟩

theorem readPieces_of_noLate {s : State} (h : s.late = []) (u : User) (n : Nat) (els : List (Nat × Loc)) :
    (readPieces s u false n els).2 = els.map fun e => (e.1, s.readLoc e.2 n) := by
  have hfold : ∀ (els : List (Nat × Loc)) (t : State) (got : List (Nat × Nat)), t.late = [] → (∀ sp, t.memOf sp = s.memOf sp) →
      (els.foldl (fun (x : State × List (Nat × Nat)) e =>
        ((x.1.readPast u e.2 n).1, x.2 ++ [(e.1, leNat (x.1.readPast u e.2 n).2)])) (t, got)).2 =
      got ++ els.map fun e => (e.1, s.readLoc e.2 n) := by
    intro els
    induction els with
    | nil => simp
    | cons e r ih =>
      intro t got ht hm
      obtain ⟨hlate, hmem, hread⟩ := readPast_of_noLate ht u e.2 n
      rw [List.foldl_cons, ih _ _ hlate fun sp => (hmem sp).trans (hm sp)]
      simp [hread, hm, State.readLoc]
  exact (hfold els s [] h fun _ => rfl).trans (List.nil_append _)

theorem accesses : ∀ (s : State) (u : User) (o : MemOp) (els : List (Nat × Loc)),
    (∀ v n, o.kind = .sta v n →
      (o.access s u els).1 = els.foldl (fun (s : State) e => s.writeThrough u e.2 (natLe n v.toNat)) s) ∧
    (∀ n data, o.kind = .nearStore n data → (o.access s u els).1 = els.foldl (fun (s : State) e =>
      s.writeThrough u e.2 (natLe (Min.min n 4) (lane (data.getD (e.1 % 4) []) (e.1 / 4)).toNat)) s) ∧
    (∀ d k rd f x y l b, o.kind = .nearAtom d k rd f x y → els = [(b, l)] → o.access s u els =
      (s.writeThrough u l (natLe 4 (rmw k (s.readPiece l 4) (lane x (b / 4)) (lane y (b / 4))).toNat),
        [(b, (s.readPiece l 4).toNat)])) ∧
    (∀ d k x y w l b, o.kind = .ata d k x y w → els = [(b, l)] → b / 4 < 96 → o.access s u els =
      (s.writeThrough u l (natLe 4 (rmw k (s.readPiece l 4) x y).toNat), [(b, (s.readPiece l 4).toNat)])) := by
  intro s u o els
  refine ⟨fun v n hk => ?_, fun n data hk => ?_, fun d k rd f x y l b hk he => ?_, fun d k x y w l b hk he hb => ?_⟩
  · simp only [MemOp.access, hk]
    rfl
  · simp only [MemOp.access, hk]
    rfl
  · simp only [MemOp.access, hk, he]
    rfl
  · simp only [MemOp.access, hk, he, atomPieces, List.foldl_cons, List.foldl_nil, atomicAt, splat, lane_mkLanes _ hb]
    rfl

theorem partsOfAccess : Claims.partsOfAccess := by
  refine ⟨fun s ordered rel els => ⟨partsOf_perm .., ?_, partsOf_single s ordered rel, ?_, partsOf_memOf s ordered rel els⟩,
    fun s g o => ⟨perform_op s g o, perform_memOf s g o⟩, fun s u n els h => readPieces_of_noLate h u n els, accesses⟩
  · rintro rfl
    exact partsOf_ordered ..
  · rintro rfl hr
    exact partsOf_release s hr els

end Sys2Proof.Machine

namespace Sys2Proof.Machine

/-! ## Operations in flight outside the memory unit (04 R113, R130-R138; 06 R212) -/

theorem ite_isEmpty {α β : Type} (l : List α) (x y : β) : (if l.isEmpty then x else y) = if l = [] then x else y := by
  simp only [List.isEmpty_iff]

theorem ite_not_isEmpty {α β : Type} (l : List α) (x y : β) : (if !l.isEmpty then x else y) = if l = [] then y else x := by
  cases l <;> rfl

section
variable {s : State} {o : MemOp} {g : Group} {op : Nat} (hl : s.memLive op = some (o, g))
include hl

/-- A load for a queue fills its entry with its last part. -/
theorem exec_loadComplete (hc : s.readCut o = false) {q sz : Nat} {l1 : Bool} (hk : o.kind = .ldv q sz l1) :
    exec (.loadComplete op) s = .next (if (s.perform g o).2.els = [] then
      ({ (s.perform g o).1 with groups := (s.perform g o).1.groups.upd g.who.gid fun h => h.updEntry q op fun e =>
        { e with data := lanesOfPieces (s.perform g o).2.got, fill := .filled } } : State).endOp g o else (s.perform g o).1) := by
  show execLoadComplete op s = _
  simp only [execLoadComplete, hl, hc, hk, ite_not_isEmpty, Bool.false_eq_true, if_false]
  split <;> rfl

theorem exec_scalarAccessReturn_lda (hc : s.readCut o = false) {d sz : Nat} {sgn : Bool} (hk : o.kind = .lda d sz sgn) :
    exec (.scalarAccessReturn op) s = .next
      (({ (s.perform g o).1 with
        groups := (s.perform g o).1.groups.upd g.who.gid fun h =>
          h.wa d (if o.els = [] then 0 else extend sgn sz ((s.perform g o).2.value 0)) } : State).endOp g o) := by
  show execScalarAccessReturn op s = _
  simp only [execScalarAccessReturn, hl, hc, hk, ite_isEmpty, Bool.false_eq_true, if_false]

theorem exec_scalarAccessReturn_ata (hc : s.readCut o = false) {d k : Nat} {x y : Word} (hk : o.kind = .ata d k x y none) :
    exec (.scalarAccessReturn op) s = .next
      (({ (s.perform g o).1 with
        groups := (s.perform g o).1.groups.upd g.who.gid fun h => h.wa d ((s.perform g o).2.value 0) } : State).endOp g o) := by
  show execScalarAccessReturn op s = _
  simp only [execScalarAccessReturn, hl, hc, hk, Bool.false_eq_true, if_false]

/-- A record as it has come. -/
def MemOp.loadedRec (o : MemOp) : Rec :=
  { img := BitVec.ofNat 512 (((o.got.head?).map (·.2)).getD 0), loaded := true, busy := 0 }

theorem exec_recordLoadComplete_bld (hc : s.readCut o = false) {n : Nat} (hk : o.kind = .bld n) :
    exec (.recordLoadComplete op) s = .next
      (({ (s.perform g o).1 with
        groups := (s.perform g o).1.groups.upd g.who.gid fun h => { h with b := h.b.set n (s.perform g o).2.loadedRec } }
          : State).endOp g o) := by
  show execRecordLoadComplete op s = _
  simp only [execRecordLoadComplete, hl, hc, hk, Bool.false_eq_true, if_false]
  rfl

theorem exec_recordLoadComplete_tld (hc : s.readCut o = false) {n : Nat} (hk : o.kind = .tld n) :
    exec (.recordLoadComplete op) s = .next
      (({ (s.perform g o).1 with
        groups := (s.perform g o).1.groups.upd g.who.gid fun h => { h with t := h.t.set n (s.perform g o).2.loadedRec } }
          : State).endOp g o) := by
  show execRecordLoadComplete op s = _
  simp only [execRecordLoadComplete, hl, hc, hk, Bool.false_eq_true, if_false]
  rfl

/-- A write, or an atomic that returns nothing. -/
theorem exec_writePerformed (hk : (∃ v sz, o.kind = .sta v sz) ∨ (∃ sz data, o.kind = .nearStore sz data) ∨
      ∃ d k f x y, o.kind = .nearAtom d k false f x y) :
    exec (.writePerformed op) s = .next (if (s.perform g o).2.els = [] then (s.perform g o).1.endOp g o
      else (s.perform g o).1) := by
  show execWritePerformed op s = _
  rcases hk with ⟨v, sz, hk⟩ | ⟨sz, data, hk⟩ | ⟨d, k, f, x, y, hk⟩ <;>
    simp only [execWritePerformed, hl, hk, ite_isEmpty]

end

theorem pendSteps : Claims.pendSteps := by
  refine ⟨fun s o g op q sz l1 hl hc hk => exec_loadComplete hl hc hk, fun s o g op hl hc => ?_, fun s o g op hl => ?_⟩
  · refine ⟨fun d sz sgn hk => exec_scalarAccessReturn_lda hl hc hk, fun d k x y hk => exec_scalarAccessReturn_ata hl hc hk,
      fun n hk => exec_recordLoadComplete_bld hl hc hk, fun n hk => exec_recordLoadComplete_tld hl hc hk⟩
  · refine ⟨exec_writePerformed hl, fun d sz sgn f hk => ?_, fun d k f x y hk => ?_⟩
    all_goals
      show execNearMemoryComplete op s = _
      simp only [execNearMemoryComplete, hl, hk, ite_not_isEmpty]
    · split <;> rfl
    · split <;> rfl

/-! ## The memory unit (04 R115, R130-R132, R136, R137) -/

/-- An operation of the memory unit whose checks, order and lines let it. -/
theorem performMu_runs {s s1 : State} {g : Group} {o : MuOp} {checked : State × Checked} {ps : List (Nat × Loc)}
    (hc : (if o.begun then (s, .ok (o.places.getD [])) else checked) = (s1, .ok ps)) (ho : o.begun = true ∨ g.muOrder o ps = true)
    (hf : s1.firstOwned g.who.gid o.id (ps.map (·.2)) = .free) (hp : s1.peerCut = false) (d0 d1 : Lanes) :
    performMu s g o checked d0 d1 = .next (s1.runMu g o ps d0 d1) := by
  have hgo : ¬(!(o.begun || g.muOrder o ps)) = true := by rcases ho with ho | ho <;> simp [ho]
  unfold performMu
  simp only [hc, if_neg hgo, hf, hp, Bool.false_and, Bool.false_eq_true, if_false]

theorem xqOperation {s s1 : State} {o : MuOp} {g : Group} {op : Nat} {es : List VEntry} {ps : List (Nat × Loc)}
    (hl : s.muLive op = some (o, g)) (hi : o.indexed = true) (he : o.takes.mapM (g.vHead o) = some es)
    (h : o.begun = true ∧ o.places = some ps ∧ s1 = s ∨
      o.begun = false ∧ g.muOrder o ps = true ∧ checkElems s g { code := 2 } o.access (Buf.of o.buf.toNat) false
        (indexedEls o.first (es.foldl (fun (m : Mask) e => m &&& e.mask) allLanes) (((es[0]?).map (·.data)).getD zeroLanes)) =
          (s1, .ok ps))
    (hf : s1.firstOwned g.who.gid o.id (ps.map (·.2)) = .free) (hp : s1.peerCut = false) :
    exec (.xqOperationPerform op) s = .next (s1.runMu g o ps (((es[1]?).map (·.data)).getD zeroLanes)
      (((es[2]?).map (·.data)).getD zeroLanes)) := by
  show execXqOperationPerform op s = _
  simp only [execXqOperationPerform, hl, hi, State.muCheck, he, Option.map_some, Bool.not_true, Bool.false_eq_true, if_false,
    if_true]
  refine performMu_runs ?_ ?_ hf hp ..
  · rcases h with ⟨hb, hps, rfl⟩ | ⟨hb, -, hc⟩
    · simp [hb, hps]
    · simp [hb, hc]
  · exact h.imp And.left fun h => h.2.1

theorem storeOfUnit {s : State} {o : MuOp} {g : Group} {op q : Nat} {e : VEntry} {ps : List (Nat × Loc)}
    (hl : s.muLive op = some (o, g)) (hi : o.indexed = false) (hq : o.sdqs.head? = some q) (he : g.vHead o (q + 1) = some e)
    (hps : o.places = some ps)
    (ho : o.begun = true ∨ g.muOrder o (if o.begun then ps else maskedParts e.mask ps) = true)
    (hf : s.firstOwned g.who.gid o.id ((if o.begun then ps else maskedParts e.mask ps).map (·.2)) = .free)
    (hp : s.peerCut = false) :
    exec (.storePerform op) s = .next (s.runMu g o (if o.begun then ps else maskedParts e.mask ps) e.data zeroLanes) := by
  show execStorePerform op s = _
  simp only [execStorePerform, hl, hi, State.muCheck, hq, he, hps, Option.map_some, Option.bind_some, Bool.false_eq_true, if_false]
  refine performMu_runs ?_ ho hf hp ..
  cases o.begun <;> simp [hps]

/-- A write changes nothing of a launch but what it has moved, so that its groups stay the same users of memory. -/
theorem user_carries (s : State) (lid n : Nat) (g : Group) : (s.carries lid n).user g = s.user g := by
  have hq : ((s.carries lid n).lau g).qd = (s.lau g).qd := by
    unfold State.carries State.updL State.lau Tbl.getD
    dsimp only
    by_cases h : g.who.lid = lid
    · rw [h, Tbl.get?_upd_same]
      cases s.launches.get? lid <;> rfl
    · rw [Tbl.get?_upd_ne _ _ h]
  simp only [State.user, hq]

theorem user_writeBacks (ls : List L2Line) (s : State) (g : Group) :
    (ls.foldl (fun (s : State) y => s.writeBack y) s).user g = s.user g := by
  refine List.foldlRecOn (motive := fun t : State => t.user g = s.user g) _ _ rfl fun t ht y _ => ?_
  unfold State.writeBack
  split
  · exact (user_carries ..).trans ht
  · exact ht

theorem user_useLine (s : State) (u : User) (cls pa n : Nat) (w : Bool) (g : Group) : (s.useLine u cls pa n w).user g = s.user g := by
  unfold State.useLine
  split
  · exact user_carries ..
  · dsimp only
    split
    · rfl
    · split
      · exact user_carries ..
      · split
        · exact user_writeBacks _ s g
        · exact (user_carries _ u.lid 64 g).trans (user_writeBacks _ s g)

theorem user_useLines (u : User) (w : Bool) (k : Nat) (l : Loc) (n : Nat) (s : State) (g : Group) :
    (useLines u w k l n s).user g = s.user g := by
  induction k generalizing l n s with
  | zero => rfl
  | succ k ih =>
    unfold useLines
    split
    · rfl
    · exact (ih ..).trans (user_useLine ..)

theorem user_useL2 (s : State) (u : User) (l : Loc) (n : Nat) (w : Bool) (g : Group) : (s.useL2 u l n w).user g = s.user g := by
  unfold State.useL2
  split
  · exact user_useLines ..
  · rfl

theorem setMem_launches (s : State) (sp : Space) (m : Memory) : (s.setMem sp m).launches = s.launches := by
  unfold State.setMem
  split <;> rfl

theorem putBytes_launches (s : State) (l : Loc) (bs : List Byte) : (s.putBytes l bs).launches = s.launches := setMem_launches ..

theorem writeLoc_launches (s : State) (l : Loc) (n v : Nat) : (s.writeLoc l n v).launches = s.launches := putBytes_launches ..

theorem markUsed_launches (s : State) (a : Nat) (p : BitVec 64) (acc : Nat) : (s.markUsed a p acc).launches = s.launches :=
  (apply_ite State.launches ..).trans (by simp only [writeLoc_launches, ite_self])

theorem dirtied_launches (s : State) (l : Loc) : (s.dirtied l).launches = s.launches := by
  unfold State.dirtied
  split
  · rfl
  split
  · split
    · split
      · exact markUsed_launches ..
      · rfl
    · rfl
  · rfl

theorem agentWrite_launches (s : State) (agent : Nat) (l : Loc) (bs : List Byte) :
    (s.agentWrite agent l bs).launches = s.launches := by
  unfold State.agentWrite
  split
  · exact putBytes_launches ..
  · exact putBytes_launches ..

theorem user_of_launches {s t : State} (h : t.launches = s.launches) (g : Group) : t.user g = s.user g := by
  simp only [State.user, State.lau, h]

theorem user_writeThrough (s : State) (u : User) (l : Loc) (bs : List Byte) (g : Group) :
    (s.writeThrough u l bs).user g = s.user g := by
  have hcaches : (((s.dirtied l).l1Write u.core l bs).useL2 u l bs.length true).user g = s.user g := by
    obtain ⟨r, hr⟩ := (s.dirtied l).l1Write_keeps u.core l bs
    rw [user_useL2, hr]
    exact user_of_launches (dirtied_launches s l) g
  unfold State.writeThrough
  dsimp only
  split
  · exact hcaches
  · exact (user_of_launches (agentWrite_launches ..) g).trans hcaches

/-- The parts of a store are written in turn by one user. -/
theorem writePieces_user (s : State) (g : Group) (n : Nat) (f : Nat → Nat) (els : List (Nat × Loc)) :
    writePieces s (s.user g) n f els =
      els.foldl (fun (s : State) e => s.writeThrough (s.user g) e.2 (natLe n (f e.1))) s := by
  suffices h : ∀ t : State, t.user g = s.user g → writePieces t (s.user g) n f els =
      els.foldl (fun (s : State) e => s.writeThrough (s.user g) e.2 (natLe n (f e.1))) t from h s rfl
  induction els with
  | nil => exact fun _ _ => rfl
  | cons e r ih =>
    intro t ht
    rw [List.foldl_cons, ← ih _ ((user_writeThrough ..).trans ht), ht]
    rfl

/-- What a run of an operation of the memory unit leaves, with and without a result entry. -/
theorem runMu_result (s : State) (g : Group) (o : MuOp) (ps : List (Nat × Loc)) (d0 d1 : Lanes) :
    let s0 := s.publish g o.rel
    let x := s0.partsOf o.ordered o.rel ps
    let was := x.2.1.map fun e => (e.2, (s0.memOf e.2.space).bytes e.2.key o.pieceLen)
    let r := o.access' x.1 g d0 d1 x.2.1
    let o' : MuOp := { o with places := some x.2.2, begun := true, got := o.got ++ r.2 }
    let begun := fun (h : Group) => ({ h with mu := h.mu.map fun m => if m.id = o.id then o' else m } : Group).pass o.id was
    let t := fun (f : Group → Group) => ({ r.1 with groups := r.1.groups.upd g.who.gid fun h => f (begun h) } : State)
    let cut := fun (u : State) => if o.access = 1 then u.lateIfCut g.who.gid o.pc (x.2.1.map (·.2)) else u
    (∀ q, o.resultQ = some q → s.runMu g o ps d0 d1 = if x.2.2 = [] then endMu (cut
      (t fun h => h.updEntry q o.id fun e => { e with data := o'.result, fill := .filled })) g.who.gid o else cut (t id)) ∧
    (o.resultQ = none → s.runMu g o ps d0 d1 = if x.2.2 = [] then endMu (cut (t id)) g.who.gid o else cut (t id)) := by
  dsimp only
  refine ⟨fun q hq => ?_, fun hq => ?_⟩
  · unfold State.runMu
    simp only [hq, ite_isEmpty]
    split
    · rfl
    · rfl
  · unfold State.runMu
    simp only [hq, ite_isEmpty]
    rfl

theorem muSteps : Claims.muSteps := by
  refine ⟨fun s s1 o g op es ps hl hi he => xqOperation hl hi he,
    fun s o g op q e ps hl hi hq he hps => storeOfUnit hl hi hq he hps, runMu_result,
    fun s g o d0 d1 els => ⟨fun a b c e f hi => ?_, fun a b c e f hi => ?_⟩⟩
  · simp only [MuOp.access', hi]
    exact writePieces_user ..
  · simp only [MuOp.access', hi]
    exact writePieces_user ..

/-- Settles O39. -/
theorem memorySteps : Obligations.MemorySteps := ⟨partsOfAccess, pendSteps, muSteps⟩

end Sys2Proof.Machine

namespace Sys2Proof.Machine

/-! ## Copies, COVERs and tile stores (04 R141; 07 R215-R217, R235, R237) -/

section
variable {s s1 s2 : State} {o o1 : EngOp} {g : Group} {op : Nat}

/-- An engine operation of its kind that has run to its end, and whose counter can be counted, is done. -/
theorem completeEng_done {is : EngKind → Bool} {ctr : Option Loc} (hl : s.engLive op = some (o, g)) (hk : is o.kind = true)
    (hr : runEng (s.engBegin g o) g o = (s1, o1, .done)) (hc : counterAt s1 g o = (s2, .ok ctr))
    (hf : ∀ l, ctr = some l → s2.owner o.gid (o.id - 1) l = .free) :
    completeEng s op is = .next (endEng s2 g o ctr (o1.lines.map (·.1))) := by
  have hall : (ctr.all fun l => s2.owner o.gid (o.id - 1) l == .free) = true := by
    cases ctr with
    | none => rfl
    | some l => simp [hf l rfl]
  unfold completeEng
  simp only [hl, hk, hr, hc, hall, Bool.not_true, Bool.false_eq_true, if_false, if_true]

/-- One that meets a fault, in its run or at its counter, is suspended where it stands. -/
theorem faultEng_suspends {c : Cause} (h : runEng (s.engBegin g o) g o = (s1, o1, .fail (.ok c)) ∨
      ∃ s0, runEng (s.engBegin g o) g o = (s0, o1, .done) ∧ counterAt s0 g o = (s1, .error (.ok c))) :
    faultEng s o g = .next (s1.putEng { o1 with fault := some c, told := false }) := by
  unfold faultEng
  rcases h with h | ⟨s0, h, hc⟩
  · simp only [h]
  · simp only [h, hc]

theorem execEngineFault_of_engLive (hl : s.engLive op = some (o, g)) : exec (.engineFault op) s = faultEng s o g := by
  show execEngineFault op s = _
  simp only [execEngineFault, hl]

end

theorem engSteps : Claims.engSteps := by
  refine ⟨fun s s1 o o1 g op e hl hk s2 ctr hr hc hf => ?_, fun s s1 o o1 g op c hl h => ?_⟩
  · rcases hk with ⟨⟨a, b, c, d, m, n, k, hk⟩, rfl⟩ | ⟨⟨a, b, c, d, m, n, k, hk⟩, rfl⟩ | ⟨⟨a, b, c, d, m, n, k, hk⟩, rfl⟩
    · show execCopyComplete op s = _
      exact completeEng_done hl (by rw [hk]) hr hc hf
    · show execCoverComplete op s = _
      exact completeEng_done hl (by rw [hk]) hr hc hf
    · show execTstoreComplete op s = _
      exact completeEng_done hl (by rw [hk]) hr hc hf
  · exact (execEngineFault_of_engLive hl).trans (faultEng_suspends h)

/-! ## Lane operations (07 R215, R216, R239, R241; 08 R256) -/

/-- The four registers of a lane operation's results, in the lanes that have one. -/
def LaneRun.regs (r : LaneRun) (d : Nat) : List (Nat × Mask × Lanes) :=
  (List.range 4).map fun j => (d + j, mkMask fun l => r.out.any fun x => x.1 == l, mkLanes fun l =>
    BitVec.ofNat 32 (((r.out.find? fun x => x.1 == l).map fun x => x.2.getD j 0).getD 0))

/-- The group with the results of a lane operation in its registers, and its shadow told of them (08 R267). -/
def LaneRun.noted (r : LaneRun) (o : LaneOp) (d : Nat) (g : Group) : Group :=
  ((r.regs d).foldl (fun (g : Group) w => { g with cs := g.cs.wv w.1 (mkMask fun l => r.out.any fun x => x.1 == l) w.2.2 }) g).log
    { split := o.split, at_ := [], instr := none, pops := [], writes := r.regs d, ctl := none, cmp := false, op := o.id }

/-- The results change the C side and the shadow alone. -/
theorem noted_frame (r : LaneRun) (o : LaneOp) (d : Nat) (g : Group) : ∃ c sh, r.noted o d g = { g with cs := c, shadow := sh } := by
  have hw : ∃ c, (r.regs d).foldl (fun (g : Group) w =>
      { g with cs := g.cs.wv w.1 (mkMask fun l => r.out.any fun x => x.1 == l) w.2.2 }) g = { g with cs := c } := by
    refine List.foldlRecOn (motive := fun h => ∃ c, h = { g with cs := c }) _ _ ⟨g.cs, rfl⟩ ?_
    rintro h ⟨c, rfl⟩ w -
    exact ⟨_, rfl⟩
  obtain ⟨c, hc⟩ := hw
  obtain ⟨sh, hsh⟩ := log_shadow { g with cs := c }
    { split := o.split, at_ := [], instr := none, pops := [], writes := r.regs d, ctl := none, cmp := false, op := o.id }
  exact ⟨c, sh, (congrArg (Group.log · _) hc).trans hsh⟩

theorem noted_who (r : LaneRun) (o : LaneOp) (d : Nat) (g : Group) : (r.noted o d g).who = g.who := by
  obtain ⟨c, sh, h⟩ := noted_frame r o d g
  rw [h]

theorem noted_lane (r : LaneRun) (o : LaneOp) (d : Nat) (g : Group) : (r.noted o d g).lane = g.lane := by
  obtain ⟨c, sh, h⟩ := noted_frame r o d g
  rw [h]

theorem noted_cf (r : LaneRun) (o : LaneOp) (d : Nat) (g : Group) : (r.noted o d g).cf = g.cf := by
  obtain ⟨c, sh, h⟩ := noted_frame r o d g
  rw [h]

/-- Without a shadow the results are all that is noted. -/
theorem noted_of_unshadowed {g : Group} (h : g.shadow = none) (r : LaneRun) (o : LaneOp) (d : Nat) :
    r.noted o d g = (List.range 4).foldl (fun (g : Group) j =>
      { g with cs := g.cs.wv (d + j) (mkMask fun l => r.out.any fun x => x.1 == l) (mkLanes fun l =>
        BitVec.ofNat 32 (((r.out.find? fun x => x.1 == l).map fun x => x.2.getD j 0).getD 0)) }) g := by
  rw [LaneRun.noted, LaneRun.regs, List.foldl_map]
  refine log_of_unshadowed ?_ _
  exact List.foldlRecOn (motive := fun k : Group => k.shadow = none) _ _ h fun k hk j _ => hk

@[simp] theorem Group.detach_who (g : Group) (n : Nat) : (g.detach n).who = g.who := by
  unfold Group.detach
  split <;> rfl

@[simp] theorem Group.detach_lane (g : Group) (n : Nat) : (g.detach n).lane = g.lane := by
  unfold Group.detach
  split <;> rfl

theorem Group.detach_cf {g h : Group} (hc : h.cf = g.cf) (n : Nat) : (h.detach n).cf = (g.detach n).cf := by
  unfold Group.detach
  split
  · exact hc
  · simp only [Group.cfn, hc]

/-- What becomes of a lane operation once its results are written: it ends, or it stands with its faults or the lanes that it has left,
and a fault lets go of its flag. -/
def LaneOp.after (o : LaneOp) (r : LaneRun) (g : Group) : Group :=
  if r.faults.isEmpty && r.later.isEmpty then { g.detach o.flag with lane := g.lane.filter fun x => x.id != o.id }
  else { (if r.faults.isEmpty then g else g.detach o.flag) with
    lane := (if r.faults.isEmpty then g else g.detach o.flag).lane.map fun x => if x.id = o.id then
      { o with faults := r.faults, left := mkMask fun l => r.later.contains l, resume := o.resume || !r.later.isEmpty } else x }

/-- How a run finishes that is of the kind that its step asks for. -/
theorem finishLanes_next {o : LaneOp} {r : LaneRun} {g : Group} {faulty : Bool} (hstop : r.stop = none)
    (hf : r.faults.isEmpty = !faulty)
    (hg : (r.s.groups.findSome? fun e => if e.2.lane.any fun x => x.id == o.id then some e.2 else none) = some g) (s : State)
    (d : Nat) :
    finishLanes s faulty o d r = .next (r.s.setG (o.after r (r.noted o d g)).who.gid (o.after r (r.noted o d g))) := by
  have hkind : ¬(r.faults.isEmpty == faulty) = true := by rw [hf]; cases faulty <;> decide
  unfold finishLanes
  simp only [hstop, hg]
  exact if_neg hkind

/-- A run that meets no fault and leaves no lane ends the operation. -/
theorem finishLanes_ended {o : LaneOp} {r : LaneRun} {g : Group} (h : Claims.runs o r g) (s : State) (d : BitVec 9) :
    finishLanes s false o d.toNat r = .next (Claims.ended o d r g) := by
  obtain ⟨hstop, hfaults, hlater, hsh, hg⟩ := h
  have hend : o.after r (r.noted o d.toNat g) = { (r.noted o d.toNat g).detach o.flag with
      lane := g.lane.filter fun x => x.id != o.id } := by
    rw [LaneOp.after, hfaults, hlater, noted_lane]
    rfl
  have hwho : (o.after r (r.noted o d.toNat g)).who = g.who := by
    rw [hend]
    exact (Group.detach_who ..).trans (noted_who ..)
  rw [finishLanes_next (faulty := false) hstop (by rw [hfaults]; rfl) hg, hwho, hend, noted_of_unshadowed hsh]
  rfl

/-- A run that meets faults leaves the operation standing with them, its flag let go. -/
theorem finishLanes_stands {o : LaneOp} {r : LaneRun} {g : Group} (hstop : r.stop = none) (hf : r.faults ≠ [])
    (hg : (r.s.groups.findSome? fun e => if e.2.lane.any fun x => x.id == o.id then some e.2 else none) = some g) (s : State)
    (d : Nat) :
    ∃ u v, finishLanes s true o d r = .next u ∧ u.groups.get? g.who.gid = some v ∧
      v.lane = g.lane.map (fun x => if x.id = o.id then
        { o with faults := r.faults, left := mkMask fun l => r.later.contains l, resume := o.resume || !r.later.isEmpty } else x) ∧
      v.cf = (g.detach o.flag).cf := by
  have he : r.faults.isEmpty = false := by simpa using hf
  have hafter : o.after r (r.noted o d g) = { (r.noted o d g).detach o.flag with
      lane := g.lane.map fun x => if x.id = o.id then
        { o with faults := r.faults, left := mkMask fun l => r.later.contains l, resume := o.resume || !r.later.isEmpty } else x } := by
    simp only [LaneOp.after, he, Bool.false_and, Bool.false_eq_true, if_false, Group.detach_lane, noted_lane]
  have hwho : (o.after r (r.noted o d g)).who = g.who := by
    rw [hafter]
    exact (Group.detach_who ..).trans (noted_who ..)
  refine ⟨_, o.after r (r.noted o d g), finishLanes_next (faulty := true) hstop he hg s d, ?_, ?_, ?_⟩
  · rw [hwho]
    exact Tbl.get?_set_same ..
  · rw [hafter]
  · rw [hafter]
    exact Group.detach_cf (noted_cf ..) o.flag

section
variable {s : State} {o : LaneOp} {g : Group} {op : Nat} (hl : s.laneLive op = some (o, g))
include hl

theorem exec_sampleComplete : exec (.sampleComplete op) s = runSample s false o g := by
  show execSampleComplete op s = _
  simp only [execSampleComplete, hl]

theorem exec_traversalComplete : exec (.traversalComplete op) s = runTrace s false o g := by
  show execTraversalComplete op s = _
  simp only [execTraversalComplete, hl]

theorem execEngineFault_of_sample (he : s.engLive op = none) {addr filt : BitVec 2} {t : BitVec 4} {fl : BitVec 1} {d : Dst}
    {a lod : Src} {x : Ctl} (hi : o.instr = .sample addr filt t fl d a lod x) :
    exec (.engineFault op) s = runSample s true o g := by
  show execEngineFault op s = _
  simp only [execEngineFault, hl, he, hi]

end

theorem laneSteps : Claims.laneSteps := by
  intro s o g op hl t bvh gr
  refine ⟨?_, ?_, ?_, ?_⟩
  · intro addr filt r fl d a lod x hi n run
    refine ⟨fun h hr => ?_, fun h he hstop hf hg => ?_⟩
    · rw [exec_sampleComplete hl, runSample, hi]
      exact finishLanes_ended hr s d
    · obtain ⟨u, v, hu, hv⟩ := finishLanes_stands hstop hf hg s d.toNat
      refine ⟨u, v, ?_, hv⟩
      rw [execEngineFault_of_sample hl he hi, runSample, hi]
      exact hu
  · intro addr chan r fl d a lod x h hi run hr
    rw [exec_sampleComplete hl, runSample, hi]
    exact finishLanes_ended hr s d
  · intro modf b fl d ray s0 root mask x r h hi hrays hr
    rw [exec_traversalComplete hl, runTrace, hi]
    simp only [Bool.not_false]
    rw [hrays]
    exact finishLanes_ended hr s d
  · intro b fl d ray s0 x r h hi hrays hr
    rw [exec_traversalComplete hl, runTrace, hi]
    simp only [Bool.not_false, ite_self]
    rw [hrays]
    exact finishLanes_ended hr s d

/-! ## The walker (10 R293) -/

theorem walkSteps : Claims.walkSteps := by
  intro s g v va acc sup hg hv hs tlbs ht
  have hmiss : (s.tlb.any fun e => e.serves v va tlbs && e.pte.getLsbD 1) = false := by
    simp only [List.any_eq_false, Bool.and_eq_true, not_and, Bool.not_eq_true]
    intro e he hserves
    exact (ht e he).resolve_left (by simp [hserves])
  have hgo : ¬((s.lau g).qd.vf != v || g.sys.priv != sup || (s.tlb.any fun e => e.serves v va tlbs && e.pte.getLsbD 1)) = true := by
    rw [hmiss]
    simp [hv, hs]
  refine ⟨fun p l a hw hp => ?_, fun hw => ?_⟩
  all_goals
    show execTranslationWalk v va acc sup s = _
    simp only [execTranslationWalk, hg]
    rw [if_neg hgo]
  · simp only [hw, hp, if_true]
    rfl
  · split
    · next p l a h => rw [if_neg (by simp [hw p l a h])]
    · rfl

/-- Settles O40. -/
theorem engineSteps : Obligations.EngineSteps := ⟨engSteps, laneSteps, walkSteps⟩

end Sys2Proof.Machine

namespace Sys2Proof.Machine

/-! ## What stores leave unchanged: a machine whose teams stand out of order (09 R270) -/

/-- A store in flight whose parts are all made. -/
def lastStore : MemOp := { id := 0, who := 4, pc := 0, kind := .sta 0 4, els := [], got := [], acq := 0, rel := 0 }

/-- A group of team 1 that has ended but for that store. -/
def endedGroup : Group :=
  { Group.start { gid := 0, lid := 0, cid := 0, tid := 1, groupIx := 0, teamPos := 0, clux := 0, cluy := 0, cluz := 0, lin := 0,
                  core := 0, slot := 0, res := 0, vbase := 0, start := 0, inst := 0, tx := 0, ty := 0 }
      Packet.blank QDesc.blank 0 0 0 [] [] [] with stop := .gone, pend := [lastStore] }

/-- A team with a core scratchpad. -/
def teamWith (m : Memory) : Team := { lid := 0, cid := 0, core := 0, pos := 0, mem := m, bars := [] }

/-- Its machine names team 0 after team 1, where a table in order has no place for it: nothing finds it until team 1 is freed. -/
def hiddenTeam : State :=
  { State.reset with groups := [(0, endedGroup)], teams := [(1, teamWith []), (0, teamWith [(0, 1)])] }

/-- The first byte of team 0's scratchpad. -/
def hiddenByte : Loc := { space := .core 0, addr := 0 }

theorem hiddenTeam_named : Claims.named hiddenTeam := by
  refine ⟨List.pairwise_singleton .., fun e he => ?_⟩
  rw [List.mem_singleton.mp he]
  rfl

theorem hiddenTeam_memoriesWf : hiddenTeam.memoriesWf := by
  refine ⟨rfl, rfl, rfl, rfl, rfl, ?_, ?_, ?_⟩ <;> decide

theorem hiddenTeam_memLive : hiddenTeam.memLive 0 = some (lastStore, endedGroup) := rfl

/-- With its last write the group is gone, and its team with it: the byte of team 0 that no look found is there. -/
theorem hiddenTeam_writePerformed : ∃ t, exec (.writePerformed 0) hiddenTeam = .next t ∧
    t.byteAt hiddenByte = 1 ∧ hiddenTeam.byteAt hiddenByte = Memory.unlisted := by
  refine ⟨_, rfl, ?_, ?_⟩
  · rfl
  · rfl

/-- Refutes O50: `Claims.named` orders the groups alone. In a machine whose table of teams is out of order, the last write of a group
that has ended frees its team, and a look for another team, which stopped at the freed one before, now finds that team's memory: a byte
changes that lies in no place of the store and in no near memory of the group. With the teams in order, as the groups are, no look stops
short. -/
theorem not_storeFrames : ¬ Obligations.StoreFrames := by
  intro h
  obtain ⟨t, ht, hnew, hold⟩ := hiddenTeam_writePerformed
  obtain ⟨hsta, -⟩ := (h hiddenTeam t 0 hiddenTeam_named hiddenTeam_memoriesWf).1 lastStore endedGroup hiddenTeam_memLive
  have hout : ∀ e ∈ lastStore.els, ¬Claims.among hiddenByte e.2 4 := fun e he => absurd he List.not_mem_nil
  rcases hsta 0 4 rfl ht hiddenByte hout (fun _ => rfl) with hsame | ⟨e, he, -⟩
  · rw [hnew, hold] at hsame
    exact absurd hsame (by decide)
  · exact absurd he List.not_mem_nil

end Sys2Proof.Machine

namespace Sys2Proof.Machine

/-! ## Lane-wise instructions at issue (05 R151, R153) -/

theorem putG_raiseFl_zero_countEv_nil (s : State) (g : Group) (lid : Nat) :
    (s.putG (g.raiseFl 0)).countEv lid [] = s.putG g := by
  rw [Group.raiseFl_zero, State.countEv]

/-- Lanes that raise and count nothing. -/
theorem flOr_pure {α : Type} (l : List α) (f : α → Word) : flOr (l.map fun a => .pure (f a)) = 0 := by
  rw [flOr, List.foldl_map]
  exact List.foldl_fixed' (fun _ => BitVec.or_zero) l

theorem ev_pure {α : Type} (l : List α) (f : α → Word) : ((l.map fun a => LRes.pure (f a)).map (·.ev)).flatten = [] := by
  rw [List.map_map, List.flatten_eq_nil_iff]
  exact fun e he => (List.mem_map.mp he).elim fun _ h => h.2.symm

section
variable {s : State} {i : Instr} {x : Issue} (hi : issueC s i = some x) {d d' : Dst}
include hi

/-- A lane-wise instruction does as its claim `hc` says, up to how the result of a lane is written. -/
theorem cLanes_of_claim {ops ops' : List (OpTy × Src)} {f f' r : List Word → LRes} (hc : some (d', ops', f') = some (d, ops, f))
    (hr : ∀ v, r v = f' v) :
    cLanes i d' ops' (fun _ => r) s = .next (Claims.flagged s x i d fun l => f (x.words s ops l)) := by
  obtain rfl : r = f' := funext hr
  cases hc
  exact cLanes_of_issueC hi ..

/-- One on binary32 patterns. -/
theorem f32Op_of_claim {ss : List Src} {ops : List (OpTy × Src)} {f f' : List Word → LRes} {r : List Nat → FRes}
    (hc : some (d', f32s ss, f') = some (d, ops, f)) (hr : ∀ v : List Word, (r (v.map BitVec.toNat)).lane 0 = f' v) :
    f32Op i d' ss r s = .next (Claims.flagged s x i d fun l => f (x.words s ops l)) :=
  cLanes_of_claim hi hc hr

/-- One on both halves of packed words. -/
theorem packedOp_of_claim {bf : BitVec 1} {ss : List Src} {ops : List (OpTy × Src)} {f f' : List Word → LRes}
    {r : List Nat → FRes} (hc : some (d', halves bf ss, f') = some (d, ops, f))
    (hr : ∀ v : List Word, packed (r (v.map fun w => half w 0)) (r (v.map fun w => half w 1)) = f' v) :
    packedOp i bf d' ss r s = .next (Claims.flagged s x i d fun l => f (x.words s ops l)) :=
  cLanes_of_claim hi hc hr

/-- One that raises no flag and counts nothing. -/
theorem intOp_of_claim {ss ss' : List Src} {f f' r : List Word → Word} (hc : some (d', ss', f') = some (d, ss, f))
    (hr : ∀ v, r v = f' v) :
    intOp i d' ss' r s = .next (Claims.written s x i d fun l => f (x.words s (ints ss) l)) := by
  obtain rfl : r = f' := funext hr
  cases hc
  rw [intOp, cLanes_of_issueC hi, flOr_pure, ev_pure, putG_raiseFl_zero_countEv_nil]
  rfl

/-- A lane-wise comparison, up to how a lane's result and flags are written. -/
theorem cPred_of_issueC {ops : List (OpTy × Src)} {f r : List Word → Bool × Fl} (hr : r = f) :
    cPred i d ops (fun _ => r) s = .next (x.done s i (s.putG
      (((x.past s).writePred d (x.env s).en fun l => (f (x.words s ops l)).1).raiseFl
        ((lanesOf (x.env s).en).foldl (fun a l => a ||| (f (x.words s ops l)).2) 0)))) := by
  have hm : ¬ (s.putG (x.past s)).cur.mode = 1 := by rw [State.putG_cur, issueC_mode hi]; decide
  rw [hr, cPred, cIssue_of_issueC hi]
  dsimp only
  rw [if_neg hm, State.putG_putG, finishC_done]
  rfl

/-- An instruction that does no more than change its group. -/
theorem cIssue_putG (p : CEnv → Group → Group) :
    cIssue i (fun e g t => .done (t.putG (p e g))) s = .next (x.done s i (s.putG (p (x.env s) (x.past s)))) := by
  rw [cIssue_of_issueC hi, State.putG_putG, finishC_done]

/-- A lane instruction that writes a predicate does as its claim `hc` says, up to how the result of a lane is written. -/
theorem lanePred_of_claim {ss ss' : List Src} {ops : List (OpTy × Src)} {f f' : Mask → CSide → List Lanes → Nat → Bool}
    {r : CEnv → CSide → List Lanes → Nat → Bool} (hc : some (d', ss', f') = some (d, ss, f)) (hops : ops = ints ss')
    (hr : ∀ e c v l, r e c v l = f' e.en c v l) :
    lanePred i d' ops r s = .next (x.done s i (s.putG ((x.past s).writePred d (x.env s).en
      (f (x.env s).en (x.past s).cs (x.vals s (ints ss)))))) := by
  obtain rfl : r = fun e => f' e.en := funext fun e => funext fun c => funext fun v => funext (hr e c v)
  cases hc
  rw [hops, lanePred]
  exact cIssue_putG hi fun e g => g.writePred d e.en (f e.en g.cs (e.vals g.cs (ints ss) e.es))

end

/-! ## Integers of a type and their words (05 R165, 03 R95) -/

theorem max_min_eq_ite {lo hi n : Int} (h : lo ≤ hi) : max lo (min hi n) = if n < lo then lo else if hi + 1 ≤ n then hi else n := by
  split
  · omega
  · split <;> omega

theorem narrow_eq_fit (u sat : BitVec 1) (n : Int) : narrow (u == 1) (sat == 1) n = Claims.fit u sat n := by
  rcases bit_cases sat with rfl | rfl
  · rfl
  · rcases bit_cases u with rfl | rfl
    · exact congrArg (BitVec.ofInt 32) (max_min_eq_ite (by decide))
    · exact congrArg (BitVec.ofInt 32) (max_min_eq_ite (by decide))

theorem mulh_eq_ofInt (u : Bool) (x y : Word) :
    (if u then mulhu x y else mulhs x y) = BitVec.ofInt 32 (ival u x * ival u y / 2 ^ 32) := by
  cases u
  · exact mulhs_eq_ofInt x y
  · exact (mulhu_eq_ofNat x y).trans (BitVec.ofInt_natCast ..).symm

theorem min_eq_ite (u : Bool) (x y : Word) :
    (if u then minu x y else mins x y) = if ival u y < ival u x then y else x := by
  cases u
  · show mins x y = _
    exact if_congr BitVec.slt_iff_toInt_lt rfl rfl
  · show minu x y = _
    exact if_congr (BitVec.ult_iff_toNat_lt.trans Int.ofNat_lt.symm) rfl rfl

theorem max_eq_ite (u : Bool) (x y : Word) :
    (if u then maxu x y else maxs x y) = if ival u x < ival u y then y else x := by
  cases u
  · show maxs x y = _
    exact if_congr BitVec.slt_iff_toInt_lt rfl rfl
  · show maxu x y = _
    exact if_congr (BitVec.ult_iff_toNat_lt.trans Int.ofNat_lt.symm) rfl rfl

theorem toInt_maxs (x y : Word) : (maxs x y).toInt = max x.toInt y.toInt := by
  rw [maxs, apply_ite BitVec.toInt, max_def_lt]
  exact if_congr BitVec.slt_iff_toInt_lt rfl rfl

theorem toNat_maxu (x y : Word) : (maxu x y).toNat = max x.toNat y.toNat := by
  rw [maxu, apply_ite BitVec.toNat, max_def_lt]
  exact if_congr BitVec.ult_iff_toNat_lt rfl rfl

theorem clamp_eq_ofInt (u : Bool) (x lo hi : Word) :
    (if u then minu (maxu x lo) hi else mins (maxs x lo) hi) =
      BitVec.ofInt 32 (min (max (ival u x) (ival u lo)) (ival u hi)) := by
  cases u
  · rw [if_neg Bool.false_ne_true, mins_eq_ofInt, toInt_maxs]
    rfl
  · rw [if_pos rfl, minu_eq_ofNat, toNat_maxu, ← BitVec.ofInt_natCast, Nat.cast_min, Nat.cast_max]
    rfl

/-! ## Shifts and bit fields (05 R167, R168) -/

theorem shl_min (x : Word) (n : Nat) : x <<< min 32 n = if 32 ≤ n then 0 else x <<< n := by
  split
  · next h => rw [min_eq_left h]; exact BitVec.shiftLeft_eq_zero le_rfl
  · next h => rw [min_eq_right (by omega)]

theorem shr_min (x : Word) (n : Nat) : x >>> min 32 n = if 32 ≤ n then 0 else x >>> n := by
  split
  · next h => rw [min_eq_left h]; exact BitVec.ushiftRight_eq_zero le_rfl
  · next h => rw [min_eq_right (by omega)]

theorem shra_min (x : Word) (n : Nat) : x.sshiftRight (min 32 n) = BitVec.ofInt 32 (x.toInt / 2 ^ min 31 n) := by
  have hdiv : (x.sshiftRight (min 32 n)).toInt = x.toInt / 2 ^ min 31 n := by
    rw [BitVec.toInt_sshiftRight, Int.shiftRight_eq_div_pow]
    by_cases h : 32 ≤ n
    · have hlo := BitVec.le_toInt x
      have hhi := BitVec.toInt_lt (x := x)
      rw [min_eq_left h, min_eq_left (by omega : 31 ≤ n)]
      omega
    · rw [min_eq_right (by omega), min_eq_right (by omega)]
      norm_cast
  rw [← hdiv, BitVec.ofInt_toInt]

theorem funnel_eq_ofNat (a b c : Word) :
    funnel a b c = BitVec.ofNat 32 ((b.toNat * 2 ^ 32 + a.toNat) / 2 ^ (c.toNat % 32)) := by
  refine BitVec.eq_of_toNat_eq ?_
  rw [funnel, BitVec.extractLsb'_toNat, BitVec.toNat_ushiftRight, BitVec.toNat_append, BitVec.toNat_ofNat, Nat.shiftRight_zero,
    Nat.shiftRight_eq_div_pow, ← Nat.shiftLeft_add_eq_or_of_lt a.isLt, Nat.shiftLeft_eq]

theorem fieldAt_length_le (y : Word) : (fieldAt y).2 ≤ 32 := by
  show (if y.toNat / 32 % 32 = 0 then 32 else y.toNat / 32 % 32) ≤ 32
  split <;> omega

theorem bfe32_eq_ofNat (x y : Word) : bfe32 x y = BitVec.ofNat 32 (x.toNat / 2 ^ (fieldAt y).1 % 2 ^ (fieldAt y).2) := by
  have hones : (lowOnes (fieldAt y).2).toNat = 2 ^ (fieldAt y).2 - 1 := by
    have hle : 2 ^ (fieldAt y).2 ≤ 2 ^ 32 := Nat.pow_le_pow_right (by decide) (fieldAt_length_le y)
    have hpos : 0 < 2 ^ (fieldAt y).2 := Nat.two_pow_pos _
    rw [lowOnes, BitVec.toNat_ofNat, Nat.mod_eq_of_lt (by omega)]
  rw [← Nat.and_two_pow_sub_one_eq_mod, ← hones, ← Nat.shiftRight_eq_div_pow, ← BitVec.toNat_ushiftRight, ← BitVec.toNat_and,
    BitVec.ofNat_toNat, BitVec.setWidth_eq, bfe32]

/-! ## Dot products (05 R169) -/

theorem foldl_add_eq_sum (f : Nat → Int) (l : List Nat) (c : Int) : l.foldl (fun t i => t + f i) c = (l.map f).sum + c := by
  induction l generalizing c with
  | nil => simp
  | cons i l ih => rw [List.foldl_cons, ih, List.map_cons, List.sum_cons]; ring

theorem and_beq_one (u ub : BitVec 1) : ((u &&& ub) == 1) = (u == 1 && ub == 1) := by
  revert u ub; decide

theorem idp_eq_fit (k n : Nat) (u ub sat : BitVec 1) (a b c : Word) :
    idp k n (u == 1) (ub == 1) (sat == 1) a b c =
      Claims.fit (u &&& ub) sat
        (((List.range k).map fun i => part (u == 1) n i a * part (ub == 1) n i b).sum + ival (u == 1 && ub == 1) c) := by
  rw [idp, foldl_add_eq_sum, ← and_beq_one, narrow_eq_fit]

/-- Settles O22: each instruction is one lane-wise result, restated where the statement gives it as an integer. -/
theorem integerResults : Obligations.IntegerResults := by
  intro s i x d ss f hi h
  cases i
  case' iadd | isub | imul | imad | imulh | imin | imax | iabs | iadd3 | isad | iclamp | ltab | shl | shr | shra | shf | bfe | bfes
      | bfi | popc | clz | brev | idp4 | idp2 | rnenc | rndec | rnmad | mov =>
    unfold exec
    refine intOp_of_claim hi h fun v => ?_
  case iadd | isub | imul | imad | iadd3 | isad => exact narrow_eq_fit ..
  case iabs => exact narrow_eq_fit 0 ..
  case imulh => exact mulh_eq_ofInt ..
  case imin => exact min_eq_ite ..
  case imax => exact max_eq_ite ..
  case iclamp => exact clamp_eq_ofInt ..
  case shl => exact shl_min ..
  case shr => exact shr_min ..
  case shra => exact shra_min ..
  case shf => exact funnel_eq_ofNat ..
  case bfe => exact bfe32_eq_ofNat ..
  case brev => exact brev32_eq_reverse _
  case idp4 | idp2 => exact idp_eq_fit ..
  case ltab | bfes | bfi | popc | clz | rnenc | rndec | rnmad | mov => rfl
  all_goals cases h

end Sys2Proof.Machine

namespace Sys2Proof.Machine

/-! ## Floating-point, packed and converting instructions (05 R156-R163, R170-R173) -/

theorem nth_map_toNat (v : List Word) (j : Nat) : nth (v.map BitVec.toNat) j = argN v j :=
  List.getD_map (f := BitVec.toNat) (d := 0) ..

theorem nth_map_half (v : List Word) (e j : Nat) : nth (v.map fun w => half w e) j = half (arg v j) e := by
  have h0 : half 0 e = 0 := by simp [half]
  rw [nth, ← h0]
  exact List.getD_map ..

/-- Settles O24: each instruction is one lane-wise result; those on lists of patterns take them from the same operands
(`nth_map_toNat`, `nth_map_half`). -/
theorem floatResults : Obligations.FloatResults := by
  intro s i x d ops f hi h
  cases i
  case fadd | fsub | fmul | ffma | fmin | fmax | fminn | fmaxn | fclamp | frnd | fdiv | fsqrt | flerp | fdot3 =>
    unfold exec
    exact f32Op_of_claim hi h fun v => by simp only [nth_map_toNat]
  case hadd2 | hmul2 | hfma2 | hmin2 | hmax2 =>
    unfold exec
    exact packedOp_of_claim hi h fun v => by simp only [nth_map_half]
  case fclass | fldexp | fexpo | frcp | frsq | fexp2 | flog2 | fsin | fcos | hdot2 | cvt | pack | unpk =>
    unfold exec
    exact cLanes_of_claim hi h fun v => rfl
  all_goals cases h

end Sys2Proof.Machine

namespace Sys2Proof.Machine

/-! ## Comparisons (05 R158, R162, R165) -/

theorem icond_eq_getD (n : Nat) (o : Ordering) :
    icond n o = [decide (o = .eq), decide (o ≠ .eq), decide (o = .lt), decide (o ≠ .gt), decide (o = .gt), decide (o ≠ .lt)].getD n
      (decide (o ≠ .lt)) := by
  match n with
  | 0 | 1 | 2 | 3 | 4 | 5 | _ + 6 => cases o <;> rfl

/-- The condition codes of ISET as comparisons of integers. -/
theorem icond_compare (n : Nat) (p q : Int) : icond n (compare p q) =
    [decide (p = q), decide (p ≠ q), decide (p < q), decide (p ≤ q), decide (q < p), decide (q ≤ p)].getD n (decide (q ≤ p)) := by
  simp only [icond_eq_getD, ne_eq, compare_eq_iff_eq, compare_lt_iff_lt, compare_gt_iff_gt, not_lt]

theorem two_bit_cases : ∀ c : BitVec 2, c = 0 ∨ c = 1 ∨ c = 2 ∨ c = 3 := by decide

theorem compares : Claims.compares := by
  rintro s i x d ops f hi (⟨cnd, z, a, b, y, rfl, rfl, hf⟩ | ⟨cnd, bf, z, comb, a, b, y, rfl, rfl, hf⟩ |
    ⟨cnd, u, a, b, y, rfl, rfl, hf⟩)
  · unfold exec
    exact cPred_of_issueC hi hf.symm
  · unfold exec
    refine cPred_of_issueC hi (Eq.trans ?_ hf.symm)
    rcases two_bit_cases comb with rfl | rfl | rfl | rfl <;> rfl
  · unfold exec
    refine cPred_of_issueC hi (Eq.trans (funext fun v => ?_) hf.symm)
    exact congrArg (·, 0) (icond_compare ..)

/-! ## Votes and matches over the enabled lanes (06 R183, R184) -/

theorem mask_eq_iff {m n : Mask} : m = n ↔ ∀ l < 96, m.getLsbD l = n.getLsbD l :=
  ⟨fun h _ _ => h ▸ rfl, BitVec.eq_of_getLsbD_eq⟩

theorem mask_beq_eq_all (m n : Mask) : (m == n) = (List.range 96).all fun l => m.getLsbD l == n.getLsbD l := by
  rw [Bool.eq_iff_iff, beq_iff_eq, mask_eq_iff, List.all_eq_true]
  simp only [List.mem_range, beq_iff_eq]

/-- Every enabled lane is in the mask. -/
theorem and_beq_enabled (m en : Mask) : (m &&& en == en) = (List.range 96).all fun l => !en.getLsbD l || m.getLsbD l := by
  rw [mask_beq_eq_all]
  refine congrArg _ (funext fun l => ?_)
  rw [BitVec.getLsbD_and]
  cases en.getLsbD l <;> simp

/-- No enabled lane is in the mask. -/
theorem and_beq_zero (m en : Mask) : (m &&& en == 0) = (List.range 96).all fun l => !en.getLsbD l || !m.getLsbD l := by
  rw [mask_beq_eq_all]
  refine congrArg _ (funext fun l => ?_)
  rw [BitVec.getLsbD_and, BitVec.ofNat_eq_ofNat, BitVec.getLsbD_zero]
  cases en.getLsbD l <;> simp

theorem and_bne_zero (m en : Mask) : (m &&& en != 0) = (List.range 96).any fun l => en.getLsbD l && m.getLsbD l := by
  rw [bne, and_beq_zero, List.not_all_eq_any_not]
  simp only [Bool.not_or, Bool.not_not]

theorem matching_beq_enabled (en : Mask) (v : Lanes) (l : Nat) :
    (matching en v l == en) = (List.range 96).all fun m => !en.getLsbD m || lane v m == lane v l := by
  have hand : matching en v l = (mkMask fun m => lane v m == lane v l) &&& en := by
    refine mask_eq_iff.mpr fun m hm => ?_
    rw [matching, getLsbD_mkMask _ hm, BitVec.getLsbD_and, getLsbD_mkMask _ hm, Bool.and_comm]
  rw [hand, and_beq_enabled, Bool.eq_iff_iff, List.all_eq_true, List.all_eq_true]
  refine forall₂_congr fun m hm => ?_
  rw [getLsbD_mkMask _ (List.mem_range.mp hm)]

/-! ## Instructions that write a predicate (06 R183, R184, R194, R195) -/

theorem exec_of_preds {s : State} {i : Instr} {x : Issue} {d : Dst} {ss : List Src} {f : Mask → CSide → List Lanes → Nat → Bool}
    (hi : issueC s i = some x) (h : Claims.preds i = some (d, ss, f)) :
    exec i s = .next (x.done s i (s.putG ((x.past s).writePred d (x.env s).en
      (f (x.env s).en (x.past s).cs (x.vals s (ints ss)))))) := by
  cases i
  case voteall =>
    unfold exec
    exact lanePred_of_claim hi h rfl fun e c _ _ => and_beq_enabled ..
  case voteany =>
    unfold exec
    exact lanePred_of_claim hi h rfl fun e c _ _ => and_bne_zero ..
  case votesame =>
    unfold exec
    exact lanePred_of_claim hi h rfl fun e c _ _ => congrArg₂ _ (and_beq_enabled ..) (and_beq_zero ..)
  case matchall =>
    unfold exec
    exact lanePred_of_claim hi h rfl fun e _ v l => matching_beq_enabled ..
  case pltab =>
    unfold exec
    exact lanePred_of_claim hi h rfl fun _ _ _ _ => rfl
  case pmov t pr d' a y =>
    rcases bit_cases t with rfl | rfl
    · cases h
    · show execPmov 1 pr d' a y s = _
      rw [execPmov, if_pos rfl]
      exact lanePred_of_claim hi h rfl fun _ _ v l => (decide_not ..).symm
  all_goals cases h

theorem exec_pmovw_toPredicate {s : State} {x : Issue} {w : BitVec 2} {pr : BitVec 3} {d : Dst} {a : Src} {y : Ctl}
    (hi : issueC s (.pmovw 1 w pr d a y) = some x) :
    exec (.pmovw 1 w pr d a y) s = .next (x.done s (.pmovw 1 w pr d a y) (s.putG ((x.past s).writePred d
      ((x.env s).en &&& mkMask fun l => l / 32 == w.toNat)
      fun l => (lane ((x.vals s (ints [a])).getD 0 []) 0).getLsbD (l % 32)))) := by
  show execPmovw 1 w pr d a y s = _
  rw [execPmovw, if_pos rfl]
  exact cIssue_putG hi fun e g => g.writePred d (e.en &&& mkMask fun l => l / 32 == w.toNat)
    fun l => (lane ((e.vals g.cs (ints [a]) e.es).getD 0 []) 0).getLsbD (l % 32)

/-- Settles O26: the comparisons code by code, the votes and matches as conditions on the enabled lanes. -/
theorem predicateResults : Obligations.PredicateResults :=
  ⟨compares, fun _ _ _ _ _ _ hi h => exec_of_preds hi h, fun _ _ _ _ _ _ _ hi => exec_pmovw_toPredicate hi⟩

end Sys2Proof.Machine

namespace Sys2Proof.Machine

/-! ## The lanes that splits own (06 R196, R201, R204) -/

/-- Setting a key leaves the keys in order. -/
theorem Tbl.pairwise_keys_set {α : Type} {t : Tbl α} (n : Nat) (x : α) (ho : t.keys.Pairwise (· < ·)) :
    (t.set n x).keys.Pairwise (· < ·) := by
  induction t with
  | nil => exact List.pairwise_singleton ..
  | cons e r ih =>
    obtain ⟨k, v⟩ := e
    obtain ⟨hk, hr⟩ := List.pairwise_cons.mp ho
    rw [Tbl.set]
    split
    · next h => subst h; exact ho
    · split
      · next h =>
        refine List.pairwise_cons.mpr ⟨?_, ho⟩
        rintro m (_ | ⟨_, hm⟩)
        · exact h
        · exact h.trans (hk m hm)
      · next hne hlt =>
        refine List.pairwise_cons.mpr ⟨fun m hm => ?_, ih hr⟩
        obtain ⟨y, hy, rfl⟩ := List.mem_map.mp hm
        rcases Tbl.mem_set r n x y hy with rfl | hy
        · show k < n
          omega
        · exact hk _ (List.mem_map_of_mem hy)

theorem Tbl.pairwise_keys_del {α : Type} {t : Tbl α} (n : Nat) (ho : t.keys.Pairwise (· < ·)) : (t.del n).keys.Pairwise (· < ·) :=
  ho.sublist (List.filter_sublist.map Prod.fst)

theorem Tbl.keys_mapV {α : Type} (t : Tbl α) (f : Nat → α → α) : (t.mapV f).keys = t.keys := by
  rw [Tbl.mapV, Tbl.keys, List.map_map]
  rfl

theorem Tbl.get?_mapV {α : Type} (t : Tbl α) (f : Nat → α → α) (n : Nat) : (t.mapV f).get? n = (t.get? n).map (f n) := by
  induction t with
  | nil => rfl
  | cons e r ih =>
    obtain ⟨k, v⟩ := e
    show (if n = k then some (f k v) else if n < k then none else (Tbl.mapV r f).get? n) = _
    rw [Tbl.get?, ih]
    split
    · next h => subst h; rfl
    · split <;> rfl

/-- In a table in order every entry is the one of its key. -/
theorem Tbl.get?_of_mem {α : Type} {t : Tbl α} {n : Nat} {x : α} (ho : t.keys.Pairwise (· < ·)) (h : (n, x) ∈ t) :
    t.get? n = some x := by
  induction t with
  | nil => cases h
  | cons e r ih =>
    obtain ⟨k, v⟩ := e
    obtain ⟨hk, hr⟩ := List.pairwise_cons.mp ho
    rcases List.mem_cons.mp h with he | hm
    · cases he
      exact if_pos rfl
    · have hlt : k < n := hk n (List.mem_map_of_mem (f := Prod.fst) hm)
      rw [Tbl.get?, if_neg (by omega), if_neg (by omega)]
      exact ih hr hm

/-- A mask lies within another when each of its lanes does. -/
theorem mask_and_eq_left_iff {m n : Mask} : m &&& n = m ↔ ∀ l, m.getLsbD l = true → n.getLsbD l = true := by
  refine ⟨fun h l hl => ?_, fun h => BitVec.eq_of_getLsbD_eq fun l _ => ?_⟩
  · rw [← h, BitVec.getLsbD_and, Bool.and_eq_true] at hl
    exact hl.2
  · rw [BitVec.getLsbD_and]
    cases hm : m.getLsbD l
    · rfl
    · rw [h l hm]
      rfl

/-- Two masks share no lane. -/
theorem mask_and_eq_zero_iff {m n : Mask} : m &&& n = 0 ↔ ∀ l, m.getLsbD l = true → n.getLsbD l = false := by
  refine ⟨fun h l hl => ?_, fun h => BitVec.eq_of_getLsbD_eq fun l _ => ?_⟩
  · have hb : (m &&& n).getLsbD l = false := by rw [h]; exact BitVec.getLsbD_zero
    rwa [BitVec.getLsbD_and, hl, Bool.true_and] at hb
  · rw [BitVec.getLsbD_and, BitVec.ofNat_eq_ofNat, BitVec.getLsbD_zero]
    cases hm : m.getLsbD l
    · rfl
    · rw [h l hm]
      rfl

theorem getLsbD_and_not (m n : Mask) (l : Nat) :
    (m &&& ~~~n).getLsbD l = true ↔ m.getLsbD l = true ∧ n.getLsbD l = false := by
  have hlt : m.getLsbD l = true → l < 96 := BitVec.lt_of_getLsbD
  simp only [BitVec.getLsbD_and, BitVec.getLsbD_not]
  grind

/-- Lane `l` belongs to split `k`. -/
def CSide.Owns (c : CSide) (l k : Nat) : Prop := ∃ p, c.sp k = some p ∧ p.own.getLsbD l = true

/-- The active lanes of every split are its own. -/
def CSide.ActsOwn (c : CSide) : Prop := ∀ k p, c.sp k = some p → p.act &&& p.own = p.act

/-- The partition lane by lane: no lane has two owners, and the lanes with an owner are those alive. -/
theorem partition_iff {c : CSide} : Claims.partition c ↔
    c.splits.keys.Pairwise (· < ·) ∧ c.ActsOwn ∧ (∀ l k j, c.Owns l k → c.Owns l j → k = j) ∧
      ∀ l, (∃ k, c.Owns l k) ↔ c.alive.getLsbD l = true := by
  constructor
  · rintro ⟨ho, hd, hs, hc⟩
    refine ⟨ho, fun k p hp => (hs k p hp).1, ?_, fun l => ⟨?_, fun hl => ?_⟩⟩
    · rintro l k j ⟨p, hp, hpl⟩ ⟨q, hq, hql⟩
      by_contra hne
      rw [mask_and_eq_zero_iff.mp (hd k j p q hp hq hne) l hpl] at hql
      cases hql
    · rintro ⟨k, p, hp, hpl⟩
      exact mask_and_eq_left_iff.mp (hs k p hp).2 l hpl
    · exact hc l (BitVec.lt_of_getLsbD hl) hl
  · rintro ⟨ho, ha, hu, hc⟩
    refine ⟨ho, fun k j p q hp hq hne => mask_and_eq_zero_iff.mpr fun l hpl => ?_,
      fun k p hp => ⟨ha k p hp, mask_and_eq_left_iff.mpr fun l hl => (hc l).mp ⟨k, p, hp, hl⟩⟩, fun l _ hl => (hc l).mpr hl⟩
    by_contra hql
    exact hne (hu l k j ⟨p, hp, hpl⟩ ⟨q, hq, by simpa using hql⟩)

theorem act_and_own {c : CSide} {k : Nat} {p : Split} (hc : Claims.partition c) (hp : c.sp k = some p) :
    p.act &&& p.own = p.act :=
  (partition_iff.mp hc).2.1 k p hp

theorem CSide.owns_setSp {c : CSide} {l k n : Nat} {q : Split} :
    (c.setSp k q).Owns l n ↔ if n = k then q.own.getLsbD l = true else c.Owns l n := by
  unfold CSide.Owns
  split
  · next h =>
    subst h
    rw [CSide.sp_setSp_same]
    exact ⟨fun ⟨_, hp, hl⟩ => Option.some.inj hp ▸ hl, fun hl => ⟨_, rfl, hl⟩⟩
  · next h => rw [c.sp_setSp_ne q h]

theorem CSide.owns_of_sp {c : CSide} {l k : Nat} {p : Split} (h : c.sp k = some p) : c.Owns l k ↔ p.own.getLsbD l = true :=
  ⟨fun ⟨_, hq, hl⟩ => Option.some.inj (h.symm.trans hq) ▸ hl, fun hl => ⟨p, h, hl⟩⟩

theorem CSide.not_owns_of_sp_none {c : CSide} {l k : Nat} (h : c.sp k = none) : ¬ c.Owns l k := by
  rintro ⟨p, hp, -⟩
  rw [h] at hp
  cases hp

theorem CSide.actsOwn_setSp {c : CSide} {k : Nat} {q : Split} (hc : c.ActsOwn) (hq : q.act &&& q.own = q.act) :
    (c.setSp k q).ActsOwn := by
  intro n p hp
  by_cases h : n = k
  · subst h
    rw [CSide.sp_setSp_same] at hp
    exact Option.some.inj hp ▸ hq
  · rw [c.sp_setSp_ne q h] at hp
    exact hc n p hp

/-- Splits whose lanes move to the splits that `f` names, lane by lane, keep the partition. -/
theorem partition_of_owns_map {c t : CSide} (f : Nat → Nat → Nat) (hc : Claims.partition c)
    (ho : t.splits.keys.Pairwise (· < ·)) (ha : t.ActsOwn) (hl : t.alive = c.alive)
    (h : ∀ l n, t.Owns l n ↔ ∃ m, c.Owns l m ∧ f l m = n) : Claims.partition t := by
  obtain ⟨-, -, hu, hv⟩ := partition_iff.mp hc
  refine partition_iff.mpr ⟨ho, ha, fun l a b hla hlb => ?_, fun l => ?_⟩
  · obtain ⟨m, hm, rfl⟩ := (h l a).mp hla
    obtain ⟨n, hn, rfl⟩ := (h l b).mp hlb
    rw [hu l m n hm hn]
  · rw [hl, ← hv l]
    exact ⟨fun ⟨n, hn⟩ => ((h l n).mp hn).imp fun _ hm => hm.1, fun ⟨m, hm⟩ => ⟨f l m, (h l _).mpr ⟨m, hm, rfl⟩⟩⟩

theorem partition_of_owns_iff {c t : CSide} (hc : Claims.partition c) (ho : t.splits.keys.Pairwise (· < ·))
    (ha : t.ActsOwn) (hl : t.alive = c.alive) (h : ∀ l n, t.Owns l n ↔ c.Owns l n) : Claims.partition t :=
  partition_of_owns_map (fun _ m => m) hc ho ha hl fun l n => (h l n).trans ⟨fun hn => ⟨n, hn, rfl⟩, fun ⟨_, hm, he⟩ => he ▸ hm⟩

/-! ## Steps that keep the partition -/

theorem keeps_refl {c : CSide} (hc : Claims.partition c) : Claims.keeps c c := ⟨hc, rfl⟩

/-- A split that keeps its lanes is replaced. -/
theorem keeps_setSp {c : CSide} {k : Nat} {p q : Split} (hc : Claims.partition c) (hp : c.sp k = some p) (ho : q.own = p.own)
    (ha : q.act &&& q.own = q.act) : Claims.keeps c (c.setSp k q) := by
  obtain ⟨hs, hact, -, -⟩ := partition_iff.mp hc
  refine ⟨partition_of_owns_iff hc (Tbl.pairwise_keys_set k q hs) (CSide.actsOwn_setSp hact ha) rfl fun l n => ?_, rfl⟩
  rw [CSide.owns_setSp, ho]
  split
  · next h => rw [h, CSide.owns_of_sp hp]
  · rfl

theorem keeps_setSp_same {c : CSide} {k : Nat} {p q : Split} (hc : Claims.partition c) (hp : c.sp k = some p) (ho : q.own = p.own)
    (ha : q.act = p.act) : Claims.keeps c (c.setSp k q) :=
  keeps_setSp hc hp ho (by rw [ho, ha]; exact act_and_own hc hp)

theorem keeps_updSp {c : CSide} (hc : Claims.partition c) (k : Nat) {f : Split → Split}
    (hf : ∀ p, (f p).own = p.own ∧ (f p).act = p.act) : Claims.keeps c (c.updSp k f) := by
  cases h : c.sp k with
  | none =>
    have hu : c.updSp k f = c := by
      rw [CSide.updSp, Tbl.upd, show c.splits.get? k = none from h]
    rw [hu]
    exact keeps_refl hc
  | some p =>
    obtain ⟨ho, ha⟩ := hf p
    rw [CSide.updSp_of_sp h]
    exact keeps_setSp_same hc h ho ha

/-- The division records have no part in the partition. -/
theorem keeps_tags {c t : CSide} (h : Claims.keeps c t) (tags : Tbl TagRec) : Claims.keeps c { t with tags } := by
  obtain ⟨hp, he⟩ := h
  exact ⟨hp, by rw [he]⟩

theorem keeps_tidy {c t : CSide} (h : Claims.keeps c t) : Claims.keeps c t.tidy := keeps_tags h _

theorem keeps_mapV {c t : CSide} (h : Claims.keeps c t) {f : Nat → Split → Split}
    (hf : ∀ k p, (f k p).own = p.own ∧ (f k p).act = p.act) : Claims.keeps c { t with splits := t.splits.mapV f } := by
  obtain ⟨hp, he⟩ := h
  obtain ⟨hs, hact, -, -⟩ := partition_iff.mp hp
  have hsp : ∀ n, ({ t with splits := t.splits.mapV f } : CSide).sp n = (t.sp n).map (f n) := Tbl.get?_mapV t.splits f
  refine ⟨partition_of_owns_iff hp ?_ ?_ rfl fun l n => ?_, by rw [he]⟩
  · exact (Tbl.keys_mapV t.splits f).symm ▸ hs
  · intro k q hq
    rw [hsp, Option.map_eq_some_iff] at hq
    obtain ⟨p, hpk, rfl⟩ := hq
    obtain ⟨ho, ha⟩ := hf k p
    rw [ho, ha]
    exact hact k p hpk
  · cases hn : t.sp n with
    | none => exact iff_of_false (CSide.not_owns_of_sp_none (by rw [hsp, hn]; rfl)) (CSide.not_owns_of_sp_none hn)
    | some p =>
      rw [CSide.owns_of_sp hn, CSide.owns_of_sp (p := f n p) (by rw [hsp, hn]; rfl), (hf n p).1]

theorem mask_and_and_self (m n : Mask) : m &&& n &&& n = m &&& n := by
  rw [BitVec.and_assoc, BitVec.and_self]

theorem keeps_popJoin {c : CSide} {k : Nat} {p : Split} (hc : Claims.partition c) (hp : c.sp k = some p) :
    Claims.keeps c (c.popJoin k p) := by
  unfold CSide.popJoin
  split
  · exact keeps_setSp hc hp rfl (mask_and_and_self ..)
  · exact keeps_refl hc

theorem keeps_retc {c t : CSide} {k : Nat} (hc : Claims.partition c) (h : c.retc k = some t) : Claims.keeps c t := by
  cases hp : c.sp k with
  | none =>
    rw [CSide.retc, hp] at h
    exact Option.some.inj h ▸ keeps_refl hc
  | some p =>
    rw [CSide.retc_of_sp hp] at h
    split at h
    · exact Option.some.inj h ▸ keeps_popJoin hc hp
    · cases h

theorem keeps_join {c t : CSide} {k : Nat} (hc : Claims.partition c) (h : c.join k = some t) : Claims.keeps c t := by
  cases hp : c.sp k with
  | none =>
    rw [CSide.join, hp] at h
    exact Option.some.inj h ▸ keeps_refl hc
  | some p =>
    rw [CSide.join_of_sp hp] at h
    split at h
    · exact Option.some.inj h ▸ keeps_popJoin hc hp
    · split at h
      · exact Option.some.inj h ▸ keeps_setSp_same hc hp rfl rfl
      · cases h

theorem keeps_endc {c : CSide} (hc : Claims.partition c) (k : Nat) : Claims.keeps c (c.endc k) := by
  unfold CSide.endc
  split
  · exact keeps_refl hc
  · next p hp =>
    dsimp only
    split
    · exact keeps_setSp hc hp rfl (mask_and_and_self ..)
    · exact keeps_setSp_same hc hp rfl rfl

theorem keeps_resume {c : CSide} (hc : Claims.partition c) (k : Nat) : Claims.keeps c (c.resume k) := by
  unfold CSide.resume
  split
  · exact keeps_refl hc
  · next p hp =>
    exact keeps_tidy (keeps_tags (t := c.setSp k { p with st := .running, tag := c.encl p.tag, blk := none })
      (keeps_setSp_same hc hp rfl rfl) _)

/-- A division gives the lanes of one split to two, none to both. -/
theorem keeps_divided {c : CSide} {k k' : Nat} {p : Split} (hc : Claims.partition c) (hp : c.sp k = some p)
    (hk : c.sp k' = none) (gm : Mask) (tag join target : Nat) :
    Claims.keeps c (c.divided k k' tag join target p (p.act &&& gm) (p.act &&& ~~~gm)) := by
  obtain ⟨hs, hact, -, -⟩ := partition_iff.mp hc
  have hin : ∀ l, p.act.getLsbD l = true → p.own.getLsbD l = true := mask_and_eq_left_iff.mp (hact k p hp)
  have hstay : ∀ l, (p.act &&& ~~~gm ||| p.own &&& ~~~p.act).getLsbD l = true ↔
      p.own.getLsbD l = true ∧ ¬ (p.act &&& gm).getLsbD l = true := by
    intro l
    have hl := hin l
    rw [BitVec.getLsbD_or, Bool.or_eq_true, getLsbD_and_not, getLsbD_and_not, BitVec.getLsbD_and]
    grind
  refine ⟨partition_of_owns_map (fun l m => if m = k ∧ (p.act &&& gm).getLsbD l = true then k' else m) hc
    (Tbl.pairwise_keys_set _ _ (Tbl.pairwise_keys_set _ _ hs)) ?_ rfl fun l n => ?_, rfl⟩
  · refine CSide.actsOwn_setSp (CSide.actsOwn_setSp hact ?_) (BitVec.and_self ..)
    exact mask_and_eq_left_iff.mpr fun l hl => by rw [BitVec.getLsbD_or, hl]; rfl
  · have hown := CSide.owns_of_sp (l := l) hp
    have hfree := CSide.not_owns_of_sp_none (l := l) hk
    have hl := hin l
    refine CSide.owns_setSp.trans ?_
    rw [CSide.owns_setSp, hstay]
    rw [BitVec.getLsbD_and]
    grind

theorem freeKey_free {α : Type} {t : Tbl α} {lo n m : Nat} (h : freeKey t lo n = some m) : t.get? m = none := by
  simpa using List.find?_some h

theorem Split.branched_own (p : Split) (join target : Nat) (t f : Mask) : (p.branched join target t f).own = p.own := by
  unfold Split.branched
  split
  · rfl
  · split <;> rfl

theorem Split.branched_act {p : Split} {gm : Mask} (h : p.act &&& p.own = p.act) (join target : Nat) (f : Mask) :
    (p.branched join target (p.act &&& gm) f).act &&& p.own = (p.branched join target (p.act &&& gm) f).act := by
  have ht : p.act &&& gm &&& p.own = p.act &&& gm := by rw [BitVec.and_assoc, BitVec.and_comm gm, ← BitVec.and_assoc, h]
  unfold Split.branched
  split
  · exact h
  · split
    · exact h
    · exact ht

theorem keeps_brd {c : CSide} (hc : Claims.partition c) (k : Nat) (gm : Mask) (join target : Nat) (stackMode : Bool) :
    Claims.keeps c (c.brd k gm join target stackMode) := by
  cases hp : c.sp k with
  | none =>
    rw [CSide.brd, hp]
    exact keeps_refl hc
  | some p =>
    by_cases hno : stackMode = true ∨ p.act &&& gm = 0 ∨ p.act &&& ~~~gm = 0 ∨ freeKey c.splits 0 4 = none ∨
      freeKey c.tags 1 7 = none
    · rw [CSide.brd_of_stack hp hno]
      refine keeps_setSp hc hp (Split.branched_own ..) ?_
      rw [Split.branched_own]
      exact Split.branched_act (act_and_own hc hp) ..
    · simp only [not_or, ← ne_eq, Option.ne_none_iff_exists'] at hno
      obtain ⟨hs, ht, hf, ⟨k', hk⟩, tag, hu⟩ := hno
      obtain rfl : stackMode = false := by simpa using hs
      rw [CSide.brd_of_divide hp ht hf hk hu]
      exact keeps_divided hc hp (freeKey_free hk) ..

/-- The C side without a split. -/
def CSide.without (c : CSide) (k : Nat) : CSide := { c with splits := c.splits.del k }

theorem CSide.sp_without {c : CSide} (hs : c.splits.keys.Pairwise (· < ·)) (k n : Nat) :
    (c.without k).sp n = if n = k then none else c.sp n := by
  split
  · next h =>
    subst h
    exact Tbl.get?_del_same ..
  · next h => exact Tbl.get?_del_ne hs h

theorem CSide.owns_without {c : CSide} (hs : c.splits.keys.Pairwise (· < ·)) {l k n : Nat} :
    (c.without k).Owns l n ↔ n ≠ k ∧ c.Owns l n := by
  rw [CSide.Owns, CSide.sp_without hs]
  split
  · next h => exact iff_of_false (by simp) fun hn => hn.1 h
  · next h => exact (and_iff_right h).symm

theorem CSide.actsOwn_without {c : CSide} (hs : c.splits.keys.Pairwise (· < ·)) (ha : c.ActsOwn) (k : Nat) :
    (c.without k).ActsOwn := by
  intro n p hp
  rw [CSide.sp_without hs] at hp
  split at hp
  · cases hp
  · exact ha n p hp

/-- Two splits become one under the smaller number, which owns the lanes of both. -/
theorem keeps_fuse {c : CSide} {k j : Nat} {p q : Split} (hc : Claims.partition c) (hp : c.sp k = some p) (hq : c.sp j = some q)
    (hne : k ≠ j) (tag : Nat) : Claims.keeps c (c.fuse k j p q tag) := by
  obtain ⟨hs, hact, -, -⟩ := partition_iff.mp hc
  refine ⟨partition_of_owns_map (fun _ m => if m = max k j then min k j else m) hc
    (Tbl.pairwise_keys_set _ _ (Tbl.pairwise_keys_del _ hs)) ?_ rfl fun l n => ?_, rfl⟩
  · refine CSide.actsOwn_setSp (CSide.actsOwn_without hs hact (max k j)) ?_
    have hpa := mask_and_eq_left_iff.mp (hact k p hp)
    have hqa := mask_and_eq_left_iff.mp (hact j q hq)
    refine mask_and_eq_left_iff.mpr fun l hl => ?_
    simp only [BitVec.getLsbD_or, Bool.or_eq_true] at hl ⊢
    exact hl.imp (hpa l) (hqa l)
  · refine (CSide.owns_setSp (c := c.without (max k j))).trans ?_
    rw [CSide.owns_without hs, BitVec.getLsbD_or, Bool.or_eq_true, ← CSide.owns_of_sp hp, ← CSide.owns_of_sp hq]
    rcases Nat.lt_or_gt_of_ne hne with hlt | hlt
    · rw [min_eq_left hlt.le, max_eq_right hlt.le]
      grind
    · rw [min_eq_right hlt.le, max_eq_left hlt.le]
      grind

theorem keeps_arrive {c : CSide} (hc : Claims.partition c) (k : Nat) (joinpt : Bool) : Claims.keeps c (c.arrive k joinpt).1 := by
  obtain ⟨hs, -⟩ := partition_iff.mp hc
  unfold CSide.arrive
  split
  · exact keeps_refl hc
  · next p hp =>
    split
    · split
      · exact keeps_tidy (keeps_setSp_same hc hp rfl rfl)
      · split
        · next j q hf =>
          have hjq : c.sp j = some q := Tbl.get?_of_mem hs (List.mem_of_find?_eq_some hf)
          have hfound := List.find?_some hf
          simp only [Bool.and_eq_true, bne_iff_ne] at hfound
          obtain ⟨⟨⟨hne, -⟩, -⟩, -⟩ := hfound
          exact keeps_tidy (keeps_fuse hc hp hjq (Ne.symm hne) _)
        · split
          · exact keeps_setSp_same hc hp rfl rfl
          · exact keeps_tidy (keeps_setSp_same hc hp rfl rfl)
    · exact keeps_refl hc

/-- A lone split that owns every lane alive. -/
theorem partition_of_single {c : CSide} {p : Split} (hs : c.splits = [(0, p)]) (ho : p.own = c.alive) (ha : p.act = c.alive) :
    Claims.partition c := by
  have hsp : ∀ k q, c.sp k = some q ↔ k = 0 ∧ p = q := fun k q => by
    by_cases hk : k = 0 <;> simp [CSide.sp, hs, Tbl.get?, hk]
  have hown : ∀ l k, c.Owns l k ↔ k = 0 ∧ c.alive.getLsbD l = true := fun l k => by
    simp [CSide.Owns, hsp, ho, and_assoc]
  refine partition_iff.mpr ⟨by rw [hs]; exact List.pairwise_singleton .., ?_, ?_, fun l => ?_⟩
  · intro k q hq
    obtain ⟨-, rfl⟩ := (hsp k q).mp hq
    rw [ho, ha, BitVec.and_self]
  · intro l k j hk hj
    rw [((hown l k).mp hk).1, ((hown l j).mp hj).1]
  · exact ⟨fun ⟨k, hk⟩ => ((hown l k).mp hk).2, fun hl => ⟨0, (hown l 0).mpr ⟨rfl, hl⟩⟩⟩

/-- Without a lane alive there need be no split. -/
theorem partition_of_none {c : CSide} (hs : c.splits = []) (ha : c.alive = 0) : Claims.partition c := by
  have hown : ∀ l k, ¬ c.Owns l k := fun l k => CSide.not_owns_of_sp_none (by rw [CSide.sp, hs]; rfl)
  refine partition_iff.mpr ⟨by rw [hs]; exact List.Pairwise.nil, ?_, fun l k _ hk _ => absurd hk (hown l k), fun l => ?_⟩
  · intro k q hq
    rw [CSide.sp, hs] at hq
    cases hq
  · rw [ha]
    exact ⟨fun ⟨k, hk⟩ => absurd hk (hown l k), fun hl => by simp at hl⟩

theorem keeps_closeRegion {c : CSide} (hc : Claims.partition c) : Claims.keeps c c.closeRegion.1 := by
  unfold CSide.closeRegion
  split
  · refine ⟨?_, rfl⟩
    by_cases ha : c.alive = 0
    · exact partition_of_none (if_pos ha) ha
    · exact partition_of_single (if_neg ha) rfl rfl
  · exact keeps_tidy (keeps_refl hc)

theorem CSide.kill_splits {c : CSide} {k : Nat} {p : Split} (hp : c.sp k = some p) (m : Mask) :
    c.kill k m = { c with
      exited := c.exited ||| m
      splits := if p.own &&& ~~~m = 0 then c.splits.del k else c.splits.set k { p with
        own := p.own &&& ~~~m, act := p.act &&& ~~~m, stack := Claims.clipped p.stack (~~~m) } } := by
  simp only [CSide.kill, show ({ c with exited := c.exited ||| m } : CSide).sp k = some p from hp]
  split <;> rfl

theorem CSide.alive_kill {c : CSide} {k : Nat} {p : Split} (hp : c.sp k = some p) (m : Mask) :
    (c.kill k m).alive = c.alive &&& ~~~m := by
  rw [CSide.kill_splits hp]
  simp only [CSide.alive, BitVec.not_or, BitVec.and_assoc]

theorem CSide.pairwise_keys_kill {c : CSide} {k : Nat} {p : Split} (hs : c.splits.keys.Pairwise (· < ·)) (hp : c.sp k = some p)
    (m : Mask) : (c.kill k m).splits.keys.Pairwise (· < ·) := by
  rw [CSide.kill_splits hp]
  dsimp only
  split
  · exact Tbl.pairwise_keys_del _ hs
  · exact Tbl.pairwise_keys_set _ _ hs

theorem CSide.actsOwn_kill {c : CSide} {k : Nat} {p : Split} (hs : c.splits.keys.Pairwise (· < ·)) (ha : c.ActsOwn)
    (hp : c.sp k = some p) (m : Mask) : (c.kill k m).ActsOwn := by
  obtain ⟨⟨hne, -⟩, -, hgone, hleft⟩ := CSide.kill_of_sp hp m hs
  intro n q hq
  by_cases hn : n = k
  · subst hn
    by_cases hz : p.own &&& ~~~m = 0
    · rw [hgone hz] at hq
      cases hq
    · obtain rfl := Option.some.inj ((hleft hz).symm.trans hq)
      have hin := mask_and_eq_left_iff.mp (ha n p hp)
      refine mask_and_eq_left_iff.mpr fun l hl => ?_
      rw [getLsbD_and_not] at hl ⊢
      exact ⟨hin l hl.1, hl.2⟩
  · exact ha n q (hne n hn ▸ hq)

/-- A KILL of lanes of one split takes them from their owner and leaves every other lane its own. -/
theorem owns_kill {c : CSide} {k : Nat} {p : Split} {m : Mask} (hc : Claims.partition c) (hp : c.sp k = some p)
    (hm : m &&& p.own = m) (l n : Nat) : (c.kill k m).Owns l n ↔ c.Owns l n ∧ m.getLsbD l = false := by
  obtain ⟨hs, -, hu, -⟩ := partition_iff.mp hc
  obtain ⟨⟨hne, -⟩, -, hgone, hleft⟩ := CSide.kill_of_sp hp m hs
  by_cases hn : n = k
  · subst hn
    rw [CSide.owns_of_sp hp, ← getLsbD_and_not]
    by_cases hz : p.own &&& ~~~m = 0
    · rw [hz]
      exact iff_of_false (CSide.not_owns_of_sp_none (hgone hz)) (by simp)
    · rw [CSide.owns_of_sp (hleft hz)]
  · rw [CSide.Owns, hne n hn]
    refine ⟨fun h => ⟨h, ?_⟩, fun h => h.1⟩
    by_contra hl
    have hpl : p.own.getLsbD l = true := mask_and_eq_left_iff.mp hm l (by simpa using hl)
    exact hn (hu l n k h ((CSide.owns_of_sp hp).mpr hpl))

theorem keeps_kill {c : CSide} {k : Nat} {p : Split} {m : Mask} (hc : Claims.partition c) (hp : c.sp k = some p)
    (hm : m &&& p.own = m) : Claims.keeps { c with exited := c.exited ||| m } (c.kill k m) := by
  obtain ⟨hs, hact, hu, hv⟩ := partition_iff.mp hc
  have hown := owns_kill hc hp hm
  refine ⟨partition_iff.mpr ⟨CSide.pairwise_keys_kill hs hp m, CSide.actsOwn_kill hs hact hp m, fun l a b ha hb => ?_, fun l => ?_⟩, ?_⟩
  · exact hu l a b ((hown l a).mp ha).1 ((hown l b).mp hb).1
  · simp only [hown, CSide.alive_kill hp, getLsbD_and_not, exists_and_right, hv]
  · rw [CSide.kill_splits hp]

/-- While a lane is alive, the group that follows from a change of its C side keeps the change's partition. -/
theorem afterFlow_keeps {c : CSide} (hc : Claims.partition c) (ha : c.alive ≠ 0) (s : State) (g : Group) :
    ∃ h : Group, afterFlow s g c = s.setG g.who.gid h ∧ Claims.keeps c h.cs ∧
      h = { g with cs := h.cs, unwaited := h.unwaited, ended := h.ended } := by
  have hk := keeps_closeRegion hc
  have hal : ¬ c.closeRegion.1.alive = 0 := by
    rw [hk.2]
    exact ha
  unfold afterFlow
  dsimp only
  rw [if_neg hal]
  refine ⟨_, rfl, ?_, ?_⟩
  · rw [apply_ite Group.cs, ite_self]
    exact keeps_mapV hk fun n p => by split <;> exact ⟨rfl, rfl⟩
  · split <;> rfl

/-- Settles O33: every step moves lanes between splits (`partition_of_owns_map`), starts the region's one split anew, or takes from
one split the lanes that exit. -/
theorem flowKeepsPartition : Obligations.FlowKeepsPartition := by
  intro c k hc
  exact ⟨fun gm join target stack => keeps_brd hc k gm join target stack,
    fun target => keeps_updSp hc k fun _ => ⟨rfl, rfl⟩, fun target => keeps_updSp hc k fun _ => ⟨rfl, rfl⟩,
    fun t => keeps_join hc, fun t => keeps_retc hc, keeps_endc hc k, fun p m hp hm => keeps_kill hc hp hm,
    keeps_closeRegion hc, fun joinpt => keeps_arrive hc k joinpt, keeps_resume hc k,
    fun j p q tag hp hq hne => keeps_fuse hc hp hq hne tag, fun s g ha => afterFlow_keeps hc ha s g⟩

end Sys2Proof.Machine

namespace Sys2Proof.Machine

/-! ## Lane instructions that write words (06 R176, R179-R184, R195) -/

theorem mkLanes_congr {f f' : Nat → Word} (h : ∀ l < 96, f l = f' l) : mkLanes f = mkLanes f' :=
  List.map_congr_left fun l hl => h l (List.mem_range.mp hl)

theorem lowLane_lt {m : Mask} {l : Nat} (h : lowLane m = some l) : l < 96 :=
  List.mem_range.mp (List.mem_of_find?_eq_some h)

/-- A destination takes the words of the 96 lanes alone. -/
theorem writeDst_congr {f f' : Nat → Word} (h : ∀ l < 96, f l = f' l) (g : Group) (k : Nat) (d : Dst) (m : Mask) (now : Nat) :
    g.writeDst k d m f now = g.writeDst k d m f' now := by
  cases d with
  | v n => rw [Group.writeDst, Group.writeDst, mkLanes_congr h]
  | c n =>
    cases hl : lowLane m with
    | none => rw [writeDst_uniform_of_none hl, writeDst_uniform_of_none hl]
    | some l => rw [writeDst_uniform hl, writeDst_uniform hl, h l (lowLane_lt hl)]
  | queue n =>
    have hdata : (mkLanes fun l => if m.getLsbD l then f l else 0) = mkLanes fun l => if m.getLsbD l then f' l else 0 :=
      mkLanes_congr fun l hl => by rw [h l hl]
    have hlow : (lowLane m).map f = (lowLane m).map f' := Option.map_congr fun l hl => h l (lowLane_lt hl)
    simp only [Group.writeDst, Group.pushC, hdata, hlow]
  | none n => rfl

/-- A C instruction that may issue and whose meaning goes on. -/
theorem cIssue_done {s t : State} {i : Instr} {x : Issue} {body : CEnv → Group → State → Res} (hi : issueC s i = some x)
    (h : body (x.env s) (x.past s) (Claims.here s x) = .done t) : cIssue i body s = .next (x.done s i t) := by
  rw [cIssue_of_issueC hi]
  exact congrArg (finishC i x.h ((encodeC i).getD 0) (x.env s) s x.g) h

/-- Lanes that raise no flag and count nothing are written. -/
theorem putLanes_unflagged {s : State} (hm : s.cur.mode = 0) (g : Group) (e : CEnv) (d : Dst) (f : Nat → Word) :
    putLanes s g e d f 0 [] = s.putG (g.writeDst e.k d e.en f s.tick) := by
  rw [putLanes_of_mode hm, Group.raiseFl_zero, State.countEv]

/-- A lane instruction does as its claim `hc` says, up to how the words of the 96 lanes are written. -/
theorem laneOp_of_claim {s : State} {i : Instr} {x : Issue} (hi : issueC s i = some x) {d d' : Dst} {ss ss' : List Src}
    {ops : List (OpTy × Src)} {f f' : Mask → CSide → List Lanes → Nat → Word} {r : CEnv → CSide → List Lanes → Nat → Word}
    (hc : some (d', ss', f') = some (d, ss, f)) (hops : ops = ints ss')
    (hr : ∀ e c v, ∀ l < 96, r e c v l = f' e.en c v l) :
    laneOp i d' ops r s = .next (Claims.written s x i d (f (x.env s).en (x.past s).cs (x.vals s (ints ss)))) := by
  cases hc
  subst hops
  refine cIssue_done hi ?_
  dsimp only
  rw [putLanes_unflagged (here_mode hi), writeDst_congr (hr (x.env s) (x.past s).cs _), Claims.here, State.putG_putG]
  rfl

/-- A word of a mask as its part of the number. -/
theorem maskWord_eq_ofNat (m : Mask) (w : Nat) : maskWord m w = BitVec.ofNat 32 (m.toNat / 2 ^ (32 * w) % 2 ^ 32) := by
  refine BitVec.eq_of_toNat_eq ?_
  rw [maskWord, BitVec.extractLsb'_toNat, BitVec.toNat_ofNat, Nat.mod_mod, Nat.shiftRight_eq_div_pow]

theorem getLsbD_predOf (c : CSide) (pr : BitVec 3) (neg : BitVec 1) {l : Nat} (h : l < 96) :
    (predOf c pr neg).getLsbD l = ((c.rp pr.toNat).getLsbD l != (neg == 1)) := by
  rcases bit_cases neg with rfl | rfl
  · exact (Bool.bne_false _).symm
  · show (~~~(c.rp pr.toNat)).getLsbD l = _
    rw [BitVec.getLsbD_not, decide_eq_true h, Bool.true_and]
    exact (Bool.bne_true _).symm

theorem segWidth_pos : ∀ w : BitVec 3, 0 < segWidth w := by decide

/-- The lane that a shuffle reads, from the place `t` in the segment of width `w` of lane `l` (06 R181). -/
def shflSrc (w l : Nat) (t : Int) : Option Nat := if 0 ≤ t ∧ t < w then some (l - l % w + t.toNat) else none

theorem shflSrc_of_lt {w l k : Nat} (h : k < w) : shflSrc w l (k : Int) = some (l - l % w + k) :=
  if_pos ⟨Int.natCast_nonneg k, Int.ofNat_lt.mpr h⟩

theorem shflSrc_of_le {w l k : Nat} (h : w ≤ k) : shflSrc w l (k : Int) = none :=
  if_neg fun ⟨_, hk⟩ => Nat.not_lt.mpr h (Int.ofNat_lt.mp hk)

theorem shflSrc_natCast (w l k : Nat) : shflSrc w l (k : Int) = if k < w then some (l - l % w + k) else none := by
  split
  · next h => exact shflSrc_of_lt h
  · next h => exact shflSrc_of_le (Nat.not_lt.mp h)

/-- SHFLUP reads the lane `k` below, within the segment. -/
theorem shflSrc_up {w : Nat} (hw : 0 < w) (l k : Nat) :
    shflSrc w l ((l % w : Nat) - (k : Int)) = if k ≤ l % w then some (l - k) else none := by
  have hq := Nat.mod_lt l hw
  have hle := Nat.mod_le l w
  split
  · next h =>
    rw [← Nat.cast_sub h, shflSrc_of_lt (by omega)]
    congr 1
    omega
  · next h => exact if_neg fun hk => by omega

/-- SHFLDN reads the lane `k` above, within the segment. -/
theorem shflSrc_down (w l k : Nat) :
    shflSrc w l ((l % w : Nat) + (k : Int)) = if l % w + k < w then some (l + k) else none := by
  have hle := Nat.mod_le l w
  rw [← Nat.cast_add, shflSrc_natCast]
  split
  · congr 1
    omega
  · rfl

/-- A shuffle does as its claim `hc` says, up to how the lane that it reads is written. -/
theorem shfl_of_claim {s : State} {i : Instr} {x : Issue} (hi : issueC s i = some x) {w : BitVec 3} {act : BitVec 1} {d d' : Dst}
    {a n e : Src} {ss : List Src} {f f' : Mask → CSide → List Lanes → Nat → Word} {t : Nat → Nat → Nat → Int}
    (hc : some (d', [n, e], f') = some (d, ss, f))
    (hr : ∀ en c v l, fromLane c en a (act == 1) (lane (v.getD 1 []) l)
      (shflSrc (segWidth w) l (t (l % segWidth w) (lane (v.getD 0 []) 0).toNat (segWidth w))) = f' en c v l) :
    shfl i w act d' a n e t s = .next (Claims.written s x i d (f (x.env s).en (x.past s).cs (x.vals s (ints ss)))) := by
  rw [shfl]
  exact laneOp_of_claim hi hc rfl fun en c v l _ => hr en.en c v l

theorem exec_of_lanes : Claims.laneResults := by
  intro s i x d ss f hi h
  cases i
  case sel =>
    unfold exec
    refine laneOp_of_claim hi h rfl fun _ c v l hl => ?_
    simp only [getLsbD_predOf _ _ _ hl]
    split <;> rfl
  case perm | bcast | bcastf | matchlead =>
    unfold exec
    exact laneOp_of_claim hi h rfl fun _ _ _ _ _ => rfl
  case shflup w _ _ _ _ _ _ =>
    unfold exec
    exact shfl_of_claim hi h fun _ _ _ _ => congrArg (fromLane _ _ _ _ _) (shflSrc_up (segWidth_pos w) ..)
  case shfldn =>
    unfold exec
    exact shfl_of_claim hi h fun _ _ _ _ => congrArg (fromLane _ _ _ _ _) (shflSrc_down ..)
  case shflx =>
    unfold exec
    exact shfl_of_claim hi h fun _ _ _ _ => congrArg (fromLane _ _ _ _ _) (shflSrc_natCast ..)
  case shflr w _ _ _ _ _ _ =>
    unfold exec
    exact shfl_of_claim hi h fun _ _ _ _ =>
      congrArg (fromLane _ _ _ _ _) (shflSrc_of_lt (Nat.mod_lt _ (segWidth_pos w)))
  case voteballot | matchany =>
    unfold exec
    exact laneOp_of_claim hi h rfl fun _ _ _ _ _ => maskWord_eq_ofNat ..
  case pmov t pr d' a y =>
    rcases bit_cases t with rfl | rfl
    · show execPmov 0 pr d' a y s = _
      rw [execPmov, if_neg (by decide)]
      exact laneOp_of_claim hi h rfl fun _ _ _ _ _ => rfl
    · cases h
  case pmovw t w pr d' a y =>
    rcases bit_cases t with rfl | rfl
    · show execPmovw 0 w pr d' a y s = _
      rw [execPmovw, if_neg (by decide)]
      exact laneOp_of_claim hi h rfl fun _ _ _ _ _ => maskWord_eq_ofNat ..
    · cases h
  all_goals cases h

/-! ## What a lane reads of another (06 R176) -/

theorem laneReads : Claims.laneReads := by
  intro c en n act fill
  refine ⟨rfl, fun l hl => ?_, fun l _ hp => ?_, fun l _ he => ?_, fun l hl hp he => ?_⟩
  · exact if_pos (.inl hl)
  · exact if_pos (.inr (.inl (by rw [hp]; rfl)))
  · exact if_pos (.inr (.inr (by rw [he]; rfl)))
  · refine if_neg ?_
    rintro (h | h | h)
    · omega
    · rw [hp] at h
      cases h
    · obtain ⟨ha, hn⟩ := (Bool.and_eq_true ..).mp h
      rw [he ha] at hn
      cases hn

/-- Settles O25. -/
theorem laneResults : Obligations.LaneResults := ⟨exec_of_lanes, laneReads⟩

end Sys2Proof.Machine

namespace Sys2Proof.Machine

/-! ## Entries at the head of a queue (01 R29, R30; 06 R190-R192) -/

theorem getD_setAt_same {α : Type} {l : List α} {n : Nat} (h : n < l.length) (x d : α) : (setAt l n x).getD n d = x := by
  induction l generalizing n with
  | nil => cases h
  | cons y r ih =>
    cases n with
    | zero => rfl
    | succ n => exact ih (Nat.lt_of_succ_lt_succ h)

/-- Removing a head changes what DROPs wait for, and the queues. -/
theorem popHead_eq (g : Group) (q : Nat) : ∃ sp qs, g.popHead q = { g with cs := { g.cs with splits := sp }, q := qs } := by
  unfold Group.popHead
  dsimp only
  split <;> exact ⟨_, _, rfl⟩

theorem performed_popHead (g : Group) (q : Nat) : (g.popHead q).performed = g.performed := by
  obtain ⟨sp, qs, h⟩ := popHead_eq g q
  rw [h]
  rfl

/-- The first of the entries is the head, and the others stand first once it is removed. -/
theorem head_of_firstN {g : Group} {q n : Nat} {h : Head} {hs : List Head} (hf : g.firstN q (n + 1) = h :: hs) :
    g.head q = h ∧ (g.popHead q).firstN q n = hs := by
  rw [Group.firstN] at hf ⊢
  rw [Group.head, performed_popHead]
  by_cases h4 : q = 4
  · rw [if_pos h4] at hf ⊢
    rw [if_pos h4]
    cases hl : g.q.svq with
    | nil =>
      rw [hl] at hf
      cases hf
    | cons e r =>
      have hp : (g.popHead q).q.svq = r := by simp [Group.popHead, h4, hl]
      rw [hl] at hf
      rw [hp]
      exact List.cons.inj hf
  · rw [if_neg h4] at hf ⊢
    rw [if_neg h4]
    cases hl : g.q.ldq.getD q [] with
    | nil =>
      rw [hl] at hf
      cases hf
    | cons e r =>
      have hlt : q < g.q.ldq.length := by
        by_contra hge
        rw [List.getD_eq_default _ _ (Nat.not_lt.mp hge)] at hl
        cases hl
      have hp : (g.popHead q).q.ldq.getD q [] = r := by
        simp only [Group.popHead, if_neg h4, hl]
        exact getD_setAt_same hlt ..
      rw [hl] at hf
      rw [hp]
      exact List.cons.inj hf

/-- The group once `n` heads of a queue are removed. -/
def Group.popN (g : Group) (q n : Nat) : Group := (List.range n).foldl (fun (g : Group) _ => g.popHead q) g

theorem popN_succ (g : Group) (q n : Nat) : g.popN q (n + 1) = (g.popHead q).popN q n := by
  simp only [Group.popN, List.foldl_const, List.length_range, Function.iterate_succ_apply]

theorem popN_eq (g : Group) (q n : Nat) : ∃ sp qs, g.popN q n = { g with cs := { g.cs with splits := sp }, q := qs } := by
  induction n generalizing g with
  | zero => exact ⟨_, _, rfl⟩
  | succ n ih =>
    obtain ⟨sp, qs, h⟩ := popHead_eq g q
    obtain ⟨sp', qs', h'⟩ := ih (g.popHead q)
    exact ⟨sp', qs', by rw [popN_succ, h', h]⟩

theorem map_ready {hs : List Head} (h : ∀ h ∈ hs, ∃ e, h = .ready e) : hs = (Claims.ready hs).map .ready := by
  induction hs with
  | nil => rfl
  | cons a r ih =>
    obtain ⟨⟨e, rfl⟩, hr⟩ := List.forall_mem_cons.mp h
    exact congrArg _ (ih hr)

/-- Entries that all stand ready are taken, and nothing is owed. -/
theorem takeN_of_ready {q n : Nat} {g : Group} {es : List VEntry} (h : g.firstN q n = es.map .ready) (hn : es.length = n)
    (acc : List VEntry) : takeN n g q acc = (g.popN q n, 0, acc ++ es, none) := by
  induction n generalizing g es acc with
  | zero =>
    obtain rfl := List.length_eq_zero_iff.mp hn
    rw [List.append_nil]
    rfl
  | succ n ih =>
    obtain ⟨e, r, rfl⟩ := List.exists_cons_of_length_eq_add_one hn
    obtain ⟨hhead, hrest⟩ := head_of_firstN h
    rw [takeN, hhead]
    dsimp only
    rw [ih hrest (Nat.succ.inj hn), popN_succ, List.append_assoc]
    rfl

theorem shadowed_of_eq {s t : State} {g h : Group} (hs : h.shadow = g.shadow) (hf : h.sys.frame = g.sys.frame)
    (hm : t.cur.mode = s.cur.mode) : t.shadowed h = s.shadowed g := by
  rw [State.shadowed, State.shadowed, hs, hf, hm]

/-- POP of entries that all stand ready. -/
theorem exec_pop {s : State} {x : Issue} {n : BitVec 4} {q : BitVec 9} {y : Ctl} {es : List VEntry}
    (hi : issueC s (.pop n (.queue q) y) = some x) (ho : x.p.owed = 0)
    (hes : (x.past s).firstN (q.toNat % 8) (n.toNat + 1) = es.map .ready) (hn : es.length = n.toNat + 1) :
    exec (.pop n (.queue q) y) s = .next (x.done s (.pop n (.queue q) y) (s.putG
      (if s.shadowed (x.past s) then
        ({ (x.past s).popN (q.toNat % 8) (n.toNat + 1) with lastQ := s.tick } : Group).log
          (.popped s.cur.split (q.toNat % 8) es)
       else { (x.past s).popN (q.toNat % 8) (n.toNat + 1) with lastQ := s.tick }))) := by
  have ho' : (x.env s).p.owed = 0 := ho
  have hne : es.isEmpty = false := by
    cases es with
    | nil => cases hn
    | cons => rfl
  obtain ⟨sp, qs, hp⟩ := popN_eq (x.past s) (q.toNat % 8) (n.toNat + 1)
  have hsh : (s.putG (x.past s)).shadowed { (x.past s).popN (q.toNat % 8) (n.toNat + 1) with lastQ := s.tick } =
      s.shadowed (x.past s) := shadowed_of_eq (by rw [hp]) (by rw [hp]) rfl
  show execPop n (.queue q) y s = _
  refine cIssue_done hi ?_
  simp only [queueNo, ho', if_true, takeN_of_ready hes hn, List.nil_append, hne, Bool.not_false, and_true, Claims.here,
    State.putG_tick, State.putG_putG, hsh, Bool.false_eq_true, if_false]
  rfl

theorem contains_empty_of_ready {hs : List Head} (h : ∀ h ∈ hs, ∃ e, h = .ready e) : hs.contains .empty = false := by
  rw [List.contains_eq_mem, decide_eq_false_iff_not]
  intro he
  obtain ⟨_, he⟩ := h _ he
  cases he

/-- DROP of entries that all stand ready. -/
theorem exec_drop {s : State} {x : Issue} {d : Dst} {q : BitVec 9} {y : Ctl} (hi : issueC s (.drop d (.queue q) y) = some x)
    (hd : x.p.dropN = none)
    (hr : ∀ h ∈ (x.past s).firstN (q.toNat % 8) ((x.past s).held (q.toNat % 8)), ∃ e, h = .ready e) :
    let n := (x.past s).held (q.toNat % 8)
    let g1 := (x.past s).popN (q.toNat % 8) n
    let g2 := if n = 0 then g1 else { g1 with lastQ := s.tick }
    let g3 := if s.shadowed (x.past s) ∧ n ≠ 0 then
      g2.log (.popped s.cur.split (q.toNat % 8) (Claims.ready ((x.past s).firstN (q.toNat % 8) n))) else g2
    exec (.drop d (.queue q) y) s = .next (x.done s (.drop d (.queue q) y)
      (s.putG (g3.writeDst s.cur.split d (x.env s).en (fun _ => BitVec.ofNat 32 n) s.tick))) := by
  intro n g1 g2 g3
  have hd' : (x.env s).p.dropN = none := hd
  show execDrop d (.queue q) y s = _
  refine cIssue_done hi ?_
  simp only [queueNo, hd', contains_empty_of_ready hr, Bool.false_eq_true, if_false]
  split
  · next c op hf =>
    obtain ⟨h, hm, hc⟩ := List.exists_of_findSome?_eq_some hf
    obtain ⟨e, rfl⟩ := hr h hm
    cases hc
  · rw [putLanes_unflagged (here_mode hi), Claims.here, State.putG_putG]
    rfl

/-! ## Room for what a PUSH appends (01 R30) -/

/-- What it takes for an instruction to issue, and with what it does. -/
theorem issueC_eq_some_iff {s : State} {i : Instr} {n : Nat} {x : Issue} : issueC s i n = some x ↔
    ∃ g g', s.grp? = some g ∧ cShape i = some x.h ∧ g.cs.sp s.cur.split = some x.p ∧
      ((cCheck s g i x.h).isSome || s.cur.mode != 0 || x.p.cmp || (s.shadowed g && decide (64 ≤ g.behind)) ||
        recordBusy g i) = false ∧
      fetchQ ((fetches i x.h.ss).drop x.p.held.length) g x.p.held = .all g' x.es ∧ roomFor s g' x.h.d n = none ∧
      x.g = g'.popped s.tick (x.es.length = x.p.held.length) := by
  constructor
  · intro h
    unfold issueC at h
    split at h
    · next g hh hg hs =>
      split at h
      · cases h
      · next p hp =>
        split at h
        · cases h
        · next hc =>
          split at h
          · next g' es hf =>
            split at h
            · cases h
            · next hr =>
              cases h
              exact ⟨g, g', hg, hs, hp, Bool.eq_false_iff.mpr hc, hf, Option.not_isSome_iff_eq_none.mp hr, rfl⟩
          · cases h
    · cases h
  · rintro ⟨g, g', hg, hs, hp, hc, hf, hr, hx⟩
    simp only [issueC, hg, hs, hp, hc, hf, hr, Option.isSome_none, Bool.false_eq_true, if_false, ← hx]

theorem issueC_room {s : State} {i : Instr} {n : Nat} {x : Issue} (h : issueC s i n = some x) :
    roomFor s x.g x.h.d n = none := by
  obtain ⟨g, g', -, -, -, -, -, hr, hx⟩ := issueC_eq_some_iff.mp h
  have hp : ∀ b, roomFor s (g'.popped s.tick b) = roomFor s g' := fun b => by cases b <;> rfl
  rw [hx, hp, hr]

theorem roomFor_queue_eq_none_iff {s : State} {g : Group} {m : BitVec 9} {n : Nat} : roomFor s g (some (.queue m)) n = none ↔
    g.occ ([6, 7, 8, 9].getD m.toNat 9) + n ≤ (s.pk g).depth ([6, 7, 8, 9].getD m.toNat 9) := by
  simp [roomFor]

/-- Room for more is room for fewer. -/
theorem roomFor_mono {s : State} {g : Group} {d : Option Dst} {m n : Nat} (hmn : n ≤ m) (h : roomFor s g d m = none) :
    roomFor s g d n = none := by
  cases d with
  | none => rfl
  | some d =>
    cases d with
    | queue q =>
      rw [roomFor_queue_eq_none_iff] at h ⊢
      omega
    | _ => rfl

theorem issueC_of_le {s : State} {i : Instr} {m n : Nat} {x : Issue} (h : issueC s i m = some x) (hmn : n ≤ m) :
    issueC s i n = some x := by
  obtain ⟨g, g', hg, hs, hp, hc, hf, hr, hx⟩ := issueC_eq_some_iff.mp h
  exact issueC_eq_some_iff.mpr ⟨g, g', hg, hs, hp, hc, hf, roomFor_mono hmn hr, hx⟩

/-- Of a longer queue no fewer entries are taken. -/
theorem length_takeWhile_take_append_le {α : Type} (p : α → Bool) (l : List α) (e : α) (n : Nat) :
    ((l.take n).takeWhile p).length ≤ (((l ++ [e]).take n).takeWhile p).length := by
  obtain ⟨t, ht⟩ := (List.prefix_append l [e]).take n
  rw [← ht, List.takeWhile_append]
  split
  · next h => rw [List.length_append, h]; exact Nat.le_add_right ..
  · exact le_rfl

/-- A push takes the room of at most one entry. -/
theorem occ_pushC_le (g : Group) (q k : Nat) (m : Mask) (f : Nat → Word) (now : Nat) :
    (g.pushC q k m f now).occ ([6, 7, 8, 9].getD q 9) ≤ g.occ ([6, 7, 8, 9].getD q 9) + 1 := by
  have hvec : ∀ (l : List VEntry) (e : VEntry) (n : Nat),
      (l ++ [e]).length - (((l ++ [e]).take n).takeWhile fun e => g.performed e.need).length ≤
        l.length - ((l.take n).takeWhile fun e => g.performed e.need).length + 1 := fun l e n => by
    have := length_takeWhile_take_append_le (fun e => g.performed e.need) l e n
    rw [List.length_append, List.length_singleton]
    omega
  match q with
  | 0 | 1 | 2 => exact hvec ..
  | n + 3 =>
    have h9 : [6, 7, 8, 9].getD (n + 3) 9 = 9 := by cases n <;> rfl
    rw [h9]
    exact (List.length_append ..).le

/-- With room for all of its entries a PUSH owes none. -/
theorem pushN_of_room {s : State} {q : BitVec 9} {k n : Nat} {g : Group} (h : roomFor s g (some (.queue q)) n = none) :
    pushN s (.queue q) q.toNat k n g =
      ((List.range n).foldl (fun (g : Group) _ => g.pushC q.toNat k 0 (fun _ => 0) s.tick) g, 0) := by
  induction n generalizing g with
  | zero => rfl
  | succ n ih =>
    have h1 : roomFor s g (some (.queue q)) 1 = none := roomFor_mono (by omega) h
    have hn : roomFor s (g.pushC q.toNat k 0 (fun _ => 0) s.tick) (some (.queue q)) n = none := by
      have hocc := occ_pushC_le g q.toNat k 0 (fun _ => 0) s.tick
      obtain ⟨qs, hq⟩ := pushC_queues g q.toNat k 0 (fun _ => 0) s.tick
      have hpk : s.pk (g.pushC q.toNat k 0 (fun _ => 0) s.tick) = s.pk g := by rw [hq]; rfl
      rw [roomFor_queue_eq_none_iff] at h ⊢
      rw [hpk]
      omega
    rw [pushN, h1, Option.isSome_none, if_neg Bool.false_ne_true, ih hn]
    simp only [List.foldl_const, List.length_range, Function.iterate_succ_apply]

theorem exec_push {s : State} {x : Issue} {n : BitVec 2} {q : BitVec 9} {y : Ctl}
    (hi : issueC s (.push n (.queue q) y) (n.toNat + 1) = some x) (ho : x.p.owed = 0) :
    exec (.push n (.queue q) y) s = .next (x.done s (.push n (.queue q) y) (s.putG
      ((List.range (n.toNat + 1)).foldl (fun (g : Group) _ => g.pushC q.toNat s.cur.split 0 (fun _ => 0) s.tick) (x.past s)))) := by
  have hx : x.h.d = some (.queue q) := by rw [← Option.some.inj (issueC_shape hi)]
  have hr : roomFor s x.g (some (.queue q)) (n.toNat + 1) = none := hx ▸ issueC_room hi
  have hroom : roomFor (s.putG (x.past s)) (x.past s) (some (.queue q)) (n.toNat + 1) = none := hr
  have ho' : (x.env s).p.owed = 0 := ho
  show execPush n (.queue q) y s = _
  refine cIssue_done (issueC_of_le hi (by omega)) ?_
  simp only [ho', if_true, pushN_of_room hroom, Claims.here, State.putG_putG, State.putG_tick]
  rfl

/-- Settles O30: the entries that stand ready are those at the head (`head_of_firstN`), and each push takes the room of one. -/
theorem queueResults : Obligations.QueueResults := by
  refine ⟨fun s x n q y hi ho => ?_, fun s x d q y hi hd => exec_drop hi hd, fun s x n q y hi ho => exec_push hi ho⟩
  intro g k hs hn hr g'
  have hes : hs = (Claims.ready hs).map .ready := map_ready hr
  exact exec_pop hi ho hes (by rw [← hn, ← List.length_map (f := Head.ready), ← hes])

end Sys2Proof.Machine

namespace Sys2Proof.Machine

/-! ## Control of the C-stream (06 R206-R208, 07 R225) -/

theorem exec_nopc {s : State} {x : Issue} {y : Ctl} (hi : issueC s (.nopc y) = some x) :
    exec (.nopc y) s = .next (x.done s (.nopc y) (Claims.here s x)) := by
  show execNopc y s = _
  exact cIssue_putG hi fun _ g => g

theorem laneFaultAt_of_none {g : Group} (h : g.lane = []) (s : State) (k : Nat) (names : Nat → Bool) :
    laneFaultAt s g k names = none := by
  rw [laneFaultAt, h]
  rfl

theorem any_who_of_forall {l : List MemOp} (h : ∀ o ∈ l, o.who = 4) : (l.any fun o => o.who != 4) = false :=
  List.any_eq_false.mpr fun o ho => by simp [h o ho]

theorem any_cfn_of_forall {g : Group} (h : ∀ n < 12, g.cfn n = 0) : ((List.range 12).any fun n => g.cfn n != 0) = false :=
  List.any_eq_false.mpr fun n hn => by simp [h n (List.mem_range.mp hn)]

/-- TFENCE with nothing of the C-stream in flight and no enabled flag up. -/
theorem exec_tfence {s : State} {x : Issue} {y : Ctl} (hi : issueC s (.tfence y) = some x) (hp : ∀ o ∈ x.g.pend, o.who = 4)
    (hl : x.g.lane = []) (hf : ∀ n < 12, x.g.cfn n = 0) (hs : s.leadsPass x.g = false)
    (ht : x.g.sys.sticky &&& x.g.sys.gten = 0) :
    exec (.tfence y) s = .next (x.done s (.tfence y) (s.putG { x.past s with unwaited := [] })) := by
  have hlane : (x.past s).lane = [] := hl
  have hpend : ((x.past s).pend.any fun o => o.who != 4) = false := any_who_of_forall hp
  have hflags : ((List.range 12).any fun n => (x.past s).cfn n != 0) = false := any_cfn_of_forall hf
  have hpass : (s.putG (x.past s)).leadsPass (x.past s) = false := hs
  have hhit : (x.past s).sys.sticky &&& (x.past s).sys.gten = 0 := ht
  show execTfence y s = _
  refine cIssue_done hi ?_
  simp only [laneFaultAt_of_none, hlane, hpend, hflags, hpass, hhit, List.any_nil, Bool.or_false, Bool.false_eq_true, if_false,
    if_true, Claims.here, State.putG_putG]

theorem barCheck_of_lt {s : State} {g : Group} {nb : Nat} (h : nb < (s.pk g).bars) : barCheck s g nb = none :=
  if_neg (Nat.not_le.mpr h)

/-- BWAIT on a barrier that has released the group, which has no cause to take there. -/
theorem exec_bwait {s : State} {x : Issue} {a : Src} {y : Ctl} (hi : issueC s (.bwait a y) = some x) {nb : Nat} {b : Bar}
    (hnb : barNo (x.past s) (x.env s) a = nb) (hb : s.bar x.g.who.tid nb = b)
    (hlt : nb < (s.pk x.g).bars) (hdue : ∀ d ∈ x.g.due, d.1 ≠ nb) (heng : x.g.who.gid ∉ b.engZero)
    (hgo : (x.g.who.gid, s.cur.split) ∉ b.go) (hw : (x.g.who.gid, s.cur.split) ∉ b.wait) (hr : x.g.who.gid ∈ b.rel)
    (ha : x.g.arriving nb s.cur.split = false) :
    exec (.bwait a y) s = .next (x.done s (.bwait a y) ((((Claims.here s x).setBar x.g.who.tid nb
      { b with rel := delNat b.rel x.g.who.gid, owed := delNat b.owed x.g.who.gid }).acquire (x.past s) 2).putG (x.past s))) := by
  have hck : barCheck (Claims.here s x) (x.past s) nb = none := barCheck_of_lt hlt
  have hbar : (Claims.here s x).bar (x.past s).who.tid nb = b := hb
  have hd : (x.past s).due.find? (fun d => d.1 == nb) = none := List.find?_eq_none.mpr fun d hm => by simpa using hdue d hm
  have he : b.engZero.contains (x.past s).who.gid = false := Bool.eq_false_iff.mpr (mt List.contains_iff_mem.mp heng)
  have har : (x.past s).arriving nb (x.env s).k = false := ha
  have hstep : b.waitStep (x.past s).who.gid (x.env s).k ((x.env s).p.blk == some .barrier) = _ := waitStep_rel hgo hw hr _
  show execBwait a y s = _
  refine cIssue_done hi ?_
  simp only [hnb, hck, hd, hbar, he, har, hstep, Bool.false_eq_true, if_false, if_true]
  rfl

theorem performed_of_forall {g : Group} (h : ∀ o ∈ g.pend, o.who = 4) :
    g.performed ((g.pend.filter fun o => o.who != 4).map (·.id)) = true := by
  rw [List.filter_eq_nil_iff.mpr fun o ho => by simp [h o ho]]
  rfl

theorem not_performed_of_exists {g : Group} (h : ∃ o ∈ g.pend, o.who ≠ 4) :
    g.performed ((g.pend.filter fun o => o.who != 4).map (·.id)) = false := by
  obtain ⟨o, ho, hw⟩ := h
  rw [Group.performed, List.all_eq_false]
  refine ⟨o.id, List.mem_map_of_mem (List.mem_filter.mpr ⟨ho, by simpa using hw⟩), ?_⟩
  simp only [List.any_append, Bool.not_eq_true, Bool.not_eq_false', Bool.or_eq_true]
  exact .inl (.inl (List.any_eq_true.mpr ⟨o, ho, beq_self_eq_true _⟩))

/-- BARVC comes to an arrival at its barrier. -/
theorem execBarvc_eq {s : State} {x : Issue} {a : Src} {y : Ctl} {nb : Nat} (hi : issueC s (.barvc a y) = some x)
    (hnb : barNo (x.past s) (x.env s) a = nb) (hlt : nb < (s.pk x.g).bars) {t : State}
    (h : barArrive (Claims.here s x) (x.past s) nb s.cur.split ((x.g.pend.filter fun o => o.who != 4).map (·.id))
      (s.bar x.g.who.tid nb) (fun s g => .done (s.putG g)) = .done t) :
    exec (.barvc a y) s = .next (x.done s (.barvc a y) t) := by
  have hck : barCheck (Claims.here s x) (x.past s) nb = none := barCheck_of_lt hlt
  show execBarvc a y s = _
  refine cIssue_done hi ?_
  simp only [hnb, hck]
  exact h

theorem exec_mxfeed {s : State} {x : Issue} {fl : BitVec 1} {y : Ctl} {k q : Nat} {ss : Session} {p : Part}
    (hi : issueC s (.mxfeed fl y) = some x) (hd : x.g.due = []) (hm : (Claims.here s x).mySession (x.past s) = some (k, ss, q))
    (hs : ss.saved = false) (hp : ss.parts[q]? = some p) (h1 : (x.past s).cs.splits.length ≤ 1) (hf : p.feeds < p.latched + 2)
    (hc : x.g.cfn ((x.env s).flag fl) < 63)
    (hw : x.g.writesPending (p.vb + bankRegs ss.fb * (p.feeds % 2)) (bankRegs ss.fb) = false) :
    exec (.mxfeed fl y) s = .next (x.done s (.mxfeed fl y)
      (({ Claims.here s x with sessions := s.sessions.set k { ss with
          parts := setAt ss.parts q { p with feeds := p.feeds + 1, flags := p.flags ++ [(x.env s).flag fl] } } } : State).putG
        ((x.past s).attach ((x.env s).flag fl)))) := by
  have hdue : (x.past s).due = [] := hd
  have hpend : (x.past s).writesPending (p.vb + bankRegs ss.fb * (p.feeds % 2)) (bankRegs ss.fb) = false := hw
  have hcf : ¬ 63 ≤ (x.past s).cfn ((x.env s).flag fl) := Nat.not_le.mpr hc
  show execMxfeed fl y s = _
  refine cIssue_done hi ?_
  simp only [hdue, List.head?_nil, hm, hp, hs, hpend, withFlag, if_neg hcf, if_neg (Nat.not_lt.mpr h1),
    decide_eq_false (Nat.not_le.mpr hf), Bool.or_false, Bool.false_eq_true, if_false]
  rfl

/-- Settles O34. -/
theorem controlResults : Obligations.ControlResults := by
  refine ⟨fun s x y hi => exec_nopc hi, fun s x y hi hp hl hf hs ht => exec_tfence hi hp hl hf hs ht,
    fun s x a y hi => exec_bwait hi rfl rfl, fun s x a y hi => ?_, fun s x code y hi hen => (ctrap s x code y hi).2 hen,
    fun s x fl y k q ss p hi hd hm hs hp h1 hf _ hc hw => exec_mxfeed hi hd hm hs hp h1 hf hc hw⟩
  intro nb hlt he
  refine ⟨fun hp ha => ?_, fun h => ?_⟩
  · exact execBarvc_eq (nb := nb) hi rfl hlt (barArrive_now (g := x.past s) he (performed_of_forall hp) ha ..)
  · exact execBarvc_eq (nb := nb) hi rfl hlt (barArrive_later (g := x.past s) he (h.imp_left not_performed_of_exists) ..)

end Sys2Proof.Machine

namespace Sys2Proof.Machine

/-! ## Near-memory accesses at issue (06 R209-R214) -/

/-- The lanes of failing elements. -/
def failingLanes (els : List (Nat × Nat)) (bad : Nat × Nat → Bool) : Mask := mkMask fun n => (els.filter bad).any fun e => e.1 == n

theorem getLsbD_failingLanes (els : List (Nat × Nat)) (bad : Nat × Nat → Bool) {l : Nat} (h : l < 96) :
    (failingLanes els bad).getLsbD l = true ↔ ∃ e ∈ els, e.1 = l ∧ bad e = true := by
  rw [failingLanes, getLsbD_mkMask _ h, List.any_eq_true]
  simp only [List.mem_filter, beq_iff_eq]
  exact exists_congr fun e => by tauto

theorem nearCheck_of_within {s : State} {g : Group} {level acc sz : Nat} {els : List (Nat × Nat)}
    (h : Claims.within s g level sz els) : nearCheck s g level acc sz els = none := by
  have hbad : els.filter (fun e => e.2 % min sz 4 != 0) = [] := List.filter_eq_nil_iff.mpr fun e he => by simp [(h e he).1]
  have hout : els.filter (fun e => decide (s.allot g level < e.2 + sz)) = [] :=
    List.filter_eq_nil_iff.mpr fun e he => by simpa using (h e he).2
  simp only [nearCheck, hbad, hout]

/-- A misaligned offset is reported, whatever lies beyond the allotment. -/
theorem nearCheck_of_misaligned {s : State} {g : Group} {level acc sz : Nat} {els : List (Nat × Nat)}
    (h : ∃ e ∈ els, e.2 % min sz 4 ≠ 0) : ∃ c, nearCheck s g level acc sz els = some c ∧ c.grp = 6 ∧
      c.lanes = failingLanes els fun e => e.2 % min sz 4 != 0 := by
  obtain ⟨e, he, hm⟩ := h
  have hbad : els.filter (fun e => e.2 % min sz 4 != 0) ≠ [] := List.ne_nil_of_mem (List.mem_filter.mpr ⟨he, by simpa using hm⟩)
  obtain ⟨f, r, hf⟩ := List.exists_cons_of_ne_nil hbad
  refine ⟨_, by rw [nearCheck]; simp only [hf]; rfl, rfl, ?_⟩
  rw [failingLanes, hf]
  rfl

/-- Where every offset is aligned, one beyond the allotment is. -/
theorem nearCheck_of_outside {s : State} {g : Group} {level acc sz : Nat} {els : List (Nat × Nat)}
    (ha : ∀ e ∈ els, ¬ e.2 % min sz 4 ≠ 0) (h : ∃ e ∈ els, s.allot g level < e.2 + sz) :
    ∃ c, nearCheck s g level acc sz els = some c ∧ c.grp = 4 ∧
      c.lanes = failingLanes els fun e => decide (s.allot g level < e.2 + sz) := by
  obtain ⟨e, he, hm⟩ := h
  have hbad : els.filter (fun e => e.2 % min sz 4 != 0) = [] := List.filter_eq_nil_iff.mpr fun e he => by simpa using ha e he
  have hout : els.filter (fun e => decide (s.allot g level < e.2 + sz)) ≠ [] :=
    List.ne_nil_of_mem (List.mem_filter.mpr ⟨he, decide_eq_true hm⟩)
  obtain ⟨f, r, hf⟩ := List.exists_cons_of_ne_nil hout
  refine ⟨_, by rw [nearCheck]; simp only [hbad, hf]; rfl, rfl, ?_⟩
  rw [failingLanes, hf]
  rfl

theorem nearAccess_of_within {s : State} {g : Group} {e : CEnv} {level sz : Nat} {a b : Lanes} {els : List (Nat × Nat)}
    (he : (lanesOf e.en).map (fun l => (l, (lane a l + lane b l).toNat)) = els) (hw : Claims.within s g level sz els)
    (hu : s.unowned g ((nearPieces s g level sz els).map (·.2))) (i : Instr) (acc : Nat) (f : State → List (Nat × Loc) → Res) :
    nearAccess s g e i level acc sz a b f = f s (nearPieces s g level sz els) := by
  subst he
  unfold State.unowned at hu
  simp only [nearAccess, nearCheck_of_within hw, hu]

theorem nearAccess_of_check {s : State} {g : Group} {e : CEnv} {level acc sz : Nat} {a b : Lanes} {els : List (Nat × Nat)}
    {c : Cause} (he : (lanesOf e.en).map (fun l => (l, (lane a l + lane b l).toNat)) = els)
    (hc : nearCheck s g level acc sz els = some c) (i : Instr) (f : State → List (Nat × Loc) → Res) :
    nearAccess s g e i level acc sz a b f = .trap c s := by
  subst he
  simp only [nearAccess, hc]

/-- How an instruction ends that comes to a near access of its enabled lanes, at the sums of two operands. -/
def Issue.near (x : Issue) (s : State) (i : Instr) (level acc sz : Nat) (a b : Src) (f : State → List (Nat × Loc) → Res) : Out :=
  finishC i x.h ((encodeC i).getD 0) (x.env s) s x.g (nearAccess (Claims.here s x) (x.past s) (x.env s) i level acc sz
    ((x.vals s (ints [a, b])).getD 0 []) ((x.vals s (ints [a, b])).getD 1 []) f)

/-- A near operation of the split put in flight. -/
def Issue.flight (x : Issue) (s : State) (kind : MemKind) (acq rel : Nat) (after : Group → Group) (t : State)
    (ps : List (Nat × Loc)) : Res :=
  .done (t.newId.2.putG (after ((x.past s).addPend
    { id := t.nextId, who := s.cur.split, pc := x.p.idx, kind, els := ps, got := [], acq, rel })))

theorem near_flies {s : State} {x : Issue} {i : Instr} {level acc sz : Nat} {a b : Src}
    (hw : Claims.within (Claims.here s x) (x.past s) level sz (Claims.near s x a b))
    (hu : (Claims.here s x).unowned (x.past s)
      ((nearPieces (Claims.here s x) (x.past s) level sz (Claims.near s x a b)).map (·.2)))
    (kind : MemKind) (acq rel : Nat) (after : Group → Group) :
    x.near s i level acc sz a b (x.flight s kind acq rel after) = .next (Claims.flies s x i kind
      (nearPieces (Claims.here s x) (x.past s) level sz (Claims.near s x a b)) acq rel after) := by
  rw [Issue.near, nearAccess_of_within rfl hw hu]
  rfl

theorem near_traps {s : State} {x : Issue} {i : Instr} {level acc sz : Nat} {a b : Src} {c : Cause}
    (hc : nearCheck (Claims.here s x) (x.past s) level acc sz (Claims.near s x a b) = some c)
    (f : State → List (Nat × Loc) → Res) : x.near s i level acc sz a b f =
      finishC i x.h ((encodeC i).getD 0) (x.env s) s x.g (.trap c (Claims.here s x)) := by
  rw [Issue.near, nearAccess_of_check rfl hc]

theorem nearLoad_of_issueC {s : State} {x : Issue} {i : Instr} (hi : issueC s i = some x) (level : Nat) (size : BitVec 3)
    (acq : BitVec 1) {fl : BitVec 1} (hf : (x.past s).cfn ((x.env s).flag fl) < 63) (d : BitVec 9) (a b : Src) :
    nearLoad i level size acq fl (.v d) a b s = x.near s i level 0 (nearSize size).1 a b
      (x.flight s (.near d.toNat (nearSize size).1 (nearSize size).2 ((x.env s).flag fl)) (if acq = 1 then nearScope level else 0) 0
        fun g => (g.attach ((x.env s).flag fl)).await s.cur.split ((List.range (sizeWords size)).map fun j => d.toNat + j)
          ((x.env s).flag fl)) := by
  rw [nearLoad, cIssue_of_issueC hi]
  simp only [withFlag, if_neg (Nat.not_le.mpr hf)]
  rfl

theorem nearStore_of_issueC {s : State} {x : Issue} {i : Instr} (hi : issueC s i = some x) (level : Nat) (size : BitVec 3)
    (rel : BitVec 1) (a b c : Src) :
    nearStore i level size rel a b c s = x.near s i level 1 (nearSize size).1 a b
      (x.flight s (.nearStore (nearSize size).1
        (storeData (x.env s) (x.past s).cs size c ((x.vals s (ints [a, b, c])).getD 2 []))) 0
        (if rel = 1 then nearScope level else 0) id) := by
  rw [nearStore, cIssue_of_issueC hi]
  rfl

theorem nearAtomic_of_issueC {s : State} {x : Issue} {i : Instr} (hi : issueC s i = some x) (level : Nat) (op : BitVec 4)
    {ret : BitVec 1} (ord : BitVec 2) {fl : BitVec 1} (hf : ret = 1 → (x.past s).cfn ((x.env s).flag fl) < 63) (d : Dst)
    (a b c e : Src) :
    let n := if ret = 1 then (x.env s).flag fl else 15
    let vs := x.vals s (ints [a, b] ++ [(if 12 ≤ op.toNat then .f32 else .int, c)] ++ if op = 9 then [(.int, e)] else [])
    nearAtomic i level op ret ord fl d a b c e s = x.near s i level 2 4 a b
      (x.flight s (.nearAtom (dstV d) op.toNat (ret == 1) n (vs.getD 2 []) (vs.getD 3 []))
        (if ord = 1 ∨ ord = 3 then nearScope level else 0) (if ord = 2 ∨ ord = 3 then nearScope level else 0) fun g =>
        if ret = 1 then (g.attach n).await s.cur.split [dstV d] n else g) := by
  intro n vs
  have hty : op = 9 → (if 12 ≤ op.toNat then OpTy.f32 else OpTy.int) = OpTy.int := by rintro rfl; rfl
  have hvs : (x.env s).vals (x.past s).cs (intSrcs [a, b] ++ [(if 12 ≤ op.toNat then .f32 else .int, c)] ++
      if op = 9 then [(if 12 ≤ op.toNat then .f32 else .int, e)] else []) (x.env s).es = vs := by
    by_cases h9 : op = 9
    · rw [if_pos h9, hty h9]
      show _ = x.vals s _
      rw [if_pos h9, hty h9]
      rfl
    · rw [if_neg h9]
      show _ = x.vals s _
      rw [if_neg h9]
      rfl
  rw [nearAtomic, cIssue_of_issueC hi]
  dsimp only
  rw [hvs]
  rcases bit_cases ret with rfl | rfl
  · rfl
  · rw [if_pos rfl, withFlag, if_neg (Nat.not_le.mpr (hf rfl))]
    rfl

/-- Settles O31. -/
theorem nearMemoryIssues : Obligations.NearMemoryIssues := by
  refine ⟨?_, ?_, ?_⟩
  · intro s x level i size acq fl d a b y h hi n _ hf els ps hw hu
    have he : exec i s = nearLoad i level size acq fl (.v d) a b s := by
      rcases h with ⟨rfl, rfl⟩ | ⟨rfl, rfl⟩ | ⟨rfl, rfl⟩ <;> rfl
    rw [he, nearLoad_of_issueC hi level size acq hf]
    exact near_flies hw hu ..
  · intro s x level i size rel a b c y h hi els ps hw hu data
    have he : exec i s = nearStore i level size rel a b c s := by
      rcases h with ⟨rfl, rfl⟩ | ⟨rfl, rfl⟩ | ⟨rfl, rfl⟩ <;> rfl
    rw [he, nearStore_of_issueC hi]
    exact (near_flies hw hu ..).trans (by cases c <;> rfl)
  · intro s x level i op ret ord fl d a b c e y h hi n hf vs els ps hw hu
    have he : exec i s = nearAtomic i level op ret ord fl d a b c e s := by
      rcases h with ⟨rfl, rfl⟩ | ⟨rfl, rfl⟩ <;> rfl
    have hcf : ret = 1 → (x.past s).cfn ((x.env s).flag fl) < 63 := fun hr => by
      have := (hf hr).2
      rwa [show n = (x.env s).flag fl from if_pos hr] at this
    rw [he, nearAtomic_of_issueC hi level op ord hcf]
    exact near_flies hw hu ..

/-! ## Near-memory accesses that trap (06 R213) -/

/-- Where a split stands. -/
def CSide.at? (c : CSide) (k : Nat) : Option Nat := (c.sp k).map (·.idx)

theorem at?_popHead (g : Group) (q k : Nat) : (g.popHead q).cs.at? k = g.cs.at? k := by
  have h : (g.popHead q).cs.splits = g.cs.splits.mapV fun _ p =>
      { p with dropN := p.dropN.map fun (d : Nat × Nat) => if d.1 = q then (d.1, d.2 - 1) else d } := by
    unfold Group.popHead
    dsimp only
    split <;> rfl
  rw [CSide.at?, CSide.sp, h, Tbl.get?_mapV, Option.map_map]
  rfl

theorem at?_fetchQ {l : List Nat} {g g' : Group} {es es' : List (Nat × VEntry)} (h : fetchQ l g es = .all g' es') (k : Nat) :
    g'.cs.at? k = g.cs.at? k := by
  induction l generalizing g es with
  | nil =>
    cases h
    rfl
  | cons st r ih =>
    unfold fetchQ at h
    dsimp only at h
    split at h
    · cases h
    · cases h
    · rw [ih h]
      split
      · rfl
      · exact at?_popHead ..

/-- The split that issues stands at its word. -/
theorem issueC_at? {s : State} {i : Instr} {n : Nat} {x : Issue} (h : issueC s i n = some x) :
    x.g.cs.at? s.cur.split = some x.p.idx := by
  obtain ⟨g, g', -, -, hp, -, hf, -, hx⟩ := issueC_eq_some_iff.mp h
  rw [hx, Group.popped_cs, at?_fetchQ hf, CSide.at?, hp]
  rfl

theorem at?_unheld (g : Group) (k : Nat) (es : List (Nat × VEntry)) : (g.unheld k es).cs.at? k = g.cs.at? k := by
  obtain ⟨q, hq⟩ := unheld_queues g k es
  rw [hq]
  show ((g.cs.updSp k _).sp k).map _ = _
  rw [CSide.sp_updSp_same, Option.map_map]
  rfl

theorem cPending_cpc {g : Group} {k n : Nat} (h : g.cs.at? k = some n) (w : BitVec 96) (c : Cause) :
    (cPending g k w c).cpc = n := by
  obtain ⟨p, hp, rfl⟩ := Option.map_eq_some_iff.mp h
  show ((g.cs.sp k).getD _).idx = _
  rw [hp]
  rfl

/-- The instructions that access near memory, with the level, the access's size, its address operands and its flag (06 R209-R214). -/
def AccessesNear (i : Instr) (level size : Nat) (a b : Src) (fl : Option (BitVec 1)) : Prop :=
  (∃ sz acq f d y, i = .ldl sz acq f (.v d) a b y ∧ level = 4 ∧ size = (nearSize sz).1 ∧ fl = some f) ∨
    (∃ sz acq f d y, i = .lds sz acq f (.v d) a b y ∧ level = 3 ∧ size = (nearSize sz).1 ∧ fl = some f) ∨
    (∃ sz acq f d y, i = .ldc sz acq f (.v d) a b y ∧ level = 2 ∧ size = (nearSize sz).1 ∧ fl = some f) ∨
    (∃ sz rel c y, i = .stl sz rel a b c y ∧ level = 4 ∧ size = (nearSize sz).1 ∧ fl = none) ∨
    (∃ sz rel c y, i = .sts sz rel a b c y ∧ level = 3 ∧ size = (nearSize sz).1 ∧ fl = none) ∨
    (∃ sz rel c y, i = .stc sz rel a b c y ∧ level = 2 ∧ size = (nearSize sz).1 ∧ fl = none) ∨
    (∃ op ret ord f d c e y, i = .atoms op ret ord f d a b c e y ∧ level = 3 ∧ size = 4 ∧ fl = if ret = 1 then some f else none) ∨
    (∃ op ret ord f d c e y, i = .atomc op ret ord f d a b c e y ∧ level = 2 ∧ size = 4 ∧ fl = if ret = 1 then some f else none)

/-- Each of them comes to its access once its flag may take one more. -/
theorem exec_accessesNear {s : State} {x : Issue} {i : Instr} {level size : Nat} {a b : Src} {fl : Option (BitVec 1)}
    (hi : issueC s i = some x) (h : AccessesNear i level size a b fl)
    (hf : ∀ f, fl = some f → (x.past s).cfn ((x.env s).flag f) < 63) :
    ∃ acc f, exec i s = x.near s i level acc size a b f := by
  rcases h with ⟨sz, acq, f, d, y, rfl, rfl, rfl, rfl⟩ | ⟨sz, acq, f, d, y, rfl, rfl, rfl, rfl⟩ |
    ⟨sz, acq, f, d, y, rfl, rfl, rfl, rfl⟩ | ⟨sz, rel, c, y, rfl, rfl, rfl, rfl⟩ | ⟨sz, rel, c, y, rfl, rfl, rfl, rfl⟩ |
    ⟨sz, rel, c, y, rfl, rfl, rfl, rfl⟩ | ⟨op, ret, ord, f, d, c, e, y, rfl, rfl, rfl, rfl⟩ |
    ⟨op, ret, ord, f, d, c, e, y, rfl, rfl, rfl, rfl⟩
  · exact ⟨_, _, nearLoad_of_issueC hi 4 sz acq (hf f rfl) d a b⟩
  · exact ⟨_, _, nearLoad_of_issueC hi 3 sz acq (hf f rfl) d a b⟩
  · exact ⟨_, _, nearLoad_of_issueC hi 2 sz acq (hf f rfl) d a b⟩
  · exact ⟨_, _, nearStore_of_issueC hi 4 sz rel a b c⟩
  · exact ⟨_, _, nearStore_of_issueC hi 3 sz rel a b c⟩
  · exact ⟨_, _, nearStore_of_issueC hi 2 sz rel a b c⟩
  · exact ⟨_, _, nearAtomic_of_issueC hi 3 op ord (fun hr => hf f (if_pos hr)) d a b c e⟩
  · exact ⟨_, _, nearAtomic_of_issueC hi 2 op ord (fun hr => hf f (if_pos hr)) d a b c e⟩

/-- Settles O47: the failing lanes are those of the check that comes first, and the trap's group is the one that issued with its
entries given back. -/
theorem nearMemoryTraps : Obligations.NearMemoryTraps := by
  intro s x i level size a b fl hi h hfl ht els off out traps
  obtain ⟨acc, f, he⟩ := exec_accessesNear hi h fun f hf => (hfl f hf).2
  obtain ⟨g, hg, hsl⟩ := issueC_grp? hi
  obtain ⟨hslices, htr, hcf⟩ : (x.g.unheld s.cur.split x.es).slices = x.g.slices ∧
      (x.g.unheld s.cur.split x.es).trap = x.g.trap ∧ (x.g.unheld s.cur.split x.es).cf = x.g.cf := by
    obtain ⟨q, hq⟩ := unheld_queues x.g s.cur.split x.es
    rw [hq]
    exact ⟨rfl, rfl, rfl⟩
  have htrap : ∀ (c : Cause) (grp : Nat) (fails : Nat × Nat → Prop),
      nearCheck (Claims.here s x) (x.past s) level acc size els = some c → c.grp = grp → grp ≠ 7 → grp ≠ 13 →
      (∀ l < 96, c.lanes.getLsbD l = true ↔ ∃ e ∈ els, e.1 = l ∧ fails e) → traps grp fails := by
    rintro c grp fails hc rfl h7 h13 hl
    refine ⟨_, _, x.g.unheld s.cur.split x.es, he.trans ((near_traps hc f).trans (finishC_trap h7 h13 ..)), rfl, rfl, rfl,
      cPending_cpc ((at?_unheld ..).trans (issueC_at? hi)) .., hl,
      (onlyGroup_putG s _).byteAt hg (hslices.trans hsl), State.putG_grp? .., htr.trans ht, hcf⟩
  refine ⟨fun hbad => ?_, fun hok hout => ?_⟩
  · obtain ⟨c, hc, hgrp, hlanes⟩ := nearCheck_of_misaligned (s := Claims.here s x) (g := x.past s) (level := level) (acc := acc) hbad
    refine htrap c 6 off hc hgrp (by decide) (by decide) fun l hl => ?_
    rw [hlanes, getLsbD_failingLanes _ _ hl]
    simp only [bne_iff_ne]
    rfl
  · obtain ⟨c, hc, hgrp, hlanes⟩ := nearCheck_of_outside (acc := acc) hok hout
    refine htrap c 4 out hc hgrp (by decide) (by decide) fun l hl => ?_
    rw [hlanes, getLsbD_failingLanes _ _ hl]
    simp only [decide_eq_true_eq]
    rfl

end Sys2Proof.Machine

namespace Sys2Proof.Machine

/-! ## Lane engines and ray states (07 R238-R243) -/

theorem withFlag_of_lt {e : CEnv} {g : Group} {fl : BitVec 1} (h : g.cfn (e.flag fl) < 63) (s : State) (f : Nat → Res) :
    withFlag e g s fl f = f (e.flag fl) := if_neg (Nat.not_le.mpr h)

/-- SAMPLE and GATH4 go in flight with their operands as they stand. -/
theorem issueSample_of_issueC {s : State} {x : Issue} {i : Instr} (hi : issueC s i = some x) (n : Nat) {t : BitVec 4}
    {fl : BitVec 1} (d a : BitVec 9) (lod : Src) {tt : Ten} (hf : (x.past s).cfn ((x.env s).flag fl) < 63)
    (ht : (x.past s).tensor t.toNat = some tt) :
    issueSample i n t fl (.v d) (.v a) lod s = .next (Claims.laneOp s x i ((x.env s).flag fl) d
      (((List.range n).map fun j => (x.past s).cs.rv (a.toNat + j)) ++ x.vals s [(.f32, lod)]) ((x.past s).rt t.toNat).img) :=
  cIssue_done hi ((withFlag_of_lt hf ..).trans (withT_of_tensor ht ..))

/-- The ray states of the enabled lanes: lane and offset, which the first operand gives. -/
def Issue.rays (x : Issue) (s : State) (ops : List (OpTy × Src)) : List (Nat × Nat) :=
  (lanesOf (x.env s).en).map fun l => (l, (lane ((x.vals s ops).getD 0 []) l).toNat)

/-- Ray states that an instruction uses at once: aligned and within the allotment, owned by no engine operation of the group, with no
near access of the split before them (07 R240, R241, R243). -/
structure Issue.RaysUsable (x : Issue) (s : State) (offs : List (Nat × Nat)) : Prop where
  within : ∀ e ∈ offs, e.2 % 64 = 0 ∧ e.2 + 64 ≤ (Claims.here s x).allot (x.past s) 4
  free : (Claims.here s x).firstOwned x.g.who.gid s.nextId (offs.map fun e => rayLoc (x.past s) e.1 e.2) = .free
  idle : ∀ o ∈ (x.past s).pend, o.who ≠ s.cur.split

theorem rayCheck_of_within {s : State} {g : Group} {els : List (Nat × Nat)}
    (h : ∀ e ∈ els, e.2 % 64 = 0 ∧ e.2 + 64 ≤ s.allot g 4) (acc : Nat) : rayCheck s g acc els = none := by
  have hbad : els.filter (fun e => e.2 % 64 != 0) = [] := List.filter_eq_nil_iff.mpr fun e he => by simp [(h e he).1]
  have hout : els.filter (fun e => decide (s.allot g 4 < e.2 + 64)) = [] :=
    List.filter_eq_nil_iff.mpr fun e he => by simpa using (h e he).2
  simp only [rayCheck, hbad, hout]

theorem withRays_of_usable {s : State} {x : Issue} {ops : List (OpTy × Src)} (h : x.RaysUsable s (x.rays s ops)) (i : Instr)
    (acc : Nat) (f : State → List (Nat × Nat) → Res) :
    withRays (Claims.here s x) (x.past s) (x.env s) i acc ((x.vals s ops).getD 0 []) f = f (Claims.here s x) (x.rays s ops) := by
  have hck : rayCheck (Claims.here s x) (x.past s) acc (x.rays s ops) = none := rayCheck_of_within h.within acc
  have hfree : (Claims.here s x).firstOwned (x.past s).who.gid (Claims.here s x).nextId
      ((x.rays s ops).map fun e => rayLoc (x.past s) e.1 e.2) = .free := h.free
  have hidle : ¬((x.past s).pend.any fun p => p.who == s.cur.split) = true := by simpa using h.idle
  unfold Issue.rays at *
  simp only [withRays, hck, hfree]
  exact if_neg hidle

/-- TRACE and TRESUME go in flight with their operands as they stand. -/
theorem issueTrace_of_issueC {s : State} {x : Issue} {i : Instr} (hi : issueC s i = some x) {b : BitVec 5} {fl : BitVec 1}
    (d ray : BitVec 9) {s0 : Src} {more : List Src} {v : Buf} (hf : (x.past s).cfn ((x.env s).flag fl) < 63)
    (hb : (x.past s).record b.toNat = some v) (hr : x.RaysUsable s (x.rays s (ints (s0 :: more)))) :
    issueTrace i b fl (.v d) (.v ray) s0 more s = .next (Claims.laneOp s x i ((x.env s).flag fl) d
      (((List.range 8).map fun j => (x.past s).cs.rv (ray.toNat + j)) ++ x.vals s (ints (s0 :: more)))
      ((x.past s).rb b.toNat).img) :=
  cIssue_done hi ((withFlag_of_lt hf ..).trans ((withB_of_record hb ..).trans (withRays_of_usable hr ..)))

/-- Settles O36: each instruction passes its flag's check, its record's and, to traverse, its ray states'. -/
theorem laneEngineIssues : Obligations.LaneEngineIssues := by
  refine ⟨?_, ?_⟩
  · intro s x i n t fl d a lod y tt addr u h hi f _ hf ht _
    rcases h with ⟨rfl, rfl⟩ | ⟨rfl, rfl⟩
    · exact issueSample_of_issueC hi (if u = 2 then 6 else 2) d a lod hf ht
    · exact issueSample_of_issueC hi 2 d a lod hf ht
  · intro s x i b fl d ray s0 more y v h hi f vs offs _ hf hb _ _ _ _ hw hfree hp
    have hr : x.RaysUsable s (x.rays s (ints (s0 :: more))) := ⟨hw, hfree, hp⟩
    rcases h with ⟨m, r0, k, rfl, rfl⟩ | ⟨rfl, rfl⟩
    · exact issueTrace_of_issueC hi d ray hf hb hr
    · exact issueTrace_of_issueC hi d ray hf hb hr

theorem inf32_eq : inf32 = 0x7F800000 := by decide

/-- TCAND and TQUERY write four registers of the enabled lanes. -/
theorem rayQuery_of_issueC {s : State} {x : Issue} {i : Instr} (hi : issueC s i = some x) (d : BitVec 9) {s0 : Src}
    (hr : x.RaysUsable s (x.rays s (ints [s0]))) (f : RayState → List Nat) :
    let rows := (x.rays s (ints [s0])).map fun e => (e.1, f ((Claims.here s x).rayState (x.past s) e.1 e.2))
    rayQuery i (.v d) s0 f s = .next (x.done s i ((Claims.here s x).putG ((List.range 4).foldl (fun (g : Group) j =>
      { g with cs := g.cs.wv (d.toNat + j) (x.env s).en (mkLanes fun l =>
        BitVec.ofNat 32 (((rows.find? fun r => r.1 == l).map fun r => r.2.getD j 0).getD 0)) }) (x.past s)))) := by
  refine cIssue_done hi ((withRays_of_usable hr ..).trans (congrArg Res.done ?_))
  rw [Claims.here, State.putG_updG, State.putG_putG]
  rfl

theorem exec_treport {s : State} {x : Issue} {d : Dst} {s0 t w : Src} {y : Ctl} (hi : issueC s (.treport d s0 t w y) = some x)
    (hr : x.RaysUsable s (x.rays s (ints [s0]))) :
    let vs := x.vals s [(.int, s0), (.f32, t), (.int, w)]
    let r := (x.rays s (ints [s0])).foldl (fun (a : State × List Nat) e =>
      let st := a.1.rayState (x.past s) e.1 e.2
      let c := st.commit st.ken (lane (vs.getD 1 []) e.1).toNat (st.kinst, st.kgeom % 2 ^ 16, st.kprim)
        (lane (vs.getD 2 []) e.1).toNat
      if st.cand ∧ c.2 then (a.1.putRay (x.past s) e.1 e.2 c.1, a.2 ++ [e.1]) else a) (Claims.here s x, [])
    exec (.treport d s0 t w y) s =
      .next (x.done s (.treport d s0 t w y) (r.1.updG fun g => g.writePred d (x.env s).en fun l => r.2.contains l)) := by
  intro vs r
  show execTreport d s0 t w y s = _
  refine cIssue_done hi ((withRays_of_usable (ops := [(.int, s0), (.f32, t), (.int, w)]) hr ..).trans ?_)
  simp only [← ite_and]
  rfl

theorem exec_tabort {s : State} {x : Issue} {s0 : Src} {y : Ctl} (hi : issueC s (.tabort s0 y) = some x)
    (hr : x.RaysUsable s (x.rays s (ints [s0]))) :
    exec (.tabort s0 y) s = .next (x.done s (.tabort s0 y) ((x.rays s (ints [s0])).foldl (fun (t : State) e =>
      t.putRay (x.past s) e.1 e.2 { t.rayState (x.past s) e.1 e.2 with done := true, cand := false }) (Claims.here s x))) := by
  show execTabort s0 y s = _
  exact cIssue_done hi (withRays_of_usable hr ..)

/-- Settles O37. -/
theorem rayStateResults : Obligations.RayStateResults := by
  intro s x i s0 hi h g offs hw hfree hp
  have hr : x.RaysUsable s (x.rays s (ints [s0])) := ⟨hw, hfree, hp⟩
  refine ⟨?_, ?_, ?_⟩
  · rintro d y f (⟨rfl, rfl⟩ | ⟨rfl, rfl⟩)
    · show execTcand (.v d) s0 y s = _
      exact rayQuery_of_issueC hi d hr _
    · show execTquery (.v d) s0 y s = _
      rw [execTquery, inf32_eq, noIdx]
      exact rayQuery_of_issueC hi d hr _
  · rintro d t w y rfl
    exact exec_treport hi hr
  · rintro y rfl
    exact exec_tabort hi hr

end Sys2Proof.Machine

namespace Sys2Proof.Machine

/-! ## The matrix instructions at issue (07 R218-R232) -/

/-- An instruction whose pass joins a session that has room and is not saved. -/
theorem aIssue_passed {s : State} {g : Group} {i : Instr} {body : Group → State → Res} {k : Nat} {ss : Session} {p : Pass}
    {lines : Pass → List (Loc × Nat)} (hi : issueA s i = some g) (hsaved : ss.saved = false) (hroom : ss.passes.length < 4)
    (hb : body g s = issuePass s g k ss p lines) : aIssue i body s = .next (Claims.passed s g k ss p lines) := by
  have hgo : ¬(ss.saved || decide (4 ≤ ss.passes.length)) = true := by simp [hsaved, hroom]
  exact aIssue_done hi (hb.trans (if_neg hgo))

/-- An output record is used as a pass names it: none where it keeps its tile, else one of the session's output format. -/
theorem withOut_of_is {g : Group} {o : BitVec 4} {nd fmt : Nat}
    (h : o ≠ 15 → ∃ u, g.tensor o.toNat = some u ∧ u.is nd fmt = true) (s : State) (f : Option Ten → Res) :
    ∃ t : Option Ten, (t.all fun t => t.is nd fmt) = true ∧ withOut g s o f = f t := by
  by_cases ho : o = 15
  · exact ⟨none, rfl, if_pos ho⟩
  · obtain ⟨u, hu, his⟩ := h ho
    exact ⟨some u, his, (if_neg ho).trans (withT_of_tensor hu ..)⟩

/-- The epilogue that loads the tile is one that the session's formats have. -/
theorem accin_allowed {epi : BitVec 4} {fa fo : Nat} (h : epi = 9 → accinOk fa fo = true) :
    (epi == 9 && !accinOk fa fo) = false := by
  simpa using h

/-- A depthwise pass whose step holds a channel, and that takes one step. -/
theorem depthwise_allowed {cv : Conv} {slab : Nat} {ks : BitVec 12} (h : cv.dw1 = true → convG cv slab ≠ 0 ∧ ks = 1) :
    (cv.dw1 && (convG cv slab == 0 || ks != 1)) = false := by
  cases hd : cv.dw1 with
  | false => rfl
  | true => simp [h hd]

/-- Settles O20: each instruction passes its checks one by one. -/
theorem matrixIssues : Obligations.MatrixIssues := by
  refine ⟨?_, ?_, ?_, ?_, ?_, ?_⟩
  · intro s g vb fa fb dist fo tiles prio q nb hi hstop hsave hv hsess hw hh hnb harea hm
    show execMxbind vb fa fb dist fo tiles prio q nb s = _
    rw [execMxbind]
    have hquads : ¬(g.session.isSome || !quadAligned (s.pk g)) = true := by simp [hsess, quadAligned, hw, hh]
    refine aIssue_wait hi ?_
    refine (if_neg hstop).trans ((notWhileSaving_of_none hsave ..).trans ((if_neg (Nat.not_lt.mpr hv)).trans
      ((if_neg hquads).trans ?_)))
    simp only [barCheck_of_lt hnb, areaBytes, Nat.not_lt.mpr harea, hm]
    rfl
  · intro s g ta c z ks mr o ob acc epi t k ss hi hsave ht ho hm hmay his he hsaved hroom
    show execMxloop ta c z ks mr o ob acc epi s = _
    rw [execMxloop]
    refine aIssue_passed hi hsaved hroom ?_
    refine (notWhileSaving_of_none hsave ..).trans ((withT_of_tensor ht ..).trans ?_)
    obtain ⟨u, hu, hout⟩ := withOut_of_is ho s _
    refine hout.trans ?_
    simp only [hm, hmay, his, hu, accin_allowed he, Bool.not_true, Bool.or_self, Bool.false_eq_true, if_false]
  · intro s g ti tc c z ks mr o ob acc epi t tv k ss hi hsave ht htv ho hm hmay hbq his hkind he hdw hsaved hroom
    show execMxconv ti tc c z ks mr o ob acc epi s = _
    rw [execMxconv]
    refine aIssue_passed hi hsaved hroom ?_
    refine (notWhileSaving_of_none hsave ..).trans ((withT_of_tensor ht ..).trans ((withT_of_tensor htv ..).trans ?_))
    obtain ⟨u, hu, hout⟩ := withOut_of_is ho s _
    refine hout.trans ?_
    simp only [hm, hmay, hbq, his, hkind, hu, accin_allowed he, depthwise_allowed hdw, bne_self_eq_false, Bool.not_true,
      Bool.or_self, Bool.false_eq_true, if_false]
  · intro s g z kk big o ob t k ss hi hsave ht hm hmay his hsaved hroom
    show execMxsel z kk big o ob s = _
    rw [execMxsel]
    refine aIssue_passed hi hsaved hroom ?_
    refine (notWhileSaving_of_none hsave ..).trans ((withT_of_tensor ht ..).trans ?_)
    simp only [hm, hmay, his, Bool.not_true, Bool.false_eq_true, if_false]
  · intro s g d k ss q hi hsave hm
    show execMxstat d s = _
    refine aIssue_done hi ((notWhileSaving_of_none hsave ..).trans ?_)
    simp only [hm]
  · intro s g k ss q hi hsave ht hm hsaved htold
    show execMxrel s = _
    unfold State.nothingToTake at ht
    have hall : ¬(ss.saved || !ss.passes.all (·.told)) = true := by simpa [hsaved] using htold
    refine aIssue_done hi ((notWhileSaving_of_none hsave ..).trans ?_)
    simp only [ht, hm]
    exact if_neg hall

end Sys2Proof.Machine

namespace Sys2Proof.Machine

/-! ## Steps of the matrix engine (07 R221, R222, R226, R232; 12 R328, R333-R335) -/

/-- Steps that change the groups alone leave the rest of the machine. -/
theorem foldl_groups_frame {α : Type} (l : List α) (f : State → α → Tbl Group) (s : State) :
    ∃ gs, l.foldl (fun (s : State) e => { s with groups := f s e }) s = { s with groups := gs } := by
  refine List.foldlRecOn (motive := fun t : State => ∃ gs, t = { s with groups := gs }) _ _ ⟨s.groups, rfl⟩ ?_
  rintro _ ⟨gs, rfl⟩ e -
  exact ⟨_, rfl⟩

theorem foldl_groups_sessions {α : Type} (l : List α) (f : State → α → Tbl Group) (s : State) :
    (l.foldl (fun (s : State) e => { s with groups := f s e }) s).sessions = s.sessions := by
  obtain ⟨gs, h⟩ := foldl_groups_frame l f s
  rw [h]

theorem foldl_groups_binds {α : Type} (l : List α) (f : State → α → Tbl Group) (s : State) :
    (l.foldl (fun (s : State) e => { s with groups := f s e }) s).binds = s.binds := by
  obtain ⟨gs, h⟩ := foldl_groups_frame l f s
  rw [h]

/-- Settles O41: for each step the premises rule out what would hold it back (`hgo`), and then give each answer it asks for in turn. -/
theorem matrixSteps : Obligations.MatrixSteps := by
  refine ⟨?_, ?_, ?_, ?_, ?_, ?_, ?_⟩
  · intro s quad entry b bs hset hfree
    show ∃ t ss, execSessionForm quad s = .next t ∧ _
    simp only [execSessionForm, hset, hfree]
    exact ⟨_, _, rfl, (congrArg (Tbl.get? · s.nextId) (foldl_groups_sessions ..)).trans (Tbl.get?_set_same ..),
      rfl, rfl, rfl, rfl, rfl, rfl, rfl, rfl, congrArg (List.filter _) (foldl_groups_binds ..)⟩
  · intro s quad k ss0 ss r p ps hbusy hpre hsort
    dsimp only
    intro hget hpass
    show execPassGrant quad s = _
    have hgo : ¬(s.arraysBusy quad || (s.quads.getD quad Quad.reset).preempt.isSome) = true := by
      simp only [hbusy, hpre, Option.isSome_none, Bool.or_self, Bool.false_eq_true, not_false_eq_true]
    simp only [execPassGrant, if_neg hgo, hsort, hget, hpass]
    cases (s.quads.getD quad Quad.reset).lastUse <;> rfl
  · intro s quad t k id r ss hs hget hq hopen s1
    show execSurgeGrant quad s = _
    simp only [execSurgeGrant, hs, hget]
    refine if_neg ?_
    cases h : s.surge with
    | none => simp [hq]
    | some u => simp [hq, hopen u h]
  · intro s s1 quad k ss ss1 p g fl hrun hin hsurge hfault hstep hfed hready hpre hfirst l
    show execStepStart quad s = _
    have hgo : ¬(p.inStep || p.surge.isSome || p.fault.isSome || decide ((mxArgs p.instr).ks ≤ p.step) || !ss.fed ||
        !g.engReady p.need || (s.quads.getD quad Quad.reset).preempt.isSome) = true := by
      simp [hin, hsurge, hfault, hstep, hfed, hready, hpre, -List.getD_eq_getElem?_getD]
    simp only [execStepStart, hrun, if_neg hgo, hfirst]
    rfl
  · intro s s1 quad i k err ss p g raw hrun hin hfault hi hrow
    dsimp only
    have hgo : ¬(!p.inStep || p.fault.isSome || decide (4 ≤ i) || decide (p.rowsOf i ≤ p.rows.getD i 0)) = true := by
      simp [hin, hfault, hi, hrow, -List.getD_eq_getElem?_getD]
    have hexec : exec (.rowDecode quad i err) s = execRowDecode quad i err s := rfl
    refine ⟨fun got hgot => ?_, fun hnone htake => ?_⟩
    · have hparts : rowAhead s g ss p i (p.rows.getD i 0) = (_, some got) := Prod.ext rfl hgot
      simp only [hexec, execRowDecode, hrun, if_neg hgo]
      rw [hparts]
    · have hparts : rowAhead s g ss p i (p.rows.getD i 0) = (_, none) := Prod.ext rfl hnone
      simp only [hexec, execRowDecode, hrun, if_neg hgo]
      rw [hparts]
      simp only [htake]
      exact ⟨fun hw => by simp only [hw], fun row fl ev hw => by simp only [hw]⟩
  · intro s s1 s2 quad k n ss p g tab hrun hpre hin hfault hstep hready hturn htab hrows
    show execPassComplete quad s = _
    have hgo : ¬(p.inStep || p.fault.isSome || decide (p.step < (mxArgs p.instr).ks) || !g.engReady p.need ||
        !s.engTurn p.id (p.lines.map (·.1)) || (s.quads.getD quad Quad.reset).preempt.isSome) = true := by
      simp [hin, hfault, hstep, hready, hturn, hpre, -List.getD_eq_getElem?_getD]
    simp only [execPassComplete, hrun, if_neg hgo, htab, hrows]
  · intro s quad entry k ss p ps g hfind hpass hg harr hfault hready hturn hpre
    dsimp only
    have hgo : ¬(p.onArrays || p.fault.isSome || !g.engReady p.need || !s.engTurn p.id (p.lines.map (·.1)) ||
        (s.quads.getD quad Quad.reset).preempt.isSome) = true := by
      simp [harr, hfault, hready, hturn, hpre, -List.getD_eq_getElem?_getD]
    refine ⟨fun hw => ?_, fun i m s1 s2 row hw hsel hwrite => ?_⟩
    · show execTopkSelect quad entry s = _
      simp only [execTopkSelect, hfind, hpass, hg, if_neg hgo, hw]
    · show execTopkSelect quad entry s = _
      simp only [execTopkSelect, hfind, hpass, hg, if_neg hgo, hw, hsel, hwrite]

end Sys2Proof.Machine

namespace Sys2Proof.Machine

/-! ## Returning from a trap (08 R259) -/

/-- Reissuing the lane operations changes the flags and the lane operations alone (07 R216; 08 R259). -/
theorem reissueLanes_frame (g : Group) : ∃ cf lane, g.reissueLanes = { g with cf := cf, lane := lane } := by
  refine List.foldlRecOn (motive := fun h : Group => ∃ cf lane, h = { g with cf := cf, lane := lane }) _ _ ⟨g.cf, [], rfl⟩ ?_
  rintro h ⟨cf, lane, rfl⟩ o -
  split_ifs
  all_goals exact ⟨_, _, rfl⟩

/-- A return that meets no failure has read the frame and the image. -/
theorem returnTrap_of_frame {s s1 t : State} {gid : Nat} {g : Group} {f : List Byte} (hg : s.groups.get? gid = some g)
    (hread : s.readVa (s.lau g).qd.vf true g.frameVa 256 (some (s.user g)) = (s1, .ok f)) (ht : returnTrap s gid = (t, none)) :
    ∃ s2 h, readImage s1 g false = (s2, .ok h) ∧ t = (s2.setG gid (h.returned f).reissueLanes).resumeEng gid := by
  simp only [returnTrap, hg, hread] at ht
  rcases hi : readImage s1 g false with ⟨s2, e | h⟩
  · rw [hi] at ht
    cases congrArg Prod.snd ht
  · rw [hi] at ht
    exact ⟨s2, h, rfl, (congrArg Prod.fst ht).symm⟩

theorem returnRestores : Claims.returnRestores := by
  intro s s1 t g f hg hread ht
  obtain ⟨s2, h, -, rfl⟩ := returnTrap_of_frame hg hread ht
  obtain ⟨cf, lane, hl⟩ := reissueLanes_frame (h.returned f)
  refine ⟨_, Tbl.get?_set_same .., ?_⟩
  rw [hl]
  exact ⟨rfl, rfl, rfl, rfl⟩

theorem tret : Claims.tret := by
  intro s g hi
  refine ⟨fun hf => ⟨Cause.mk' 8 7, rfl, rfl, ?_⟩, fun t hf ht hq hn hw hr => ?_⟩
  · show execTret s = _
    rw [execTret, aIssue_of_issueA hi, hf]
    exact finishA_trap (issueA_grp? hi) ..
  · show execTret s = _
    unfold State.nothingToTake at ht
    have hflags : ((List.range 12).any fun n => decide (s.feedCount g n < g.cfn n)) = false := by simpa using hn
    rw [execTret, aIssue_of_issueA hi]
    simp only [hf, ht, hq, hflags, hw, hr, Bool.not_true, Bool.false_eq_true, if_false]
    rfl

/-- Settles O16. -/
theorem tretResult : Obligations.TretResult := ⟨tret, returnRestores⟩

end Sys2Proof.Machine

namespace Sys2Proof.Machine

/-! ## The fields of a trap frame (08 R252, R253) -/

@[simp] theorem natLe_length (n x : Nat) : (natLe n x).length = n := by
  induction n generalizing x with
  | zero => rfl
  | succ n ih => exact congrArg (· + 1) (ih _)

/-- The bytes of a number hold it, as far as they reach. -/
theorem leNat_natLe (n x : Nat) : leNat (natLe n x) = x % 256 ^ n := by
  induction n generalizing x with
  | zero => exact (Nat.mod_one x).symm
  | succ n ih =>
    rw [natLe, leNat, ih, BitVec.toNat_ofNat, Nat.pow_succ' (m := 256), Nat.mod_mul (a := 256)]

/-- Numbers written one after the other, each with its count of bytes. -/
def fieldBytes (l : List (Nat × Nat)) : List Byte := (l.map fun e => natLe e.1 e.2).flatten

theorem fieldBytes_length (l : List (Nat × Nat)) : (fieldBytes l).length = (l.map Prod.fst).sum := by
  rw [fieldBytes, List.length_flatten, List.map_map]
  exact congrArg List.sum (List.map_congr_left fun e _ => natLe_length ..)

/-- A field reads back at the place that the fields before it leave. -/
theorem numAt_fieldBytes {l : List (Nat × Nat)} {k n x off : Nat} (h : l[k]? = some (n, x))
    (ho : ((l.map Prod.fst).take k).sum = off) : numAt (fieldBytes l) off n = x % 256 ^ n := by
  obtain ⟨hk, he⟩ := List.getElem?_eq_some_iff.mp h
  have hl : fieldBytes l = fieldBytes (l.take k) ++ (natLe n x ++ fieldBytes (l.drop (k + 1))) := by
    conv_lhs => rw [← List.take_append_drop k l, List.drop_eq_getElem_cons hk, he]
    simp [fieldBytes]
  rw [numAt, hl, ← ho, ← List.map_take, ← fieldBytes_length, List.drop_left, List.take_left' (natLe_length ..), leNat_natLe]

/-- The fields of a trap's frame. -/
def frameFields (s : State) (g : Group) (p : Pending) : List (Nat × Nat) :=
  [(4, frameWord0 p g.sys.priv), (4, p.apc), (4, if p.cside then p.cpc % 2 ^ 22 else 0), (4, if p.cside then p.slot % 32 else 0),
   (8, p.cause.va), (12, p.cause.lanes.toNat), (12, p.word.toNat), (12, p.cause.detail.toNat), (4, g.qocc.toNat), (4, p.fpc),
   (4, g.qoccb.toNat), (4, (s.gstat g).toNat), (4, p.displaced)] ++
  (List.range 8).map (fun i => (4, (g.q.clq[i]?.map (·.val.toNat)).getD 0)) ++ [(4, g.q.clq.length), (4, p.pop), (136, 0)]

theorem frameBytes_eq (s : State) (g : Group) (p : Pending) : frameBytes s g p = fieldBytes (frameFields s g p) := by
  simp only [frameBytes, fieldBytes, frameFields, wBytes, maskBytes, List.map_append, List.flatten_append, List.map_map,
    List.map_cons, List.map_nil, List.flatten_cons, List.flatten_nil, List.append_nil, List.append_assoc]
  rfl

theorem frameFields_widths (s : State) (g : Group) (p : Pending) :
    (frameFields s g p).map Prod.fst = [4, 4, 4, 4, 8, 12, 12, 12, 4, 4, 4, 4, 4] ++ List.replicate 8 4 ++ [4, 4, 136] := rfl

section
variable {s : State} {g : Group} {p : Pending} {k n x off : Nat} (h : (frameFields s g p)[k]? = some (n, x))
    (ho : (([4, 4, 4, 4, 8, 12, 12, 12, 4, 4, 4, 4, 4] ++ List.replicate 8 4 ++ [4, 4, 136]).take k).sum = off)
include h ho

/-- What the frame holds at a field's place. -/
theorem numAt_frameBytes : numAt (frameBytes s g p) off n = x % 256 ^ n := by
  rw [frameBytes_eq]
  exact numAt_fieldBytes h (by rw [frameFields_widths, ho])

theorem numAt_frameBytes_of_lt (hx : x < 256 ^ n) : numAt (frameBytes s g p) off n = x :=
  (numAt_frameBytes h ho).trans (Nat.mod_eq_of_lt hx)

end

/-- The fields of word 0 (08 R253). -/
theorem frameWord0_fields (p : Pending) (priv : Bool) (hg : p.cause.grp < 32) (hc : p.cause.code < 256) (hs : p.split < 256) :
    let w := frameWord0 p priv
    w < 2 ^ 32 ∧ w % 32 = p.cause.grp ∧ w / 32 % 8 = 0 ∧ w / 2 ^ 8 % 256 = p.cause.code ∧
      w / 2 ^ 16 % 2 = (if p.aside then 1 else 0) ∧ w / 2 ^ 17 % 2 = (if p.cside then 1 else 0) ∧
      w / 2 ^ 18 % 2 = (if restartable p.cause.grp then 1 else 0) ∧ w / 2 ^ 19 % 2 = (if priv then 1 else 0) ∧
      w / 2 ^ 20 % 16 = 0 ∧ w / 2 ^ 24 = if p.cside then p.split else 255 := by
  have hbit : ∀ (b : Bool) (n : Nat), (if b then n else 0) = n * (if b then 1 else 0) := by simp
  have hone : ∀ b : Bool, (if b then 1 else 0) ≤ 1 := by decide
  have hsp : (if p.cside then p.split else 255) < 256 := by split <;> omega
  have ha := hone p.aside
  have hcs := hone p.cside
  have hr := hone (restartable p.cause.grp)
  have hp := hone priv
  dsimp only
  rw [frameWord0, Nat.mod_eq_of_lt hg, Nat.mod_eq_of_lt hc, hbit p.aside (2 ^ 16), hbit p.cside (2 ^ 17), hbit _ (2 ^ 18),
    hbit _ (2 ^ 19)]
  generalize (if p.cside then p.split else 255) = sp at *
  generalize (if p.aside then 1 else 0) = a at *
  generalize (if p.cside then 1 else 0) = c at *
  generalize (if restartable p.cause.grp then 1 else 0) = r at *
  generalize (if priv then 1 else 0) = v at *
  omega

/-- Words 0x50 to 0x6C hold the CLQ (08 R252). -/
theorem frameFields_clq (s : State) (g : Group) (p : Pending) {i : Nat} (hi : i < 8) :
    (frameFields s g p)[13 + i]? = some (4, ((g.q.clq[i]?).map (·.val.toNat)).getD 0) := by
  rw [frameFields, List.append_assoc, List.getElem?_append_right (by simp)]
  simp [List.getElem?_append_left, hi]

theorem frameLayout : Claims.frameLayout := by
  intro s g p f
  dsimp only [f]
  refine ⟨?_, fun hg hc hs => ?_, numAt_frameBytes (k := 1) rfl (by decide),
    numAt_frameBytes_of_lt (k := 2) rfl (by decide) ?_, numAt_frameBytes_of_lt (k := 3) rfl (by decide) ?_,
    numAt_frameBytes (k := 4) rfl (by decide),
    numAt_frameBytes_of_lt (k := 5) rfl (by decide) (BitVec.isLt _), numAt_frameBytes_of_lt (k := 6) rfl (by decide) (BitVec.isLt _),
    numAt_frameBytes_of_lt (k := 7) rfl (by decide) (BitVec.isLt _), numAt_frameBytes_of_lt (k := 8) rfl (by decide) (BitVec.isLt _),
    numAt_frameBytes (k := 9) rfl (by decide), numAt_frameBytes_of_lt (k := 10) rfl (by decide) (BitVec.isLt _),
    numAt_frameBytes_of_lt (k := 11) rfl (by decide) (BitVec.isLt _), numAt_frameBytes (k := 12) rfl (by decide), fun i hi => ?_,
    numAt_frameBytes (k := 21) rfl (by decide), numAt_frameBytes (k := 22) rfl (by decide),
    (numAt_frameBytes (k := 23) rfl (by decide)).trans (Nat.zero_mod _)⟩
  · rw [frameBytes_eq, fieldBytes_length, frameFields_widths]
    decide
  · obtain ⟨hw, hfields⟩ := frameWord0_fields p g.sys.priv hg hc hs
    rw [numAt_frameBytes_of_lt (k := 0) rfl (by decide) hw]
    exact hfields
  · split <;> omega
  · split <;> omega
  · refine numAt_frameBytes_of_lt (frameFields_clq s g p hi) ?_ ?_
    · interval_cases i <;> decide
    · cases g.q.clq[i]? with
      | none => decide
      | some e => exact e.val.isLt

/-! ## Taking a trap (08 R255-R258) -/

/-- Giving waiting instructions up changes the queues, the splits and the REGROUP alone. -/
theorem settle_frame (g : Group) :
    ∃ q sp, g.settle = { g with q := q, regroup := .none, cs := { g.cs with splits := sp } } := by
  obtain ⟨q, hq⟩ : ∃ q, (sortBy (fun (a b : Nat × Split) => decide (b.2.since ≤ a.2.since)) g.cs.splits).foldl
      (fun (g : Group) e => g.unpopAll e.2.held) g = { g with q := q } := by
    refine List.foldlRecOn (motive := fun h : Group => ∃ q, h = { g with q := q }) _ _ ⟨g.q, rfl⟩ ?_
    rintro h ⟨q, rfl⟩ e -
    obtain ⟨r, hr⟩ := unpopAll_queues { g with q := q } e.2.held
    exact ⟨r, hr⟩
  rw [Group.settle]
  dsimp only
  rw [hq]
  exact ⟨q, _, rfl⟩

/-- Letting go of a list of flags changes their counts alone. -/
theorem detach_foldl (l : List LaneOp) (g : Group) :
    l.foldl (fun (g : Group) o => g.detach o.flag) g = { g with
      cf := l.foldl (fun (cf : Tbl Nat) o => if o.flag = 15 then cf else cf.set o.flag (cf.getD o.flag 0 - 1)) g.cf } := by
  induction l generalizing g with
  | nil => rfl
  | cons o l ih =>
    rw [List.foldl_cons, List.foldl_cons, ih, Group.detach]
    split <;> rfl

/-- Out of a handler no lane operation is set aside, and the group is saved as the claim says. -/
theorem atTrap_eq {g : Group} (hf : g.sys.frame = false) : { g.settle.detachLanes with trap := none } = Claims.atTrap g := by
  obtain ⟨q, sp, hs⟩ := settle_frame g
  have haside : ∀ o, g.settle.laneAside o = false := by simp [Group.laneAside, hs, hf]
  simp only [Group.detachLanes, Claims.atTrap, haside, Bool.not_false, Bool.true_and, detach_foldl]

/-- What becomes of a group whose state is saved: its queues, its splits and its flags may change, and nothing else of it. -/
theorem atTrap_frame {g : Group} (hf : g.sys.frame = false) : ∃ q sp cf,
    g.settle.detachLanes = { g with q := q, regroup := .none, cs := { g.cs with splits := sp }, cf := cf } ∧
    Claims.atTrap g = { g with q := q, regroup := .none, cs := { g.cs with splits := sp }, trap := none, cf := cf } := by
  obtain ⟨q, sp, hs⟩ := settle_frame g
  obtain ⟨cf, hd⟩ : ∃ cf, g.settle.detachLanes = { g.settle with cf := cf } := ⟨_, detach_foldl ..⟩
  rw [← atTrap_eq hf, hd, hs]
  exact ⟨q, sp, cf, rfl, rfl⟩

theorem ra_wa_same {n : Nat} (h : n ≠ 0) (g : Group) (x : Word) : (g.wa n x).ra n = x := by
  simp [Group.wa, Group.ra, h]

/-- A group with its trap in TCG and TDX0-TDX2 (08 R256). -/
def Group.recorded (g : Group) (p : Pending) : Group :=
  { g with sys := { g.sys with
      tcg := BitVec.ofNat 32 (p.cause.grp % 32), tdx0 := p.cause.detail.extractLsb' 0 32,
      tdx1 := p.cause.detail.extractLsb' 32 32, tdx2 := p.cause.detail.extractLsb' 64 32 } }

section
variable {s s1 : State} {gid : Nat} {g : Group} {p : Pending} (hg : s.groups.get? gid = some g) (hf : g.sys.frame = false)
include hg hf

/-- An image that cannot be written is a double trap (08 R257). -/
theorem takeTrap_of_image_fails {e : AFault} (himg : writeImage (s.unwait gid) (Claims.atTrap g) = (s1, some e)) :
    takeTrap s gid p = doubleTrap (s1.setG gid (Claims.atTrap g)) gid { p with cause := e.cause' 3 1 0 } := by
  simp only [takeTrap, hg, if_neg (Bool.eq_false_iff.mp hf), atTrap_eq hf, himg]

/-- A frame that cannot be written is a double trap (08 R257). -/
theorem takeTrap_of_frame_fails {s2 : State} {e : AFault} (himg : writeImage (s.unwait gid) (Claims.atTrap g) = (s1, none))
    (hfr : s1.writeVaBlk (s1.lau (Claims.atTrap g)).qd.vf true (some (s1.user (Claims.atTrap g))) (Claims.atTrap g).frameVa
      (frameBytes s1 (Claims.atTrap g) p) = (s2, some e)) :
    takeTrap s gid p = doubleTrap (s2.setG gid (Claims.atTrap g)) gid { p with cause := e.cause' 3 1 0 } := by
  simp only [takeTrap, hg, if_neg (Bool.eq_false_iff.mp hf), atTrap_eq hf, himg, hfr]

/-- A group without a handler ends, its trap recorded and its launch failed (08 R258). -/
theorem takeTrap_of_no_handler {s2 : State} (himg : writeImage (s.unwait gid) (Claims.atTrap g) = (s1, none))
    (hfr : s1.writeVaBlk (s1.lau (Claims.atTrap g)).qd.vf true (some (s1.user (Claims.atTrap g))) (Claims.atTrap g).frameVa
      (frameBytes s1 (Claims.atTrap g) p) = (s2, none)) (hh : s2.hasHandler (Claims.atTrap g) = false) :
    let h := (Claims.atTrap g).recorded p
    let t := ((s2.setG gid h).failLaunch h.who.lid p.cause.grp).colGroup h 2 (p.cause.grp % 32 + 256 * (p.cause.code % 256))
    takeTrap s gid p = (t.irqL (t.lau h) 1).endGroup gid := by
  obtain ⟨q, sp, cf, hd, hat⟩ := atTrap_frame hf
  rw [hat] at himg hfr hh ⊢
  simp only [takeTrap, hg, if_neg (Bool.eq_false_iff.mp hf), hd, himg, hfr]
  exact if_neg (Bool.eq_false_iff.mp hh)

end

/-- Settles O51: the frame field by field, and the four ends of a trap. -/
theorem trapEntry : Obligations.TrapEntry := by
  refine ⟨frameLayout, ?_, ?_, ?_, ?_⟩
  · intro s s1 s2 gid g p hg hf himg hfr hh
    obtain ⟨q, sp, cf, hd, hat⟩ := atTrap_frame hf
    rw [hat] at himg hfr hh
    refine ⟨?group, ?enters, ?holds⟩
    case enters =>
      simp only [takeTrap, hg, if_neg (Bool.eq_false_iff.mp hf), hd, himg, hfr]
      exact if_pos hh
    case holds =>
      exact ⟨rfl, rfl, rfl, rfl, rfl, rfl, rfl, rfl, (ra_wa_ne (by decide) ..).trans (ra_wa_same (by decide) ..),
        ra_wa_same (by decide) .., fun n h1 h2 => (ra_wa_ne h1 ..).trans (ra_wa_ne h2 ..), rfl, rfl, rfl, rfl, rfl, rfl⟩
  · intro s s1 s2 gid g p hg hf himg hfr hh
    obtain ⟨q, sp, cf, -, hat⟩ := atTrap_frame hf
    have he := takeTrap_of_no_handler hg hf himg hfr hh
    refine ⟨(Claims.atTrap g).recorded p, ?_⟩
    rw [hat] at he ⊢
    exact ⟨rfl, rfl, rfl, rfl, he⟩
  · intro s s1 gid g p e hg hf hfail
    rcases hfail with himg | ⟨s0, himg, hfr⟩
    · exact takeTrap_of_image_fails hg hf himg
    · exact takeTrap_of_frame_fails hg hf himg hfr
  · intro s gid g p hg hf ht hs
    have hgo : ¬(g.trap.isSome || g.stop == .gone) = true := by simp [ht, hs]
    simp only [raise, doubleTrap, hg, hf, if_neg hgo, if_true]

end Sys2Proof.Machine

namespace Sys2Proof.Machine

/-! ## The trailing shadow (08 R266-R268) -/

section
variable {s : State} {g : Group} {x : Shadow} {it : LogItem} {r : List LogItem} (hg : s.grp? = some g) (hi : s.issues g = true)
  (hx : g.shadow = some x) (hl : x.log = it :: r)
include hg hi hx hl

/-- A replay of an item that waits for no compare. -/
theorem shadowReplay_uncompared (hc : it.instr.filter (fun _ => it.cmp) = none) :
    exec .shadowReplay s = .next (s.putG (g.replay x it fun i => (shadowRun s g x.cs it i).cs)) := by
  show execShadowReplay s = _
  simp only [execShadowReplay, hg, hi, hx, hl, hc, Option.filter_some, if_true]

/-- A replay of an instruction that is compared. -/
theorem shadowReplay_compared {i : Instr} (hc : it.cmp = true) (hin : it.instr = some i) :
    exec .shadowReplay s = replayCompared s g x.cs it i := by
  show execShadowReplay s = _
  simp only [execShadowReplay, hg, hi, hx, hl, hc, hin, Option.filter_some, if_true]

end

theorem replayedTo_eq {g : Group} {x : Shadow} {it : LogItem} {r : List LogItem} (hx : g.shadow = some x) (hl : x.log = it :: r)
    (c : CSide) : g.replayedTo c = { g with shadow := some { x with cs := c, log := r } } := by
  simp only [Group.replayedTo, hx, hl, Option.map_some, List.drop_succ_cons, List.drop_zero]

/-- The group that a mismatch traps: its popped entries are given back. -/
theorem shadowTrap_of_untrapped {g : Group} (ht : g.trap = none) (s : State) (it : LogItem) (i : Instr) (code q : Nat) (m : Mask) :
    let ln := (lowLane m).getD 0
    let s1 := s.colophon 1 4 (quadOf g.who.core) (s.lau g).qd.vf
      (natLe 4 (256 * code + 2 ^ 16 * ln) ++ (s.lau g).tag ++ natLe 4 g.who.lin)
    ∃ g1 p, shadowTrap s g it i code q m = raise (s1.setG g.who.gid g1) g.who.gid p ∧ g1.trap = none ∧
      g1.shadow = g.shadow ∧ g1.cs.v = g.cs.v ∧ g1.cs.p = g.cs.p ∧ g1.cs.c = g.cs.c ∧ g1.a = g.a ∧
      p.cause = Cause.mk' 16 code (ln + (if code ≤ 2 then 256 * q else 0)) 0 m := by
  obtain ⟨qs, hq⟩ := unpopAll_queues g it.pops
  refine ⟨?group, ?pending, ?traps, ?keeps⟩
  case traps =>
    simp only [shadowTrap, hq, ht]
    rfl
  case keeps => exact ⟨rfl, rfl, rfl, rfl, rfl, rfl, rfl⟩

section
variable {s t : State} {g g' : Group} {c : CSide} {it : LogItem} {i : Instr} {h : Group}
  (hrun : runC i { s with cur := { gid := g.who.gid, split := it.split, mode := 2 } } = .next t)
  (hg' : t.groups.get? g.who.gid = some g') (hcmp : ((g'.cs.sp it.split).all fun p => !p.cmp) = true)
  (hh : (match replayed i, (cShape i).bind (·.d) with
    | true, some (.queue q) => takesPush (g.asShadow c it) it.split q.toNat ((c.stand it.at_).enabled it.split i)
        (g'.pushes q.toNat (g.pushes q.toNat 0).length)
    | _, _ => shadowRun s g c it i) = h)
include hrun hg' hcmp hh

/-- Once the leader's instruction has run, the comparison decides: the shadow's mismatch traps, or what the leader did is released
(08 R267). -/
theorem replayCompared_decides : replayCompared s g c it i =
    match mismatch i it.split g g' (c.stand it.at_) h with
    | some (code, q, m) => .next (shadowTrap s (g.replayedTo c) it i code q m)
    | none => .next (({ t with cur := s.cur } : State).setG g.who.gid (g'.replayedTo h.cs)) := by
  have hgo : ¬(((g'.cs.sp it.split).map (·.cmp)).getD false && g'.trap == g.trap && g'.sys.frame == g.sys.frame) = true := by
    cases hs : g'.cs.sp it.split <;> simp_all
  subst hh
  simp only [replayCompared, hrun, hg']
  exact if_neg hgo

end

/-! ## Pre-emption (08 R263-R265; 11 R317, R321) -/

theorem quadPreempt_asks {s : State} {quad : Nat} (hp : (s.quads.getD quad Quad.reset).preempt = none)
    (hr : (s.quads.getD quad Quad.reset).ready = none) (hw : s.wantsQuad quad = true) :
    exec (.quadPreempt quad) s = .next (s.askQuad quad) := by
  show execQuadPreempt quad s = _
  refine if_neg ?_
  simp only [hp, hr, hw, Option.isSome_none, Bool.not_true, Bool.or_self, Bool.false_eq_true, not_false_eq_true]

section
variable {s : State} {g : Group} {t : Nat} (hg : s.grp? = some g) (hsv : g.saved = false) (hreq : g.saveReq = some t)
  (hstop : g.stop ≠ .gone) (htrap : g.trap = none) (hcan : s.canSave { g with saving := true } = true)
include hg hsv hreq hstop htrap hcan

/-- A group at a reconvergence point, or that has stopped for its save, is saved (08 R263). -/
theorem groupSave_saves (hat : g.saving = true ∨ g.atPoint = true) :
    exec .groupSave s = .next (saveGroup (s.putG { g with saving := true }) g.who.gid) := by
  show execGroupSave s = _
  have hgo : ¬(g.saved || g.saveReq.isNone || g.stop == .gone || g.trap.isSome) = true := by simp [hsv, hreq, hstop, htrap]
  have hpt : (g.saving || g.atPoint) = true := by simpa using hat
  simp only [execGroupSave, hg, if_neg hgo, hpt, hcan, if_true]

/-- Once its queue's window has passed a group is saved where it stands (08 R263). -/
theorem forcedFullSave_saves (hsaving : g.saving = false) (hwin : t + 1000 * (s.lau g).qd.window * nsT ≤ s.tick) :
    exec .forcedFullSave s = .next (saveGroup (s.putG { g with saving := true }) g.who.gid) := by
  show execForcedFullSave s = _
  have hgo : ¬(g.saved || g.saving || g.stop == .gone || g.trap.isSome) = true := by simp [hsv, hsaving, hstop, htrap]
  rw [hreq] at hcan
  simp only [execForcedFullSave, hg, hreq, if_neg hgo, if_pos hwin, hcan, if_true]

end

/-- The pre-emption of a quad is complete once its groups are saved or gone and its sessions are those that stay. -/
theorem preemptComplete_clears {s : State} {quad : Nat} (hp : (s.quads.getD quad Quad.reset).preempt.isSome = true)
    (hgs : ∀ e ∈ s.groups, s.onQuad quad e.2 = true → s.preemptible e.2 = true → e.2.saved = true ∨ e.2.stop = .gone)
    (hss : ∀ e ∈ s.sessionsOf quad, (s.launches.getD e.2.lid Launch.blank).pk.nonpreempt = true ∧ s.inService quad = true) :
    exec (.preemptComplete quad) s = .next { s with quads := setAt s.quads quad { s.quads.getD quad Quad.reset with
      preempt := none, ready := if s.inService quad then none else some s.tick } } := by
  show execPreemptComplete quad s = _
  have hclear : (s.groups.all fun e =>
      !(s.onQuad quad e.2 && s.preemptible e.2) || e.2.saved || e.2.stop == .gone) = true := by
    refine List.all_eq_true.mpr fun e he => ?_
    have := hgs e he
    cases h1 : s.onQuad quad e.2 <;> cases h2 : s.preemptible e.2 <;> simp_all
  have hquiet : ((s.sessionsOf quad).all fun e =>
      (s.launches.getD e.2.lid Launch.blank).pk.nonpreempt && s.inService quad) = true :=
    List.all_eq_true.mpr fun e he => Bool.and_eq_true_iff.mpr (hss e he)
  refine if_pos ?_
  simp only [hp, hclear, hquiet, Bool.and_self]

section
variable {s : State} {g : Group}

/-- What GROUP_RESTORE comes to where every group that comes back with this one may. -/
theorem groupRestore_of_mayRestore (hg : s.groups.get? s.cur.gid = some g)
    (hm : ∀ e ∈ s.groups.filter (fun e =>
      e.1 == s.cur.gid || ((s.pk g).progress == 0 && e.2.who.lid == g.who.lid && e.2.stop != .gone)), s.mayRestore e.2 = true) :
    exec .groupRestore s = .next ((restoreAll ((s.groups.filter fun e =>
      e.1 == s.cur.gid || ((s.pk g).progress == 0 && e.2.who.lid == g.who.lid && e.2.stop != .gone)).map (·.1)) s).getD s) := by
  show execGroupRestore s = _
  simp only [execGroupRestore, State.bringBack, hg]
  exact congrArg _ (if_pos (List.all_eq_true.mpr hm))

theorem restoreAll_one {s1 : State} {k : Nat} (hg : s.groups.get? k = some g) (hp : makePlace s g = some s1) :
    restoreAll [k] s = some (restoreGroup s1 k) := by
  simp only [restoreAll, hg, hp, Option.bind_some]

end

theorem windowOpen_restores {s : State} {p : Nat} (ho : s.winOpen p s.time = true) (he : s.windowEnds p = false) :
    exec (.windowOpen p) s = .next (((s.groups.filter fun e => e.2.saved && (s.lau e.2).qd.part == p).map (·.1)).foldl
      (fun (s : State) k => s.bringBack k) s) := by
  show execWindowOpen p s = _
  refine if_pos ?_
  simp only [ho, he, Bool.not_false, Bool.and_self]

/-- Settles O42, step by step; a replay by what its item holds. -/
theorem preemptionSteps : Obligations.PreemptionSteps := by
  refine ⟨?_, fun s quad hp hr hw => quadPreempt_asks hp hr hw, ?_, fun s quad hp hgs hss => preemptComplete_clears hp hgs hss, ?_,
    fun s s1 g k hg hp => restoreAll_one hg hp, fun s p he => if_pos he, fun s p ho he => windowOpen_restores ho he⟩
  · intro s g x it r hg hi hx hl st kept
    have hkept : ∀ c, g.replayedTo c = kept c := replayedTo_eq hx hl
    refine ⟨fun c hc hn => ?_, fun hc hn => ?_, fun i hc hin hcmp => ?_, fun i t g' hin hcmp hrun hg' hp h hh => ?_⟩
    · have hu : it.instr.filter (fun _ => it.cmp) = none := by rcases hn with hn | hn <;> cases h : it.instr <;> simp_all
      rw [shadowReplay_uncompared hg hi hx hl hu, Group.replay, hc, ← hkept]
    · rw [shadowReplay_uncompared hg hi hx hl (by rw [hn]; rfl), Group.replay, hc, hn, ← hkept]
    · have hu : it.instr.filter (fun _ => it.cmp) = none := by rw [hin, hcmp]; rfl
      simp only [shadowReplay_uncompared hg hi hx hl hu, Group.replay, hc, hin, ← hkept]
      refine ⟨fun h1 => ?_, fun h1 h2 => ?_, fun h1 h2 h3 => ?_, fun h1 h2 h3 => ?_⟩
      · rw [if_pos h1]
      · rw [if_neg (Bool.eq_false_iff.mp h1), if_pos h2]
      · rw [if_neg (Bool.eq_false_iff.mp h1), if_neg (Bool.eq_false_iff.mp h2), if_pos h3]
      · rw [if_neg (Bool.eq_false_iff.mp h1), if_neg (Bool.eq_false_iff.mp h2), if_neg (Bool.eq_false_iff.mp h3)]
    · rw [shadowReplay_compared hg hi hx hl hcmp hin, replayCompared_decides hrun hg' hp hh]
      refine ⟨fun hm => ?_, fun code q m hm ht => ?_⟩
      · rw [hm]
        rfl
      · rw [hm, hkept]
        obtain ⟨g1, p, he, h1, h2, h3⟩ := shadowTrap_of_untrapped (g := kept x.cs) ht s it i code q m
        exact ⟨g1, p, congrArg _ he, h1, h2, h3⟩
  · rintro s g t e hg hsv hreq hstop htrap hcan (⟨rfl, hat⟩ | ⟨rfl, hsaving, hwin⟩)
    · exact groupSave_saves hg hsv hreq hstop htrap hcan hat
    · exact forcedFullSave_saves hg hsv hreq hstop htrap hcan hsaving hwin
  · intro s g hg mine hm
    rw [groupRestore_of_mayRestore hg hm]
    exact ⟨fun t ht => by rw [ht]; rfl, fun hn => by rw [hn]; rfl⟩

end Sys2Proof.Machine

namespace Sys2Proof.Machine

/-! ## Reading a memory back (09 R278)

What a byte reads as in a memory that is joined, cut, written, or cleared; the canonical form keeps the addresses rising, so that
`Memory.get` may stop at the first address beyond. -/

/-- Cells that all lie above an address give it the unlisted byte. -/
theorem Memory.get_of_lt {m : Memory} {n : Nat} (h : ∀ e ∈ m, n < e.1) : m.get n = Memory.unlisted := by
  cases m with
  | nil => rfl
  | cons x r =>
    obtain ⟨k, b⟩ := x
    have hk : n < k := h (k, b) (List.mem_cons_self ..)
    rw [Memory.get, if_neg (Nat.ne_of_lt hk), if_pos hk]

/-- The first cell and the rest of a memory in canonical form: the rest lies above it and is in canonical form, its byte is listed. -/
theorem Memory.wf_cons {k : Nat} {b : Byte} {r : Memory} :
    Memory.wf ((k, b) :: r) = true ↔ b ≠ Memory.unlisted ∧ (∀ e ∈ r, k < e.1) ∧ r.wf = true := by
  simp only [Memory.wf_iff, List.pairwise_cons, List.forall_mem_cons]
  tauto

theorem Memory.get_append {p r : Memory} {a : Nat} (hp : ∀ e ∈ p, e.1 < a) (hr : ∀ e ∈ r, a ≤ e.1) (n : Nat) :
    Memory.get (p ++ r) n = if n < a then p.get n else r.get n := by
  induction p with
  | nil =>
    split
    · next h => exact Memory.get_of_lt fun e he => Nat.lt_of_lt_of_le h (hr e he)
    · rfl
  | cons x p ih =>
    obtain ⟨k, b⟩ := x
    obtain ⟨hk, hp⟩ := List.forall_mem_cons.1 hp
    simp only [List.cons_append, Memory.get, ih hp]
    grind only

theorem Memory.below_append_from (m : Memory) (a : Nat) : m.below a ++ m.from a = m := List.takeWhile_append_dropWhile

theorem Memory.get_below_or_from {m : Memory} (hm : m.wf = true) (a n : Nat) :
    m.get n = if n < a then (m.below a).get n else (m.from a).get n := by
  rw [← Memory.get_append (Memory.below_lt a) (Memory.from_ge a hm), Memory.below_append_from]

theorem Memory.get_consCell {a : Nat} {b : Byte} {m : Memory} (h : ∀ e ∈ m, a < e.1) (n : Nat) :
    Memory.get (consCell a b m) n = if n = a then b else m.get n := by
  unfold consCell
  split
  · next hb =>
    split
    · next hn => rw [hn, hb, Memory.get_of_lt h]
    · rfl
  · rw [Memory.get]
    split_ifs with h1 h2
    · rfl
    · exact (Memory.get_of_lt fun e he => Nat.lt_trans h2 (h e he)).symm
    · rfl

theorem Memory.get_dropAt {a : Nat} {m : Memory} (hm : m.wf = true) (h : ∀ e ∈ m, a ≤ e.1) {n : Nat} (hn : n ≠ a) :
    Memory.get (dropAt a m) n = m.get n := by
  cases m with
  | nil => rfl
  | cons x r =>
    obtain ⟨k, b⟩ := x
    obtain ⟨-, hr, -⟩ := Memory.wf_cons.1 hm
    rw [dropAt]
    split
    · next hk =>
      rw [Memory.get, if_neg (hk ▸ hn)]
      split
      · next hlt => exact Memory.get_of_lt fun e he => Nat.lt_trans hlt (hr e he)
      · rfl
    · rfl

theorem Memory.get_writeBlk (bs : List Byte) {a : Nat} {m : Memory} (hm : m.wf = true) (h : ∀ e ∈ m, a ≤ e.1) (n : Nat) :
    Memory.get (writeBlk bs a m) n = if a ≤ n ∧ n < a + bs.length then bs.getD (n - a) 0 else m.get n := by
  induction bs generalizing a m with
  | nil => rw [writeBlk, if_neg (by simp)]
  | cons b r ih =>
    have hd : (dropAt a m).wf = true := Memory.wf_of_sublist (dropAt_sublist a m) hm
    have hgt := dropAt_gt hm h
    rw [writeBlk, Memory.get_consCell (wf_writeBlk r (a + 1) _ hd hgt).2, ih hd hgt]
    by_cases hn : n = a
    · simp [hn]
    · rw [if_neg hn, Memory.get_dropAt hm h hn, List.length_cons]
      by_cases hin : a + 1 ≤ n ∧ n < a + 1 + r.length
      · rw [if_pos hin, if_pos (by omega), show n - a = n - (a + 1) + 1 by omega, List.getD_cons_succ]
      · rw [if_neg hin, if_neg (by omega)]

theorem Memory.get_setBytes {m : Memory} (hm : m.wf = true) (a : Nat) (bs : List Byte) (n : Nat) :
    (m.setBytes a bs).get n = if a ≤ n ∧ n < a + bs.length then bs.getD (n - a) 0 else m.get n := by
  have hf := Memory.wf_from a hm
  have hge := Memory.from_ge a hm
  rw [Memory.setBytes, Memory.get_append (Memory.below_lt a) (wf_writeBlk bs a _ hf hge).2, Memory.get_writeBlk bs hf hge,
    Memory.get_below_or_from hm a n]
  grind only

theorem readBlk_succ (n a : Nat) (m : Memory) (h : ∀ e ∈ m, a ≤ e.1) :
    readBlk (n + 1) a m = m.get a :: readBlk n (a + 1) (dropAt a m) := by
  cases m with
  | nil => rfl
  | cons x r =>
    obtain ⟨k, b⟩ := x
    have hk : a ≤ k := h (k, b) (List.mem_cons_self ..)
    rw [readBlk, Memory.get, dropAt]
    grind only

theorem readBlk_eq_map (n : Nat) {a : Nat} {m : Memory} (hm : m.wf = true) (h : ∀ e ∈ m, a ≤ e.1) :
    readBlk n a m = (List.range n).map fun i => m.get (a + i) := by
  induction n generalizing a m with
  | zero => cases m <;> rfl
  | succ n ih =>
    rw [readBlk_succ n a m h, ih (Memory.wf_of_sublist (dropAt_sublist a m) hm) (dropAt_gt hm h), List.range_succ_eq_map,
      List.map_cons, List.map_map]
    refine congrArg₂ _ rfl (List.map_congr_left fun i _ => ?_)
    rw [Memory.get_dropAt hm h (by omega)]
    exact congrArg m.get (by omega)

theorem Memory.bytes_eq_map {m : Memory} (hm : m.wf = true) (a n : Nat) :
    m.bytes a n = (List.range n).map fun i => m.get (a + i) := by
  rw [Memory.bytes, readBlk_eq_map n (Memory.wf_from a hm) (Memory.from_ge a hm)]
  exact List.map_congr_left fun i _ => by rw [Memory.get_below_or_from hm a, if_neg (by omega)]

/-- A memory without the cells whose addresses a test refuses. -/
theorem Memory.get_filter {m : Memory} (hm : m.wf = true) (p : Nat → Bool) (n : Nat) :
    Memory.get (m.filter fun e => p e.1) n = if p n then m.get n else Memory.unlisted := by
  induction m with
  | nil => simp [Memory.get]
  | cons x r ih =>
    obtain ⟨k, b⟩ := x
    obtain ⟨-, hr, hw⟩ := Memory.wf_cons.1 hm
    have hbelow : n < k → Memory.get r n = Memory.unlisted := fun h => Memory.get_of_lt fun e he => Nat.lt_trans h (hr e he)
    rw [List.filter_cons]
    split
    · rw [Memory.get, Memory.get, ih hw]
      grind only
    · rw [Memory.get, ih hw]
      grind only

theorem Memory.get_clear {m : Memory} (hm : m.wf = true) (a k n : Nat) :
    (m.clear a k).get n = if a ≤ n ∧ n < a + k then 0 else m.get n := by
  rw [Memory.clear, Memory.get_filter hm fun x => decide (x < a) || decide (a + k ≤ x)]
  by_cases h : a ≤ n ∧ n < a + k
  · rw [if_pos h, if_neg (by simp; omega)]
    rfl
  · rw [if_neg h, if_pos (by simp; omega)]

/-- A memory in canonical form that reads 0 everywhere lists nothing. -/
theorem Memory.eq_nil_of_get {m : Memory} (hm : m.wf = true) (h : ∀ n, m.get n = Memory.unlisted) : m = [] := by
  cases m with
  | nil => rfl
  | cons x r =>
    obtain ⟨k, b⟩ := x
    exact absurd ((if_pos rfl).symm.trans (h k)) (Memory.wf_cons.1 hm).1

/-- The first cell's address is the lowest at which a memory in canonical form reads something. -/
theorem Memory.head_le_of_get {k n : Nat} {b : Byte} {r : Memory} (h : Memory.get ((k, b) :: r) n ≠ Memory.unlisted) : k ≤ n := by
  by_contra hlt
  exact h (by rw [Memory.get, if_neg (by omega), if_pos (by omega)])

theorem Memory.get_head (k : Nat) (b : Byte) (r : Memory) : Memory.get ((k, b) :: r) k = b := if_pos rfl

theorem Memory.eq_of_get {m m' : Memory} (hm : m.wf = true) (hm' : m'.wf = true) (h : ∀ n, m'.get n = m.get n) : m' = m := by
  induction m generalizing m' with
  | nil => exact Memory.eq_nil_of_get hm' h
  | cons x r ih =>
    obtain ⟨k, b⟩ := x
    cases m' with
    | nil => exact (Memory.eq_nil_of_get hm fun n => (h n).symm).symm
    | cons y r' =>
      obtain ⟨k', b'⟩ := y
      obtain ⟨hb, hr, hw⟩ := Memory.wf_cons.1 hm
      obtain ⟨hb', hr', hw'⟩ := Memory.wf_cons.1 hm'
      have hk : k = k' := Nat.le_antisymm
        (Memory.head_le_of_get (by rw [← h, Memory.get_head]; exact hb'))
        (Memory.head_le_of_get (by rw [h, Memory.get_head]; exact hb))
      subst hk
      have hbb : b' = b := by rw [← Memory.get_head k b' r', h, Memory.get_head]
      have htail : r' = r := ih hw hw' fun n => by
        rcases Nat.lt_or_ge k n with hn | hn
        · have := h n
          rwa [Memory.get, Memory.get, if_neg (by omega), if_neg (by omega), if_neg (by omega), if_neg (by omega)] at this
        · rw [Memory.get_of_lt fun e he => Nat.lt_of_le_of_lt hn (hr' e he),
            Memory.get_of_lt fun e he => Nat.lt_of_le_of_lt hn (hr e he)]
      rw [hbb, htail]

/-- Settles O48: writes, block reads and clears byte by byte, and a canonical memory is what it reads as. -/
theorem memoryReadsBack : Obligations.MemoryReadsBack := fun _ hm =>
  ⟨Memory.get_setBytes hm, Memory.bytes_eq_map hm, Memory.get_clear hm, fun _ hm' h => Memory.eq_of_get hm hm' h⟩

end Sys2Proof.Machine

namespace Sys2Proof.Machine

/-! ## What every step keeps (09 R278)

`State.Sound k` is the invariant of a machine in which the turn is of group `k`; `Group.Fits k` is what it asks of the group under
the name `k`. A lemma `f_sound` says that the function `f` of the model keeps the first, a lemma `f_fits` that it keeps the second.

### Groups -/

-- One after another, as in Sys2Proof/Tests/Slice0.lean: a thread for each proof would need more memory than the check allows.
set_option Elab.async false

/-- What the invariant asks of the parts of a group that stands under a name. -/
def FitParts (k : Nat) (who : Ident) (slices : Memory) : Prop := slices.wf = true ∧ who.gid = k

/-- A group as it may stand under a name: its slices in canonical form, the name its own. -/
def Group.Fits (g : Group) (k : Nat) : Prop := FitParts k g.who g.slices

section
variable {g : Group} {k : Nat}

/-- Two groups with the same slices and the same name fit alike. -/
theorem Group.fits_congr {h : Group} (hw : h.who.gid = g.who.gid) (hs : h.slices = g.slices) : h.Fits k ↔ g.Fits k := by
  rw [Group.Fits, Group.Fits, FitParts, FitParts, hw, hs]

theorem Group.fits_mk {who a apc stop ablk asince cs cf b t q sys pend mu lane unwaited shadow trap pushed ended cEnded slices lastQ
    saved saveReq saving commits arrivals arrived fenced due freed outer session regroup upTo} :
    (Group.mk who a apc stop ablk asince cs cf b t q sys pend mu lane unwaited shadow trap pushed ended cEnded slices lastQ saved
      saveReq saving commits arrivals arrived fenced due freed outer session regroup upTo).Fits k ↔ FitParts k who slices := Iff.rfl

theorem Group.Fits.own (h : g.Fits k) : g.Fits g.who.gid := ⟨h.1, rfl⟩

theorem Group.Fits.gid (h : g.Fits k) : g.who.gid = k := h.2

theorem foldl_fits {α : Type} {f : Group → α → Group} (hf : ∀ g x, (f g x).Fits k ↔ g.Fits k) (l : List α) :
    (l.foldl f g).Fits k ↔ g.Fits k := by
  induction l generalizing g with
  | nil => exact Iff.rfl
  | cons x l ih => exact ih.trans (hf g x)

@[simp] theorem Group.wa_fits (n : Nat) (x : Word) : (g.wa n x).Fits k ↔ g.Fits k := Group.fits_congr (by simp) (by simp)

@[simp] theorem Group.adv_fits (n : Nat) : (g.adv n).Fits k ↔ g.Fits k := Iff.rfl

@[simp] theorem Group.attach_fits (n : Nat) : (g.attach n).Fits k ↔ g.Fits k := Group.fits_congr (by simp) (by simp)

@[simp] theorem Group.detach_fits (n : Nat) : (g.detach n).Fits k ↔ g.Fits k := by
  unfold Group.detach
  split <;> rfl

@[simp] theorem Group.raiseFl_fits (f : Fl) : (g.raiseFl f).Fits k ↔ g.Fits k := Iff.rfl

@[simp] theorem Faulted.mark_fits (f : Faulted) : (f.mark g).Fits k ↔ g.Fits k := by
  unfold Faulted.mark
  split <;> rfl

@[simp] theorem Group.ofImage_fits (pk : Packet) (splits : Tbl Split) (b qb vb : List Byte) (counts : Bool) :
    (g.ofImage pk splits b qb vb counts).Fits k ↔ g.Fits k := Iff.rfl

@[simp] theorem Group.setVq_fits (q : Nat) (l : List VEntry) : (g.setVq q l).Fits k ↔ g.Fits k := by
  unfold Group.setVq
  split <;> rfl

@[simp] theorem Group.updHead_fits (o : MuOp) (q : Nat) (f : VEntry → Option VEntry) : (g.updHead o q f).Fits k ↔ g.Fits k :=
  Group.setVq_fits ..

@[simp] theorem Group.updEntry_fits (q id : Nat) (f : VEntry → VEntry) : (g.updEntry q id f).Fits k ↔ g.Fits k := Iff.rfl

@[simp] theorem Group.dropMu_fits (o : MuOp) : (g.dropMu o).Fits k ↔ g.Fits k :=
  foldl_fits (fun _ _ => Group.updHead_fits ..) o.takes

@[simp] theorem Group.endMuOp_fits (o : MuOp) : (g.endMuOp o).Fits k ↔ g.Fits k := by
  unfold Group.endMuOp
  split
  · exact Group.dropMu_fits o
  · exact Group.dropMu_fits o

@[simp] theorem Group.takeUp_fits (o : MuOp) : (g.takeUp o).Fits k ↔ g.Fits k := by
  have h := foldl_fits (g := g) (k := k) (fun g q => Group.updHead_fits (g := g) o q fun e => some { e with held := false }) o.takes
  unfold Group.takeUp
  split
  · exact h
  · exact h

@[simp] theorem Group.resumeMu_fits : g.resumeMu.Fits k ↔ g.Fits k := by
  refine foldl_fits (fun g o => ?_) g.mu
  split
  · split
    · exact Group.takeUp_fits o
    · rfl
  · rfl

@[simp] theorem Group.endHeld_fits (op : Nat) (c : Cause) : (g.endHeld op c).Fits k ↔ g.Fits k := by
  unfold Group.endHeld
  split
  · rfl
  · split <;> simp

@[simp] theorem Group.unpop_fits (q : Nat) (e : VEntry) : (g.unpop q e).Fits k ↔ g.Fits k := by
  unfold Group.unpop
  split <;> rfl

@[simp] theorem Group.unpopAll_fits (es : List (Nat × VEntry)) : (g.unpopAll es).Fits k ↔ g.Fits k :=
  foldl_fits (fun _ e => by split <;> simp) es.reverse

@[simp] theorem Group.settle_fits : g.settle.Fits k ↔ g.Fits k :=
  foldl_fits (fun _ (e : Nat × Split) => Group.unpopAll_fits e.2.held) _

@[simp] theorem Group.detachLanes_fits : g.detachLanes.Fits k ↔ g.Fits k := foldl_fits (fun _ _ => Group.detach_fits _) _

@[simp] theorem Group.reissueLanes_fits : g.reissueLanes.Fits k ↔ g.Fits k :=
  foldl_fits (g := { g with lane := [] }) (fun _ o => by split_ifs <;> rfl) g.lane

@[simp] theorem Group.returned_fits (f : List Byte) : (g.returned f).Fits k ↔ g.Fits k := Group.resumeMu_fits

@[simp] theorem Group.reissued_fits : g.reissued.Fits k ↔ g.Fits k := foldl_fits (fun g o => by split <;> simp) g.mu

@[simp] theorem Group.popHead_fits (q : Nat) : (g.popHead q).Fits k ↔ g.Fits k := by
  unfold Group.popHead
  dsimp only
  split <;> rfl

@[simp] theorem Group.pushC_fits (q s : Nat) (m : Mask) (f : Nat → Word) (now : Nat) :
    (g.pushC q s m f now).Fits k ↔ g.Fits k := by
  unfold Group.pushC
  dsimp only
  split <;> rfl

@[simp] theorem Group.writeDst_fits (s : Nat) (d : Dst) (m : Mask) (f : Nat → Word) (now : Nat) :
    (g.writeDst s d m f now).Fits k ↔ g.Fits k := by
  unfold Group.writeDst
  split
  · rfl
  · split <;> rfl
  · exact Group.pushC_fits ..
  · rfl

@[simp] theorem Group.writePred_fits (d : Dst) (m : Mask) (f : Nat → Bool) : (g.writePred d m f).Fits k ↔ g.Fits k :=
  Group.fits_congr (by simp) (by simp)

@[simp] theorem Group.log_fits (it : LogItem) : (g.log it).Fits k ↔ g.Fits k := by
  unfold Group.log
  split <;> rfl

@[simp] theorem Group.popped_fits (now : Nat) (nothing : Bool) : (g.popped now nothing).Fits k ↔ g.Fits k :=
  Group.fits_congr (by simp) (by simp)

@[simp] theorem Group.stepped_fits (s : Nat) : (g.stepped s).Fits k ↔ g.Fits k := Iff.rfl

@[simp] theorem Group.pushLdq_fits (q : Nat) (e : VEntry) (now : Nat) : (g.pushLdq q e now).Fits k ↔ g.Fits k := by
  unfold Group.pushLdq
  split <;> rfl

@[simp] theorem writeSr_fits (idx : Nat) (x : Word) : (writeSr g idx x).Fits k ↔ g.Fits k := by
  unfold writeSr
  split <;> rfl

@[simp] theorem Group.rename_fits (old new : Nat) : (g.rename old new).Fits k ↔ g.Fits k := by
  unfold Group.rename
  split <;> rfl

@[simp] theorem Group.renameAll_fits (old new : CSide) (s : Nat) : (g.renameAll old new s).Fits k ↔ g.Fits k :=
  foldl_fits (fun g e => by split <;> simp) old.splits

@[simp] theorem Group.regrouped_fits (wasHere : Bool) (c : CSide) (sh : Option CSide) :
    (g.regrouped wasHere c sh).Fits k ↔ g.Fits k := by
  unfold Group.regrouped
  dsimp only
  split
  · rfl
  · exact Group.log_fits _

@[simp] theorem Group.replayedTo_fits (c : CSide) : (g.replayedTo c).Fits k ↔ g.Fits k := Iff.rfl

@[simp] theorem Group.replay_fits (x : Shadow) (it : LogItem) (run : Instr → CSide) : (g.replay x it run).Fits k ↔ g.Fits k := by
  unfold Group.replay
  split
  · rfl
  · rfl
  · dsimp only
    split_ifs <;> rfl

theorem takeN_fits (n q : Nat) (es : List VEntry) : (takeN n g q es).1.Fits k ↔ g.Fits k := by
  fun_induction takeN n g q es
  · rfl
  · next ih => exact ih.trans (Group.popHead_fits _)
  · rfl
  · rfl

theorem pushN_fits (s : State) (d : Dst) (q p n : Nat) : (pushN s d q p n g).1.Fits k ↔ g.Fits k := by
  fun_induction pushN s d q p n g
  · rfl
  · rfl
  · next ih => exact ih.trans (Group.pushC_fits ..)

/-- The group of a fetch's answer. -/
def Fetched.group : Fetched → Group
  | .all g _ | .wait g _ _ | .token g _ _ _ => g

theorem fetchQ_fits (l : List Nat) (es : List (Nat × VEntry)) : (fetchQ l g es).group.Fits k ↔ g.Fits k := by
  fun_induction fetchQ l g es
  · rfl
  · rfl
  · rfl
  · next ih =>
    refine ih.trans ?_
    split
    · rfl
    · exact Group.popHead_fits _

end

end Sys2Proof.Machine

namespace Sys2Proof.Machine

/-! ### The machine and its tables -/

-- One after another, as in Sys2Proof/Tests/Slice0.lean: a thread for each proof would need more memory than the check allows.
set_option Elab.async false

/-- The groups stand in order, each fit for its name. -/
def GroupsFit (gs : Tbl Group) : Prop := gs.keys.Pairwise (· < ·) ∧ ∀ e ∈ gs, e.2.Fits e.1

/-- What the invariant asks of the parts of a machine, with the group whose turn it is. -/
def SoundParts (k : Nat) (dev host0 host1 peer chip : Memory) (groups : Tbl Group) (teams : Tbl Team) (clusters : Tbl Cluster)
    (cur : Cur) : Prop :=
  (dev.wf = true ∧ host0.wf = true ∧ host1.wf = true ∧ peer.wf = true ∧ chip.wf = true) ∧ GroupsFit groups ∧
    (∀ e ∈ teams, e.2.mem.wf = true) ∧ (∀ e ∈ clusters, e.2.mem.wf = true) ∧ cur.gid = k

/-- A machine that keeps the invariant, in a turn of a group. -/
def State.Sound (s : State) (k : Nat) : Prop :=
  SoundParts k s.dev s.host0 s.host1 s.peer s.chip s.groups s.teams s.clusters s.cur

theorem sound_iff {s : State} {k : Nat} : s.Sound k ↔ Claims.inv s ∧ s.cur.gid = k := by
  simp only [State.Sound, SoundParts, GroupsFit, Group.Fits, FitParts, Claims.inv, State.memoriesWf, Claims.named, forall_and]
  tauto

section
variable {s : State} {k m : Nat}

/-- Of a machine changed in other fields the invariant asks what it asks of the machine: how `grind` passes such a change. -/
theorem sound_mk {dev host0 host1 peer chip late watch groups teams clusters launches queues lastMapped eng sessions binds surge
    quads vfs tlb prq frames reclaim galley regs rely disp irqs debug cur agenda fresh nextId tick} :
    (State.mk dev host0 host1 peer chip late watch groups teams clusters launches queues lastMapped eng sessions binds surge quads
      vfs tlb prq frames reclaim galley regs rely disp irqs debug cur agenda fresh nextId tick).Sound k ↔
      SoundParts k dev host0 host1 peer chip groups teams clusters cur := Iff.rfl

theorem sound_parts : SoundParts k s.dev s.host0 s.host1 s.peer s.chip s.groups s.teams s.clusters s.cur ↔ s.Sound k := Iff.rfl

/-! ### Tables of groups -/

theorem Tbl.lt_of_mem_set {α : Type} {t : Tbl α} {n j : Nat} {x : α} (hj : j < n) (h : ∀ e ∈ t, j < e.1) :
    ∀ e ∈ t.set n x, j < e.1 := by
  intro e he
  rcases Tbl.mem_set t n x e he with rfl | he
  · exact hj
  · exact h e he

theorem Tbl.pairwise_set {α : Type} {t : Tbl α} (h : t.keys.Pairwise (· < ·)) (n : Nat) (x : α) :
    (t.set n x).keys.Pairwise (· < ·) := by
  simp only [Tbl.keys, List.pairwise_map] at h ⊢
  induction t with
  | nil => exact List.pairwise_singleton ..
  | cons y r ih =>
    obtain ⟨j, v⟩ := y
    obtain ⟨hj, hr⟩ := List.pairwise_cons.1 h
    unfold Tbl.set
    split_ifs with h1 h2
    · subst h1
      exact List.pairwise_cons.2 ⟨hj, hr⟩
    · refine List.pairwise_cons.2 ⟨fun e he => ?_, h⟩
      rcases List.mem_cons.1 he with rfl | he
      · exact h2
      · exact Nat.lt_trans h2 (hj e he)
    · exact List.pairwise_cons.2 ⟨Tbl.lt_of_mem_set (by omega) hj, ih hr⟩

theorem GroupsFit.nil : GroupsFit [] := ⟨List.Pairwise.nil, List.forall_mem_nil _⟩

theorem GroupsFit.get? {gs : Tbl Group} (h : GroupsFit gs) {g : Group} (hg : gs.get? m = some g) : g.Fits m :=
  h.2 (m, g) (Tbl.get?_mem hg)

theorem GroupsFit.set {gs : Tbl Group} (h : GroupsFit gs) {g : Group} (hg : g.Fits m) : GroupsFit (gs.set m g) := by
  refine ⟨Tbl.pairwise_set h.1 m g, fun e he => ?_⟩
  rcases Tbl.mem_set _ _ _ e he with rfl | he
  · exact hg
  · exact h.2 e he

theorem GroupsFit.upd {gs : Tbl Group} (h : GroupsFit gs) {f : Group → Group} (hf : ∀ g, g.Fits m → (f g).Fits m) :
    GroupsFit (gs.upd m f) := by
  unfold Tbl.upd
  split
  · next g hg => exact h.set (hf g (h.get? hg))
  · exact h

theorem GroupsFit.del {gs : Tbl Group} (h : GroupsFit gs) (m : Nat) : GroupsFit (gs.del m) :=
  ⟨h.1.sublist (List.filter_sublist.map Prod.fst), fun e he => h.2 e (List.mem_of_mem_filter he)⟩

theorem GroupsFit.mapV {gs : Tbl Group} (h : GroupsFit gs) {f : Nat → Group → Group} (hf : ∀ m g, g.Fits m → (f m g).Fits m) :
    GroupsFit (gs.mapV f) := by
  refine ⟨?_, fun e he => ?_⟩
  · rw [Tbl.keys, Tbl.mapV, List.map_map]
    exact h.1
  · obtain ⟨x, hx, rfl⟩ := List.mem_map.1 he
    exact hf _ _ (h.2 x hx)

/-! ### Groups of the machine -/

theorem State.Sound.memories (h : s.Sound k) : s.memoriesWf := (sound_iff.1 h).1.1

theorem State.Sound.cur (h : s.Sound k) : s.cur.gid = k := (sound_iff.1 h).2

theorem State.Sound.groups (h : s.Sound k) : GroupsFit s.groups := by
  obtain ⟨-, hg, -⟩ := h
  exact hg

/-- The group under a name fits it. -/
theorem State.Sound.get? (h : s.Sound k) {g : Group} (hg : s.groups.get? m = some g) : g.Fits m := h.groups.get? hg

theorem State.Sound.grp? (h : s.Sound k) {g : Group} (hg : s.grp? = some g) : g.Fits k := h.cur ▸ h.get? hg

theorem State.Sound.withGroups (h : s.Sound k) {gs : Tbl Group} (hg : GroupsFit gs) : ({ s with groups := gs } :
    State).Sound k := by
  obtain ⟨hm, -, hr⟩ := h
  exact ⟨hm, hg, hr⟩

theorem State.Sound.withTeams (h : s.Sound k) {ts : Tbl Team} (ht : ∀ e ∈ ts, e.2.mem.wf = true) :
    ({ s with teams := ts } : State).Sound k := by
  obtain ⟨hm, hg, -, hr⟩ := h
  exact ⟨hm, hg, ht, hr⟩

theorem State.Sound.withClusters (h : s.Sound k) {cs : Tbl Cluster} (hc : ∀ e ∈ cs, e.2.mem.wf = true) :
    ({ s with clusters := cs } : State).Sound k := by
  obtain ⟨hm, hg, ht, -, hk⟩ := h
  exact ⟨hm, hg, ht, hc, hk⟩

theorem State.Sound.teams (h : s.Sound k) : ∀ e ∈ s.teams, e.2.mem.wf = true := by
  obtain ⟨-, -, ht, -⟩ := h
  exact ht

theorem State.Sound.clusters (h : s.Sound k) : ∀ e ∈ s.clusters, e.2.mem.wf = true := by
  obtain ⟨-, -, -, hc, -⟩ := h
  exact hc

theorem State.setG_sound (h : s.Sound k) {g : Group} (hg : g.Fits m) : (s.setG m g).Sound k := h.withGroups (h.groups.set hg)

/-- A group put back under its own name. -/
theorem State.setG_own_sound (h : s.Sound k) {g g' : Group} (hg : g.Fits m) (hg' : g'.Fits m) : (s.setG g.who.gid g').Sound k :=
  State.setG_sound h (hg.gid.symm ▸ hg')

theorem State.putG_sound (h : s.Sound k) {g : Group} (hg : g.Fits k) : (s.putG g).Sound k :=
  h.withGroups (h.groups.set (h.cur.symm ▸ hg))

theorem State.updGroups_sound (h : s.Sound k) {f : Group → Group} (hf : ∀ g, g.Fits m → (f g).Fits m) :
    ({ s with groups := s.groups.upd m f } : State).Sound k := h.withGroups (h.groups.upd hf)

theorem State.updG_sound (h : s.Sound k) {f : Group → Group} (hf : ∀ g, g.Fits s.cur.gid → (f g).Fits s.cur.gid) :
    (s.updG f).Sound k := State.updGroups_sound h hf

theorem Tbl.forall_mem_upd {α : Type} {P : Nat × α → Prop} {t : Tbl α} (h : ∀ e ∈ t, P e) (n : Nat) {f : α → α}
    (hf : ∀ x, P (n, x) → P (n, f x)) : ∀ e ∈ t.upd n f, P e := by
  intro e he
  rcases Tbl.mem_upd t n f e he with he | ⟨x, hx, rfl⟩
  · exact h e he
  · exact hf x (h _ hx)

theorem Tbl.forall_mem_mapV {α : Type} {P : Nat × α → Prop} {t : Tbl α} (h : ∀ e ∈ t, P e) {f : Nat → α → α}
    (hf : ∀ n x, P (n, x) → P (n, f n x)) : ∀ e ∈ t.mapV f, P e := by
  intro e he
  obtain ⟨x, hx, rfl⟩ := List.mem_map.1 he
  exact hf _ _ (h x hx)

theorem Tbl.forall_mem_del {α : Type} {P : Nat × α → Prop} {t : Tbl α} (h : ∀ e ∈ t, P e) (n : Nat) : ∀ e ∈ t.del n, P e :=
  fun e he => h e (List.mem_of_mem_filter he)

theorem Tbl.forall_mem_set {α : Type} {P : Nat × α → Prop} {t : Tbl α} (h : ∀ e ∈ t, P e) {n : Nat} {x : α} (hx : P (n, x)) :
    ∀ e ∈ t.set n x, P e := by
  intro e he
  rcases Tbl.mem_set t n x e he with rfl | he
  · exact hx
  · exact h e he

theorem State.setBar_sound (h : s.Sound k) (tid nb : Nat) (b : Bar) : (s.setBar tid nb b).Sound k :=
  h.withTeams (Tbl.forall_mem_upd h.teams tid fun _ hx => hx)

/-! ### Memories -/

theorem State.setMem_sound (h : s.Sound k) (sp : Space) {mem : Memory} (hm : mem.wf = true) : (s.setMem sp mem).Sound k := by
  obtain ⟨⟨hd, h0, h1, hp, hc⟩, hrest⟩ := h
  obtain ⟨hg, ht, hcl, hk⟩ := hrest
  unfold State.setMem
  split
  · exact ⟨⟨hm, h0, h1, hp, hc⟩, hg, ht, hcl, hk⟩
  · exact ⟨⟨hd, hm, h1, hp, hc⟩, hg, ht, hcl, hk⟩
  · exact ⟨⟨hd, h0, hm, hp, hc⟩, hg, ht, hcl, hk⟩
  · exact ⟨⟨hd, h0, h1, hm, hc⟩, hg, ht, hcl, hk⟩
  · exact ⟨⟨hd, h0, h1, hp, hm⟩, hg, ht, hcl, hk⟩
  · exact ⟨⟨hd, h0, h1, hp, hc⟩, hg, ht, Tbl.forall_mem_upd hcl _ fun _ _ => hm, hk⟩
  · exact ⟨⟨hd, h0, h1, hp, hc⟩, hg, Tbl.forall_mem_upd ht _ fun _ _ => hm, hcl, hk⟩
  · exact ⟨⟨hd, h0, h1, hp, hc⟩, hg.upd fun _ hx => ⟨hm, hx.2⟩, ht, hcl, hk⟩

theorem State.putBytes_sound (h : s.Sound k) (x : Loc) (bs : List Byte) : (s.putBytes x bs).Sound k :=
  State.setMem_sound h _ (Memory.wf_setBytes _ _ (State.memOf_wf h.memories _))

theorem State.writeBytes_sound (h : s.Sound k) (x : Loc) (bs : List Byte) : (s.writeBytes x bs).Sound k :=
  State.putBytes_sound h x bs

theorem State.writeLoc_sound (h : s.Sound k) (x : Loc) (n v : Nat) : (s.writeLoc x n v).Sound k := State.writeBytes_sound h ..

theorem State.zeroFill_sound (h : s.Sound k) (x : Loc) (n : Nat) : (s.zeroFill x n).Sound k :=
  State.setMem_sound h _ (Memory.wf_clear _ _ (State.memOf_wf h.memories _))

/-! ### Runs over a list -/

theorem foldl_sound {α : Type} {f : State → α → State} (l : List α) (hf : ∀ s x, s.Sound k → (f s x).Sound k) (h : s.Sound k) :
    (l.foldl f s).Sound k := by
  induction l generalizing s with
  | nil => exact h
  | cons x l ih => exact ih (hf s x h)

theorem foldl_fst_sound {α β : Type} {f : State × β → α → State × β} (l : List α) (hf : ∀ r x, r.1.Sound k → (f r x).1.Sound k)
    {r : State × β} (h : r.1.Sound k) : (l.foldl f r).1.Sound k := by
  induction l generalizing r with
  | nil => exact h
  | cons x l ih => exact ih (hf r x h)

theorem getD_sound {o : Option State} (ho : ∀ t, o = some t → t.Sound k) (h : s.Sound k) : (o.getD s).Sound k := by
  cases o with
  | none => exact h
  | some t => exact ho t rfl

theorem sound_of_eq {α : Type} {r : State × α} {t : State} {a : α} (h : r = (t, a)) (hr : r.1.Sound k) : t.Sound k := by
  subst h
  exact hr

end

end Sys2Proof.Machine

namespace Sys2Proof.Machine

/-! ### Translation, caches, and the end of a group -/

-- One after another, as in Sys2Proof/Tests/Slice0.lean: a thread for each proof would need more memory than the check allows.
set_option Elab.async false

section
variable {s : State} {me m : Nat}

theorem State.draw_sound (h : s.Sound me) : s.draw.2.Sound me := h

theorem State.newId_sound (h : s.Sound me) : s.newId.2.Sound me := h

theorem State.updL_sound (h : s.Sound me) (lid : Nat) (f : Launch → Launch) : (s.updL lid f).Sound me := h

theorem State.irq_sound (h : s.Sound me) (port : Nat) (fn : Option Nat) (vec : Nat) : (s.irq port fn vec).Sound me := h

theorem State.dropL1_sound (h : s.Sound me) (core : Nat) : (s.dropL1 core).Sound me := h

theorem State.nextTurn_sound (h : s.Sound me) :
    (s.nextTurn).2.Sound me := by
  fun_cases State.nextTurn s <;> exact h

theorem State.keepT_sound (h : s.Sound me) (e : TlbEnt) (cap : Nat) :
    (s.keepT e cap).Sound me := by
  fun_cases s.keepT e cap <;> grind only [sound_mk, sound_parts, State.draw_sound]

theorem State.markUsed_sound (h : s.Sound me) (a : Nat) (p : BitVec 64) (acc : Nat) :
    (s.markUsed a p acc).Sound me := by
  fun_cases s.markUsed a p acc <;> grind only [State.writeLoc_sound]

theorem State.walked_sound (h : s.Sound me) (v : Nat) (tlbs : Option (Nat × Nat)) (va acc level a : Nat) (p : BitVec 64)
    (from_ : WalkStart) : (s.walked v tlbs va acc level a p from_).Sound me := by
  cases tlbs with
  | none => exact foldl_sound _ (fun _ _ h => State.keepT_sound h ..) (State.markUsed_sound h ..)
  | some c =>
    exact State.keepT_sound (State.keepT_sound (foldl_sound _ (fun _ _ h => State.keepT_sound h ..) (State.markUsed_sound h ..)) ..) ..

theorem translate_sound (h : s.Sound me) (v : Nat) (sup : Bool) (tlbs : Option (Nat × Nat)) (acc va : Nat) :
    (translate s v sup tlbs acc va).1.Sound me := by
  fun_cases translate s v sup tlbs acc va <;> grind only [State.draw_sound, State.walked_sound]

theorem lostDetail_sound (h : s.Sound me) (quad : Nat) :
    (lostDetail s quad).1.Sound me := h

theorem globalAt_sound (h : s.Sound me) (v : Nat) (sup : Bool) (ag : Agent) (acc va : Nat) :
    (globalAt s v sup ag acc va).1.Sound me := by
  fun_cases globalAt s v sup ag acc va <;> grind only [translate_sound, lostDetail_sound]

theorem State.writeBack_sound (h : s.Sound me) (x : L2Line) :
    (s.writeBack x).Sound me := by
  fun_cases s.writeBack x <;> exact h

theorem State.useL2_sound (h : s.Sound me) (u : User) (l : Loc) (n : Nat) (write : Bool) :
    (s.useL2 u l n write).Sound me := by
  obtain ⟨r, t, he⟩ := State.useL2_keeps s u l n write
  exact he ▸ h

theorem fetchBytes_sound (h : s.Sound me) (g : Group) (va n : Nat) :
    (fetchBytes s g va n).1.Sound me := by
  refine foldl_fst_sound _ (fun r x hr => ?_) h
  grind only [globalAt_sound, State.useL2_sound]

theorem State.colophon_sound (h : s.Sound me) (cls code quad vf : Nat) (detail : List Byte) :
    (s.colophon cls code quad vf detail).Sound me := by
  fun_cases s.colophon cls code quad vf detail <;> exact h

theorem State.colGroup_sound (h : s.Sound me) (g : Group) (code first : Nat) : (s.colGroup g code first).Sound me :=
  State.colophon_sound h ..

theorem State.publishBy_sound (h : s.Sound me) (agent : Nat) (g : Group) (scope : Nat) :
    (s.publishBy agent g scope).Sound me := by
  fun_cases s.publishBy agent g scope <;> exact h

theorem State.publish_sound (h : s.Sound me) (g : Group) (scope : Nat) : (s.publish g scope).Sound me :=
  State.publishBy_sound h ..

theorem State.commit_sound (h : s.Sound me) (g : Group) (c : Commit) : (s.commit g c).Sound me :=
  State.publish_sound h ..

theorem State.arriveReady_sound (h : s.Sound me) (gid : Nat) : (s.arriveReady gid).Sound me := by
  unfold State.arriveReady
  split
  · exact h
  next g hg =>
  split
  · exact h
  · have hg := h.get? hg
    refine foldl_sound _ (fun s c h => State.commit_sound h ..) ?_
    refine foldl_sound _ (fun s a h => State.setBar_sound (State.publish_sound h ..) ..) ?_
    exact State.setG_sound h hg

theorem leaveSession_sound (h : s.Sound me) (g : Group) (k : Nat) (ss : Session) (q : Nat) :
    (leaveSession s g k ss q).1.Sound me := by
  fun_cases leaveSession s g k ss q
  grind only [sound_mk, sound_parts]

theorem leaveSession_fits {g : Group} (hg : g.Fits m) (k : Nat) (ss : Session) (q : Nat) : (leaveSession s g k ss q).2.Fits m :=
  (foldl_fits (fun _ f => Group.detach_fits f) _).2 hg

theorem State.charge_sound (h : s.Sound me) (lid n : Nat) :
    (s.charge lid n).Sound me := h

theorem State.offArrays_sound (h : s.Sound me) (ss : Session) : (s.offArrays ss).Sound me := by
  refine foldl_sound _ (fun s x h => ?_) h
  grind only [sound_mk, sound_parts, State.charge_sound]

theorem State.quitSession_sound (h : s.Sound me) {g : Group} (hg : g.Fits m) : (s.quitSession g).Sound me := by
  unfold State.quitSession
  split
  · exact h
  next k ss q _ =>
  dsimp only
  split
  · have hl := leaveSession_sound (State.offArrays_sound h ss) g k { ss with passes := [] } q
    exact hl.withGroups (hl.groups.set (leaveSession_fits hg.own ..))
  · have hl := leaveSession_sound h g k ss q
    exact hl.withGroups (hl.groups.set (leaveSession_fits hg.own ..))

theorem State.release_sound (h : s.Sound me) (gid : Nat) : (s.release gid).Sound me := by
  unfold State.release
  split
  · exact h
  next g hg =>
  have hg := h.get? hg
  refine State.quitSession_sound ?_ hg
  exact h

theorem State.removeGroup_sound (h : s.Sound me) (gid : Nat) : (s.removeGroup gid).Sound me := by
  unfold State.removeGroup
  split
  · exact h
  next g hg =>
  extract_lets s1 s2 s3 s4
  have h2 : s2.Sound me := (State.release_sound h gid).withGroups ((State.release_sound h gid).groups.del gid)
  have h3 : s3.Sound me := by
    simp only [s3]
    split
    · exact h2
    · exact h2.withTeams (Tbl.forall_mem_del h2.teams _)
  have h4 : s4.Sound me := by
    simp only [s4]
    split
    · exact h3
    · exact h3.withClusters (Tbl.forall_mem_del h3.clusters _)
  exact State.updL_sound h4 ..

theorem State.endGroup_sound (h : s.Sound me) (gid : Nat) : (s.endGroup gid).Sound me := by
  unfold State.endGroup
  split
  · exact h
  next g hg =>
  have hg := h.get? hg
  extract_lets pend _ sys s1
  have h1 : s1.Sound me := by
    refine State.arriveReady_sound (State.setG_sound (State.release_sound h gid) ?_) gid
    exact hg
  split
  · exact State.removeGroup_sound (State.publish_sound h1 g 4) gid
  · exact h1

theorem State.failLaunch_sound (h : s.Sound me) (lid grp : Nat) :
    (s.failLaunch lid grp).Sound me := h

theorem doubleTrap_sound (h : s.Sound me) (gid : Nat) (p : Pending) :
    (doubleTrap s gid p).Sound me := by
  fun_cases doubleTrap s gid p <;> grind only [State.colGroup_sound, State.endGroup_sound, State.failLaunch_sound]

theorem State.unwait_sound (h : s.Sound me) (gid : Nat) : (s.unwait gid).Sound me :=
  h.withTeams (Tbl.forall_mem_mapV h.teams fun _ _ ht => ht)

theorem State.l1Write_sound (h : s.Sound me) (core : Nat) (l : Loc) (bs : List Byte) : (s.l1Write core l bs).Sound me := by
  obtain ⟨r, he⟩ := s.l1Write_keeps core l bs
  exact he ▸ h

theorem State.dirtied_sound (h : s.Sound me) (l : Loc) : (s.dirtied l).Sound me := by
  fun_cases s.dirtied l <;> grind only [State.markUsed_sound]

theorem State.see_sound (h : s.Sound me) (agent : Nat) (ws : List Late) :
    (s.see agent ws).Sound me := h

theorem State.agentWrite_sound (h : s.Sound me) (agent : Nat) (l : Loc) (bs : List Byte) :
    (s.agentWrite agent l bs).Sound me := by
  fun_cases s.agentWrite agent l bs <;> grind only [sound_mk, sound_parts, State.putBytes_sound, State.see_sound]

theorem State.engineWrite_sound (h : s.Sound me) (u : User) (l : Loc) (bs : List Byte) :
    (s.engineWrite u l bs).Sound me := by
  fun_cases s.engineWrite u l bs <;>
    grind only [State.writeBytes_sound, State.useL2_sound, State.l1Write_sound, State.dirtied_sound, State.agentWrite_sound]

theorem State.writeVaBlk_sound (h : s.Sound me) (v : Nat) (sup : Bool) (u : Option User) (va : Nat) (bs : List Byte) :
    (s.writeVaBlk v sup u va bs).1.Sound me := by
  refine foldl_fst_sound _ (fun r x hr => ?_) h
  grind only [State.writeBytes_sound, globalAt_sound, State.dirtied_sound, State.engineWrite_sound]

theorem writeImage_sound (h : s.Sound me) (g : Group) :
    (writeImage s g).1.Sound me := by
  refine foldl_fst_sound _ (fun r x hr => ?_) h
  grind only [State.writeVaBlk_sound]

theorem State.irqL_sound (h : s.Sound me) (l : Launch) (vec : Nat) :
    (s.irqL l vec).Sound me := h

theorem takeTrap_sound (h : s.Sound me) (gid : Nat) (p : Pending) : (takeTrap s gid p).Sound me := by
  unfold takeTrap
  split
  · exact h
  next g0 hg0 =>
  split
  · exact doubleTrap_sound h ..
  extract_lets s0 g1 _ g3 d _ g4 alive sp g5
  have hg3 : g3.Fits gid := (Group.detachLanes_fits (g := g0.settle)).2 (Group.settle_fits.2 (h.get? hg0))
  have h0 : s0.Sound me := State.unwait_sound h gid
  have hg4 : g4.Fits gid := hg3
  have hg5 : g5.Fits gid := by simpa [g5] using hg4
  clear_value g5 g4 g3 s0
  split
  next s1 e1 he1 =>
  have h1 : s1.Sound me := sound_of_eq he1 (writeImage_sound h0 ..)
  split
  · exact doubleTrap_sound (State.setG_sound h1 hg3) ..
  split
  next s2 e2 he2 =>
  have h2 : s2.Sound me := sound_of_eq he2 (State.writeVaBlk_sound h1 ..)
  split
  · exact doubleTrap_sound (State.setG_sound h2 hg3) ..
  split
  · exact State.setG_sound h2 (Group.fits_mk.2 hg5)
  · refine State.endGroup_sound (State.irqL_sound (State.colGroup_sound (State.failLaunch_sound ?_ ..) ..) ..) _
    exact State.setG_sound h2 hg4

theorem raise_sound (h : s.Sound me) (gid : Nat) (p : Pending) : (raise s gid p).Sound me := by
  unfold raise
  split
  · exact h
  next g hg =>
  have hg := h.get? hg
  split_ifs
  · exact h
  · exact doubleTrap_sound h ..
  · exact takeTrap_sound h ..
  · exact State.setG_sound (State.unwait_sound h gid) hg

theorem failedTurn_sound (h : s.Sound me) (g : Group) (split : Option Nat) (va : Nat) (f : AFault) :
    (failedTurn s g split va f).1.Sound me := by
  fun_cases failedTurn s g split va f <;> grind only [raise_sound]

end

end Sys2Proof.Machine

namespace Sys2Proof.Machine

/-! ### Reads, waits, and the return from a trap -/

-- One after another, as in Sys2Proof/Tests/Slice0.lean: a thread for each proof would need more memory than the check allows.
set_option Elab.async false

section
variable {s : State} {me m : Nat}

theorem fetchA_sound (h : s.Sound me) (g : Group) :
    (fetchA s g).1.Sound me := by
  fun_cases fetchA s g <;> grind only [fetchBytes_sound, failedTurn_sound]

theorem fetchC_sound (h : s.Sound me) (g : Group) (idx : Nat) :
    (fetchC s g idx).1.Sound me := by
  fun_cases fetchC s g idx <;> grind only [fetchBytes_sound]

theorem withinClause_sound (h : s.Sound me) {g : Group} (hg : g.Fits me) (k : Nat) (p : Split) :
    (withinClause s g k p).1.Sound me := by
  have hput : ∀ (t : State) (c : CSide), t.Sound me → (t.putG { g with cs := c }).Sound me :=
    fun t c ht => State.putG_sound ht hg
  fun_cases withinClause s g k p <;> grind only [failedTurn_sound, fetchC_sound]

theorem turnC_sound (h : s.Sound me) {g : Group} (hg : g.Fits me) (k : Nat) :
    (turnC s g k).1.Sound me := by
  fun_cases turnC s g k <;> grind only [withinClause_sound]

theorem turnOf_sound (h : s.Sound me) (w : What) :
    (turnOf s w).1.Sound me := by
  fun_cases turnOf s w <;> grind only [fetchA_sound, turnC_sound, State.Sound.grp?]

theorem State.readVa_sound (h : s.Sound me) (v : Nat) (sup : Bool) (va n : Nat) (u : Option User) :
    (s.readVa v sup va n u).1.Sound me := by
  refine foldl_fst_sound _ (fun r x hr => ?_) h
  grind only [globalAt_sound, State.useL2_sound]

theorem State.node_sound (h : s.Sound me) (v n : Nat) :
    (s.node v n).1.Sound me := by
  fun_cases s.node v n <;> grind only [State.readVa_sound]

theorem State.nodeWaits_sound (h : s.Sound me) (v : Nat) (d : List Byte) :
    (s.nodeWaits v d).1.Sound me := by
  fun_cases s.nodeWaits v d <;> grind only [State.readVa_sound]

theorem State.offers_sound (h : s.Sound me) (v : Nat) :
    (s.offers v).1.Sound me := by
  refine foldl_fst_sound _ (fun r x hr => ?_) h
  grind only [State.node_sound, State.nodeWaits_sound]

theorem State.setGal_sound (h : s.Sound me) (v : Nat) (y : Galley) :
    (s.setGal v y).Sound me := h

theorem writeRecord_sound (h : s.Sound me) (l : Launch) (status : Nat) (tail : List Byte) :
    (writeRecord s l status tail).Sound me := by
  fun_cases writeRecord s l status tail <;> grind only [State.writeVaBlk_sound]

theorem State.giveBack_sound (h : s.Sound me) (v : Nat) (recs : List Nat) :
    (s.giveBack v recs).Sound me := h

theorem State.batchBack_sound (h : s.Sound me) (v : Nat) (recs : List Nat) :
    (s.batchBack v recs).Sound me := h

theorem takePacket_sound (h : s.Sound me) (qno : Nat) (qd : QDesc) (d : List Byte) (arrival : Nat) (batch : Option
    (Nat × Nat × List Nat × Nat)) (force : Nat) :
    (takePacket s qno qd d arrival batch force).Sound me := by
  fun_cases takePacket s qno qd d arrival batch force <;>
    grind only [sound_mk, sound_parts, State.newId_sound, State.irqL_sound, writeRecord_sound, State.batchBack_sound]

theorem launchBatch_sound (h : s.Sound me) (v now : Nat) (o : Offer) (n : Nat) : (launchBatch s v now o n).Sound me := by
  fun_cases launchBatch s v now o n <;> grind only [State.setGal_sound, State.readVa_sound, takePacket_sound]

theorem formBatches_sound (h : s.Sound me) (v now lim n : Nat) : (formBatches v now lim n s).Sound me := by
  fun_induction formBatches v now lim n s <;> grind only [State.offers_sound, launchBatch_sound]

theorem State.galleyClk_sound (h : s.Sound me) (v t : Nat) : (s.galleyClk v t).Sound me := by
  have hr : (formBatches v t (clkEnd t) (s.gal v).comm.length { s with tick := max s.tick t }).Sound me := by
    apply formBatches_sound
    exact h
  exact hr

theorem State.galleyTime_sound (h : s.Sound me) (v : Nat) :
    (s.galleyTime v).1.Sound me := by
  fun_cases s.galleyTime v
  grind only [State.offers_sound]

theorem State.galleyNext_sound (h : s.Sound me) :
    (s.galleyNext).1.Sound me := by
  refine foldl_fst_sound _ (fun r x hr => ?_) h
  grind only [State.galleyTime_sound]

theorem State.galleyTimes_sound (h : s.Sound me) (until_ : Nat) (n : Nat) :
    (State.galleyTimes until_ n s).Sound me := by
  fun_induction State.galleyTimes until_ n s <;> grind only [State.galleyClk_sound, State.galleyNext_sound]

theorem State.galleyTo_sound (h : s.Sound me) (adv : Nat) :
    (s.galleyTo adv).Sound me := by
  unfold State.galleyTo
  dsimp only
  split
  · exact h
  · refine State.galleyTimes_sound (foldl_sound _ (fun s v h => ?_) h) ..
    split
    · exact State.galleyClk_sound h ..
    · exact h

theorem State.countClk_sound (h : s.Sound me) (gid c n : Nat) : (s.countClk gid c n).Sound me := by
  unfold State.countClk
  split
  · exact h
  next g hg =>
  have hg := h.get? hg
  refine (State.updL_sound h ..).withGroups (h.groups.set ?_)
  exact hg

theorem State.countCycles_sound {after : State} (h : after.Sound me) (before : State) (w : What) (i : Instr) :
    (after.countCycles before w i).Sound me := by
  fun_cases State.countCycles after before w i <;> grind only [State.updL_sound, State.countClk_sound]

theorem transPages_sound (h : s.Sound me) (g : Group) (acc : Nat) (vas : List Nat) :
    (transPages s g acc vas).1.Sound me := by
  refine foldl_fst_sound _ (fun r x hr => ?_) h
  grind only [translate_sound]

theorem checkElems_sound (h : s.Sound me) (g : Group) (ag : Agent) (acc : Nat) (b : Buf) (scalar : Bool) (els : List (Nat × Nat)) :
    (checkElems s g ag acc b scalar els).1.Sound me := by
  fun_cases checkElems s g ag acc b scalar els <;> grind only [transPages_sound]

theorem State.deliverEng_sound (h : s.Sound me) (eng : Option Nat) (pass : Option (Nat × Nat)) (c : Cause) :
    (s.deliverEng eng pass c).Sound me := by
  unfold State.deliverEng
  cases eng <;> cases pass <;> exact h

theorem State.agentRead_sound (h : s.Sound me) (agent : Nat) (l : Loc) (n : Nat) :
    (s.agentRead agent l n).1.Sound me := by
  fun_cases s.agentRead agent l n <;> grind only [State.draw_sound, State.see_sound]

theorem agentBytes_sound (h : s.Sound me) (agent : Nat) (k : Nat) (l : Loc) (n : Nat) :
    (agentBytes agent k l n s).1.Sound me := by
  fun_induction agentBytes agent k l n s <;> grind only [State.agentRead_sound]

theorem State.readView_sound (h : s.Sound me) (agent : Nat) (l : Loc) (n : Nat) :
    (s.readView agent l n).1.Sound me := by
  fun_cases s.readView agent l n <;> grind only [agentBytes_sound]

theorem State.readPast_sound (h : s.Sound me) (u : User) (l : Loc) (n : Nat) :
    (s.readPast u l n).1.Sound me := by
  fun_cases s.readPast u l n
  grind only [State.useL2_sound, State.readView_sound]

theorem State.seeCore_sound (h : s.Sound me) (u : User) (l : Loc) (n : Nat) :
    (s.seeCore u l n).Sound me := by
  fun_cases s.seeCore u l n <;> exact h

theorem State.fillL1_sound (h : s.Sound me) (u : User) (l : Loc) (hint : Nat) :
    (s.fillL1 u l hint).Sound me := by
  fun_cases s.fillL1 u l hint <;> grind only [sound_mk, sound_parts, State.draw_sound, State.readPast_sound, State.seeCore_sound]

theorem State.prefetch_sound (h : s.Sound me) (g : Group) (b : Buf) (l1 : Bool) (els : List (Nat × Nat)) :
    (s.prefetch g b l1 els).Sound me := by
  refine foldl_sound _ (fun s x h => ?_) h
  grind only [State.useL2_sound, State.fillL1_sound]

theorem scalarWindow_sound (h : s.Sound me) (g : Group) (b : Buf) (i : Word) :
    (scalarWindow s g b i).1.Sound me := by
  fun_cases scalarWindow s g b i <;> grind only [translate_sound]

theorem State.dirtiedPage_sound (h : s.Sound me) (v va : Nat) :
    (s.dirtiedPage v va).Sound me := by
  fun_cases s.dirtiedPage v va <;> grind only [State.markUsed_sound]

theorem levelAt_sound (h : s.Sound me) (g : Group) (ag : Agent) (acc level ln a n : Nat) :
    (levelAt s g ag acc level ln a n).1.Sound me := by
  fun_cases levelAt s g ag acc level ln a n <;> grind only [globalAt_sound]

theorem deliver_sound (h : s.Sound me) {g : Group} (hg : g.Fits me) (mu : Bool) (w : Waits) :
    ∀ t, deliver s g mu w = some t → t.Sound me := by
  have hput : ∀ d, (s.putG { g with due := d }).Sound me := fun d => State.putG_sound h hg
  fun_cases deliver s g mu w <;>
    grind only [State.putG_sound, State.setBar_sound, raise_sound, State.deliverEng_sound, Group.endHeld_fits]

theorem State.acquire_sound (h : s.Sound me) (g : Group) (scope : Nat) :
    (s.acquire g scope).Sound me := by
  fun_cases s.acquire g scope <;> exact h

theorem trapBinds_sound (h : s.Sound me) (c : Cause) (bs : List Bind) :
    (trapBinds s c bs).Sound me := by
  refine foldl_sound _ (fun s x h => ?_) h
  split
  · exact raise_sound h ..
  · exact h

theorem State.readParts_sound (h : s.Sound me) (v : Nat) (u : User) (l : List (Nat × Nat)) :
    (s.readParts v u l).1.Sound me := by
  fun_induction State.readParts s v u l <;> grind only [State.readVa_sound]

theorem readStack_sound (h : s.Sound me) (g : Group) (vregs k depth : Nat) :
    (readStack s g vregs k depth).1.Sound me := by
  refine foldl_fst_sound _ (fun r x hr => ?_) h
  grind only [State.readVa_sound]

theorem readSplits_sound (h : s.Sound me) (g : Group) (vregs : Nat) (tbl : List Byte) :
    (readSplits s g vregs tbl).1.Sound me := by
  refine foldl_fst_sound _ (fun r x hr => ?_) h
  grind only [readStack_sound]

theorem readImage_sound (h : s.Sound me) (g : Group) (c : Bool) : (readImage s g c).1.Sound me := by
  unfold readImage
  extract_lets pk
  split
  · next he => exact readSplits_sound (sound_of_eq he (State.readParts_sound h ..)) ..
  all_goals next he => exact sound_of_eq he (State.readParts_sound h ..)

/-- The group that an image gives back fits where the group did. -/
theorem readImage_fits {g g' : Group} (hg : g.Fits m) (c : Bool) (hr : (readImage s g c).2 = .ok g') : g'.Fits m := by
  unfold readImage at hr
  dsimp only at hr
  split at hr
  · exact Except.ok.inj hr ▸ (Group.ofImage_fits ..).2 hg
  · exact Except.ok.inj hr ▸ hg
  · cases hr

theorem State.resumeEng_sound (h : s.Sound me) (gid : Nat) :
    (s.resumeEng gid).Sound me := h

theorem returnTrap_sound (h : s.Sound me) (gid : Nat) : (returnTrap s gid).1.Sound me := by
  unfold returnTrap
  split
  · exact h
  next g hg =>
  have hg := h.get? hg
  split
  next hf => exact sound_of_eq hf (State.readVa_sound h ..)
  next t f hf =>
  have ht : t.Sound me := sound_of_eq hf (State.readVa_sound h ..)
  split
  next hi => exact sound_of_eq hi (readImage_sound ht ..)
  next u g' hi =>
  have hu : u.Sound me := sound_of_eq hi (readImage_sound ht ..)
  have hg' : g'.Fits gid := readImage_fits hg false (congrArg Prod.snd hi)
  exact State.resumeEng_sound (State.setG_sound hu (Group.reissueLanes_fits.2 ((Group.returned_fits f).2 hg'))) gid

theorem bareToken_sound (h : s.Sound me) {g : Group} (hg : g.Fits m) (c : Cause) (op : Nat) : (bareToken s g c op).Sound me :=
  raise_sound (State.setG_own_sound h hg ((Group.endHeld_fits op c).2 hg)) ..

theorem endCStream_sound (h : s.Sound me) {g : Group} (hg : g.Fits m) : (endCStream s g).Sound me := by
  unfold endCStream
  extract_lets tok _ g'
  have hg' : g'.Fits m := hg
  have hs : (s.setG g.who.gid g').Sound me := State.setG_own_sound h hg hg'
  clear_value tok
  split
  · exact bareToken_sound hs hg' ..
  · exact hs

theorem afterFlow_sound (h : s.Sound me) {g : Group} (hg : g.Fits m) (c : CSide) : (afterFlow s g c).Sound me := by
  unfold afterFlow
  extract_lets r since born owed _ g'
  have hg' : g'.Fits m := hg
  split
  · exact endCStream_sound h hg'
  · refine State.setG_own_sound h hg' ?_
    split
    · exact hg'
    · exact hg'

theorem State.afterReturn_sound (h : s.Sound me) (gid : Nat) : (s.afterReturn gid).Sound me := by
  unfold State.afterReturn
  split
  · exact h
  next g hg =>
  have hg := h.get? hg
  split
  · refine afterFlow_sound (m := gid) h ?_ _
    exact hg
  · exact h

theorem State.retake_sound {t : State} (h : t.Sound me) (s : State) (gid : Nat) : (s.retake t gid).Sound me := by
  fun_cases State.retake s t gid
  · exact h
  · exact h

end

end Sys2Proof.Machine

namespace Sys2Proof.Machine

/-! ### What C instructions make of the machine -/

-- One after another, as in Sys2Proof/Tests/Slice0.lean: a thread for each proof would need more memory than the check allows.
set_option Elab.async false

section
variable {s : State} {me m : Nat}

theorem State.leave_sound (h : s.Sound me) {s0 : State} {g0 : Group} (hg : s.shadowed g0 = true → s0.Sound me ∧ g0.Fits me)
    (i : Instr)
    (sh : CShape) (env : CEnv) : (s.leave s0 g0 i sh env).Sound me := by
  unfold State.leave
  split
  next hs =>
    obtain ⟨h0, hg⟩ := hg hs
    split
    · refine State.putG_sound h0 ((Group.log_fits _).2 ?_)
      exact hg
    · refine State.updG_sound h fun g hg => ?_
      split
      · exact (Group.log_fits _).2 hg
      · exact hg
  · exact h

theorem State.waitC_sound (h : s.Sound me) {g : Group} (hg : g.Fits me) (k : Nat) (es : List (Nat × VEntry)) (w : WaitKind) :
    (s.waitC g k es w).Sound me := by
  refine State.putG_sound h ?_
  exact hg

theorem queueWait_sound (h : s.Sound me) {g : Group} (hg : g.Fits me) (k : Nat) (es : List (Nat × VEntry)) (w : BitVec 96)
    (q : Nat) :
    (queueWait s g k es w q).Sound me := by
  unfold queueWait
  split
  next c op _ =>
    extract_lets g1 g2
    have hg2 : g2.Fits me := (Group.unpopAll_fits es).2 hg
    exact raise_sound (State.putG_sound h ((Group.endHeld_fits op c).2 hg2)) ..
  · exact State.waitC_sound h hg ..

theorem State.countEv_sound (h : s.Sound me) (lid : Nat) (evs : List Nat) :
    (s.countEv lid evs).Sound me := by
  fun_induction State.countEv s lid evs <;> grind only [sound_mk, sound_parts, State.irqL_sound]

theorem putLanes_sound (h : s.Sound me) {g : Group} (hg : g.Fits me) (e : CEnv) (d : Dst) (f : Nat → Word) (fl : Fl) (ev :
    List Nat) :
    (putLanes s g e d f fl ev).Sound me := by
  fun_cases putLanes s g e d f fl ev <;>
    grind only [State.putG_sound, State.countEv_sound, Group.writeDst_fits, Group.raiseFl_fits]

theorem trapHere_sound (h : s.Sound me) {g : Group} (hg : g.Fits me) (e : CEnv) (word : BitVec 96) (c : Cause) (at_ : Option Nat) :
    (trapHere s g e word c at_).Sound me := by
  refine raise_sound (State.putG_sound h ((Group.unpopAll_fits e.es).2 ?_)) ..
  exact hg

/-- A run over a list whose every entry, taken alone, keeps the machine sound. -/
theorem foldl_mem_sound {α : Type} {f : State → α → State} (l : List α) (hf : ∀ s, ∀ x ∈ l, s.Sound me → (f s x).Sound me)
    (h : s.Sound me) : (l.foldl f s).Sound me := List.foldlRecOn l f h fun s hs x hx => hf s x hx hs

theorem regroupAll_sound (h : s.Sound me) (gid : Nat) {ms : List (Nat × Group × Lanes)} (hms : ∀ e ∈ ms, e.2.1.Fits e.1)
    (base cnt : Nat) : (regroupAll s gid ms base cnt).Sound me := by
  refine foldl_mem_sound _ (fun s x hx h => ?_) h
  extract_lets g _ t
  have hg : g.Fits x.1.1 := (Group.regrouped_fits ..).2 (hms _ (List.of_mem_zip hx).1)
  have ht : t.Sound me := by
    subst t
    split
    · refine endCStream_sound (m := x.1.1) h ?_
      exact hg
    · exact State.setG_sound h hg
  clear_value t
  split
  · exact ht
  · exact State.countClk_sound ht ..

theorem stay_sound (h : s.Sound me) {g : Group} (hg : g.Fits me) (e : CEnv) (es : List (Nat × VEntry)) (w : WaitKind) :
    (stay s g e es w).Sound me := by
  refine State.waitC_sound h ?_ ..
  exact hg

theorem isHeader_sound (h : s.Sound me) (g : Group) (idx : Nat) (joinpt : Bool) :
    (isHeader s g idx joinpt).1.Sound me := by
  fun_cases isHeader s g idx joinpt <;> grind only [fetchC_sound]

theorem flowCheck_sound (h : s.Sound me) (g : Group) (p : Split) (target join : Option Nat) :
    (flowCheck s g p target join).1.Sound me := by
  fun_cases flowCheck s g p target join <;> grind only [isHeader_sound]

theorem fillStack_sound (h : s.Sound me) (g : Group) (k n : Nat) :
    (fillStack s g k n).1.Sound me := by
  unfold fillStack
  split
  · exact h
  · extract_lets depth r
    have hr : r.1.Sound me := foldl_fst_sound _ (by grind only [State.readVa_sound]) h
    grind only

theorem fillStack_fits {g g' : Group} (hg : g.Fits m) (k n : Nat) (hr : (fillStack s g k n).2 = .ok g') : g'.Fits m := by
  unfold fillStack at hr
  split at hr
  · exact Except.ok.inj hr ▸ hg
  · dsimp only at hr
    split at hr
    · rw [← Except.ok.inj hr]
      exact hg
    · cases hr

theorem stackIo_sound (h : s.Sound me) (g : Group) (new : CSide) :
    (stackIo s g new).1.Sound me := by
  refine foldl_fst_sound _ (fun r x hr => ?_) h
  grind only [State.writeVaBlk_sound]

theorem laneFaultAt_sound (h : s.Sound me) {g : Group} (hg : g.Fits m) (k : Nat) (names : Nat → Bool) :
    ∀ t, laneFaultAt s g k names = some t → t.Sound me := by
  intro t ht
  unfold laneFaultAt at ht
  split at ht
  · cases ht
  · rw [← Option.some.inj ht]
    refine raise_sound (State.setG_own_sound h hg ?_) ..
    exact hg

theorem State.putRay_sound (h : s.Sound me) (g : Group) (l off : Nat) (r : RayState) :
    (s.putRay g l off r).Sound me := State.putBytes_sound h ..

theorem trapAtWord_sound (h : s.Sound me) (g : Group) (k : Nat) (w : BitVec 96) (c : Cause) :
    (trapAtWord s g k w c).Sound me := raise_sound h ..

end

end Sys2Proof.Machine

namespace Sys2Proof.Machine

/-! ### Accesses of operations in flight -/

-- One after another, as in Sys2Proof/Tests/Slice0.lean: a thread for each proof would need more memory than the check allows.
set_option Elab.async false

section
variable {s : State} {me m : Nat}

theorem State.parts_sound (h : s.Sound me) (ordered : Bool) (els : List (Nat × Loc)) :
    (s.parts ordered els).1.Sound me := by
  fun_cases s.parts ordered els <;> grind only [State.draw_sound]

theorem State.partsOf_sound (h : s.Sound me) (ordered : Bool) (rel : Nat) (els : List (Nat × Loc)) :
    (s.partsOf ordered rel els).1.Sound me := by
  fun_cases s.partsOf ordered rel els <;> grind only [State.parts_sound]

theorem State.readL1_sound (h : s.Sound me) (u : User) (l : Loc) (n : Nat) :
    (s.readL1 u l n).1.Sound me := by
  fun_cases s.readL1 u l n <;> grind only [State.readPast_sound, State.seeCore_sound]

theorem State.touchL1_sound (h : s.Sound me) (u : User) (l : Loc) (hint : Nat) :
    (s.touchL1 u l hint).Sound me := by
  fun_cases s.touchL1 u l hint <;> grind only [sound_mk, sound_parts, State.draw_sound, State.fillL1_sound]

theorem readPieces_sound (h : s.Sound me) (u : User) (l1 : Bool) (n : Nat) (els : List (Nat × Loc)) :
    (readPieces s u l1 n els).1.Sound me := by
  refine foldl_fst_sound _ (fun r x hr => ?_) h
  grind only [State.readPast_sound, State.readL1_sound, State.touchL1_sound]

theorem State.writeThrough_sound (h : s.Sound me) (u : User) (l : Loc) (bs : List Byte) :
    (s.writeThrough u l bs).Sound me := by
  fun_cases s.writeThrough u l bs <;>
    grind only [State.useL2_sound, State.l1Write_sound, State.dirtied_sound, State.agentWrite_sound]

theorem writePieces_sound (h : s.Sound me) (u : User) (n : Nat) (f : Nat → Nat) (els : List (Nat × Loc)) :
    (writePieces s u n f els).Sound me := foldl_sound _ (fun _ _ h => State.writeThrough_sound h ..) h

theorem atomicAt_sound (h : s.Sound me) (u : User) (l : Loc) (op : Nat) (x y : Word) :
    (atomicAt s u l op x y).1.Sound me := State.writeThrough_sound h ..

theorem atomPieces_sound (h : s.Sound me) (u : User) (op : Nat) (x y : Lanes) (els : List (Nat × Loc)) :
    (atomPieces s u op x y els).1.Sound me := by
  refine foldl_fst_sound _ (fun r x hr => ?_) h
  grind only [atomicAt_sound]

theorem MemOp.access_sound (h : s.Sound me) (o : MemOp) (u : User) (els : List (Nat × Loc)) :
    (MemOp.access o s u els).1.Sound me := by
  fun_cases MemOp.access o s u els <;> grind only [readPieces_sound, writePieces_sound, atomPieces_sound]

theorem State.lateError_sound (h : s.Sound me) (g : Group) (pc : Nat) :
    (s.lateError g pc).Sound me := State.irqL_sound (State.updL_sound (State.colGroup_sound h ..) ..) ..

theorem State.lateIfCut_sound (h : s.Sound me) (gid pc : Nat) (ls : List Loc) :
    (s.lateIfCut gid pc ls).Sound me := by
  fun_cases s.lateIfCut gid pc ls <;> grind only [State.lateError_sound]

theorem State.perform_sound (h : s.Sound me) (g : Group) (o : MemOp) :
    (s.perform g o).1.Sound me := by
  unfold State.perform
  extract_lets t x was r reads o' f _ u
  have hr : r.1.Sound me := MemOp.access_sound (State.partsOf_sound (State.publish_sound h ..) ..) ..
  have hu : u.Sound me := State.updGroups_sound hr fun g hg => by
    subst f
    dsimp only
    split
    · exact hg
    · exact hg
  clear_value u
  split
  · exact hu
  · exact State.lateIfCut_sound hu ..

theorem State.dropPend_sound (h : s.Sound me) (gid id : Nat) :
    (s.dropPend gid id).Sound me := by
  unfold State.dropPend
  split
  · exact h
  next g hg =>
  have hg := h.get? hg
  extract_lets g' t
  have ht : t.Sound me := by
    refine State.arriveReady_sound (State.setG_sound h ?_) _
    exact hg
  split
  · exact State.removeGroup_sound (State.publish_sound ht ..) _
  · exact ht

theorem State.endOp_sound (h : s.Sound me) (g : Group) (o : MemOp) :
    (s.endOp g o).Sound me := State.acquire_sound (State.dropPend_sound h ..) ..

theorem startClause_sound (h : s.Sound me) {g : Group} (hg : g.Fits me) (k : Nat) (w : BitVec 96) (hd : Header) :
    (startClause s g k w hd).Sound me := by
  have hs := State.putG_sound h hg
  unfold startClause
  split
  · exact hs
  next p _ =>
  dsimp only
  split
  next t ht =>
    split at ht
    · cases ht
    · exact laneFaultAt_sound hs hg _ _ t ht
  · split
    · exact State.waitC_sound h hg ..
    · refine State.putG_sound h ((Group.log_fits _).2 ?_)
      split
      · exact hg
      · exact hg

theorem failRead_sound (h : s.Sound me) (g : Group) (o : MemOp) (code : Nat) :
    (failRead s g o code).Sound me := by
  unfold failRead
  extract_lets d t
  have ht : t.Sound me := State.dropPend_sound (lostDetail_sound h _) ..
  clear_value t
  split
  · exact ht
  next g' hg =>
  have hg := ht.get? hg
  split
  · dsimp only
    split
    · exact bareToken_sound ht hg ..
    · refine State.setG_sound ht ?_
      exact hg
  · exact raise_sound ht ..

theorem State.setVf_sound (h : s.Sound me) (v : Nat) (x : VfSt) :
    (s.setVf v x).Sound me := h

theorem allocFrame_sound (h : s.Sound me) (v : Nat) :
    (allocFrame s v).1.Sound me := by
  fun_cases allocFrame s v <;> grind only [sound_mk, sound_parts, State.draw_sound, State.setVf_sound]

theorem freeFrameOf_sound (h : s.Sound me) (v f : Nat) :
    (freeFrameOf s v f).1.Sound me := by
  fun_cases freeFrameOf s v f <;> exact h

theorem postRequest_sound (h : s.Sound me) (l : Launch) (lin page acc : Nat) :
    (postRequest s l lin page acc).1.Sound me := by
  fun_cases postRequest s l lin page acc
  · exact h
  · exact h
  · exact State.writeBytes_sound h ..

theorem windowRun_sound (h : s.Sound me) (g : Group) (off : Nat) (x y : Word) :
    (windowRun s g off x y).1.Sound me := by
  fun_cases windowRun s g off x y <;> grind only [allocFrame_sound, freeFrameOf_sound, postRequest_sound]

theorem dropMu_sound (h : s.Sound me) {g : Group} (hg : g.Fits m) (o : MuOp) :
    (dropMu s g o).Sound me := State.arriveReady_sound (State.setG_own_sound h hg ((Group.dropMu_fits o).2 hg)) _

theorem holdMu_sound (h : s.Sound me) {g : Group} (hg : g.Fits m) (o : MuOp) (c : Cause) :
    (holdMu s g o c).Sound me := by
  unfold holdMu
  extract_lets g1 g2
  have h1 : g1.Fits m := (foldl_fits (fun _ _ => Group.updHead_fits ..) _).2 hg
  have h2 : g2.Fits m := h1
  have hs : (s.setG g2.who.gid g2).Sound me := State.setG_own_sound h h2 h2
  clear_value g2
  split
  · exact hs
  · split
    · exact bareToken_sound hs h2 ..
    · refine State.setG_own_sound h h2 ?_
      exact h2

theorem MuOp.access'_sound (h : s.Sound me) (o : MuOp) (g : Group) (d0 d1 : Lanes) (els : List (Nat × Loc)) :
    (MuOp.access' o s g d0 d1 els).1.Sound me := by
  fun_cases MuOp.access' o s g d0 d1 els <;> grind only [readPieces_sound, writePieces_sound, atomPieces_sound]

theorem endMu_sound (h : s.Sound me) (gid : Nat) (o : MuOp) :
    (endMu s gid o).Sound me := by
  unfold endMu
  split
  · exact h
  next g hg =>
  have hg := h.get? hg
  refine State.arriveReady_sound (State.acquire_sound (State.setG_sound h ?_) ..) _
  exact (Group.dropMu_fits o).2 hg

theorem State.runMu_sound (h : s.Sound me) (g : Group) (o : MuOp) (ps : List (Nat × Loc)) (d0 d1 : Lanes) :
    (s.runMu g o ps d0 d1).Sound me := by
  unfold State.runMu
  extract_lets s1 x was r o' f _ s2 s3
  have hr : r.1.Sound me := MuOp.access'_sound (State.partsOf_sound (State.publish_sound h ..) ..) ..
  have h2 : s2.Sound me := State.updGroups_sound hr fun g hg => by
    subst f
    dsimp only
    split
    · split
      · exact hg
      · exact hg
    · exact hg
  clear_value s2
  have h3 : s3.Sound me := by
    subst s3
    split
    · exact State.lateIfCut_sound h2 ..
    · exact h2
  clear_value s3
  split
  · exact endMu_sound h3 ..
  · exact h3

theorem endNear_sound (h : s.Sound me) (g : Group) (o : MemOp) (flag : Nat) (ws : List (Nat × Mask × Lanes)) :
    (endNear s g o flag ws).Sound me := by
  refine State.endOp_sound (State.updGroups_sound h fun g hg => ?_) g o
  refine (Group.log_fits _).2 ((Group.detach_fits _).2 ((foldl_fits (fun g w => ?_) ws).2 hg))
  exact Iff.rfl

theorem engPlaces_sound (h : s.Sound me) (g : Group) (engine acc level va n : Nat) (cls : Nat) :
    (engPlaces s g engine acc level va n cls).1.Sound me := by
  refine foldl_fst_sound _ (fun r x hr => ?_) h
  grind only [levelAt_sound]

theorem l1Bytes_sound (h : s.Sound me) (u : User) (hint : Nat) (k : Nat) (l : Loc) (n : Nat) :
    (l1Bytes u hint k l n s).1.Sound me := by
  fun_induction l1Bytes u hint k l n s <;> grind only [State.readL1_sound, State.touchL1_sound]

theorem readPlaces_sound (h : s.Sound me) (u : User) (ls : List (Loc × Nat)) :
    (readPlaces s u ls).1.Sound me := by
  refine foldl_fst_sound _ (fun r x hr => ?_) h
  grind only [State.readPast_sound]

theorem laneRead_sound (h : s.Sound me) (g : Group) (engine level va n cls : Nat) :
    (laneRead s g engine level va n cls).1.Sound me := by
  fun_cases laneRead s g engine level va n cls
  next t e he => exact sound_of_eq he (engPlaces_sound h ..)
  next t ls he r =>
    have ht : t.Sound me := sound_of_eq he (engPlaces_sound h ..)
    have hr : r.1.Sound me := by
      subst r
      split
      · refine foldl_fst_sound ls (fun r p hr => ?_) (r := (t, [])) ht
        exact l1Bytes_sound hr ..
      · exact readPlaces_sound ht ..
    exact hr

theorem fetchTexel_sound (h : s.Sound me) (g : Group) (t : Ten) (l x y c : Nat) :
    (fetchTexel s g t l x y c).1.Sound me := by
  fun_cases fetchTexel s g t l x y c <;> grind only [laneRead_sound]

theorem fetchAll_sound (h : s.Sound me) (g : Group) (t : Ten) (l : Nat) (ps : List (Nat × Nat)) (chans : List Nat) :
    (fetchAll s g t l ps chans).1.Sound me := by
  refine foldl_fst_sound _ (fun x p hx => ?_) h
  obtain ⟨s, e | rows⟩ := x
  · exact hx
  · dsimp only
    split
    all_goals next he => exact sound_of_eq he (foldl_fst_sound _ (by grind only [fetchTexel_sound]) hx)

theorem bilinear_sound (h : s.Sound me) (g : Group) (t : Ten) (mode l u v : Nat) :
    (bilinear s g t mode l u v).1.Sound me := by
  fun_cases bilinear s g t mode l u v <;> grind only [fetchAll_sound]

theorem sampleLane_sound (h : s.Sound me) (g : Group) (t : Ten) (mode filt : Nat) (v : List Nat) (lod : Nat) :
    (sampleLane s g t mode filt v lod).1.Sound me := by
  fun_cases sampleLane s g t mode filt v lod <;> grind only [fetchAll_sound, bilinear_sound]

theorem gatherLane_sound (h : s.Sound me) (g : Group) (t : Ten) (mode chan : Nat) (v : List Nat) (lod : Nat) :
    (gatherLane s g t mode chan v lod).1.Sound me := by
  fun_cases gatherLane s g t mode chan v lod <;> grind only [fetchAll_sound]

theorem fetchUnits_sound (h : s.Sound me) (g : Group) (b : Buf) (u n : Nat) :
    (fetchUnits s g b u n).1.Sound me := by
  fun_cases fetchUnits s g b u n <;> grind only [laneRead_sound]

theorem fetchNode_sound (h : s.Sound me) (g : Group) (b : Buf) (i : Nat) :
    (fetchNode s g b i).1.Sound me := by
  fun_cases fetchNode s g b i <;> grind only [fetchUnits_sound]

theorem leafRecords_sound {w : WalkSt} (h : w.s.Sound me) (g : Group) (c : RayCtx) (j kind u0 : Nat) (n : Nat) (i : Nat) :
    (leafRecords g c j kind u0 n i w).1.s.Sound me := by
  fun_induction leafRecords g c j kind u0 n i w <;> grind only [State.commit_sound, fetchUnits_sound]

theorem leafList_sound {w : WalkSt} (h : w.s.Sound me) (g : Group) (c : RayCtx) (nd : List Byte) (l : List
    (Nat × Nat × Option Nat)) :
    (leafList g c nd l w).1.s.Sound me := by
  fun_induction leafList g c nd l w <;> grind only [leafRecords_sound]

theorem processNode_sound {w : WalkSt} (h : w.s.Sound me) (g : Group) (c : RayCtx) (nd : List Byte) (from_ : Option (Nat × Nat)) :
    (processNode g c nd from_ w).1.s.Sound me := by
  fun_cases processNode g c nd from_ w <;> grind only [leafList_sound]

theorem visitNode_sound {w : WalkSt} (h : w.s.Sound me) (g : Group) (c : RayCtx) (i : Nat) (pop : Bool) :
    (visitNode g c i pop w).1.s.Sound me := by
  fun_cases visitNode g c i pop w <;> grind only [fetchNode_sound, processNode_sound]

theorem backtrack_sound (h : s.Sound me) (g : Group) (c : RayCtx) (tmax : Nat) (n : Nat) (i : Nat) :
    (backtrack g c tmax n i s).1.Sound me := by
  fun_induction backtrack g c tmax n i s <;> grind only [fetchNode_sound]

theorem endLevel_sound {w : WalkSt} (h : w.s.Sound me) (g : Group) (c : RayCtx) :
    (endLevel g c w).1.s.Sound me := by
  fun_cases endLevel g c w <;> grind only [fetchNode_sound]

theorem levelStep_sound {w : WalkSt} (h : w.s.Sound me) (g : Group) (world c : RayCtx) :
    (levelStep g world c w).1.s.Sound me := by
  fun_cases levelStep g world c w <;>
    grind only [fetchNode_sound, processNode_sound, visitNode_sound, backtrack_sound, endLevel_sound]

theorem reenter_sound {w : WalkSt} (h : w.s.Sound me) (g : Group) (c : RayCtx) :
    (reenter g c w).1.s.Sound me := by
  fun_cases reenter g c w <;> grind only [fetchUnits_sound, fetchNode_sound]

theorem walkStep_sound {w : WalkSt} (h : w.s.Sound me) (g : Group) (world : RayCtx) :
    (walkStep g world w).1.s.Sound me := by
  fun_cases walkStep g world w <;> grind only [endLevel_sound, levelStep_sound, reenter_sound]

theorem State.goesOn_sound (h : s.Sound me) :
    (s.goesOn).1.Sound me := h

theorem walkRay_sound {w : WalkSt} (h : w.s.Sound me) (g : Group) (world : RayCtx) (stops : Bool) (n : Nat) :
    (walkRay g world stops n w).1.s.Sound me := by
  fun_induction walkRay g world stops n w <;> grind only [walkStep_sound, State.goesOn_sound]

theorem State.putOuter_sound (h : s.Sound me) (g : Group) (l off : Nat) (r : RayState) (out : Option Nat) :
    (s.putOuter g l off r out).Sound me := by
  fun_cases s.putOuter g l off r out
  · exact h
  · exact State.updGroups_sound h fun _ hg => hg

theorem State.draw4_sound (h : s.Sound me) :
    (s.draw4).1.Sound me := h

theorem traceLane_sound (h : s.Sound me) (g : Group) (stops : Bool) (bvh : Buf) (init : Option Nat) (v : List Nat) (l : Nat) :
    (traceLane g stops bvh init v l s).1.Sound me := by
  fun_cases traceLane g stops bvh init v l s <;>
    grind only [State.putRay_sound, walkRay_sound, State.putOuter_sound, State.draw4_sound]

theorem readAhead_sound (h : s.Sound me) (t : Ten) (es : List (Nat × List Int)) :
    (readAhead s t es).1.Sound me := by
  fun_cases readAhead s t es <;> grind only [State.draw_sound, State.parts_sound]

theorem engRead_sound (h : s.Sound me) (g : Group) (engine level va n : Nat) (cls : Nat) (u : User) :
    (engRead s g engine level va n cls u).1.Sound me := by
  fun_cases engRead s g engine level va n cls u <;> grind only [engPlaces_sound, readPlaces_sound]

theorem tenRead_sound (h : s.Sound me) (g : Group) (engine : Nat) (t : Ten) (cs : List Int) (u : User) :
    (tenRead s g engine t cs u).1.Sound me := by
  fun_cases tenRead s g engine t cs u <;> grind only [engRead_sound]

theorem srcElem_sound (h : s.Sound me) (g : Group) (engine : Nat) (t : Ten) (cs : List Int) (u : User) :
    (srcElem s g engine t cs u).1.Sound me := by
  fun_cases srcElem s g engine t cs u <;> grind only [tenRead_sound]

theorem readParts_sound (h : s.Sound me) (g : Group) (engine : Nat) (t : Ten) (got : List (Nat × Nat)) (pick : Nat → Bool)
    (es : List (Nat × List Int)) (u : User) :
    (readParts s g engine t got pick es u).1.Sound me := by
  refine foldl_fst_sound _ (fun r x hr => ?_) h
  grind only [State.parts_sound, srcElem_sound]

theorem partElem_sound (h : s.Sound me) (g : Group) (engine : Nat) (t : Ten) (got : List (Nat × Nat)) (k : Nat) (cs :
    List Int) (u : User) :
    (partElem s g engine t got k cs u).1.Sound me := by
  fun_cases partElem s g engine t got k cs u <;> grind only [State.parts_sound, srcElem_sound]

theorem unitElem_sound (h : s.Sound me) (g : Group) (o : EngOp) (engine : Nat) (t : Ten) (zero : Bool) (k : Nat) (cs : List Int) :
    (unitElem s g o engine t zero k cs).1.Sound me := by
  fun_cases unitElem s g o engine t zero k cs <;> grind only [partElem_sound]

theorem writePlaces_sound (h : s.Sound me) (u : User) (ls : List (Loc × Nat)) (bs : List Byte) :
    (writePlaces s u ls bs).Sound me := by
  refine foldl_fst_sound _ (fun r x hr => ?_) h
  grind only [State.engineWrite_sound]

theorem engWrite_sound (h : s.Sound me) (g : Group) (engine level va : Nat) (bs : List Byte) (cls : Nat) (u : User) :
    (engWrite s g engine level va bs cls u).1.Sound me := by
  fun_cases engWrite s g engine level va bs cls u <;> grind only [engPlaces_sound, writePlaces_sound]

theorem tenWrite_sound (h : s.Sound me) (g : Group) (engine : Nat) (t : Ten) (cs : List Int) (v : Nat) (u : User) :
    (tenWrite s g engine t cs v u).1.Sound me := by
  fun_cases tenWrite s g engine t cs v u <;> grind only [engPlaces_sound, writePlaces_sound, engWrite_sound]

theorem copyChunk_sound (h : s.Sound me) (g : Group) (o : EngOp) (ts td : Ten) (zero : Bool) (sc dc : List Int) :
    (copyChunk s g o ts td zero sc dc).1.Sound me := by
  unfold copyChunk
  extract_lets r
  have hr : r.1.Sound me := foldl_fst_sound _ (by grind only [unitElem_sound, tenWrite_sound]) h
  grind only

theorem copyUnits_sound (h : s.Sound me) (g : Group) (ts td : Ten) (zero : Bool) (sc dc : List Int) (n : Nat) (o : EngOp) :
    (copyUnits g ts td zero sc dc n o s).1.Sound me := by
  fun_induction copyUnits g ts td zero sc dc n o s <;>
    grind only [State.publishBy_sound, State.lateIfCut_sound, State.goesOn_sound, readAhead_sound, readParts_sound,
      copyChunk_sound]

theorem readSeg_sound (h : s.Sound me) (g : Group) (b : Buf) (n : Nat) (u : User) (got : List (Nat × Nat)) (from_ : Nat) :
    (readSeg s g b n u got from_).1.Sound me := by
  fun_cases readSeg s g b n u got from_ <;> grind only [engRead_sound]

theorem segAhead_sound (h : s.Sound me) (g : Group) (b : Buf) (f k count : Nat) (u : User) (got : List (Nat × Nat)) :
    (segAhead s g b f k count u got).1.Sound me := by
  fun_cases segAhead s g b f k count u got <;> grind only [State.draw_sound, readSeg_sound]

theorem segCurve_sound (h : s.Sound me) (g : Group) (b : Buf) (f k count : Nat) (ox oy : Int) (u : User) (got : List (Nat × Nat)) :
    (segCurve s g b f k count ox oy u got).1.Sound me := by
  fun_cases segCurve s g b f k count ox oy u got <;> grind only [readSeg_sound]

theorem coverSegs_sound (h : s.Sound me) (g : Group) (b : Buf) (f count : Nat) (ox oy : Int) (n : Nat) (o : EngOp) :
    (coverSegs g b f count ox oy n o s).1.Sound me := by
  fun_induction coverSegs g b f count ox oy n o s <;> grind only [State.goesOn_sound, segAhead_sound, segCurve_sound]

theorem EngOp.wrote_sound (o : EngOp) {r : State × Option Stop} (hr : r.1.Sound me) :
    (o.wrote r).1.Sound me := by
  obtain ⟨s, _ | e⟩ := r <;> exact hr

theorem writeElems_sound (h : s.Sound me) (g : Group) (engine : Nat) (t : Ten) (xs : List (List Int × Nat)) :
    (writeElems s g engine t xs).1.Sound me := by
  unfold writeElems
  extract_lets r
  have hr : r.1.Sound me := foldl_fst_sound _ (by grind only [tenWrite_sound]) h
  grind only

theorem endCover_sound (h : s.Sound me) (g : Group) (t : Ten) (eo : Bool) (o : EngOp) :
    (endCover g t eo o s).1.Sound me := EngOp.wrote_sound o (writeElems_sound h ..)

theorem unitElems_sound (h : s.Sound me) (g : Group) (o : EngOp) (engine : Nat) (t : Ten) (zero : Bool) (es : List
    (Nat × List Int)) :
    (unitElems s g o engine t zero es).1.Sound me := by
  refine foldl_fst_sound _ (fun r x hr => ?_) h
  grind only [unitElem_sound]

theorem writeSig_sound (h : s.Sound me) (g : Group) (va v : Nat) :
    (writeSig s g va v).1.Sound me := by
  fun_cases writeSig s g va v <;> grind only [sound_mk, sound_parts, engPlaces_sound, writePlaces_sound]

theorem storeTile_sound (h : s.Sound me) (g : Group) (o : EngOp) (t u : Ten) (tx ty : Int) (sigVa : Nat) :
    (storeTile s g o t u tx ty sigVa).1.Sound me := by
  fun_cases storeTile s g o t u tx ty sigVa <;> grind only [writeElems_sound, unitElems_sound, writeSig_sound]

end

end Sys2Proof.Machine

namespace Sys2Proof.Machine

/-! ### Engines and sessions -/

-- One after another, as in Sys2Proof/Tests/Slice0.lean: a thread for each proof would need more memory than the check allows.
set_option Elab.async false

section
variable {s : State} {me m : Nat}

theorem runEng_sound (h : s.Sound me) (g : Group) (o : EngOp) :
    (runEng s g o).1.Sound me := by
  fun_cases runEng s g o <;>
    grind only [copyUnits_sound, coverSegs_sound, endCover_sound, readAhead_sound, readParts_sound, storeTile_sound,
      EngOp.wrote_sound]

theorem State.engBegin_sound (h : s.Sound me) (g : Group) (o : EngOp) :
    (s.engBegin g o).Sound me := by
  fun_cases s.engBegin g o <;> exact h

theorem counterAt_sound (h : s.Sound me) (g : Group) (o : EngOp) :
    (counterAt s g o).1.Sound me := by
  fun_cases counterAt s g o <;> grind only [globalAt_sound]

theorem State.engArrive_sound (h : s.Sound me) (tid nb gid : Nat) :
    (s.engArrive tid nb gid).Sound me := State.setBar_sound h ..

theorem endEng_sound (h : s.Sound me) (g : Group) (o : EngOp) (ctr : Option Loc) (lines : List Loc) :
    (endEng s g o ctr lines).Sound me := by
  have he : ({ s with eng := s.eng.filter fun x => x.id != o.id } : State).Sound me := h
  fun_cases endEng s g o ctr lines <;>
    grind only [State.publishBy_sound, State.engineWrite_sound, State.lateIfCut_sound, State.engArrive_sound]

theorem State.putEng_sound (h : s.Sound me) (o : EngOp) :
    (s.putEng o).Sound me := h

theorem State.setSession_sound (h : s.Sound me) (k : Nat) (ss : Session) :
    (s.setSession k ss).Sound me := h

theorem readTile_sound (h : s.Sound me) (g : Group) (t : Nat) :
    (readTile s g t).1.Sound me := by
  fun_cases readTile s g t <;> grind only [State.readVa_sound]

theorem State.dissolve_sound (h : s.Sound me) (k : Nat) :
    (s.dissolve k).Sound me := by
  unfold State.dissolve
  split
  · exact h
  next ss _ =>
  extract_lets gs
  have hgs : GroupsFit gs := List.foldlRecOn ss.parts _ h.groups fun gs hgs p _ => by
    split
    · exact hgs
    · exact hgs.upd fun g hg => (foldl_fits (fun _ f => Group.detach_fits f) _).2 hg
  exact (State.offArrays_sound h ss).withGroups hgs

theorem State.breakUp_sound (h : s.Sound me) (k : Nat) (c : Cause) (pc : Nat) :
    (s.breakUp k c pc).Sound me := by
  unfold State.breakUp
  split
  · exact h
  · refine foldl_sound _ (fun s p h => ?_) (State.dissolve_sound h k)
    split
    · exact h
    · exact State.updGroups_sound h fun _ hg => hg

theorem reload_sound (h : s.Sound me) (k : Nat) :
    (reload s k).Sound me := by
  -- another name for what it reads: the kernel would run the read of a tile
  obtain ⟨read, hread, hkeeps⟩ : ∃ f, f = @readTile ∧ ∀ {s : State}, s.Sound me → ∀ g t, (f s g t).1.Sound me :=
    ⟨_, rfl, readTile_sound⟩
  unfold reload
  rw [← hread]
  split
  · exact h
  split
  · exact h
  extract_lets r
  have hr : r.1.Sound me :=
    foldl_fst_sound _ (fun x t hx => foldl_fst_sound _ (fun x p hx => by grind only) hx) h
  clear_value r
  split
  · exact hr
  · exact State.breakUp_sound hr ..

theorem evict_sound (h : s.Sound me) (k : Nat) :
    (evict s k).Sound me := by
  -- another name for what it writes: the kernel would run the write of a tile
  obtain ⟨write, hwrite, hkeeps⟩ : ∃ f, f = @State.writeVaBlk ∧
      ∀ {s : State}, s.Sound me → ∀ v b u va bs, (f s v b u va bs).1.Sound me := ⟨_, rfl, State.writeVaBlk_sound⟩
  unfold evict
  rw [← hwrite]
  split
  · exact h
  extract_lets r
  have hr : r.1.Sound me :=
    foldl_fst_sound _ (fun x t hx => foldl_fst_sound _ (fun x p hx => by grind only) hx) h
  clear_value r
  split
  · exact State.breakUp_sound hr ..
  · exact hr

theorem makeRoom_sound (h : s.Sound me) (quad k : Nat) (n : Nat) :
    (makeRoom quad k n s).Sound me := by
  fun_induction makeRoom quad k n s <;> grind only [evict_sound]

theorem loadAccin_sound (h : s.Sound me) (g : Group) (ss : Session) (p : Pass) :
    (loadAccin s g ss p).1.Sound me := by
  unfold loadAccin
  generalize List.range 96 = columns
  refine foldl_fst_sound _ (fun x im hx => ?_) h
  extract_lets row
  have hrow : row.1.Sound me := foldl_fst_sound _ (by grind only [tenRead_sound]) hx
  clear_value row
  grind only

theorem firstStep_sound (h : s.Sound me) (g : Group) (ss : Session) (p : Pass) :
    (firstStep s g ss p).1.Sound me := by
  fun_cases firstStep s g ss p <;> grind only [loadAccin_sound]

theorem passFault_sound (h : s.Sound me) (k : Nat) (ss : Session) (p : Pass) (c : Cause) :
    (passFault s k ss p c).Sound me := h

theorem latch_sound (h : s.Sound me) (ss : Session) :
    (latch s ss).1.Sound me :=
  foldl_sound _ (fun _ _ h => State.updGroups_sound h fun _ hg => (Group.detach_fits _).2 hg) h

theorem State.leaderFl_sound (h : s.Sound me) (g : Group) (f : Fl) :
    (s.leaderFl g f).Sound me := State.updGroups_sound h fun _ hg => (Group.raiseFl_fits f).2 hg

theorem rowAhead_sound (h : s.Sound me) (g : Group) (ss : Session) (p : Pass) (i m : Nat) :
    (rowAhead s g ss p i m).1.Sound me := by
  fun_cases rowAhead s g ss p i m <;> grind only [readAhead_sound, readParts_sound]

theorem readRow_sound (h : s.Sound me) (g : Group) (ss : Session) (p : Pass) (i m : Nat) (got : List (Nat × Nat)) :
    (readRow s g ss p i m got).1.Sound me := by
  refine foldl_fst_sound _ (fun r x hr => ?_) h
  grind only [partElem_sound]

theorem takeRow_sound (h : s.Sound me) (g : Group) (ss : Session) (p : Pass) (i m : Nat) :
    (takeRow s g ss p i m).1.Sound me := by
  fun_cases takeRow s g ss p i m
  grind only [readRow_sound]

theorem readNext_sound (h : s.Sound me) (g : Group) (ss : Session) (p : Pass) (i m : Nat) :
    (readNext s g ss p i m).1.Sound me := by
  fun_cases readNext s g ss p i m <;> grind only [rowAhead_sound]

theorem checkFailed_sound (h : s.Sound me) (k quad array : Nat) (ss : Session) (p : Pass) :
    (checkFailed s k quad array ss p).Sound me := State.breakUp_sound (State.colophon_sound h ..) ..

theorem readTable_sound (h : s.Sound me) (g : Group) (p : Pass) :
    (readTable s g p).1.Sound me := by
  fun_cases readTable s g p <;> grind only [engRead_sound]

theorem writeRow_sound (h : s.Sound me) (g : Group) (ss : Session) (p : Pass) (tab : List Nat) (i m : Nat) :
    (writeRow s g ss p tab i m).1.Sound me := by
  unfold writeRow
  -- another name for the columns: the kernel would run all 96
  obtain ⟨columns, hcolumns⟩ : ∃ l, l = List.range 96 := ⟨_, rfl⟩
  rw [← hcolumns]
  extract_lets a t row weight r
  have hr : r.1.Sound me := foldl_fst_sound _ (by grind only [tenWrite_sound]) h
  clear_value r
  grind only

theorem writeRows_sound (h : s.Sound me) (g : Group) (ss : Session) (p : Pass) (tab : List Nat) (rows : List (Nat × Nat)) (n :
    Nat) :
    (writeRows g ss p tab rows n s).1.Sound me := by
  induction rows generalizing n s with
  | nil => exact h
  | cons row rows ih =>
    have hw := writeRow_sound h g ss p tab row.1 row.2
    rw [writeRows_cons]
    split
    · next he => exact ih (State.countEv_sound (State.leaderFl_sound (sound_of_eq he hw) ..) ..) _
    · next he => exact sound_of_eq he hw

theorem endPass_sound (h : s.Sound me) (k quad : Nat) (ss : Session) (p : Pass) :
    (endPass s k quad ss p).Sound me := by
  unfold endPass
  extract_lets a s1 s2 ss1 ss2 ss3 s3
  have h1 : s1.Sound me := by
    subst s1
    split <;> grind only [State.publish_sound]
  have h2 : s2.Sound me := foldl_sound _ (fun s q h => by split <;> grind only [State.engArrive_sound]) h1
  have h3 : s3.Sound me := State.lateIfCut_sound (State.setSession_sound h2 ..) ..
  split
  · exact h3
  · exact h3

theorem selRow_sound (h : s.Sound me) (ss : Session) (z i m : Nat) :
    (selRow s ss z i m).1.Sound me := by
  fun_cases selRow s ss z i m <;> grind only [State.readVa_sound, State.parts_sound]

end

end Sys2Proof.Machine

namespace Sys2Proof.Machine

/-! ### The scheduler, the display, reliability and the ports -/

-- One after another, as in Sys2Proof/Tests/Slice0.lean: a thread for each proof would need more memory than the check allows.
set_option Elab.async false

section
variable {s : State} {me m : Nat}

theorem shadowTrap_sound (h : s.Sound me) {g : Group} (hg : g.Fits m) (it : LogItem) (i : Instr) (code q : Nat) (ls : Mask) :
    (shadowTrap s g it i code q ls).Sound me := by
  unfold shadowTrap
  extract_lets ln c l t g1 g2 p
  have ht : t.Sound me := State.colophon_sound h ..
  have hg2 : g2.Fits m := (Group.unpopAll_fits it.pops).2 hg
  clear_value t g2
  split
  · refine State.setG_own_sound ht hg2 ?_
    exact hg2
  · exact raise_sound (State.setG_own_sound ht hg2 hg2) ..

theorem saveSession_sound (h : s.Sound me) (k : Nat) :
    (saveSession s k).Sound me := by
  unfold saveSession
  split
  · exact h
  extract_lets s1
  have h1 : s1.Sound me := by
    subst s1
    split <;> grind only [evict_sound]
  split
  · exact h1
  extract_lets s2 r
  have hr : r.1.Sound me := foldl_fst_sound _ (by grind only [State.writeVaBlk_sound]) (State.offArrays_sound h1 _)
  split
  · exact State.breakUp_sound hr ..
  · exact State.setSession_sound hr ..

theorem State.saveItsSession_sound (h : s.Sound me) (g : Group) :
    (s.saveItsSession g).Sound me := by
  fun_cases s.saveItsSession g <;> grind only [saveSession_sound]

theorem State.engToUnit_sound (h : s.Sound me) (gid : Nat) :
    (s.engToUnit gid).Sound me := h

theorem saveGroup_sound (h : s.Sound me) (gid : Nat) :
    (saveGroup s gid).Sound me := by
  unfold saveGroup
  split
  · exact h
  next g0 _ =>
  extract_lets s1
  have h1 : s1.Sound me := State.saveItsSession_sound (State.unwait_sound h gid) g0
  split
  · exact h1
  next g hg =>
  extract_lets g1 _ g2
  have hg2 : g2.Fits gid := Group.detachLanes_fits.2 (Group.settle_fits.2 (h1.get? hg))
  split
  next t he =>
    refine State.setG_sound (State.engToUnit_sound (sound_of_eq he (writeImage_sound h1 ..)) gid) ?_
    exact hg2
  next t e he => exact doubleTrap_sound (State.setG_sound (sound_of_eq he (writeImage_sound h1 ..)) hg2) ..

theorem State.reEntry_sound (h : s.Sound me) (k quad : Nat) :
    ∀ t, State.reEntry s k quad = some t → t.Sound me := by
  fun_cases s.reEntry k quad
  all_goals grind only [State.setSession_sound, Option.map_eq_some_iff]

theorem State.carry_sound (h : s.Sound me) (old new : Nat) :
    (s.carry old new).Sound me := by
  fun_cases s.carry old new
  · exact h
  · exact State.dropL1_sound h new

theorem State.moveCluster_sound (h : s.Sound me) (cid o : Nat) :
    (s.moveCluster cid o).Sound me := by
  unfold State.moveCluster
  split
  · exact h
  next c hc =>
  extract_lets p core t
  have ht : t.Sound me := foldl_sound _ (fun s x h => State.carry_sound h ..) h
  obtain ⟨hm, hgs, hts, hcs, hk⟩ := ht
  have hmem : c.mem.wf = true := h.clusters _ (Tbl.get?_mem hc)
  refine sound_mk.2 ⟨hm, ?_, ?_, Tbl.forall_mem_set hcs hmem, hk⟩
  · refine hgs.mapV fun _ g hg => ?_
    split
    · exact hg
    · exact hg
  · refine Tbl.forall_mem_mapV hts fun _ x hx => ?_
    split
    · exact hx
    · exact hx

theorem makePlace_sound (h : s.Sound me) (g : Group) :
    ∀ t, makePlace s g = some t → t.Sound me := by
  intro t ht
  unfold makePlace at ht
  extract_lets gid l ok mine o0 bound cands at ht
  split at ht
  · exact Option.some.inj ht ▸ h
  · split at ht
    · cases ht
    · obtain ⟨o, -, rfl⟩ := List.mem_map.1 (List.mem_of_find?_eq_some ht)
      exact State.moveCluster_sound h ..

theorem restoreSession_sound (h : s.Sound me) (k : Nat) :
    (restoreSession s k).Sound me := by
  fun_cases restoreSession s k <;> grind only [State.readVa_sound, State.parts_sound, State.setSession_sound, State.breakUp_sound]

theorem State.restoreItsSession_sound (h : s.Sound me) (g : Group) :
    (s.restoreItsSession g).Sound me := by
  unfold State.restoreItsSession
  split
  · exact h
  split
  · exact h
  next k _ _ _ _ _ =>
  dsimp only
  split
  · exact h
  · have ht := getD_sound (State.reEntry_sound h k (quadOf g.who.core)) h
    split
    · exact restoreSession_sound ht k
    · exact ht

theorem restoreGroup_sound (h : s.Sound me) (gid : Nat) :
    (restoreGroup s gid).Sound me := by
  unfold restoreGroup
  split
  · exact h
  next g hg =>
  have hg := h.get? hg
  split
  next t e he =>
    have ht : t.Sound me := sound_of_eq he (readImage_sound h ..)
    refine doubleTrap_sound (State.setG_sound ht ?_) ..
    exact hg
  next t g' he =>
    have ht : t.Sound me := sound_of_eq he (readImage_sound h ..)
    have hg' : g'.Fits gid := by
      refine readImage_fits ?_ true (congrArg Prod.snd he)
      exact hg
    extract_lets p s0 vbase _ who stop _ cs _ _ g1 g2
    have h1 : g1.Fits gid := ⟨(Group.reissued_fits.2 hg').1, hg.2⟩
    have h2 : g2.Fits gid := (foldl_fits (fun _ f => Group.detach_fits f) _).2 h1
    exact State.restoreItsSession_sound (State.setG_sound ht (Group.reissueLanes_fits.2 h2)) g

theorem restoreAll_sound (h : s.Sound me) (l : List Nat) :
    ∀ t, restoreAll l s = some t → t.Sound me := by
  fun_induction restoreAll l s
  · grind only
  · grind only [Option.bind_eq_some_iff, makePlace_sound, restoreGroup_sound]

theorem State.bringBack_sound (h : s.Sound me) (gid : Nat) :
    (s.bringBack gid).Sound me := by
  fun_cases s.bringBack gid
  · exact h
  · exact getD_sound (restoreAll_sound h _) h
  · exact h

theorem State.refreshQueue_sound (h : s.Sound me) (q : Nat) :
    (s.refreshQueue q).Sound me := by
  fun_cases s.refreshQueue q <;> exact h

theorem State.args_sound (h : s.Sound me) (l : Launch) :
    (s.args l).1.Sound me := by
  fun_cases s.args l <;> grind only [State.readVa_sound]

theorem Group.start_fits (who : Ident) (pk : Packet) (qd : QDesc) (slotIx thread0 : Nat) (present : Mask) (args : List Word)
    (stuck shadowStuck : List (Nat × Nat × Nat × Bool)) :
    (Group.start who pk qd slotIx thread0 present args stuck shadowStuck).Fits who.gid := ⟨rfl, rfl⟩

theorem startGroup_sound (h : s.Sound me) (lid cid tid core c tm k : Nat) :
    (startGroup s lid cid tid core c tm k).Sound me := by
  unfold startGroup
  split
  · exact h
  next l _ =>
  have hn := State.args_sound (State.newId_sound h) l
  refine State.updL_sound (hn.withGroups (hn.groups.set ?_)) ..
  exact Group.start_fits ..

theorem placeCluster_sound (h : s.Sound me) (lid c o : Nat) :
    (placeCluster s lid c o).Sound me := by
  unfold placeCluster
  split
  · exact h
  next l _ =>
  refine State.updL_sound (foldl_sound _ (fun s x h => ?_)
    ((State.newId_sound h).withClusters (Tbl.forall_mem_set h.clusters rfl))) ..
  dsimp only
  split
  · exact h
  · exact foldl_sound _ (fun s k h => startGroup_sound h ..)
      ((State.newId_sound h).withTeams (Tbl.forall_mem_set h.teams rfl))

theorem State.freshL1_sound (h : s.Sound me) (lid : Nat) (cores : List Nat) :
    (s.freshL1 lid cores).Sound me := by
  fun_cases s.freshL1 lid cores
  · exact h
  · exact State.updL_sound (foldl_sound _ (fun s c h => State.dropL1_sound h c) h) ..

theorem afterRecord_sound (h : s.Sound me) (l : Launch) :
    (afterRecord s l).Sound me := by
  fun_cases afterRecord s l <;> exact h

theorem mergedRecord_sound (h : s.Sound me) (a b : Launch) :
    (mergedRecord s a b).Sound me := writeRecord_sound h ..

theorem State.clearEn_sound (h : s.Sound me) (q : Nat) :
    (s.clearEn q).Sound me := by
  fun_cases s.clearEn q
  · exact State.writeLoc_sound h ..
  · exact h

theorem killLaunch_sound (h : s.Sound me) (lid status : Nat) :
    (killLaunch s lid status).Sound me := by
  unfold killLaunch
  split
  · exact h
  · refine State.irq_sound (State.colophon_sound (State.clearEn_sound (foldl_sound _ (fun s i h => ?_) h) _) ..) ..
    exact foldl_sound _ (fun s k h => State.endGroup_sound h k) (State.updL_sound h ..)

theorem State.cleanFrame_sound (h : s.Sound me) (f : Nat) :
    (s.cleanFrame f).Sound me := by
  have ht : ({ s with tlb := s.tlb.filter (fun e => !e.maps f), reclaim := s.reclaim.filter fun x => x != f } : State).Sound me := h
  exact State.zeroFill_sound ht ..

theorem State.dropTlb_sound (h : s.Sound me) (v : Nat) (f : TlbEnt → Bool) :
    (s.dropTlb v f).Sound me := h

theorem State.performVf_sound (h : s.Sound me) (v : Nat) :
    (s.performVf v).Sound me := by
  refine foldl_sound _ (fun s e h => ?_) h
  split
  · exact foldl_sound _ (fun s o h => State.publishBy_sound h ..) (State.publish_sound h ..)
  · exact h

theorem surfEvent_sound (h : s.Sound me) (i reason : Nat) (d : List Byte) :
    (surfEvent s i reason d).Sound me := State.colophon_sound h ..

theorem readSurf_sound (h : s.Sound me) (i : Nat) (d : List Byte) :
    (readSurf s i d).Sound me := by
  fun_cases readSurf s i d <;> grind only [sound_mk, sound_parts, surfEvent_sound]

theorem State.touchWords_sound (h : s.Sound me) (vf : Nat) (vas : List Nat) :
    (s.touchWords vf vas).Sound me := foldl_sound _ (fun _ _ h => State.readVa_sound h ..) h

theorem State.sigEntry_sound (h : s.Sound me) (vf va : Nat) :
    (s.sigEntry vf va).1.Sound me := by
  fun_cases s.sigEntry vf va <;> grind only [globalAt_sound]

theorem State.pair_sound (h : s.Sound me) (vf : Nat) (l : Layer) (r : Render) (i : Nat) :
    (s.pair vf l r i).1.Sound me := by
  fun_cases s.pair vf l r i
  grind only [State.sigEntry_sound]

theorem State.pairs_sound (h : s.Sound me) (vf : Nat) (l : Layer) (r : Render) :
    (s.pairs vf l r).1.Sound me := by
  refine foldl_fst_sound _ (fun r x hr => ?_) h
  grind only [State.pair_sound]

theorem State.requestSave_sound (h : s.Sound me) (p : Group → Bool) : (s.requestSave p).Sound me := by
  refine h.withGroups (h.groups.mapV fun _ g hg => ?_)
  split
  · exact hg
  · exact hg

theorem State.askQuad_sound (h : s.Sound me) (quad : Nat) : (s.askQuad quad).Sound me := by
  refine State.requestSave_sound ?_ _
  exact h

theorem quarantine_sound (h : s.Sound me) (quad : Nat) :
    (quarantine s quad).Sound me := by
  refine State.askQuad_sound ?_ quad
  exact h

theorem failFrame_sound (h : s.Sound me) (surf layer : Nat) (hd : SurfHdr) (bad : List Pair) :
    (failFrame s surf layer hd bad).Sound me := by
  refine State.irq_sound (foldl_sound _ (fun s q h => State.colophon_sound h ..) (State.colophon_sound (foldl_sound _ (fun s m h => ?_)
    (foldl_sound _ (fun s q h => quarantine_sound h q) h)) ..)) ..
  split <;> grind only [State.colophon_sound]

theorem passEvent_sound (h : s.Sound me) (quad passes qpass : Nat) (ok : Bool) :
    (passEvent s quad passes qpass ok).Sound me := State.colophon_sound h ..

theorem spareRow_sound (h : s.Sound me) (quad : Nat) (d : Defect) :
    (spareRow s quad d).Sound me := by
  refine State.colophon_sound ?_ ..
  exact h

theorem retireQuad_sound (h : s.Sound me) (quad : Nat) (q : Quad) :
    (retireQuad s quad q).Sound me := by
  refine State.irq_sound (State.irq_sound (State.colophon_sound (passEvent_sound ?_ ..) ..) ..) ..
  exact h

theorem l1Error_sound (h : s.Sound me) (core set way : Nat) :
    (l1Error s core set way).Sound me := by
  fun_cases l1Error s core set way <;> exact h

theorem State.dropL2_sound (h : s.Sound me) (slice : Nat) (f : Nat → L2Line → Bool) :
    (s.dropL2 slice f).Sound me := by
  refine foldl_sound _ (fun s n h => ?_) h
  dsimp only
  split
  · exact foldl_sound ((s.l2Lines slice n).filter (f n)) (fun s x h => State.writeBack_sound h x) h
  · exact h

theorem l2Error_sound (h : s.Sound me) (slice set way : Nat) :
    (l2Error s slice set way).Sound me := by
  -- another name for the drop: the kernel would run it over the sets of a slice
  obtain ⟨drop, hdrop, hkeeps⟩ : ∃ f, f = @State.dropL2 ∧ ∀ {s : State}, s.Sound me → ∀ n p, (f s n p).Sound me :=
    ⟨_, rfl, State.dropL2_sound⟩
  unfold l2Error
  rw [← hdrop]
  extract_lets k n _ s1 s2 _ s3 s4
  have h1 : s1.Sound me := h
  have h2 : s2.Sound me := hkeeps h1 ..
  have h3 : s3.Sound me := h2
  split
  · exact h
  split
  · exact h1
  split
  · exact hkeeps h3 ..
  · exact h3

theorem lostCause_sound (h : s.Sound me) (g : Group) (code : Nat) :
    (lostCause s g code).1.Sound me := h

theorem streamError_sound (h : s.Sound me) (g : Group) (k code : Nat) :
    (streamError s g k code).Sound me := by
  fun_cases streamError s g k code <;> grind only [raise_sound, lostCause_sound]

theorem engineError_sound (h : s.Sound me) {g : Group} (hg : g.Fits m) (id code : Nat) :
    (engineError s g id code).Sound me := by
  fun_cases engineError s g id code
  · refine State.setG_own_sound (lostCause_sound h ..) hg ?_
    exact (Group.detach_fits _).2 hg
  all_goals exact h

theorem readError_sound (h : s.Sound me) (gid : Nat) (r : Reader) (code : Nat) :
    (readError s gid r code).Sound me := by
  unfold readError
  split
  · exact h
  next g hg =>
  have hg := h.get? hg
  have hhold : ∀ o c, (holdMu (lostCause s g code).1 g o c).Sound me := holdMu_sound (lostCause_sound h ..) hg
  have heng : ∀ id, (engineError s g id code).Sound me := fun id => engineError_sound h hg id code
  split
  · exact h
  split
  · exact streamError_sound h ..
  · grind only [failRead_sound]

theorem State.refreshQueues_sound (h : s.Sound me) :
    (s.refreshQueues).Sound me := foldl_sound _ (fun _ q h => State.refreshQueue_sound h q) h

theorem outsideWrite_sound (h : s.Sound me) (pa : Nat) (bytes : List Byte) :
    ∀ t, outsideWrite s pa bytes = some t → t.Sound me := by
  fun_cases outsideWrite s pa bytes <;> grind only [State.writeBytes_sound, State.refreshQueues_sound]

theorem deliverFlits_sound (h : s.Sound me) (l : List Flit) :
    (deliverFlits l s).1.Sound me := by
  fun_induction deliverFlits l s
  · exact h
  · next ih => exact ih (getD_sound (outsideWrite_sound h _ _) h)
  · exact h

theorem State.setLink_sound (h : s.Sound me) (port rate width : Nat) :
    (s.setLink port rate width).Sound me := h

theorem State.lateIf_sound (h : s.Sound me) (gid pc : Nat) :
    (s.lateIf gid pc).Sound me := by
  fun_cases s.lateIf gid pc <;> grind only [State.lateError_sound]

theorem dropPeer_sound (h : s.Sound me) (g : Group) (o : MemOp) (only : Bool) :
    (dropPeer s g o only).Sound me := by
  have hd : s.draw.2.draw.2.Sound me := State.draw_sound (State.draw_sound h)
  unfold dropPeer
  dsimp only
  split
  · exact hd
  split
  · exact failRead_sound hd ..
  refine State.dropPend_sound (State.lateIf_sound ?_ ..) ..
  split
  · split
    · exact foldl_sound _ (fun s e h => State.agentWrite_sound h ..) hd
    · exact hd
  · exact hd

theorem linkDown_sound (h : s.Sound me) (port : Nat) :
    (linkDown s port).Sound me := by
  unfold linkDown
  extract_lets only ops t
  have ht : t.Sound me := State.setLink_sound (foldl_sound _ (fun s x h => dropPeer_sound h ..) h) ..
  exact ht

theorem trainLink_sound (h : s.Sound me) (port rate width : Nat) :
    (trainLink s port rate width).Sound me := by
  fun_cases trainLink s port rate width <;> grind only [linkDown_sound, State.setLink_sound]

theorem retrain_sound (h : s.Sound me) (port : Nat) :
    (retrain s port).Sound me := trainLink_sound (State.draw_sound h) ..

theorem State.freeSem_sound (h : s.Sound me) (port : Nat) :
    (s.freeSem port).Sound me := by
  fun_cases s.freeSem port <;> exact h

theorem half64_sound (h : s.Sound me) {f : State → BitVec 64 → State} (hf : ∀ s x, s.Sound me → (f s x).Sound me) (off : Nat)
    (hi : Bool) (w : Word) : (half64 s off hi w f).Sound me := by
  unfold half64
  split
  · exact hf _ _ h
  · exact h

theorem writeVfmap_sound (h : s.Sound me) (x : BitVec 64) :
    (writeVfmap s x).Sound me := h

theorem writePart_sound (h : s.Sound me) (p word : Nat) (w : Word) :
    (writePart s p word w).Sound me := by
  fun_cases writePart s p word w <;> exact h

theorem State.checkWindows_sound (h : s.Sound me) :
    (s.checkWindows).Sound me := by
  fun_cases State.checkWindows s <;> exact h

theorem writeVfBlock_sound (h : s.Sound me) (v o : Nat) (w : Word) :
    (writeVfBlock s v o w).Sound me := by
  fun_cases writeVfBlock s v o w <;> exact h

theorem writeGalleyBlock_sound (h : s.Sound me) (v o : Nat) (w : Word) :
    (writeGalleyBlock s v o w).Sound me := by
  fun_cases writeGalleyBlock s v o w <;> exact h

theorem writeReg_sound (h : s.Sound me) (off : Nat) (w : Word) :
    (writeReg s off w).Sound me := by
  have hhalf : ∀ off hi, ∀ f : State → BitVec 64 → State, (∀ s x, s.Sound me → (f s x).Sound me) → (half64 s off hi w f).Sound me :=
    fun off hi f hf => half64_sound h hf off hi w
  unfold writeReg
  split
  · split
    · exact h
    · exact h
  split
  · exact writeVfBlock_sound h ..
  split
  · exact hhalf _ _ _ fun _ _ h => h
  split
  · split
    · exact h
    · exact h
  split
  · exact h
  split
  · exact writeGalleyBlock_sound h ..
  split
  · exact hhalf _ _ _ fun _ _ h => h
  · exact h

end

end Sys2Proof.Machine

namespace Sys2Proof.Machine

/-! ### What an instruction does round its meaning -/

-- One after another, as in Sys2Proof/Tests/Slice0.lean: a thread for each proof would need more memory than the check allows.
set_option Elab.async false

/-- The machine that a meaning answers is sound. -/
def ResSound (k : Nat) : Res → Prop
  | .done s | .wait _ s | .trap _ s => s.Sound k
  | .stop _ => True

/-- The next state, if there is one, is sound. -/
def OutSound (k : Nat) : Out → Prop
  | .next s => s.Sound k
  | _ => True

section
variable {s : State} {g : Group} {me : Nat}

theorem State.endA_sound (h : s.Sound me) : s.endA.Sound me := State.updG_sound h fun _ hg => hg

theorem State.waitA_sound (h : s.Sound me) (k : WaitKind) : (s.waitA k).Sound me := by
  refine State.updG_sound h fun _ hg => ?_
  split
  · exact hg
  · exact hg

theorem finishA_sound {r : Res} (hr : ResSound me r) (i : Instr) : OutSound me (finishA i r) := by
  fun_cases finishA i r
  · exact State.endA_sound hr
  · exact State.waitA_sound hr _
  · exact raise_sound hr ..
  · exact hr
  · exact hr

theorem aIssue_sound (h : s.Sound me) (i : Instr) {body : Group → State → Res}
    (hb : ∀ g s, g.Fits me → s.Sound me → ResSound me (body g s)) : OutSound me (aIssue i body s) := by
  unfold aIssue
  split
  · exact h
  next g hg =>
  split
  · exact finishA_sound (r := .trap _ s) h i
  · split
    · exact finishA_sound (r := .wait .other s) h i
    · exact finishA_sound (hb g s (h.grp? hg) h) i

theorem aWrite_sound (h : s.Sound me) (i : Instr) (d : BitVec 6) (f : Group → Word) : OutSound me (aWrite i d f s) :=
  aIssue_sound h i fun _ _ hg h => State.putG_sound h ((Group.adv_fits _).2 ((Group.wa_fits ..).2 hg))

theorem finishC_sound {s0 : State} {g0 : Group} (h0 : s0.Sound me) (hg : g0.Fits me) {r : Res} (hr : ResSound me r) (i : Instr)
    (sh : CShape) (w : BitVec 96) (env : CEnv) : OutSound me (finishC i sh w env s0 g0 r) := by
  cases r with
  | done t => exact State.leave_sound hr (fun _ => ⟨h0, hg⟩) ..
  | wait k t => exact State.waitC_sound h0 hg ..
  | trap c t =>
    refine raise_sound (State.putG_sound h0 ?_) ..
    have hg' : (g0.unpopAll env.es).Fits me := (Group.unpopAll_fits _).2 hg
    split
    · exact (Group.log_fits _).2 hg'
    · exact hg'
  | stop f => trivial

theorem cIssueN_sound (h : s.Sound me) (i : Instr) (n : Nat) {body : CEnv → State → Res}
    (hb : ∀ e s, s.Sound me → ResSound me (body e s)) : OutSound me (cIssueN i n body s) := by
  unfold cIssueN
  split
  next g sh hg _ =>
    have hg := h.grp? hg
    dsimp only
    split
    · exact h
    next p _ =>
    split
    · exact finishC_sound h hg (r := .trap _ s) h ..
    split
    · exact h
    split
    · exact State.waitC_sound h hg ..
    split
    · exact State.waitC_sound h hg ..
    have hq := (fetchQ_fits (k := me) ((fetches i sh.ss).drop p.held.length) p.held).2 hg
    split
    next he =>
      rw [he] at hq
      exact queueWait_sound h hq ..
    next op he =>
      rw [he] at hq
      refine raise_sound (State.putG_sound h ((Group.endHeld_fits op _).2 ?_)) ..
      exact (Group.unpopAll_fits _).2 hq
    next g' es he =>
      rw [he] at hq
      have hg' : g'.Fits me := hq
      split
      · exact queueWait_sound h hg' ..
      · have hp := (Group.popped_fits (k := me) s.tick (es.length = p.held.length)).2 hg'
        exact finishC_sound h hp (hb _ _ (State.putG_sound h ((Group.stepped_fits _).2 hp))) ..
  · exact h

theorem cIssue_sound (h : s.Sound me) (i : Instr) {body : CEnv → Group → State → Res}
    (hb : ∀ e g s, g.Fits me → s.Sound me → ResSound me (body e g s)) : OutSound me (cIssue i body s) := by
  refine cIssueN_sound h i 1 fun e s h => ?_
  split
  next g hg => exact hb e g s (h.grp? hg) h
  · exact h

theorem cLanes_sound (h : s.Sound me) (i : Instr) (d : Dst) (ops : List (OpTy × Src)) (f : Nat → List Word → LRes) :
    OutSound me (cLanes i d ops f s) := cIssue_sound h i fun _ _ _ hg h => putLanes_sound h hg ..

theorem f32Op_sound (h : s.Sound me) (i : Instr) (d : Dst) (ss : List Src) (f : List Nat → FRes) :
    OutSound me (f32Op i d ss f s) := cLanes_sound h ..

theorem packedOp_sound (h : s.Sound me) (i : Instr) (bf : BitVec 1) (d : Dst) (ss : List Src) (f : List Nat → FRes) :
    OutSound me (packedOp i bf d ss f s) := cLanes_sound h ..

theorem cPred_sound (h : s.Sound me) (i : Instr) (d : Dst) (ops : List (OpTy × Src)) (f : Nat → List Word → Bool × Fl) :
    OutSound me (cPred i d ops f s) := by
  refine cIssue_sound h i fun e g s hg h => State.putG_sound h ?_
  split
  · exact (Group.writePred_fits ..).2 hg
  · exact (Group.raiseFl_fits _).2 ((Group.writePred_fits ..).2 hg)

theorem laneOp_sound (h : s.Sound me) (i : Instr) (d : Dst) (ops : List (OpTy × Src)) (f : CEnv → CSide → List Lanes → Nat → Word) :
    OutSound me (laneOp i d ops f s) := cIssue_sound h i fun _ _ _ hg h => putLanes_sound h hg ..

theorem lanePred_sound (h : s.Sound me) (i : Instr) (d : Dst) (ops : List (OpTy × Src))
    (f : CEnv → CSide → List Lanes → Nat → Bool) : OutSound me (lanePred i d ops f s) :=
  cIssue_sound h i fun _ _ _ hg h => State.putG_sound h ((Group.writePred_fits ..).2 hg)

theorem portWrite_sound (h : s.Sound me) {f : State → State} (hf : ∀ s, s.Sound me → (f s).Sound me) (port off : Nat) (may : Bool) :
    OutSound me (portWrite s port off may f) := by
  fun_cases portWrite s port off may f
  · exact h
  · exact hf s h
  · exact State.colophon_sound h ..

theorem withB_sound (h : s.Sound me) (g : Group) (n : Nat) {f : Buf → Res} (hf : ∀ b, ResSound me (f b)) :
    ResSound me (withB g s n f) := by
  fun_cases withB g s n f
  · exact h
  · exact h
  · exact hf _

theorem withT_sound (h : s.Sound me) (g : Group) (n : Nat) {f : Ten → Res} (hf : ∀ t, ResSound me (f t)) :
    ResSound me (withT g s n f) := by
  fun_cases withT g s n f
  · exact h
  · exact h
  · exact hf _

theorem withOut_sound (h : s.Sound me) (g : Group) (o : BitVec 4) {f : Option Ten → Res} (hf : ∀ t, ResSound me (f t)) :
    ResSound me (withOut g s o f) := by
  fun_cases withOut g s o f
  · exact hf _
  · exact withT_sound h _ _ fun _ => hf _

theorem withBar_sound (h : s.Sound me) (g : Group) (nb : Nat) {f : Bar → Res} (hf : ∀ b, ResSound me (f b)) :
    ResSound me (withBar s g nb f) := by
  fun_cases withBar s g nb f
  · exact h
  · exact hf _

theorem withFlag_sound (h : s.Sound me) (e : CEnv) (g : Group) (fl : BitVec 1) {f : Nat → Res} (hf : ∀ n, ResSound me (f n)) :
    ResSound me (withFlag e g s fl f) := by
  fun_cases withFlag e g s fl f
  · exact h
  · exact hf _

theorem notWhileSaving_sound (h : s.Sound me) (g : Group) {f : Unit → Res} (hf : ResSound me (f ())) :
    ResSound me (notWhileSaving g s f) := by
  fun_cases notWhileSaving g s f
  · exact h
  · exact hf

theorem whenFree_sound (h : s.Sound me) (hg : g.Fits me) (i : Instr) (ls : List Loc) {f : State → Res} (hf : ResSound me (f s)) :
    ResSound me (whenFree i s g ls f) := by
  fun_cases whenFree i s g ls f
  · exact hf
  · exact h
  · exact raise_sound (State.putG_sound (State.deliverEng_sound h ..) ((Faulted.mark_fits _).2 hg)) ..

theorem onChecked_sound {r : State × Checked} (hr : r.1.Sound me) {f : State → List (Nat × Loc) → Res}
    (hf : ∀ s ps, s.Sound me → ResSound me (f s ps)) : ResSound me (onChecked r f) := by
  fun_cases onChecked r f
  · exact hf _ _ hr
  · exact hr
  · trivial

theorem barArrive_sound (h : s.Sound me) (hg : g.Fits me) (nb stream : Nat) (need : List Nat) (b : Bar) {f : State → Group → Res}
    (hf : ∀ s g, s.Sound me → g.Fits me → ResSound me (f s g)) : ResSound me (barArrive s g nb stream need b f) := by
  fun_cases barArrive s g nb stream need b f
  · exact h
  · exact hf _ _ (State.setBar_sound (State.publish_sound h ..) ..) hg
  · refine hf _ _ h ?_
    exact hg

theorem counterTest_sound (h : s.Sound me) (hg : g.Fits me) (i : Instr) (a b : BitVec 6) {hit : State → Res}
    {miss : State → Loc → Res} (hh : ∀ s, s.Sound me → ResSound me (hit s)) (hm : ∀ s l, s.Sound me → ResSound me (miss s l)) :
    ResSound me (counterTest i g s a b hit miss) := by
  unfold counterTest
  extract_lets va
  split
  · exact h
  split
  next => trivial
  next he => exact sound_of_eq he (globalAt_sound h ..)
  next t l he =>
  have ht : t.Sound me := sound_of_eq he (globalAt_sound h ..)
  split
  next hd => exact deliver_sound ht hg _ _ _ hd
  extract_lets mine
  split
  · exact ht
  · refine whenFree_sound ht hg _ _ ?_
    extract_lets r
    have hr : r.1.Sound me := State.readPast_sound ht ..
    split
    · exact hh _ (State.acquire_sound hr ..)
    · exact hm _ _ hr

theorem withFill_sound (h : s.Sound me) (hg : g.Fits me) (i : Instr) (x : Ctl) (e : CEnv) {f : Group → State → Res}
    (hf : ∀ g s, g.Fits me → s.Sound me → ResSound me (f g s)) : ResSound me (withFill i x e g s f) := by
  fun_cases withFill i x e g s f
  · exact hf _ _ hg h
  · next he => exact hf _ _ (fillStack_fits hg _ _ (congrArg Prod.snd he)) (sound_of_eq he (fillStack_sound h ..))
  · next he => exact sound_of_eq he (fillStack_sound h ..)
  · trivial

theorem putFlow_sound (h : s.Sound me) (hg : g.Fits me) (c : CSide) : ResSound me (putFlow s g c) := by
  fun_cases putFlow s g c
  · refine State.putG_sound h ?_
    exact hg
  · next he => exact sound_of_eq he (stackIo_sound h ..)
  · trivial
  · next he => exact afterFlow_sound (sound_of_eq he (stackIo_sound h ..)) hg _

theorem flow_sound (h : s.Sound me) (i : Instr) (x : Ctl) (target join : Option Nat)
    (f : State → Group → CEnv → Except Cause CSide) : OutSound me (flow i x target join f s) := by
  refine cIssue_sound h i fun e g s hg h => ?_
  have hc : (if s.cur.mode = 1 then (s, none) else flowCheck s g e.p target join).1.Sound me := by
    split
    · exact h
    · exact flowCheck_sound h ..
  split
  · next he => exact sound_of_eq he hc
  · next he =>
    refine withFill_sound (sound_of_eq he hc) hg _ _ _ fun g s hg h => ?_
    split
    · exact h
    · exact putFlow_sound h hg _

theorem nearAccess_sound (h : s.Sound me) (hg : g.Fits me) (e : CEnv) (i : Instr) (level acc sz : Nat) (a b : Lanes)
    {f : State → List (Nat × Loc) → Res} (hf : ∀ ps, ResSound me (f s ps)) :
    ResSound me (nearAccess s g e i level acc sz a b f) := by
  fun_cases nearAccess s g e i level acc sz a b f
  · exact h
  · exact hf _
  · exact h
  · exact trapHere_sound (State.deliverEng_sound h ..) ((Faulted.mark_fits _).2 hg) ..

theorem withRays_sound (h : s.Sound me) (hg : g.Fits me) (e : CEnv) (i : Instr) (acc : Nat) (off : Lanes)
    {f : State → List (Nat × Nat) → Res} (hf : ∀ els, ResSound me (f s els)) : ResSound me (withRays s g e i acc off f) := by
  fun_cases withRays s g e i acc off f
  · exact h
  · exact h
  · exact trapHere_sound (State.deliverEng_sound h ..) ((Faulted.mark_fits _).2 hg) ..
  · exact h
  · exact hf _

theorem rayQuery_sound (h : s.Sound me) (i : Instr) (d : Dst) (s0 : Src) (f : RayState → List Nat) :
    OutSound me (rayQuery i d s0 f s) := by
  refine cIssue_sound h i fun e g s hg h => withRays_sound h hg _ _ _ _ fun els => State.updG_sound h fun g hg => ?_
  refine (foldl_fits (fun g j => ?_) _).2 hg
  exact Iff.rfl

theorem runLanes_sound (h : s.Sound me) (o : LaneOp) {f : State → Nat → State × Except Stop (List Nat)}
    (hf : ∀ s l, s.Sound me → (f s l).1.Sound me) : (runLanes o f s).s.Sound me := by
  refine List.foldlRecOn (motive := fun r : LaneRun => r.s.Sound me) _ _ h fun r hr l _ => ?_
  have hl := hf r.s l hr
  split
  all_goals next he => exact sound_of_eq he hl

theorem runRays_sound (h : s.Sound me) (o : LaneOp) (g : Group) (stops : Bool) (bvh : Buf) (init : Option Nat) :
    (runRays o g stops bvh init s).1.s.Sound me := by
  refine List.foldlRecOn (motive := fun r : LaneRun × Bool => r.1.s.Sound me) _ _ h fun r hr l _ => ?_
  have hl := traceLane_sound hr g stops bvh init (o.words l) l
  dsimp only
  split
  all_goals next he => exact sound_of_eq he hl

theorem counted_sound {r : Out} (hr : OutSound me r) (before : State) (w : What) (i : Instr) :
    OutSound me (counted before w i r) := by
  cases r with
  | next t => exact State.countCycles_sound hr ..
  | _ => trivial

theorem State.muCheck_sound (h : s.Sound me) {o : MuOp} {r : (State × Checked) × Lanes × Lanes} (hr : s.muCheck g o = some r) :
    r.1.1.Sound me := by
  unfold State.muCheck at hr
  extract_lets b at hr
  split at hr
  · obtain ⟨es, -, rfl⟩ := Option.map_eq_some_iff.mp hr
    exact checkElems_sound h ..
  · next chk _ =>
    obtain ⟨e, -, rfl⟩ := Option.map_eq_some_iff.mp hr
    clear hr
    have hc : chk.1.Sound me := by
      simp only [chk]
      split
      · exact h
      · exact checkElems_sound h ..
    clear_value chk
    rcases chk with ⟨t, c⟩
    cases c <;> exact hc

end

end Sys2Proof.Machine

namespace Sys2Proof.Machine

/-! ### A instructions -/

-- One after another, as in Sys2Proof/Tests/Slice0.lean: a thread for each proof would need more memory than the check allows.
set_option Elab.async false

section
variable {s : State} {g : Group} {me : Nat}

theorem aBin_sound (h : s.Sound me) (i : Instr) (d a b : BitVec 6) (f : Word → Word → Word) :
    OutSound me (aBin i d a b f s) := aWrite_sound h ..

theorem aUn_sound (h : s.Sound me) (i : Instr) (d a : BitVec 6) (f : Word → Word) : OutSound me (aUn i d a f s) :=
  aWrite_sound h ..

theorem aBranch_sound (h : s.Sound me) (i : Instr) (a b : BitVec 6) (off : BitVec 14) (c : Word → Word → Bool) :
    OutSound me (aBranch i a b off c s) := by
  refine aIssue_sound h _ fun g s hg h => State.putG_sound h ?_
  split
  · exact hg
  · exact hg

theorem execJalr_sound (h : s.Sound me) (d a : BitVec 6) (imm : BitVec 14) : OutSound me (execJalr d a imm s) := by
  refine aIssue_sound h _ fun g s hg h => ?_
  dsimp only
  split
  · exact h
  · exact State.putG_sound h ((Group.wa_fits ..).2 hg)

theorem execJal_sound (h : s.Sound me) (d : BitVec 6) (imm : BitVec 20) : OutSound me (execJal d imm s) :=
  aIssue_sound h _ fun _ _ hg h => State.putG_sound h ((Group.wa_fits ..).2 hg)

theorem execDbnz_sound (h : s.Sound me) (a : BitVec 6) (off : BitVec 14) : OutSound me (execDbnz a off s) := by
  refine aIssue_sound h _ fun g s hg h => State.putG_sound h ?_
  split
  · exact (Group.wa_fits ..).2 hg
  · exact (Group.wa_fits ..).2 hg

theorem execRdsr_sound (h : s.Sound me) (d : BitVec 6) (idx : BitVec 10) : OutSound me (execRdsr d idx s) := by
  refine aIssue_sound h _ fun g s hg h => State.putG_sound h ((Group.wa_fits ..).2 ?_)
  split
  · exact hg
  · exact hg

theorem execWrsr_sound (h : s.Sound me) (a : BitVec 6) (idx : BitVec 10) : OutSound me (execWrsr a idx s) :=
  aIssue_sound h _ fun _ _ hg h => State.putG_sound h ((writeSr_fits ..).2 hg)

theorem execRdtime_sound (h : s.Sound me) (d : BitVec 6) : OutSound me (execRdtime d s) :=
  aIssue_sound h _ fun _ _ hg h => State.putG_sound h ((Group.wa_fits ..).2 ((Group.wa_fits ..).2 hg))

theorem pushClq_sound (h : s.Sound me) (hg : g.Fits me) (x : Word) : ResSound me (pushClq s g x) := by
  fun_cases pushClq s g x
  · exact State.putG_sound h hg
  · exact h
  · exact State.putG_sound h hg

theorem execSpush_sound (h : s.Sound me) (a : BitVec 6) : OutSound me (execSpush a s) := by
  refine aIssue_sound h _ fun g s hg h => ?_
  split
  · exact State.putG_sound h hg
  split
  · exact h
  · exact State.putG_sound h hg

theorem execBpop_sound (h : s.Sound me) (d : BitVec 6) : OutSound me (execBpop d s) := by
  refine aIssue_sound h _ fun g s hg h => ?_
  split
  · exact h
  split
  · exact State.putG_sound h ((Group.wa_fits ..).2 hg)
  · exact h

theorem placeToken_sound (h : s.Sound me) (hg : g.Fits me) (i : Instr) (q : Nat) (c : Cause) :
    ResSound me (placeToken s g i q c) := by
  unfold placeToken
  split
  · exact h
  · exact State.putG_sound (State.newId_sound h) ((Group.pushLdq_fits ..).2 hg)

theorem execLdv_sound (h : s.Sound me) (byp : BitVec 1) (ord : BitVec 3) (q : BitVec 2) (k : BitVec 5) (ai : BitVec 6)
    (off : BitVec 9) : OutSound me (execLdv byp ord q k ai off s) := by
  refine aIssue_sound h _ fun g s hg h => withB_sound h _ _ fun b => ?_
  extract_lets r
  have hr : r.1.Sound me := checkElems_sound h ..
  clear_value r
  split
  · exact h
  split
  · exact placeToken_sound hr hg ..
  · trivial
  · exact whenFree_sound hr hg _ _ (State.putG_sound (State.newId_sound hr) ((Group.pushLdq_fits ..).2 hg))

theorem issueMu_sound (h : s.Sound me) (hg : g.Fits me) (i : Instr) (k : BitVec 5) (first : Word) (resultQ : Option Nat) (n : Nat)
    (places : Option (List (Nat × Loc))) : ResSound me (issueMu s g i k first resultQ n places) := by
  unfold issueMu
  split
  · exact h
  split
  · exact h
  · refine State.putG_sound (State.newId_sound h) ?_
    split
    · exact (Group.pushLdq_fits ..).2 hg
    · exact hg

theorem execLdg_sound (h : s.Sound me) (byp : BitVec 1) (ord : BitVec 3) (q : BitVec 2) (k : BitVec 5) (ai : BitVec 6)
    (off : BitVec 9) : OutSound me (execLdg byp ord q k ai off s) := by
  refine aIssue_sound h _ fun g s hg h => withB_sound h _ _ fun b => ?_
  split
  · exact h
  · exact issueMu_sound h hg ..

theorem execStv_sound (h : s.Sound me) (ord : BitVec 3) (q : BitVec 2) (k : BitVec 5) (ai : BitVec 6) (off : BitVec 9) :
    OutSound me (execStv ord q k ai off s) := by
  refine aIssue_sound h _ fun g s hg h => withB_sound h _ _ fun b => ?_
  split
  · exact h
  · exact onChecked_sound (checkElems_sound h ..) fun _ _ h => whenFree_sound h hg _ _ (issueMu_sound h hg ..)

theorem execStx_sound (h : s.Sound me) (ord : BitVec 3) (q : BitVec 2) (k : BitVec 5) (ai : BitVec 6) (off : BitVec 9) :
    OutSound me (execStx ord q k ai off s) := by
  refine aIssue_sound h _ fun g s hg h => withB_sound h _ _ fun b => ?_
  split
  · exact h
  · exact issueMu_sound h hg ..

theorem execLda_sound (h : s.Sound me) (d : BitVec 6) (k : BitVec 5) (ai : BitVec 6) (ord : BitVec 3) (off : BitVec 6) :
    OutSound me (execLda d k ai ord off s) := by
  refine aIssue_sound h _ fun g s hg h => withB_sound h _ _ fun b => ?_
  split
  · exact h
  · exact onChecked_sound (checkElems_sound h ..) fun _ _ h =>
      whenFree_sound h hg _ _ (State.putG_sound (State.newId_sound h) hg)

theorem execSta_sound (h : s.Sound me) (v : BitVec 6) (k : BitVec 5) (ai : BitVec 6) (ord : BitVec 3) (off : BitVec 6) :
    OutSound me (execSta v k ai ord off s) := by
  refine aIssue_sound h _ fun g s hg h => withB_sound h _ _ fun b => ?_
  split
  · exact h
  · exact onChecked_sound (checkElems_sound h ..) fun _ _ h =>
      whenFree_sound h hg _ _ (State.putG_sound (State.newId_sound h) hg)

theorem execPrf_sound (h : s.Sound me) (l2 : BitVec 1) (k : BitVec 5) (ai : BitVec 6) (off : BitVec 9) :
    OutSound me (execPrf l2 k ai off s) := by
  refine aIssue_sound h _ fun g s hg h => withB_sound h _ _ fun b => State.updG_sound ?_ fun _ hg => hg
  split
  · exact State.prefetch_sound h ..
  · exact h

theorem execAtv_sound (h : s.Sound me) (op : BitVec 4) (q : BitVec 2) (k : BitVec 5) (ret sdq : BitVec 1) (ord : BitVec 2)
    (scope : BitVec 3) : OutSound me (execAtv op q k ret sdq ord scope s) := by
  refine aIssue_sound h _ fun g s hg h => withB_sound h _ _ fun b => ?_
  split
  · exact h
  · exact issueMu_sound h hg ..

theorem execAta_sound (h : s.Sound me) (op : BitVec 4) (d : BitVec 6) (k : BitVec 5) (ai x y : BitVec 6) (ord : BitVec 2)
    (scope : BitVec 3) : OutSound me (execAta op d k ai x y ord scope s) := by
  refine aIssue_sound h _ fun g s hg h => withB_sound h _ _ fun b => ?_
  split
  · exact h
  extract_lets w go
  have hw : w.1.Sound me := scalarWindow_sound h ..
  have hgo : ∀ t ps win, t.Sound me → ResSound me (go t ps win) := fun _ _ _ ht =>
    whenFree_sound ht hg _ _ (State.putG_sound (State.newId_sound ht) hg)
  clear_value go
  split
  · exact hgo _ _ _ (State.dirtiedPage_sound hw ..)
  · exact onChecked_sound (checkElems_sound hw ..) fun _ _ h => hgo _ _ _ h

theorem loadRecord_sound (h : s.Sound me) (hg : g.Fits me) (instr : Instr) (n : Nat) (i : Word) (kind : MemKind)
    {mark : Group → Group} (hm : ∀ g, g.Fits me → (mark g).Fits me) : ResSound me (loadRecord instr s g n i kind mark) := by
  unfold loadRecord
  extract_lets va
  split
  next => trivial
  next he => exact sound_of_eq he (globalAt_sound h ..)
  next he =>
    have ht := sound_of_eq he (globalAt_sound h ..)
    exact whenFree_sound ht hg _ _ (State.putG_sound (State.newId_sound ht) (hm g hg))

theorem execBld_sound (h : s.Sound me) (r : BitVec 5) (a : BitVec 6) (imm : BitVec 14) : OutSound me (execBld r a imm s) := by
  refine aIssue_sound h _ fun g s hg h => ?_
  dsimp only
  split
  · exact h
  · exact loadRecord_sound h hg _ _ _ _ fun _ hg => hg

theorem execBset_sound (h : s.Sound me) (r : BitVec 5) (a : BitVec 6) (fn : BitVec 8) : OutSound me (execBset r a fn s) := by
  refine aIssue_sound h _ fun g s hg h => ?_
  dsimp only
  split
  · exact h
  split
  · exact h
  · exact State.putG_sound h hg

theorem execTld_sound (h : s.Sound me) (r : BitVec 4) (a : BitVec 6) (imm : BitVec 14) : OutSound me (execTld r a imm s) := by
  refine aIssue_sound h _ fun g s hg h => ?_
  dsimp only
  split
  · exact h
  · exact loadRecord_sound h hg _ _ _ _ fun _ hg => hg

theorem issueCopy_sound (h : s.Sound me) (hg : g.Fits me) (i : Instr) (src dst : BitVec 4) (c : BitVec 6) (opt scope : BitVec 3)
    (bar : Option Nat) (cnt : Option (BitVec 6)) : ResSound me (issueCopy i src dst c opt scope bar cnt g s) := by
  refine notWhileSaving_sound h _ ?_
  extract_lets regs
  split
  · exact h
  split
  · exact h
  split
  · exact h
  refine withT_sound h _ _ fun ts => withT_sound h _ _ fun td => ?_
  split
  · exact h
  split
  · exact h
  extract_lets sc dc go
  have hgo : ∀ t ctr, t.Sound me → ResSound me (go t ctr) := by
    intro t ctr ht
    simp only [go]
    split
    · exact ht
    · refine State.putG_sound ?_ hg
      exact ht
  clear_value go
  split
  · exact hgo _ _ h
  extract_lets a
  split
  · exact h
  split
  next he => exact hgo _ _ (sound_of_eq he (globalAt_sound h ..))
  next => trivial
  next he => exact sound_of_eq he (globalAt_sound h ..)

theorem execCwait_sound (h : s.Sound me) (a b : BitVec 6) : OutSound me (execCwait a b s) :=
  aIssue_sound h _ fun _ _ hg h =>
    counterTest_sound h hg _ _ _ (fun _ h => State.updG_sound h fun _ hg => hg) fun _ _ h => h

theorem execYieldc_sound (h : s.Sound me) (a b : BitVec 6) : OutSound me (execYieldc a b s) := by
  refine aIssue_sound h _ fun _ _ hg h =>
    counterTest_sound h hg _ _ _ (fun _ h => State.updG_sound h fun _ hg => hg) fun _ _ h => State.updG_sound ?_ fun _ hg => hg
  exact h

theorem execBinit_sound (h : s.Sound me) (a : BitVec 6) (nb : BitVec 10) : OutSound me (execBinit a nb s) := by
  refine aIssue_sound h _ fun g s hg h => withBar_sound h _ _ fun b => ?_
  extract_lets n
  split
  · exact h
  split
  · exact h
  · exact State.putG_sound (State.setBar_sound h ..) hg

theorem execBarv_sound (h : s.Sound me) (nb : BitVec 10) : OutSound me (execBarv nb s) :=
  aIssue_sound h _ fun _ _ hg h => withBar_sound h _ _ fun _ => barArrive_sound h hg _ _ _ _ fun _ _ h hg => State.putG_sound h hg

theorem barWaitA_sound (h : s.Sound me) (hg : g.Fits me) (nb : Nat) : ResSound me (barWaitA s g nb) := by
  fun_cases barWaitA s g nb
  · exact State.putG_sound h hg
  · exact State.putG_sound (State.acquire_sound (State.setBar_sound h ..) ..) hg
  · exact State.setBar_sound h ..

theorem execBwaita_sound (h : s.Sound me) (nb : BitVec 10) : OutSound me (execBwaita nb s) := by
  refine aIssue_sound h _ fun g s hg h => withBar_sound h _ _ fun _ => ?_
  split
  next hd => exact deliver_sound h hg _ _ _ hd
  · exact barWaitA_sound h hg _

theorem execBarvw_sound (h : s.Sound me) (nb : BitVec 10) : OutSound me (execBarvw nb s) := by
  refine aIssue_sound h _ fun g s hg h => withBar_sound h _ _ fun _ => ?_
  split
  next hd => exact deliver_sound h hg _ _ _ hd
  split
  · exact barWaitA_sound h hg _
  · refine barArrive_sound h hg _ _ _ _ fun s g h hg => ?_
    extract_lets g'
    have hg' : g'.Fits me := hg
    exact barWaitA_sound (State.putG_sound h hg') hg' _

theorem execBexp_sound (h : s.Sound me) (a : BitVec 6) (nb : BitVec 10) : OutSound me (execBexp a nb s) := by
  refine aIssue_sound h _ fun g s hg h => withBar_sound h _ _ fun b => ?_
  extract_lets n
  split
  · exact h
  split
  · exact h
  · exact State.putG_sound (State.setBar_sound h ..) hg

theorem execBtry_sound (h : s.Sound me) (d : BitVec 6) (nb : BitVec 10) : OutSound me (execBtry d nb s) := by
  refine aIssue_sound h _ fun g s hg h => withBar_sound h _ _ fun _ => ?_
  split
  next hd => exact deliver_sound h hg _ _ _ hd
  split
  · exact h
  split
  · exact State.putG_sound (State.acquire_sound (State.setBar_sound h ..) ..) ((Group.wa_fits ..).2 hg)
  · exact State.putG_sound h ((Group.wa_fits ..).2 hg)

theorem fence_sound (h : s.Sound me) (hg : g.Fits me) (rel acq : Bool) (scope : BitVec 3) (eng : BitVec 1) :
    ResSound me (fence rel acq scope eng g s) := by
  unfold fence
  split
  next hd => exact deliver_sound h hg _ _ _ hd
  extract_lets from_ t
  have ht : t.Sound me := by
    subst t
    split
    · exact State.publish_sound h ..
    · exact h
  clear_value t
  split
  · exact State.putG_sound h hg
  · refine State.putG_sound ?_ hg
    split
    · exact State.acquire_sound ht ..
    · exact ht

theorem execMxbind_sound (h : s.Sound me) (vb : BitVec 9) (fa fb : BitVec 5) (dist : BitVec 1) (fo : BitVec 5) (tiles : BitVec 2)
    (prio : BitVec 3) (q : BitVec 2) (nb : BitVec 10) : OutSound me (execMxbind vb fa fb dist fo tiles prio q nb s) := by
  unfold execMxbind
  refine aIssue_sound h _ fun g s hg h => ?_
  extract_lets pk
  split
  · exact h
  refine notWhileSaving_sound h _ ?_
  split
  · exact h
  split
  · exact h
  split
  · exact h
  split
  · exact h
  split
  · exact trapBinds_sound h ..
  split
  · exact trapBinds_sound h ..
  split
  · exact trapBinds_sound h ..
  · refine State.putG_sound ?_ hg
    exact h

theorem issuePass_sound (h : s.Sound me) (hg : g.Fits me) (k : Nat) (ss : Session) (p : Pass) (lines : Pass → List (Loc × Nat)) :
    ResSound me (issuePass s g k ss p lines) := by
  unfold issuePass
  split
  · exact h
  · refine State.putG_sound ?_ hg
    exact h

theorem execMxloop_sound (h : s.Sound me) (ta : BitVec 4) (c : BitVec 6) (z : BitVec 2) (ks : BitVec 12) (mr : BitVec 5)
    (o : BitVec 4) (ob : BitVec 6) (acc : BitVec 1) (epi : BitVec 4) : OutSound me (execMxloop ta c z ks mr o ob acc epi s) := by
  unfold execMxloop
  refine aIssue_sound h _ fun g s hg h =>
    notWhileSaving_sound h _ (withT_sound h _ _ fun t => withOut_sound h _ _ fun to_ => ?_)
  split
  · exact h
  split
  · exact h
  split
  · exact h
  · exact issuePass_sound h hg ..

theorem execMxconv_sound (h : s.Sound me) (ti tc : BitVec 4) (c : BitVec 6) (z : BitVec 2) (ks : BitVec 12) (mr : BitVec 5)
    (o : BitVec 4) (ob : BitVec 6) (acc : BitVec 1) (epi : BitVec 4) : OutSound me (execMxconv ti tc c z ks mr o ob acc epi s) := by
  unfold execMxconv
  refine aIssue_sound h _ fun g s hg h =>
    notWhileSaving_sound h _ (withT_sound h _ _ fun t => withT_sound h _ _ fun tc => withOut_sound h _ _ fun to_ => ?_)
  split
  · exact h
  extract_lets cv
  split
  · exact h
  split
  · exact h
  split
  · exact h
  · exact issuePass_sound h hg ..

theorem execMxsel_sound (h : s.Sound me) (z : BitVec 2) (kk : BitVec 5) (big : BitVec 1) (o : BitVec 4) (ob : BitVec 6) :
    OutSound me (execMxsel z kk big o ob s) := by
  unfold execMxsel
  refine aIssue_sound h _ fun g s hg h => notWhileSaving_sound h _ (withT_sound h _ _ fun t => ?_)
  split
  · exact h
  split
  · exact h
  split
  · exact h
  · exact issuePass_sound h hg ..

theorem execMxrel_sound (h : s.Sound me) : OutSound me (execMxrel s) := by
  refine aIssue_sound h _ fun g s hg h => notWhileSaving_sound h _ ?_
  split
  next hd => exact deliver_sound h hg _ _ _ hd
  split
  · exact h
  split
  · exact h
  next k ss q _ _ => exact State.putG_sound (leaveSession_sound h g k ss q) (leaveSession_fits (s := s) hg k ss q)

theorem execMxstat_sound (h : s.Sound me) (d : BitVec 6) : OutSound me (execMxstat d s) := by
  refine aIssue_sound h _ fun g s hg h => notWhileSaving_sound h _ ?_
  split
  · exact h
  · exact State.putG_sound h ((Group.wa_fits ..).2 hg)

theorem addEng_sound (h : s.Sound me) (hg : g.Fits me) (i : Instr) (kind : EngKind) (bar : Option Nat) (lines : List Loc) :
    ResSound me (addEng s g i kind bar lines) := by
  refine State.putG_sound ?_ hg
  exact h

theorem execCover_sound (h : s.Sound me) (eo : BitVec 1) (bs : BitVec 5) (f k : BitVec 6) (t : BitVec 4) (o : BitVec 6)
    (nb : BitVec 10) : OutSound me (execCover eo bs f k t o nb s) := by
  refine aIssue_sound h _ fun g s hg h => notWhileSaving_sound h _ ?_
  extract_lets r
  split
  · exact h
  split
  · exact h
  refine withT_sound h _ _ fun t => ?_
  split
  · exact h
  · exact addEng_sound h hg ..

theorem execRalloc_sound (h : s.Sound me) (d a b : BitVec 6) : OutSound me (execRalloc d a b s) := by
  refine aIssue_sound h _ fun g s hg h => ?_
  split
  · exact h
  refine notWhileSaving_sound h _ ?_
  split
  next hd => exact deliver_sound h hg _ _ _ hd
  extract_lets v node cnt
  have hn : (s.node v node).1.Sound me := State.node_sound h ..
  clear_value v node cnt
  rcases hr : s.node v node with ⟨t, ds⟩
  rw [hr] at hn
  dsimp only at hn ⊢
  split
  · exact hn
  split
  · exact State.putG_sound (State.setGal_sound hn ..) ((Group.wa_fits ..).2 hg)
  · exact State.putG_sound (State.setGal_sound hn ..) hg

theorem execRcommit_sound (h : s.Sound me) (a b : BitVec 6) : OutSound me (execRcommit a b s) := by
  refine aIssue_sound h _ fun g s hg h => notWhileSaving_sound h _ ?_
  extract_lets v n
  split
  · exact h
  split
  · exact h
  split
  · exact State.putG_sound h hg
  · refine State.arriveReady_sound (State.putG_sound (State.setGal_sound h ..) ?_) _
    exact hg

theorem execRdone_sound (h : s.Sound me) (a : BitVec 6) : OutSound me (execRdone a s) := by
  refine aIssue_sound h _ fun g s hg h => notWhileSaving_sound h _ ?_
  dsimp only
  split
  · exact h
  · exact State.putG_sound (State.giveBack_sound (State.setGal_sound h ..) ..) hg

theorem execRinput_sound (h : s.Sound me) (d a : BitVec 6) : OutSound me (execRinput d a s) :=
  aIssue_sound h _ fun _ _ hg h => notWhileSaving_sound h _ (State.putG_sound h ((Group.wa_fits ..).2 hg))

theorem execRdepth_sound (h : s.Sound me) (d : BitVec 6) : OutSound me (execRdepth d s) :=
  aIssue_sound h _ fun _ _ hg h => notWhileSaving_sound h _ (State.putG_sound h ((Group.wa_fits ..).2 hg))

theorem execTstore_sound (h : s.Sound me) (ts td : BitVec 4) (p : BitVec 6) (nb : BitVec 10) (sig : BitVec 14) :
    OutSound me (execTstore ts td p nb sig s) := by
  refine aIssue_sound h _ fun g s hg h =>
    notWhileSaving_sound h _ (withT_sound h _ _ fun t => withT_sound h _ _ fun u => ?_)
  split
  · exact h
  split
  · exact h
  · exact addEng_sound h hg ..

theorem execWaitf_sound (h : s.Sound me) (mask : BitVec 12) : OutSound me (execWaitf mask s) := by
  refine aIssue_sound h _ fun g s hg h => ?_
  split
  next hd => exact deliver_sound h hg _ _ _ hd
  split
  · exact State.putG_sound h hg
  · exact h

theorem execTrap_sound (h : s.Sound me) (code : BitVec 10) : OutSound me (execTrap code s) :=
  aIssue_sound h _ fun _ _ _ h => raise_sound h ..

theorem execTret_sound (h : s.Sound me) : OutSound me (execTret s) := by
  refine aIssue_sound h _ fun g s hg h => ?_
  split
  · exact h
  split
  next hd => exact deliver_sound h hg _ _ _ hd
  split
  · exact h
  split
  · exact h
  split
  · exact h
  extract_lets st
  have hp : (s.putG { g with pend := g.pend.filter fun o => !(o.reads && st.contains o.id) }).Sound me := State.putG_sound h hg
  split
  next he => exact State.afterReturn_sound (State.retake_sound (sound_of_eq he (returnTrap_sound hp _)) ..) _
  next => trivial
  next he => exact sound_of_eq he (returnTrap_sound hp _)

theorem execExit_sound (h : s.Sound me) : OutSound me (execExit s) := by
  refine aIssue_sound h _ fun g s hg h => ?_
  split
  · exact h
  split
  next hd => exact deliver_sound h hg _ _ _ hd
  split
  · exact h
  split
  · exact h
  · exact State.endGroup_sound h _

theorem execCsync_sound (h : s.Sound me) : OutSound me (execCsync s) := by
  refine aIssue_sound h _ fun g s hg h => ?_
  split
  next hd => exact deliver_sound h hg _ _ _ hd
  split
  · exact State.putG_sound h hg
  · exact h

theorem execHaltd_sound (h : s.Sound me) : OutSound me (execHaltd s) := by
  refine aIssue_sound h _ fun g s hg h => ?_
  split
  · refine State.putG_sound ?_ hg
    exact h
  · exact State.putG_sound h hg

end

end Sys2Proof.Machine

namespace Sys2Proof.Machine

/-! ### C instructions -/

-- One after another, as in Sys2Proof/Tests/Slice0.lean: a thread for each proof would need more memory than the check allows.
set_option Elab.async false

section
variable {s : State} {g : Group} {me : Nat}

theorem intOp_sound (h : s.Sound me) (i : Instr) (d : Dst) (ss : List Src) (f : List Word → Word) :
    OutSound me (intOp i d ss f s) := cLanes_sound h ..

theorem shfl_sound (h : s.Sound me) (i : Instr) (w : BitVec 3) (act : BitVec 1) (d : Dst) (a n f : Src) (t :
    Nat → Nat → Nat → Int) :
    OutSound me (shfl i w act d a n f t s) := laneOp_sound h ..

theorem execReduce_sound (h : s.Sound me) (op : BitVec 4) (ftz : BitVec 1) (rm : BitVec 2) (d : Dst) (a : Src) (x : Ctl) :
    OutSound me (execReduce op ftz rm d a x s) := cIssue_sound h _ fun _ _ _ hg h => putLanes_sound h hg ..

theorem execScan_sound (h : s.Sound me) (op : BitVec 4) (ftz : BitVec 1) (rm : BitVec 2) (ex : BitVec 1) (d : Dst) (a : Src)
    (x : Ctl) : OutSound me (execScan op ftz rm ex d a x s) := cIssue_sound h _ fun _ _ _ hg h => putLanes_sound h hg ..

/-- The members of a set as REGROUP names them, its own group among them. -/
theorem members_fit (h : s.Sound me) (hg : g.Fits me) (set : List Nat) (keys : Nat × Group → Lanes) :
    ∀ e ∈ (set.filterMap fun k => (s.groups.get? k).map fun h => (k, h)).map fun m =>
      (m.1, if m.1 = g.who.gid then g else m.2, keys m), e.2.1.Fits e.1 := by
  intro e he
  obtain ⟨m, hm, rfl⟩ := List.mem_map.1 he
  obtain ⟨k, -, hk⟩ := List.mem_filterMap.1 hm
  obtain ⟨g', hg', rfl⟩ := Option.map_eq_some_iff.1 hk
  dsimp only
  split
  next hkg => exact hkg ▸ hg.own
  · exact h.get? hg'

theorem execRegroup_sound (h : s.Sound me) (c : BitVec 5) (n : BitVec 2) (d : Dst) (key : Src) (x : Ctl) :
    OutSound me (execRegroup c n d key x s) := by
  refine cIssue_sound h _ fun e g s hg h => ?_
  extract_lets base cnt bad set
  clear_value base set
  split
  · exact h
  next set =>
  extract_lets ms others
  split
  · exact h
  next t _ =>
  have ht : t.Sound me := foldl_sound _ (fun _ _ h => raise_sound h ..) h
  clear_value t
  split
  · exact trapHere_sound ht hg ..
  split
  · exact regroupAll_sound ht _ (members_fit h hg set _) ..
  · refine stay_sound ht ?_ ..
    exact hg

theorem execSreg_sound (h : s.Sound me) (sel : BitVec 3) (d : Dst) (x : Ctl) : OutSound me (execSreg sel d x s) := by
  refine cIssue_sound h _ fun e g s hg h => putLanes_sound h ?_ ..
  split
  · exact hg
  · exact hg

theorem execPop_sound (h : s.Sound me) (n : BitVec 4) (q : Src) (x : Ctl) : OutSound me (execPop n q x s) := by
  refine cIssue_sound h _ fun e g s hg h => ?_
  extract_lets q w r _ g1 g2 _ p owing
  have h1 : g1.Fits me := by
    subst g1
    split
    · exact (takeN_fits ..).2 hg
    · exact (takeN_fits ..).2 hg
  have h2 : g2.Fits me := by
    subst g2
    split
    · exact (Group.log_fits _).2 h1
    · exact h1
  have ho : owing.Fits me := h2
  clear_value r g2 owing
  split
  next op _ => exact raise_sound (State.putG_sound h ((Group.endHeld_fits op _).2 ho)) ..
  · split
    · exact State.putG_sound h h2
    · exact queueWait_sound h ho ..

theorem execDrop_sound (h : s.Sound me) (d : Dst) (q : Src) (x : Ctl) : OutSound me (execDrop d q x s) := by
  refine cIssue_sound h _ fun e g s hg h => ?_
  extract_lets q w n hs _ p g0 g1 g2 g3
  have h0 : g0.Fits me := hg
  have h1 : g1.Fits me := (foldl_fits (fun _ _ => Group.popHead_fits _) _).2 hg
  have h2 : g2.Fits me := by
    subst g2
    split
    · exact h1
    · exact h1
  have h3 : g3.Fits me := by
    subst g3
    split
    · exact (Group.log_fits _).2 h2
    · exact h2
  clear_value n hs g0 g3
  split
  · refine queueWait_sound h ?_ ..
    exact hg
  split
  next op _ => exact raise_sound (State.putG_sound h ((Group.endHeld_fits op _).2 h0)) ..
  · exact putLanes_sound h h3 ..

theorem execPush_sound (h : s.Sound me) (n : BitVec 2) (d : Dst) (x : Ctl) : OutSound me (execPush n d x s) := by
  refine cIssue_sound h _ fun e g s hg h => ?_
  split
  · extract_lets r
    have hr : r.1.Fits me := (pushN_fits ..).2 hg
    clear_value r
    split
    · exact State.putG_sound h hr
    · refine queueWait_sound h ?_ ..
      exact hr
  · exact h

theorem execPmov_sound (h : s.Sound me) (toPred : BitVec 1) (pr : BitVec 3) (d : Dst) (a : Src) (x : Ctl) :
    OutSound me (execPmov toPred pr d a x s) := by
  unfold execPmov
  split
  · exact lanePred_sound h ..
  · exact laneOp_sound h ..

theorem execPmovw_sound (h : s.Sound me) (toPred : BitVec 1) (w : BitVec 2) (pr : BitVec 3) (d : Dst) (a : Src) (x : Ctl) :
    OutSound me (execPmovw toPred w pr d a x s) := by
  unfold execPmovw
  split
  · exact cIssue_sound h _ fun _ _ _ hg h => State.putG_sound h ((Group.writePred_fits ..).2 hg)
  · exact laneOp_sound h ..

theorem execKill_sound (h : s.Sound me) (x : Ctl) : OutSound me (execKill x s) :=
  cIssue_sound h _ fun _ _ _ hg h => withFill_sound h hg _ _ _ fun _ _ hg h => putFlow_sound h hg _

theorem execTfence_sound (h : s.Sound me) (x : Ctl) : OutSound me (execTfence x s) := by
  refine cIssue_sound h _ fun e g s hg h => ?_
  split
  next t ht =>
    refine laneFaultAt_sound (m := me) h ?_ _ _ t ht
    exact hg
  extract_lets busy g1 hit c g2
  have h1 : g1.Fits me := hg
  have h2 : g2.Fits me := by
    subst g2
    split
    · exact (Group.log_fits _).2 h1
    · exact h1
  split
  · exact h
  split
  · exact State.putG_sound h h1
  · exact raise_sound (State.putG_sound h h2) ..

theorem execBwait_sound (h : s.Sound me) (a : Src) (x : Ctl) : OutSound me (execBwait a x s) := by
  refine cIssue_sound h _ fun e g s hg h => ?_
  extract_lets nb b r t
  split
  · exact h
  split
  · refine trapHere_sound h ?_ ..
    exact hg
  split
  · exact trapHere_sound (State.setBar_sound h ..) hg ..
  split
  · exact stay_sound h hg ..
  have ht : t.Sound me := State.setBar_sound h ..
  split
  · exact State.putG_sound (State.acquire_sound ht ..) hg
  · exact stay_sound ht hg ..

theorem execBarvc_sound (h : s.Sound me) (a : Src) (x : Ctl) : OutSound me (execBarvc a x s) := by
  refine cIssue_sound h _ fun e g s hg h => ?_
  dsimp only
  split
  · exact h
  · exact barArrive_sound h hg _ _ _ _ fun _ _ h hg => State.putG_sound h hg

theorem execCtrap_sound (h : s.Sound me) (code : BitVec 8) (x : Ctl) : OutSound me (execCtrap code x s) := by
  refine cIssue_sound h _ fun e g s hg h => ?_
  split
  · exact State.putG_sound h hg
  · exact h

theorem nearLoad_sound (h : s.Sound me) (i : Instr) (level : Nat) (size : BitVec 3) (acq fl : BitVec 1) (d : Dst) (a b : Src) :
    OutSound me (nearLoad i level size acq fl d a b s) := by
  refine cIssue_sound h _ fun e g s hg h => withFlag_sound h _ _ _ fun n => nearAccess_sound h hg _ _ _ _ _ _ _ fun _ => ?_
  exact State.putG_sound (State.newId_sound h) ((Group.attach_fits n).2 hg)

theorem nearStore_sound (h : s.Sound me) (i : Instr) (level : Nat) (size : BitVec 3) (rel : BitVec 1) (a b c : Src) :
    OutSound me (nearStore i level size rel a b c s) :=
  cIssue_sound h _ fun _ _ _ hg h => nearAccess_sound h hg _ _ _ _ _ _ _ fun _ => State.putG_sound (State.newId_sound h) hg

theorem nearAtomic_sound (h : s.Sound me) (i : Instr) (level : Nat) (op : BitVec 4) (ret : BitVec 1) (ord : BitVec 2)
    (fl : BitVec 1) (d : Dst) (a b x y : Src) : OutSound me (nearAtomic i level op ret ord fl d a b x y s) := by
  refine cIssue_sound h _ fun e g s hg h => ?_
  extract_lets ty vs go
  have hgo : ∀ n, ResSound me (go n) := fun n => nearAccess_sound h hg _ _ _ _ _ _ _ fun _ => by
    refine State.putG_sound (State.newId_sound h) ?_
    split
    · exact (Group.attach_fits n).2 hg
    · exact hg
  clear_value go
  split
  · exact withFlag_sound h _ _ _ hgo
  · exact hgo _

theorem addLane_sound (h : s.Sound me) (hg : g.Fits me) (e : CEnv) (i : Instr) (f d : Nat) (vals : List Lanes) (img : BitVec 512) :
    (addLane s g e i f d vals img).Sound me := State.putG_sound (State.newId_sound h) ((Group.attach_fits f).2 hg)

theorem issueSample_sound (h : s.Sound me) (i : Instr) (n : Nat) (t : BitVec 4) (fl : BitVec 1) (d : Dst) (a lod : Src) :
    OutSound me (issueSample i n t fl d a lod s) :=
  cIssue_sound h _ fun _ _ _ hg h => withFlag_sound h _ _ _ fun _ => withT_sound h _ _ fun _ => addLane_sound h hg ..

theorem issueTrace_sound (h : s.Sound me) (i : Instr) (b : BitVec 5) (fl : BitVec 1) (d : Dst) (ray s0 : Src) (more : List Src) :
    OutSound me (issueTrace i b fl d ray s0 more s) :=
  cIssue_sound h _ fun _ _ _ hg h => withFlag_sound h _ _ _ fun _ => withB_sound h _ _ fun _ =>
    withRays_sound h hg _ _ _ _ fun _ => addLane_sound h hg ..

theorem execTreport_sound (h : s.Sound me) (d : Dst) (s0 t w : Src) (x : Ctl) : OutSound me (execTreport d s0 t w x s) := by
  refine cIssue_sound h _ fun e g s hg h => withRays_sound h hg _ _ _ _ fun els => State.updG_sound (foldl_fst_sound _ ?_ h)
    fun _ hg => (Group.writePred_fits ..).2 hg
  intro r a hr
  dsimp only
  split
  · split
    · exact State.putRay_sound hr ..
    · exact hr
  · exact hr

theorem execTabort_sound (h : s.Sound me) (s0 : Src) (x : Ctl) : OutSound me (execTabort s0 x s) :=
  cIssue_sound h _ fun _ _ _ hg h => withRays_sound h hg _ _ _ _ fun _ => foldl_sound _ (fun _ _ h => State.putRay_sound h ..) h

theorem execMxfeed_sound (h : s.Sound me) (fl : BitVec 1) (x : Ctl) : OutSound me (execMxfeed fl x s) := by
  refine cIssue_sound h _ fun e g s hg h => ?_
  split
  · refine trapHere_sound h ?_ ..
    exact hg
  split
  · exact h
  split
  · exact h
  split
  · exact h
  split
  · exact h
  extract_lets n lo
  split
  · exact h
  · refine withFlag_sound h _ _ _ fun f => State.putG_sound ?_ ((Group.attach_fits f).2 hg)
    exact h

end

end Sys2Proof.Machine

namespace Sys2Proof.Machine

/-! ### Steps of control, of the memory unit, of engines and of sessions -/

-- One after another, as in Sys2Proof/Tests/Slice0.lean: a thread for each proof would need more memory than the check allows.
set_option Elab.async false

section
variable {s : State} {g : Group} {me m : Nat}

theorem execIllegalInstruction_sound (h : s.Sound me) (cside : Bool) (code bit : Nat) (word : BitVec 96) :
    OutSound me (execIllegalInstruction cside code bit word s) := by
  fun_cases execIllegalInstruction cside code bit word s
  · exact h
  · exact trapAtWord_sound h ..
  · exact raise_sound h ..

theorem execFetchFault_sound (h : s.Sound me) (cside : Bool) (va level : Nat) (perm : Bool) :
    OutSound me (execFetchFault cside va level perm s) := by
  fun_cases execFetchFault cside va level perm s
  · exact h
  · exact trapAtWord_sound h ..
  · exact raise_sound h ..

theorem execHostBreak_sound (h : s.Sound me) : OutSound me (execHostBreak s) := by
  fun_cases execHostBreak s
  · exact h
  · exact h
  · exact raise_sound h ..

theorem execHostDebugControl_sound (h : s.Sound me) : OutSound me (execHostDebugControl s) := by
  unfold execHostDebugControl
  split
  · exact h
  next g hg =>
  have hg := h.grp? hg
  split
  · refine State.putG_sound h ?_
    exact hg
  · exact h

theorem execWritePerformed_sound (h : s.Sound me) (op : Nat) : OutSound me (execWritePerformed op s) := by
  unfold execWritePerformed
  split
  · exact h
  next o g _ =>
  extract_lets r run
  have hrun : ∀ u, OutSound me (run u) := by
    intro u
    simp only [run]
    have hp := State.perform_sound h g o
    split
    · exact State.endOp_sound hp ..
    · exact hp
  clear_value run
  split
  · exact hrun _
  · exact hrun _
  · exact hrun _
  · exact h

theorem execClauseStart_sound (h : s.Sound me) : OutSound me (execClauseStart s) := by
  unfold execClauseStart
  split
  · exact h
  next g hg =>
  have hg := h.grp? hg
  dsimp only
  split
  · exact h
  split
  · exact h
  split
  · trivial
  next hf => exact trapAtWord_sound (sound_of_eq hf (fetchC_sound h ..)) ..
  next t w hf =>
  have ht : t.Sound me := sound_of_eq hf (fetchC_sound h ..)
  split
  · exact trapAtWord_sound ht ..
  split
  · exact trapAtWord_sound ht ..
  have hfits : ∀ (b : Bool) (cs new : CSide) (k : Nat) (it : LogItem), (if b then (({ g with cs } : Group).renameAll g.cs new k).log it
      else ({ g with cs } : Group).renameAll g.cs new k).Fits me := by
    intro b cs new k it
    have h1 : (({ g with cs } : Group).renameAll g.cs new k).Fits me := (Group.renameAll_fits ..).2 hg
    split
    · exact (Group.log_fits _).2 h1
    · exact h1
  split
  · trivial
  next hs => exact trapAtWord_sound (sound_of_eq hs (stackIo_sound ht ..)) ..
  next hs =>
    have hu := sound_of_eq hs (stackIo_sound ht ..)
    split
    · exact State.putG_sound hu (hfits ..)
    · exact startClause_sound hu (hfits ..) ..

theorem execRegionEntry_sound (h : s.Sound me) : OutSound me (execRegionEntry s) := by
  unfold execRegionEntry
  split
  · exact h
  next g hg =>
  have hg := h.grp? hg
  split
  · exact h
  split
  · exact h
  split
  · split
    · exact bareToken_sound h hg ..
    · exact h
  · split
    · split
      · exact bareToken_sound h hg ..
      · exact h
    · refine State.putG_sound h ((Group.log_fits _).2 ?_)
      exact hg

theorem execParkedJoinTimeout_sound (h : s.Sound me) : OutSound me (execParkedJoinTimeout s) := by
  unfold execParkedJoinTimeout
  split
  · exact h
  next g hg =>
  split
  · exact h
  · refine State.putG_sound h ((foldl_fits (fun g k => ?_) _).2 (h.grp? hg))
    exact Group.log_fits _

theorem execLoadComplete_sound (h : s.Sound me) (op : Nat) : OutSound me (execLoadComplete op s) := by
  unfold execLoadComplete
  split
  · exact h
  next o g _ =>
  have hp := State.perform_sound h g o
  split
  · exact failRead_sound h ..
  split
  · dsimp only
    split
    · exact hp
    · exact State.endOp_sound (State.updGroups_sound hp fun _ hg => (Group.updEntry_fits ..).2 hg) ..
  · exact h

theorem execScalarAccessReturn_sound (h : s.Sound me) (op : Nat) : OutSound me (execScalarAccessReturn op s) := by
  unfold execScalarAccessReturn
  split
  · exact h
  next o g _ =>
  have hp := State.perform_sound h g o
  extract_lets put
  have hput : ∀ t d w, t.Sound me → OutSound me (put t d w) := fun _ _ _ ht =>
    State.endOp_sound (State.updGroups_sound ht fun _ hg => (Group.wa_fits ..).2 hg) ..
  clear_value put
  split
  · exact failRead_sound h ..
  split
  · exact hput _ _ _ hp
  · split
    · split
      · trivial
      · exact hput _ _ _ (windowRun_sound (State.publish_sound h ..) ..)
    · exact hput _ _ _ hp
  · exact h

theorem execRecordLoadComplete_sound (h : s.Sound me) (op : Nat) : OutSound me (execRecordLoadComplete op s) := by
  unfold execRecordLoadComplete
  split
  · exact h
  next o g _ =>
  have hp := State.perform_sound h g o
  split
  · exact failRead_sound h ..
  dsimp only
  split
  · refine State.endOp_sound (State.updGroups_sound hp fun _ hg => ?_) ..
    exact hg
  · refine State.endOp_sound (State.updGroups_sound hp fun _ hg => ?_) ..
    exact hg
  · exact h

theorem performMu_sound (h : s.Sound me) (hg : g.Fits m) {checked : State × Checked} (hc : checked.1.Sound me) (o : MuOp)
    (d0 d1 : Lanes) : OutSound me (performMu s g o checked d0 d1) := by
  unfold performMu
  have h1 : (if o.begun then (s, .ok (o.places.getD [])) else checked).1.Sound me := by
    split
    · exact h
    · exact hc
  split
  next => trivial
  next he => exact holdMu_sound (sound_of_eq he h1) hg ..
  next t ps he =>
  have ht : t.Sound me := sound_of_eq he h1
  split
  · exact h
  split
  · exact h
  · refine raise_sound (State.setG_own_sound (State.deliverEng_sound ht ..) hg ?_) ..
    exact (Faulted.mark_fits _).2 hg
  · split
    · exact holdMu_sound (lostDetail_sound ht _) hg ..
    · exact State.runMu_sound ht ..

theorem State.muLive_fits (h : s.Sound me) {op : Nat} {o : MuOp} (hl : s.muLive op = some (o, g)) : g.Fits g.who.gid := by
  obtain ⟨hl, -⟩ := Option.filter_eq_some_iff.1 hl
  obtain ⟨e, he, hf⟩ := List.exists_of_findSome?_eq_some hl
  obtain ⟨o', -, hx⟩ := Option.map_eq_some_iff.1 hf
  cases hx
  exact (h.groups.2 e he).own

theorem execXqOperationPerform_sound (h : s.Sound me) (op : Nat) : OutSound me (execXqOperationPerform op s) := by
  unfold execXqOperationPerform
  split
  · exact h
  next o g hl =>
  have hg := State.muLive_fits h hl
  split
  · exact h
  split
  · split
    · exact dropMu_sound h hg o
    · exact h
  next hc => exact performMu_sound h hg (State.muCheck_sound h hc) ..

theorem execStorePerform_sound (h : s.Sound me) (op : Nat) : OutSound me (execStorePerform op s) := by
  unfold execStorePerform
  split
  · exact h
  next o g hl =>
  have hg := State.muLive_fits h hl
  split
  · exact h
  split
  · split
    · exact dropMu_sound h hg o
    · exact h
  next hc => exact State.lateError_sound (endMu_sound (State.muCheck_sound h hc) ..) ..
  next hc => exact performMu_sound h hg (State.muCheck_sound h hc) ..

theorem execNearMemoryComplete_sound (h : s.Sound me) (op : Nat) : OutSound me (execNearMemoryComplete op s) := by
  unfold execNearMemoryComplete
  split
  · exact h
  next o g _ =>
  have hp := State.perform_sound h g o
  extract_lets r m run
  have hrun : ∀ flag words reg f, OutSound me (run flag words reg f) := by
    intro flag words reg f
    simp only [run]
    split
    · exact hp
    · exact endNear_sound hp ..
  clear_value run
  split
  · exact hrun ..
  · exact hrun ..
  · exact h

theorem finishLanes_sound (h : s.Sound me) {r : LaneRun} (hr : r.s.Sound me) (faulty : Bool) (o : LaneOp) (d : Nat) :
    OutSound me (finishLanes s faulty o d r) := by
  unfold finishLanes
  split
  · split
    · trivial
    · exact h
  split
  · exact h
  split
  · exact hr
  next g hf =>
  obtain ⟨e, he, hx⟩ := List.exists_of_findSome?_eq_some hf
  have hg : g.Fits e.1 := by
    split at hx
    · cases hx
      exact hr.groups.2 e he
    · cases hx
  extract_lets m ws g1 g2 left o' _ g3 g4
  have h1 : g1.Fits e.1 := by
    refine (foldl_fits (fun g w => ?_) _).2 hg
    exact Iff.rfl
  have h2 : g2.Fits e.1 := (Group.log_fits _).2 h1
  have h3 : g3.Fits e.1 := by
    subst g3
    split
    · exact h2
    · exact (Group.detach_fits _).2 h2
  have h4 : g4.Fits e.1 := by
    subst g4
    split
    · exact (Group.detach_fits _).2 h2
    · exact h3
  exact State.setG_own_sound hr h4 h4

theorem runSample_sound (h : s.Sound me) (faulty : Bool) (o : LaneOp) (g : Group) : OutSound me (runSample s faulty o g) := by
  unfold runSample
  extract_lets t g'
  split
  · exact finishLanes_sound h (runLanes_sound h o fun _ _ h => sampleLane_sound h ..) ..
  · exact finishLanes_sound h (runLanes_sound h o fun _ _ h => gatherLane_sound h ..) ..
  · exact h

theorem execSampleComplete_sound (h : s.Sound me) (op : Nat) : OutSound me (execSampleComplete op s) := by
  fun_cases execSampleComplete op s
  · exact h
  · exact runSample_sound h ..

theorem runTrace_sound (h : s.Sound me) (faulty : Bool) (o : LaneOp) (g : Group) : OutSound me (runTrace s faulty o g) := by
  unfold runTrace
  extract_lets bvh run
  have hrun : ∀ d init, OutSound me (run d init) := by
    intro d init
    simp only [run]
    split
    · exact h
    next r he =>
      have hr : r.s.Sound me := by
        have hrun := runRays_sound h o (g.running o) (!faulty) bvh (if o.resume then none else init)
        rw [he] at hrun
        exact hrun
      exact finishLanes_sound h hr ..
  clear_value run
  split
  · exact hrun ..
  · exact hrun ..
  · exact h

theorem execTraversalComplete_sound (h : s.Sound me) (op : Nat) : OutSound me (execTraversalComplete op s) := by
  fun_cases execTraversalComplete op s
  · exact h
  · exact runTrace_sound h ..

theorem completeEng_sound (h : s.Sound me) (op : Nat) (is : EngKind → Bool) : OutSound me (completeEng s op is) := by
  fun_cases completeEng s op is <;>
    grind only [OutSound, runEng_sound, State.engBegin_sound, counterAt_sound, endEng_sound, State.putEng_sound]

theorem faultEng_sound (h : s.Sound me) (o : EngOp) (g : Group) : OutSound me (faultEng s o g) := by
  fun_cases faultEng s o g <;> grind only [OutSound, runEng_sound, State.engBegin_sound, counterAt_sound, State.putEng_sound]

theorem execEngineFault_sound (h : s.Sound me) (op : Nat) : OutSound me (execEngineFault op s) := by
  fun_cases execEngineFault op s
  · exact faultEng_sound h ..
  · exact runTrace_sound h ..
  · exact runTrace_sound h ..
  · exact runSample_sound h ..
  · exact h

theorem execTranslationWalk_sound (h : s.Sound me) (v va acc : Nat) (sup : Bool) :
    OutSound me (execTranslationWalk v va acc sup s) := by
  fun_cases execTranslationWalk v va acc sup s <;> grind only [OutSound, State.walked_sound]

theorem execSessionForm_sound (h : s.Sound me) (quad : Nat) : OutSound me (execSessionForm quad s) := by
  unfold execSessionForm
  extract_lets mine
  split
  · exact h
  dsimp only
  split
  · exact h
  split
  · refine foldl_sound (k := me) _ (fun s e h => State.updGroups_sound h fun _ hg => ?_) ?_
    · exact hg
    · exact h
  · exact h

theorem execPassGrant_sound (h : s.Sound me) (quad : Nat) : OutSound me (execPassGrant quad s) := by
  fun_cases execPassGrant quad s <;> grind only [OutSound, State.setSession_sound, reload_sound, makeRoom_sound]

theorem execSurgeGrant_sound (h : s.Sound me) (quad : Nat) : OutSound me (execSurgeGrant quad s) := by
  fun_cases execSurgeGrant quad s <;> exact h

theorem onPassFault_sound (h : s.Sound me) (k : Nat) (ss : Session) (p : Pass) (e : Except Fault Cause) :
    OutSound me (onPassFault s k ss p e) := by
  fun_cases onPassFault s k ss p e
  · exact passFault_sound h ..
  · trivial

theorem execStepStart_sound (h : s.Sound me) (quad : Nat) : OutSound me (execStepStart quad s) := by
  fun_cases execStepStart quad s <;>
    grind only [OutSound, State.setSession_sound, firstStep_sound, latch_sound, State.leaderFl_sound, onPassFault_sound]

theorem execRowDecode_sound (h : s.Sound me) (quad array : Nat) (err : Option ResidueError) :
    OutSound me (execRowDecode quad array err s) := by
  unfold execRowDecode
  split
  · exact h
  next k ss p g _ =>
  dsimp only
  split
  · exact h
  split
  next ha => exact State.setSession_sound (sound_of_eq ha (rowAhead_sound h ..)) ..
  next ha =>
  have ha := sound_of_eq ha (rowAhead_sound h ..)
  split
  next ht => exact onPassFault_sound (sound_of_eq ht (takeRow_sound ha ..)) ..
  next ht =>
  have hn := readNext_sound (sound_of_eq ht (takeRow_sound ha ..)) g ss p array (p.rows.getD array 0)
  split
  · exact checkFailed_sound hn ..
  · exact State.countEv_sound (State.leaderFl_sound (State.setSession_sound hn ..) ..) ..

theorem execPassComplete_sound (h : s.Sound me) (quad : Nat) : OutSound me (execPassComplete quad s) := by
  fun_cases execPassComplete quad s <;>
    grind only [OutSound, State.lateIfCut_sound, readTable_sound, writeRows_sound, endPass_sound, onPassFault_sound]

theorem execTopkSelect_sound (h : s.Sound me) (quad entry : Nat) : OutSound me (execTopkSelect quad entry s) := by
  fun_cases execTopkSelect quad entry s <;>
    grind only [OutSound, State.lateIfCut_sound, writeElems_sound, State.setSession_sound, State.breakUp_sound, endPass_sound,
      selRow_sound, onPassFault_sound]

theorem execTrapEntry_sound (h : s.Sound me) : OutSound me (execTrapEntry s) := by
  fun_cases execTrapEntry s <;> grind only [OutSound, takeTrap_sound]

theorem execDecouplingDeadlock_sound (h : s.Sound me) : OutSound me (execDecouplingDeadlock s) := by
  unfold execDecouplingDeadlock
  split
  · exact h
  next g hg =>
  split
  · exact h
  dsimp only
  split
  · exact h
  split
  · exact h
  split
  · exact bareToken_sound h (h.grp? hg) ..
  · exact raise_sound h ..

theorem execLateStoreError_sound (h : s.Sound me) (pc : Word) : OutSound me (execLateStoreError pc s) := by
  fun_cases execLateStoreError pc s <;> grind only [OutSound, State.lateError_sound]

theorem execYieldcWake_sound (h : s.Sound me) : OutSound me (execYieldcWake s) := by
  unfold execYieldcWake
  split
  · exact h
  next g hg =>
  have hg := h.grp? hg
  split
  · dsimp only
    split
    · refine State.putG_sound ?_ hg
      exact h
    · exact h
  · exact h

theorem execQuadPreempt_sound (h : s.Sound me) (quad : Nat) : OutSound me (execQuadPreempt quad s) := by
  fun_cases execQuadPreempt quad s
  · exact h
  · exact State.askQuad_sound h quad

theorem execGroupSave_sound (h : s.Sound me) : OutSound me (execGroupSave s) := by
  unfold execGroupSave
  split
  · exact h
  next g hg =>
  have hg := h.grp? hg
  have hs : (s.putG { g with saving := true }).Sound me := State.putG_sound h hg
  split
  · exact h
  split
  · dsimp only
    split
    · exact saveGroup_sound hs _
    · exact hs
  · exact h

theorem execForcedFullSave_sound (h : s.Sound me) : OutSound me (execForcedFullSave s) := by
  unfold execForcedFullSave
  split
  · exact h
  next g hg =>
  have hg := h.grp? hg
  have hs : (s.putG { g with saving := true }).Sound me := State.putG_sound h hg
  split
  · exact h
  split
  · exact h
  split
  · dsimp only
    split
    · exact saveGroup_sound hs _
    · exact hs
  · exact h

theorem execPreemptComplete_sound (h : s.Sound me) (quad : Nat) : OutSound me (execPreemptComplete quad s) := by
  fun_cases execPreemptComplete quad s <;> exact h

theorem execGroupRestore_sound (h : s.Sound me) : OutSound me (execGroupRestore s) := State.bringBack_sound h _

end

end Sys2Proof.Machine

namespace Sys2Proof.Machine

/-! ### Steps of the scheduler, the display, reliability and the ports -/

-- One after another, as in Sys2Proof/Tests/Slice0.lean: a thread for each proof would need more memory than the check allows.
set_option Elab.async false

section
variable {s : State} {me : Nat}

theorem execNotify_sound (h : s.Sound me) (port : Nat) (fn : Option Nat) (w : Word) : OutSound me (execNotify port fn w s) := by
  have hr : ∀ q, (s.refreshQueue q).Sound me := State.refreshQueue_sound h
  fun_cases execNotify port fn w s <;> grind only [OutSound, sound_mk, sound_parts, State.colophon_sound]

theorem State.unmap_sound (h : s.Sound me) (q : Nat) : (s.unmap q).Sound me := by
  refine State.requestSave_sound ?_ _
  exact h

theorem execQueueMap_sound (h : s.Sound me) (q : Nat) : OutSound me (execQueueMap q s) := by
  unfold execQueueMap
  extract_lets pend turn give
  have hgive : ∀ t n, t.Sound me → OutSound me (.next (give t n)) := fun _ _ ht => ht
  clear_value give
  split
  · exact h
  split
  · exact h
  split
  · exact hgive _ _ h
  split
  · exact h
  · exact hgive _ _ (State.unmap_sound h _)

theorem execStarvationEvent_sound (h : s.Sound me) (q : Nat) : OutSound me (execStarvationEvent q s) := by
  fun_cases execStarvationEvent q s <;> exact h

theorem execLaunchPacket_sound (h : s.Sound me) (q : Nat) : OutSound me (execLaunchPacket q s) := by
  unfold execLaunchPacket
  extract_lets st c arrival
  split
  · exact h
  split
  · exact h
  extract_lets va r bytes force p after _ t
  have hr : r.1.Sound me := State.readVa_sound h ..
  clear_value r bytes
  split
  · exact h
  · refine takePacket_sound ?_ ..
    exact hr

theorem execTeamPlace_sound (h : s.Sound me) (lid : Nat) : OutSound me (execTeamPlace lid s) := by
  fun_cases execTeamPlace lid s
  · exact h
  · exact h
  · exact foldl_sound _ (fun _ _ h => placeCluster_sound (State.freshL1_sound h ..) ..) h

theorem execLaunchComplete_sound (h : s.Sound me) (lid : Nat) : OutSound me (execLaunchComplete lid s) := by
  fun_cases execLaunchComplete lid s <;>
    grind only [OutSound, sound_mk, sound_parts, writeRecord_sound, afterRecord_sound, mergedRecord_sound]

theorem execLaunchOverrun_sound (h : s.Sound me) (lid : Nat) : OutSound me (execLaunchOverrun lid s) := by
  fun_cases execLaunchOverrun lid s <;> grind only [OutSound, State.updL_sound, killLaunch_sound]

theorem execLaunchWatchdog_sound (h : s.Sound me) (lid : Nat) : OutSound me (execLaunchWatchdog lid s) := by
  fun_cases execLaunchWatchdog lid s
  · exact h
  · exact h
  · exact h
  · exact foldl_sound _ (fun _ _ h => raise_sound h ..) (State.updL_sound h ..)

theorem execLaunchKill_sound (h : s.Sound me) (lid : Nat) : OutSound me (execLaunchKill lid s) := by
  fun_cases execLaunchKill lid s <;> grind only [OutSound, killLaunch_sound]

theorem execWindowEndPreempt_sound (h : s.Sound me) (p : Nat) : OutSound me (execWindowEndPreempt p s) := by
  fun_cases execWindowEndPreempt p s
  · exact State.requestSave_sound h _
  · exact h

theorem execWindowOpen_sound (h : s.Sound me) (p : Nat) : OutSound me (execWindowOpen p s) := by
  unfold execWindowOpen
  dsimp only
  split
  · exact foldl_sound _ (fun _ k h => State.bringBack_sound h k) h
  · exact h

theorem execRallocGrant_sound (h : s.Sound me) (v : Nat) : OutSound me (execRallocGrant v s) := by
  unfold execRallocGrant
  split
  · exact h
  next w r _ =>
  have hn : (s.node v w.node).1.Sound me := State.node_sound h ..
  rcases he : s.node v w.node with ⟨t, ds⟩
  rw [he] at hn
  dsimp only at hn ⊢
  split
  next hg =>
    refine State.setG_sound (State.setGal_sound hn ..) ?_
    exact (Group.wa_fits ..).2 (hn.get? hg)
  · exact hn

theorem execGalleyTimeout_sound (h : s.Sound me) (v : Nat) : OutSound me (execGalleyTimeout v s) := by
  fun_cases execGalleyTimeout v s <;> grind only [OutSound, State.setGal_sound, State.galleyTime_sound]

theorem execFrameReclaim_sound (h : s.Sound me) (f : Nat) : OutSound me (execFrameReclaim f s) := by
  fun_cases execFrameReclaim f s
  · exact State.cleanFrame_sound h f
  · exact h

theorem execTlbInvalidationComplete_sound (h : s.Sound me) (v : Nat) : OutSound me (execTlbInvalidationComplete v s) := by
  fun_cases execTlbInvalidationComplete v s <;>
    grind only [OutSound, State.setVf_sound, State.dropTlb_sound, State.performVf_sound]

theorem execSplinterComplete_sound (h : s.Sound me) (v : Nat) : OutSound me (execSplinterComplete v s) := by
  fun_cases execSplinterComplete v s <;>
    grind only [OutSound, State.setVf_sound, State.dropTlb_sound, State.performVf_sound, State.writeBytes_sound,
      State.writeLoc_sound]

theorem execGranuleZeroFill_sound (h : s.Sound me) : OutSound me (execGranuleZeroFill s) := by
  unfold execGranuleZeroFill
  split
  · exact State.zeroFill_sound h ..
  · exact h

theorem execSurfaceTableRead_sound (h : s.Sound me) : OutSound me (execSurfaceTableRead s) := by
  unfold execSurfaceTableRead
  -- another name for the read of a surface: the kernel would run it over the table
  obtain ⟨read, hread, hkeeps⟩ : ∃ f, f = @readSurf ∧ ∀ {s : State}, s.Sound me → ∀ i d, (f s i d).Sound me :=
    ⟨_, rfl, readSurf_sound⟩
  rw [← hread]
  clear hread
  extract_lets m off ix t
  have ht : t.Sound me := foldl_sound _ (fun _ _ h => hkeeps h ..) h
  clear_value t
  generalize s.surfAt 64 = a
  split
  · exact h
  split
  · trivial
  · exact ht

theorem execFrameStart_sound (h : s.Sound me) (surf : Nat) : OutSound me (execFrameStart surf s) := by
  fun_cases execFrameStart surf s <;> grind only [OutSound, sound_mk, sound_parts, readSurf_sound]

theorem execScanoutLine_sound (h : s.Sound me) (surf : Nat) : OutSound me (execScanoutLine surf s) := by
  fun_cases execScanoutLine surf s <;>
    grind only [OutSound, sound_mk, sound_parts, State.writeVaBlk_sound, State.touchWords_sound]

theorem execWarpLatch_sound (h : s.Sound me) (surf : Nat) : OutSound me (execWarpLatch surf s) := by
  fun_cases execWarpLatch surf s <;> grind only [OutSound, sound_mk, sound_parts, State.readVa_sound]

theorem execProofPoint_sound (h : s.Sound me) (surf layer : Nat) : OutSound me (execProofPoint surf layer s) := by
  fun_cases execProofPoint surf layer s <;> grind only [OutSound, sound_mk, sound_parts, State.pairs_sound, failFrame_sound]

theorem execFennelPassStart_sound (h : s.Sound me) (quad : Nat) : OutSound me (execFennelPassStart quad s) := by
  fun_cases execFennelPassStart quad s <;> exact h

theorem execFennelPassEnd_sound (h : s.Sound me) (quad : Nat) (sound : Bool) : OutSound me (execFennelPassEnd quad sound s) := by
  fun_cases execFennelPassEnd quad sound s <;>
    grind only [OutSound, sound_mk, sound_parts, passEvent_sound, spareRow_sound, retireQuad_sound, State.colophon_sound]

/-- The invariant asks nothing of the quads. -/
theorem State.Sound.withQuads (h : s.Sound me) (qs : List Quad) : ({ s with quads := qs } : State).Sound me := h

theorem bootPass_sound (h : s.Sound me) (quad : Nat) : (bootPass s quad).Sound me := by
  unfold bootPass
  split
  · refine State.Sound.withQuads ?_ _
    split
    · exact spareRow_sound h ..
    · exact h
  · split
    · exact h
    · exact h

theorem State.afterReset_sound (h : s.Sound me) : s.afterReset.Sound me := by
  obtain ⟨⟨-, h0, h1, hp, -⟩, -, -, -, hk⟩ := h
  exact ⟨⟨rfl, h0, h1, hp, rfl⟩, GroupsFit.nil, List.forall_mem_nil _, List.forall_mem_nil _, hk⟩

theorem execDeviceReset_sound (h : s.Sound me) : OutSound me (execDeviceReset s) := by
  have ht : s.afterReset.Sound me := State.afterReset_sound h
  unfold execDeviceReset
  dsimp only
  split
  · refine foldl_sound _ (fun _ q h => bootPass_sound h q) ?_
    exact ht
  · obtain ⟨⟨hd, -⟩, -⟩ := h
    obtain ⟨⟨-, hm⟩, hrest⟩ := ht
    exact ⟨⟨hd, hm⟩, hrest⟩

theorem execSramCorrectedError_sound (h : s.Sound me) (site : SramSite) : OutSound me (execSramCorrectedError site s) := by
  fun_cases execSramCorrectedError site s <;> grind only [OutSound, l1Error_sound, l2Error_sound]

theorem execSramUncorrectableError_sound (h : s.Sound me) (site : SramSite) : OutSound me (execSramUncorrectableError site s) := by
  fun_cases execSramUncorrectableError site s <;>
    grind only [OutSound, sound_mk, sound_parts, State.colophon_sound, State.lateError_sound, readError_sound]

theorem execMemoryScrub_sound (h : s.Sound me) : OutSound me (execMemoryScrub s) := by
  fun_cases execMemoryScrub s <;> exact h

theorem execThermalTrip_sound (h : s.Sound me) (degrees : Nat) : OutSound me (execThermalTrip degrees s) := by
  fun_cases execThermalTrip degrees s <;> grind only [OutSound, sound_mk, sound_parts, State.colophon_sound]

theorem execCoolantHot_sound (h : s.Sound me) (hot : Bool) : OutSound me (execCoolantHot hot s) := h

theorem execHousekeepingWatchdog_sound (h : s.Sound me) : OutSound me (execHousekeepingWatchdog s) := State.colophon_sound h ..

theorem execHostMemoryWrite_sound (h : s.Sound me) (port pa : Nat) (bytes : List Byte) :
    OutSound me (execHostMemoryWrite port pa bytes s) := by
  unfold execHostMemoryWrite
  split
  · exact h
  · exact getD_sound (outsideWrite_sound h _ _) h

theorem execLinkFlitReceive_sound (h : s.Sound me) (port : Nat) (sound : Bool) (pa : Nat) (bytes : List Byte) :
    OutSound me (execLinkFlitReceive port sound pa bytes s) := by
  fun_cases execLinkFlitReceive port sound pa bytes s <;> grind only [OutSound, sound_mk, sound_parts, deliverFlits_sound]

theorem execLinkReplayLimit_sound (h : s.Sound me) (port trained : Nat) : OutSound me (execLinkReplayLimit port trained s) := by
  fun_cases execLinkReplayLimit port trained s <;> grind only [OutSound, trainLink_sound]

theorem execLretrain_sound (h : s.Sound me) (port : Nat) (w : Word) : OutSound me (execLretrain port w s) := by
  refine portWrite_sound h (fun s h => ?_) ..
  have h0 : (if w.getLsbD 0 then retrain s 0 else s).Sound me := by
    split
    · exact retrain_sound h 0
    · exact h
  dsimp only
  split
  · exact retrain_sound h0 1
  · exact h0

theorem execPortReset_sound (h : s.Sound me) (port : Nat) : OutSound me (execPortReset port s) := State.freeSem_sound h port

theorem execSemAcquire_sound (h : s.Sound me) (port : Nat) : OutSound me (execSemAcquire port s) := by
  fun_cases execSemAcquire port s <;> exact h

theorem execSemRelease_sound (h : s.Sound me) (port : Nat) (w : Word) : OutSound me (execSemRelease port w s) := by
  fun_cases execSemRelease port w s <;> exact h

theorem execPwrcapWrite_sound (h : s.Sound me) (port : Nat) (w : Word) : OutSound me (execPwrcapWrite port w s) := by
  refine portWrite_sound h (fun s h => ?_) ..
  dsimp only
  split
  · exact h
  · split
    · exact h
    · exact h

theorem execPartitionWrite_sound (h : s.Sound me) (port p word : Nat) (w : Word) : OutSound me
    (execPartitionWrite port p word w s) := by
  unfold execPartitionWrite
  split
  · exact h
  · exact portWrite_sound h (fun _ h => writePart_sound h ..) ..

theorem execWindowTableWrite_sound (h : s.Sound me) (port idx : Nat) (w : Word) : OutSound me
    (execWindowTableWrite port idx w s) := by
  unfold execWindowTableWrite
  split
  · exact h
  · refine portWrite_sound h (fun s h => State.checkWindows_sound ?_) ..
    split
    · exact h
    · exact h

theorem execGrant_sound (h : s.Sound me) (port : Nat) (w : Word) : OutSound me (execGrant port w s) := by
  unfold execGrant
  extract_lets g v free may
  refine portWrite_sound h (fun s h => ?_) ..
  split
  · exact h
  · dsimp only
    split
    · exact h
    · exact h

theorem execTlbinv_sound (h : s.Sound me) (port vf : Nat) (hi : Bool) (w : Word) : OutSound me (execTlbinv port vf hi w s) := by
  unfold execTlbinv
  split
  · exact h
  refine portWrite_sound h (fun s h => half64_sound h (fun s x h => ?_) ..) ..
  dsimp only
  split
  · exact h
  · exact State.setVf_sound h ..

theorem execSplinter_sound (h : s.Sound me) (port vf : Nat) (hi : Bool) (w : Word) : OutSound me (execSplinter port vf hi w s) := by
  unfold execSplinter
  split
  · exact h
  refine portWrite_sound h (fun s h => half64_sound h (fun s x h => ?_) ..) ..
  dsimp only
  split
  · exact h
  · exact State.setVf_sound h ..

theorem execFramePoolWrite_sound (h : s.Sound me) (port which : Nat) (w : Word) : OutSound me
    (execFramePoolWrite port which w s) := by
  unfold execFramePoolWrite
  split
  · exact h
  refine portWrite_sound h (fun s h => ?_) ..
  have hc : (s.reclaim.foldl (fun (s : State) f => s.cleanFrame f) s).Sound me :=
    foldl_sound _ (fun _ f h => State.cleanFrame_sound h f) h
  split
  · exact h
  · dsimp only
    split
    · exact hc
    · exact hc

theorem execSafesetWrite_sound (h : s.Sound me) (port which : Nat) (w : Word) : OutSound me (execSafesetWrite port which w s) := by
  unfold execSafesetWrite
  split
  · exact h
  refine portWrite_sound h (fun s h => ?_) ..
  dsimp only
  split
  · exact h
  · exact h

theorem execColophonUnfreeze_sound (h : s.Sound me) (port : Nat) (w : Word) : OutSound me (execColophonUnfreeze port w s) := by
  refine portWrite_sound h (fun s h => ?_) ..
  split
  · exact h
  · exact h

theorem execRegisterWrite_sound (h : s.Sound me) (port off : Nat) (w : Word) : OutSound me (execRegisterWrite port off w s) := by
  unfold execRegisterWrite
  split
  · exact h
  · exact portWrite_sound h (fun _ h => writeReg_sound h ..) ..

theorem execVfmapWrite_sound (h : s.Sound me) (port : Nat) (hi : Bool) (w : Word) : OutSound me (execVfmapWrite port hi w s) :=
  portWrite_sound h (fun _ h => half64_sound h (fun _ _ h => writeVfmap_sound h _) ..) ..

theorem execQtbaseWrite_sound (h : s.Sound me) (port : Nat) (hi : Bool) (w : Word) : OutSound me (execQtbaseWrite port hi w s) := by
  refine portWrite_sound h (fun _ h => half64_sound h (fun _ _ h => State.refreshQueues_sound ?_) ..) ..
  exact h

theorem execPrqheadWrite_sound (h : s.Sound me) (port : Nat) (w : Word) : OutSound me (execPrqheadWrite port w s) := by
  refine portWrite_sound h (fun _ h => ?_) ..
  exact h

theorem execRetest_sound (h : s.Sound me) (port : Nat) (w : Word) : OutSound me (execRetest port w s) := by
  refine portWrite_sound h (fun _ h => ?_) ..
  exact h

end

end Sys2Proof.Machine

namespace Sys2Proof.Machine

/-! ### A step -/

-- One after another, as in Sys2Proof/Tests/Slice0.lean: a thread for each proof would need more memory than the check allows.
set_option Elab.async false

section
variable {s : State} {me : Nat}

theorem exec_sound_of_ne (h : s.Sound me) (i : Instr) (hs : i ≠ .shadowReplay) : OutSound me (exec i s) := by
  cases i <;> unfold exec
  case add | sub | and | or | xor | andn | shlA | shrA | sra | rot | slt | sltu | min | max | minu | maxu |
      mul | mulh | mulhu | div | divu | rem | remu | bfeA =>
    exact aBin_sound h ..
  case clzA | popcA | brevA | sextb | sexth | addi | andi | ori | xori | slti | sltiu | shli | shri | srai |
      roti | muli =>
    exact aUn_sound h ..
  case bfiA | lui =>
    exact aWrite_sound h ..
  case beq | bne | blt | bge | bltu | bgeu =>
    exact aBranch_sound h ..
  case nop | yield => exact aIssue_sound h _ fun _ _ hg h => State.putG_sound h hg
  case jal => exact execJal_sound h ..
  case dbnz => exact execDbnz_sound h ..
  case rdsr => exact execRdsr_sound h ..
  case wrsr => exact execWrsr_sound h ..
  case rdtime => exact execRdtime_sound h ..
  case cls | clsr =>
    exact aIssue_sound h _ fun _ _ hg h => pushClq_sound h hg ..
  case cpyBar | cpyCnt =>
    exact aIssue_sound h _ fun _ _ hg h => issueCopy_sound h hg ..
  case fenceAcq | fenceRel | fenceAcqrel =>
    exact aIssue_sound h _ fun _ _ hg h => fence_sound h hg ..
  case fadd | fsub | fmul | ffma | fmin | fmax | fminn | fmaxn | fclamp | frnd | fdiv | fsqrt | flerp |
      fdot3 =>
    exact f32Op_sound h ..
  case fset | hset2 | iset =>
    exact cPred_sound h ..
  case fclass | fldexp | fexpo | frcp | frsq | fexp2 | flog2 | fsin | fcos | hdot2 | cvt | pack | unpk =>
    exact cLanes_sound h ..
  case hadd2 | hmul2 | hfma2 | hmin2 | hmax2 =>
    exact packedOp_sound h ..
  case iadd | isub | imul | imad | imulh | imin | imax | iabs | iadd3 | ltab | shl | shr | shra | shf | bfe
      | bfes | bfi | popc | clz | brev | idp4 | idp2 | isad | iclamp | rnenc | rndec | rnmad | mov =>
    exact intOp_sound h ..
  case sel | perm | bcast | bcastf | voteballot | matchany | matchlead =>
    exact laneOp_sound h ..
  case shflup | shfldn | shflx | shflr =>
    exact shfl_sound h ..
  case voteall | voteany | votesame | matchall | pltab =>
    exact lanePred_sound h ..
  case brd | jmp | join | endc | callc | retc =>
    exact flow_sound h ..
  case nopc =>
    exact cIssue_sound h _ fun _ _ _ hg h => State.putG_sound h hg
  case ldl | lds | ldc =>
    exact nearLoad_sound h ..
  case stl | sts | stc =>
    exact nearStore_sound h ..
  case atoms | atomc =>
    exact nearAtomic_sound h ..
  case sample | gath4 =>
    exact issueSample_sound h ..
  case trace | tresume =>
    exact issueTrace_sound h ..
  case tcand | tquery =>
    exact rayQuery_sound h ..
  case copyComplete | coverComplete | tstoreComplete =>
    exact completeEng_sound h ..
  case vfmapWrite => exact execVfmapWrite_sound h ..
  case qtbaseWrite => exact execQtbaseWrite_sound h ..
  case prqheadWrite => exact execPrqheadWrite_sound h ..
  case retest => exact execRetest_sound h ..
  case jalr => exact execJalr_sound h ..
  case spush => exact execSpush_sound h ..
  case bpop => exact execBpop_sound h ..
  case ldv => exact execLdv_sound h ..
  case ldg => exact execLdg_sound h ..
  case stv => exact execStv_sound h ..
  case stx => exact execStx_sound h ..
  case lda => exact execLda_sound h ..
  case sta => exact execSta_sound h ..
  case prf => exact execPrf_sound h ..
  case atv => exact execAtv_sound h ..
  case ata => exact execAta_sound h ..
  case bld => exact execBld_sound h ..
  case bset => exact execBset_sound h ..
  case tld => exact execTld_sound h ..
  case cwait => exact execCwait_sound h ..
  case yieldc => exact execYieldc_sound h ..
  case binit => exact execBinit_sound h ..
  case barv => exact execBarv_sound h ..
  case bwaita => exact execBwaita_sound h ..
  case barvw => exact execBarvw_sound h ..
  case bexp => exact execBexp_sound h ..
  case btry => exact execBtry_sound h ..
  case mxbind => exact execMxbind_sound h ..
  case mxloop => exact execMxloop_sound h ..
  case mxconv => exact execMxconv_sound h ..
  case mxsel => exact execMxsel_sound h ..
  case mxrel => exact execMxrel_sound h ..
  case mxstat => exact execMxstat_sound h ..
  case cover => exact execCover_sound h ..
  case ralloc => exact execRalloc_sound h ..
  case rcommit => exact execRcommit_sound h ..
  case rdone => exact execRdone_sound h ..
  case rinput => exact execRinput_sound h ..
  case rdepth => exact execRdepth_sound h ..
  case tstore => exact execTstore_sound h ..
  case waitf => exact execWaitf_sound h ..
  case trap => exact execTrap_sound h ..
  case tret => exact execTret_sound h ..
  case exit => exact execExit_sound h ..
  case csync => exact execCsync_sound h ..
  case haltd => exact execHaltd_sound h ..
  case reduce => exact execReduce_sound h ..
  case scan => exact execScan_sound h ..
  case regroup => exact execRegroup_sound h ..
  case sreg => exact execSreg_sound h ..
  case pop => exact execPop_sound h ..
  case drop => exact execDrop_sound h ..
  case push => exact execPush_sound h ..
  case pmov => exact execPmov_sound h ..
  case pmovw => exact execPmovw_sound h ..
  case kill => exact execKill_sound h ..
  case tfence => exact execTfence_sound h ..
  case bwait => exact execBwait_sound h ..
  case barvc => exact execBarvc_sound h ..
  case ctrap => exact execCtrap_sound h ..
  case treport => exact execTreport_sound h ..
  case tabort => exact execTabort_sound h ..
  case mxfeed => exact execMxfeed_sound h ..
  case illegalInstruction => exact execIllegalInstruction_sound h ..
  case fetchFault => exact execFetchFault_sound h ..
  case hostBreak => exact execHostBreak_sound h ..
  case hostDebugControl => exact execHostDebugControl_sound h ..
  case writePerformed => exact execWritePerformed_sound h ..
  case clauseStart => exact execClauseStart_sound h ..
  case regionEntry => exact execRegionEntry_sound h ..
  case parkedJoinTimeout => exact execParkedJoinTimeout_sound h ..
  case loadComplete => exact execLoadComplete_sound h ..
  case scalarAccessReturn => exact execScalarAccessReturn_sound h ..
  case recordLoadComplete => exact execRecordLoadComplete_sound h ..
  case xqOperationPerform => exact execXqOperationPerform_sound h ..
  case storePerform => exact execStorePerform_sound h ..
  case nearMemoryComplete => exact execNearMemoryComplete_sound h ..
  case sampleComplete => exact execSampleComplete_sound h ..
  case traversalComplete => exact execTraversalComplete_sound h ..
  case engineFault => exact execEngineFault_sound h ..
  case translationWalk => exact execTranslationWalk_sound h ..
  case sessionForm => exact execSessionForm_sound h ..
  case passGrant => exact execPassGrant_sound h ..
  case surgeGrant => exact execSurgeGrant_sound h ..
  case stepStart => exact execStepStart_sound h ..
  case rowDecode => exact execRowDecode_sound h ..
  case passComplete => exact execPassComplete_sound h ..
  case topkSelect => exact execTopkSelect_sound h ..
  case trapEntry => exact execTrapEntry_sound h ..
  case decouplingDeadlock => exact execDecouplingDeadlock_sound h ..
  case lateStoreError => exact execLateStoreError_sound h ..
  case yieldcWake => exact execYieldcWake_sound h ..
  case quadPreempt => exact execQuadPreempt_sound h ..
  case groupSave => exact execGroupSave_sound h ..
  case forcedFullSave => exact execForcedFullSave_sound h ..
  case preemptComplete => exact execPreemptComplete_sound h ..
  case groupRestore => exact execGroupRestore_sound h ..
  case notify => exact execNotify_sound h ..
  case queueMap => exact execQueueMap_sound h ..
  case starvationEvent => exact execStarvationEvent_sound h ..
  case launchPacket => exact execLaunchPacket_sound h ..
  case teamPlace => exact execTeamPlace_sound h ..
  case launchComplete => exact execLaunchComplete_sound h ..
  case launchOverrun => exact execLaunchOverrun_sound h ..
  case launchWatchdog => exact execLaunchWatchdog_sound h ..
  case launchKill => exact execLaunchKill_sound h ..
  case windowEndPreempt => exact execWindowEndPreempt_sound h ..
  case windowOpen => exact execWindowOpen_sound h ..
  case rallocGrant => exact execRallocGrant_sound h ..
  case galleyTimeout => exact execGalleyTimeout_sound h ..
  case frameReclaim => exact execFrameReclaim_sound h ..
  case tlbInvalidationComplete => exact execTlbInvalidationComplete_sound h ..
  case splinterComplete => exact execSplinterComplete_sound h ..
  case granuleZeroFill => exact execGranuleZeroFill_sound h ..
  case surfaceTableRead => exact execSurfaceTableRead_sound h ..
  case frameStart => exact execFrameStart_sound h ..
  case scanoutLine => exact execScanoutLine_sound h ..
  case warpLatch => exact execWarpLatch_sound h ..
  case proofPoint => exact execProofPoint_sound h ..
  case fennelPassStart => exact execFennelPassStart_sound h ..
  case fennelPassEnd => exact execFennelPassEnd_sound h ..
  case sramCorrectedError => exact execSramCorrectedError_sound h ..
  case sramUncorrectableError => exact execSramUncorrectableError_sound h ..
  case memoryScrub => exact execMemoryScrub_sound h ..
  case thermalTrip => exact execThermalTrip_sound h ..
  case coolantHot => exact execCoolantHot_sound h ..
  case housekeepingWatchdog => exact execHousekeepingWatchdog_sound h ..
  case hostMemoryWrite => exact execHostMemoryWrite_sound h ..
  case linkFlitReceive => exact execLinkFlitReceive_sound h ..
  case linkReplayLimit => exact execLinkReplayLimit_sound h ..
  case lretrain => exact execLretrain_sound h ..
  case portReset => exact execPortReset_sound h ..
  case semAcquire => exact execSemAcquire_sound h ..
  case semRelease => exact execSemRelease_sound h ..
  case pwrcapWrite => exact execPwrcapWrite_sound h ..
  case partitionWrite => exact execPartitionWrite_sound h ..
  case windowTableWrite => exact execWindowTableWrite_sound h ..
  case grant => exact execGrant_sound h ..
  case tlbinv => exact execTlbinv_sound h ..
  case splinter => exact execSplinter_sound h ..
  case framePoolWrite => exact execFramePoolWrite_sound h ..
  case safesetWrite => exact execSafesetWrite_sound h ..
  case colophonUnfreeze => exact execColophonUnfreeze_sound h ..
  case registerWrite => exact execRegisterWrite_sound h ..
  case shadowReplay => exact absurd rfl hs
  case deviceReset => exact execDeviceReset_sound h

theorem runC_sound (h : s.Sound me) (i : Instr) : OutSound me (runC i s) := by
  rcases runC_eq i s with he | ⟨he, hi⟩
  · rw [he]
    exact h
  · rw [he]
    exact exec_sound_of_ne h i hi

theorem replayCompared_sound (h : s.Sound me) {g : Group} (hg : g.Fits me) (c : CSide) (it : LogItem) (i : Instr) :
    OutSound me (replayCompared s g c it i) := by
  have hat : ({ s with cur := { gid := g.who.gid, split := it.split, mode := 2 } } : State).Sound me := by
    obtain ⟨hm, hgs, hts, hcs, -⟩ := h
    exact ⟨hm, hgs, hts, hcs, hg.gid⟩
  have hrun := runC_sound hat i
  unfold replayCompared
  extract_lets stood
  split
  next t ht =>
    rw [ht] at hrun
    have hback : ({ t with cur := s.cur } : State).Sound me := by
      obtain ⟨hm, hgs, hts, hcs, -⟩ := hrun
      exact ⟨hm, hgs, hts, hcs, h.cur⟩
    dsimp only
    split
    · exact hback
    next g' hg' =>
    split
    · exact h
    split
    · refine shadowTrap_sound (m := me) h ?_ ..
      exact hg
    · exact State.setG_sound hback ((Group.replayedTo_fits _).2 (hback.get? hg'))
  · exact hrun

theorem execShadowReplay_sound (h : s.Sound me) : OutSound me (execShadowReplay s) := by
  unfold execShadowReplay
  split
  · exact h
  next g hg =>
  have hg := h.grp? hg
  split
  · exact h
  split
  · exact h
  split
  · exact replayCompared_sound h hg ..
  · exact State.putG_sound h ((Group.replay_fits ..).2 hg)

theorem exec_sound (h : s.Sound me) (i : Instr) : OutSound me (exec i s) := by
  by_cases hi : i = .shadowReplay
  · subst hi
    exact execShadowReplay_sound h
  · exact exec_sound_of_ne h i hi

/-- A turn begins with the group it is of. -/
theorem State.begin_sound (h : s.Sound me) (t : Turn) : (s.begin t).Sound t.gid := by
  obtain ⟨hm, hgs, hts, hcs, -⟩ := h
  exact ⟨hm, hgs, hts, hcs, rfl⟩

theorem step_sound (h : s.Sound me) : OutSound s.nextTurn.1.gid (step s) := by
  have hb := State.begin_sound (State.galleyTo_sound (State.nextTurn_sound h) s.nextTurn.1.adv) s.nextTurn.1
  have ht := turnOf_sound hb s.nextTurn.1.what
  unfold step
  dsimp only
  split
  · trivial
  split
  next he => exact sound_of_eq he ht
  next i he => exact counted_sound (exec_sound (sound_of_eq he ht) i) ..
  · trivial

end

/-- Settles O57: every function of the model that a step goes through keeps the invariant (`State.Sound`, with `sound_iff`), whatever
instruction or event the turn is. -/
theorem stepKeepsInvariant : Obligations.StepKeepsInvariant := by
  intro s t hinv hstep
  have hs := step_sound (sound_iff.2 ⟨hinv, rfl⟩)
  rw [hstep] at hs
  exact (sound_iff.1 hs).1

end Sys2Proof.Machine
